-- ==== Sys2Proof/Word.lean ====
section
/-! DEFINITION. The machine's plain word types and the simplest arithmetic on them (00_scope R1, R2). -/

namespace Sys2Proof

/-- A 64-bit word: scalar registers, addresses while they are computed, instruction words (R177). -/
abbrev Word := BitVec 64

/-- A byte of any memory (R2). -/
abbrev Byte := BitVec 8

/-- A row of a tile register, 128 bytes; element k of width w is bits [w*k + w - 1 : w*k] (R151, R249). -/
abbrev Row := BitVec 1024

/-- A row of an accumulator: 64 words of 32 bits, word n at bits [32n + 31 : 32n] (R315). -/
abbrev AccRow := BitVec 2048

/-- The number of a core within the package, 16 * die + core (R23). -/
abbrev CoreIx := Fin 128

/-- The number of a compute die (R12). -/
abbrev DieIx := Fin 8

/-- A memory as a list of (address, byte) cells, addresses strictly rising, no cell holding zero. -/
abbrev Memory := List (Nat × Byte)

end Sys2Proof
end

