-- ==== Sys2Proof/Syntax.lean ====
section
/-! DEFINITION. The whole instruction list: one constructor per row of spec/opcode_table.json.
Instruction words come first (11_encoding R195 to R199), then the events, whose operands name the agent,
register or value the event concerns. -/

namespace Sys2Proof

/-- The four streams of a core (R57, trapstream coding R226). -/
inductive Strm where
  | s | v | m | c
deriving DecidableEq, Repr

/-- Element formats EF (R148, R149). -/
inductive Fmt where
  | fp32 | bf16 | fp16 | e4m3 | e5m2 | e2m1 | i32 | i16 | i8 | u8 | i4 | u4 | e8m0
deriving DecidableEq, Repr

/-- Rounding modes RM (R156). -/
inductive RMode where
  | rne | rz | rd | ru
deriving DecidableEq, Repr

/-- COND codes (R190). -/
inductive Cond where
  | eq | ne | lt | ge | ltu | geu | always
deriving DecidableEq, Repr

/-- ORD codes (R116). -/
inductive MOrd where
  | rlx | acq | rel | acqrel
deriving DecidableEq, Repr

/-- SCOPE codes (R115). -/
inductive Scope where
  | core | die | pkg | pod
deriving DecidableEq, Repr

/-- SZ codes: 1, 2, 4 or 8 bytes (R242). -/
inductive Sz where
  | b | h | w | d
deriving DecidableEq, Repr

/-- Swizzle codes (R89). -/
inductive Swz where
  | plain | sk4 | sk8 | sk16 | sk32
deriving DecidableEq, Repr

/-- SEL: an extent, or the local space (R189). -/
inductive Sel where
  | ext (e : BitVec 4)
  | loc
deriving DecidableEq, Repr

/-- VCMP conditions (R197, R259). -/
inductive VCond where
  | eq | ne | lt | le | gt | ge | unord
deriving DecidableEq, Repr

/-- VREDR and VREDC functions (R197). -/
inductive RedFn where
  | sum | max | min | argmax | argmin
deriving DecidableEq, Repr

/-- CREDUCE functions (R199). -/
inductive CredFn where
  | sum | max | merge
deriving DecidableEq, Repr

/-- A vector operand as a source (R192). -/
inductive VSrc where
  | reg (r : BitVec 5)
  | pop (q : BitVec 2)
  | peek (q : BitVec 2)
  | rot (k : BitVec 3)
  | splat (x : BitVec 3)
deriving DecidableEq, Repr

/-- A vector operand as a destination (R192). -/
inductive VDst where
  | reg (r : BitVec 5)
  | rot (k : BitVec 3)
deriving DecidableEq, Repr

/-- Special registers that SRD names (R194). -/
inductive SReg where
  | mode | jobid | coord | stage | gcc | vshape | vrb | vring | trapvec | trapcause | trappc | trapstream | trapinfo
  | beaconint | ovp | spillbase | prio | partition | incarnation
  | qpop (k : BitVec 2) | qpeek (k : BitVec 2)
deriving DecidableEq, Repr

/-- Special registers that SWR may name (R194). -/
inductive WReg where
  | vshape | vrb | vring | trapvec
deriving DecidableEq, Repr

/-- DIR of COPY (R276). -/
inductive Dir where
  | ld | st
deriving DecidableEq, Repr

/-- The timeline, turnstile and scope operands of a queued class-11 word (R277). -/
structure Tags where
  tl : Option (BitVec 3)
  ts : Option (BitVec 6)
  scope : Scope
deriving DecidableEq, Repr

/-- RM, SAT and EF of a format V word (R186). -/
structure VFmt where
  ef : Fmt
  rm : RMode
  sat : Bool
deriving DecidableEq, Repr

/-- Where an uncorrectable error strikes (R375, R378): global memory, by physical address, a core's scratchpad, or the state of a
core outside its job, such as the instruction cache or a context store. -/
inductive EccPlace where
  | global (pa : Nat)
  | scratch (core : CoreIx) (a : Nat)
  | core (core : CoreIx)
deriving DecidableEq, Repr

/-- What firmware fixes during bring-up (R382, R386, R414): journal ring, save slots, failed shells and cores. -/
structure BringUpCfg where
  jrnlBase : BitVec 40
  logn : BitVec 6
  saveBase : Vector (BitVec 31) 8
  saveSlots : Vector (BitVec 8) 8
  shellFail : BitVec 8
  coreFail : BitVec 128
deriving DecidableEq, Repr

/-- One constructor per row of spec/opcode_table.json. -/
inductive Instr where
  -- class 00: control, waits, queues, special registers (R196, R214 to R232)
  | nop
  | br (off : BitVec 29)
  | brc (cond : Cond) (xa xb : BitVec 4) (off : BitVec 29)
  | jmpx (xd xa : BitVec 4)
  | call (off : BitVec 29)
  | ret
  | loop (xd : BitVec 4) (imm : BitVec 29)
  | loopv (xd : BitVec 4) (imm : BitVec 29)
  | lbreak (cond : Cond) (xa xb : BitVec 4) (off : BitVec 29)
  | join
  | waitt (tl : BitVec 3) (xa : BitVec 4) (imm : BitVec 29)
  | waits (ts : BitVec 6) (xa : BitVec 4) (inv : Bool)
  | send (t : Strm) (k : BitVec 2) (xa : BitVec 4)
  | srd (xd : BitVec 4) (r : SReg)
  | swr (r : WReg) (xa : BitVec 4)
  | fence (ord : MOrd) (scope : Scope)
  | beacon
  | yield (xa xb : BitVec 4)
  | stampw (xd xa : BitVec 4)
  | trap (xa : BitVec 4) (imm : BitVec 29)
  | tret (xa : BitVec 4)
  | nest (xd xa : BitVec 4)
  -- class 00: integer arithmetic and predicates (R233 to R240)
  | add (xd xa xb : BitVec 4)
  | sub (xd xa xb : BitVec 4)
  | and (xd xa xb : BitVec 4)
  | or (xd xa xb : BitVec 4)
  | xor (xd xa xb : BitVec 4)
  | shl (xd xa xb : BitVec 4)
  | shr (xd xa xb : BitVec 4)
  | sra (xd xa xb : BitVec 4)
  | min (xd xa xb : BitVec 4)
  | max (xd xa xb : BitVec 4)
  | minu (xd xa xb : BitVec 4)
  | maxu (xd xa xb : BitVec 4)
  | addi (xd xa : BitVec 4) (imm : BitVec 29)
  | andi (xd xa : BitVec 4) (imm : BitVec 29)
  | ori (xd xa : BitVec 4) (imm : BitVec 29)
  | xori (xd xa : BitVec 4) (imm : BitVec 29)
  | shli (xd xa : BitVec 4) (sh : BitVec 6)
  | shri (xd xa : BitVec 4) (sh : BitVec 6)
  | srai (xd xa : BitVec 4) (sh : BitVec 6)
  | li (xd : BitVec 4) (imm : BitVec 37)
  | lih (xd : BitVec 4) (imm : BitVec 27)
  | mul (xd xa xb : BitVec 4)
  | mulh (xd xa xb : BitVec 4)
  | mulhu (xd xa xb : BitVec 4)
  | div (xd xa xb : BitVec 4)
  | divu (xd xa xb : BitVec 4)
  | rem (xd xa xb : BitVec 4)
  | remu (xd xa xb : BitVec 4)
  | clz (xd xa : BitVec 4)
  | ctz (xd xa : BitVec 4)
  | popc (xd xa : BitVec 4)
  | bfx (xd xa : BitVec 4) (pos : BitVec 6) (width : BitVec 7)
  | bfi (xd xa : BitVec 4) (pos : BitVec 6) (width : BitVec 7)
  | cmp (cond : Cond) (pd : BitVec 3) (xa xb : BitVec 4)
  | cmpi (cond : Cond) (pd : BitVec 3) (xa : BitVec 4) (imm : BitVec 25)
  | pand (pd pa pb : BitVec 3)
  | por (pd pa pb : BitVec 3)
  | pxor (pd pa pb : BitVec 3)
  | pnot (pd pa : BitVec 3)
  | sel (xd : BitVec 4) (pk : BitVec 3) (xa xb : BitVec 4)
  -- class 00: loads, stores, atomics (R241 to R246)
  | ld (xd xa : BitVec 4) (sel : Sel) (sz : Sz) (sx : Bool) (off : BitVec 25)
  | st (xd xa : BitVec 4) (sel : Sel) (sz : Sz) (off : BitVec 25)
  | lda (xd xa : BitVec 4) (sel : Sel) (sz : Sz) (sx : Bool) (scope : Scope) (off : BitVec 23)
  | stl (xd xa : BitVec 4) (sel : Sel) (sz : Sz) (scope : Scope) (off : BitVec 23)
  | atadd (xd xa xb : BitVec 4) (sel : Sel) (dw : Bool) (ord : MOrd) (scope : Scope)
  | atmin (xd xa xb : BitVec 4) (sel : Sel) (dw : Bool) (ord : MOrd) (scope : Scope)
  | atmax (xd xa xb : BitVec 4) (sel : Sel) (dw : Bool) (ord : MOrd) (scope : Scope)
  | atand (xd xa xb : BitVec 4) (sel : Sel) (dw : Bool) (ord : MOrd) (scope : Scope)
  | ator (xd xa xb : BitVec 4) (sel : Sel) (dw : Bool) (ord : MOrd) (scope : Scope)
  | atxor (xd xa xb : BitVec 4) (sel : Sel) (dw : Bool) (ord : MOrd) (scope : Scope)
  | atxchg (xd xa xb : BitVec 4) (sel : Sel) (dw : Bool) (ord : MOrd) (scope : Scope)
  | atcas (xd xa xb xc : BitVec 4) (sel : Sel) (dw : Bool) (ord : MOrd) (scope : Scope)
  | atincb (xd xa xc : BitVec 4) (sel : Sel) (dw : Bool) (ord : MOrd) (scope : Scope)
  | atfadd (xd xa xb : BitVec 4) (sel : Sel) (ord : MOrd) (scope : Scope)
  -- class 01: vector (R197, R252)
  | vshape (ef : Fmt) (rowsM1 : BitVec 4)
  | vld (vd : VDst) (sel : Sel) (xa xc : BitVec 3)
  | vst (vs : VSrc) (sel : Sel) (xa xc : BitVec 3)
  | vadd (vd : VDst) (va vb : VSrc) (brb : Bool) (f : VFmt)
  | vsub (vd : VDst) (va vb : VSrc) (brb : Bool) (f : VFmt)
  | vmul (vd : VDst) (va vb : VSrc) (brb : Bool) (f : VFmt)
  | vmin (vd : VDst) (va vb : VSrc) (brb : Bool) (f : VFmt)
  | vmax (vd : VDst) (va vb : VSrc) (brb : Bool) (f : VFmt)
  | vabs (vd : VDst) (va : VSrc) (f : VFmt)
  | vneg (vd : VDst) (va : VSrc) (f : VFmt)
  | vfma (vd : VDst) (va vb vc : VSrc) (brb : Bool) (f : VFmt)
  | vfms (vd : VDst) (va vb vc : VSrc) (brb : Bool) (f : VFmt)
  | vfnma (vd : VDst) (va vb vc : VSrc) (brb : Bool) (f : VFmt)
  | vand (vd : VDst) (va vb : VSrc) (brb : Bool) (ef : Fmt)
  | vor (vd : VDst) (va vb : VSrc) (brb : Bool) (ef : Fmt)
  | vxor (vd : VDst) (va vb : VSrc) (brb : Bool) (ef : Fmt)
  | vnot (vd : VDst) (va : VSrc) (ef : Fmt)
  | vshl (vd : VDst) (va vb : VSrc) (brb : Bool) (ef : Fmt)
  | vshr (vd : VDst) (va vb : VSrc) (brb : Bool) (ef : Fmt)
  | vsra (vd : VDst) (va vb : VSrc) (brb : Bool) (ef : Fmt)
  | vcmp (cond : VCond) (vd : VDst) (va vb : VSrc) (brb : Bool) (ef : Fmt)
  | vsel (vd : VDst) (va vb vc : VSrc) (brb : Bool) (ef : Fmt)
  | vmov (vd : VDst) (va : VSrc)
  | vbcast (vd : VDst) (va : VSrc) (m : Bool) (ef : Fmt)
  | vexp2 (vd : VDst) (va : VSrc) (f : VFmt)
  | vexp (vd : VDst) (va : VSrc) (f : VFmt)
  | vlog2 (vd : VDst) (va : VSrc) (f : VFmt)
  | vrcp (vd : VDst) (va : VSrc) (f : VFmt)
  | vrsq (vd : VDst) (va : VSrc) (f : VFmt)
  | vsqrt (vd : VDst) (va : VSrc) (f : VFmt)
  | vtanh (vd : VDst) (va : VSrc) (f : VFmt)
  | vsigm (vd : VDst) (va : VSrc) (f : VFmt)
  | vsilu (vd : VDst) (va : VSrc) (f : VFmt)
  | vcvt (vd : VDst) (va : VSrc) (f : VFmt) (p : BitVec 3)
  | vpack (vd : VDst) (va vb : VSrc) (f : VFmt)
  | vunpack (vd : VDst) (va : VSrc) (f : VFmt) (h : Bool)
  | vredr (fn : RedFn) (vd : VDst) (va : VSrc) (f : VFmt)
  | vredc (fn : RedFn) (vd : VDst) (va : VSrc) (f : VFmt)
  | vtrans (vd : VDst) (va : VSrc) (ef : Fmt)
  | vperm (vd : VDst) (va vb : VSrc) (brb : Bool) (ef : Fmt)
  | vsort (vd : VDst) (va : VSrc) (desc idx whole : Bool) (ef : Fmt)
  | vscan (vd : VDst) (va : VSrc) (excl whole : Bool) (f : VFmt)
  | viota (vd : VDst) (xa : BitVec 3) (ef : Fmt) (sat : Bool)
  | vbucket (vd : VDst) (va vb : VSrc) (sM1 : BitVec 4) (ef : Fmt)
  | vhist (vd : VDst) (va : VSrc) (acc : Bool) (ef : Fmt)
  | vmxscale (vd : VDst) (va : VSrc) (ef : Fmt) (rm : RMode)
  | vchscale (vd : VDst) (va vb : VSrc) (mode : BitVec 2) (ef : Fmt)
  | vextr (vd : VDst) (va vb : VSrc) (ef : Fmt)
  | vins (vd : VDst) (va vb : VSrc) (ef : Fmt)
  -- class 10: matrix and attention (R198, R317)
  | mma (ad : BitVec 3) (xa xb xs : BitVec 4) (fa fb : Fmt) (swz : Swz) (ovw neg : Bool) (tl : Option (BitVec 3))
  | mmat (ad : BitVec 3) (xa xb xs : BitVec 4) (fa fb : Fmt) (swz : Swz) (ovw neg : Bool) (tl : Option (BitVec 3))
  | aswap (ad : BitVec 2)
  | azero (ad : BitVec 3) (tl : Option (BitVec 3))
  | ald (ad : BitVec 3) (xa xs : BitVec 4) (fa : Fmt) (swz : Swz) (tl : Option (BitVec 3))
  | ast (ad : BitVec 3) (xa xs : BitVec 4) (fa : Fmt) (rm : RMode) (sat : Bool) (tl : Option (BitVec 3))
  | avec (ad : BitVec 3) (xa : BitVec 4) (q : BitVec 2) (tl : Option (BitVec 3))
  | attn (ad : BitVec 3) (xa xb xs : BitVec 4) (fa fb : Fmt) (swz : Swz) (tl : Option (BitVec 3))
  | attnf (ad : BitVec 3) (xa xs : BitVec 4) (fa : Fmt) (tl : Option (BitVec 3))
  | amass (ad : BitVec 3) (xa xb : BitVec 4) (fa fb : Fmt) (swz : Swz) (tl : Option (BitVec 3))
  | arstat (ad : BitVec 3) (xa xs : BitVec 4) (tl : Option (BitVec 3))
  | alstat (ad : BitVec 3) (xa xs : BitVec 4) (swz : Swz) (tl : Option (BitVec 3))
  | abusy (xa : BitVec 4)
  -- class 11: copy, synchronisation, window, collective, KV (R199, R276, R354)
  | copy (dir : Dir) (xt xm xs : BitVec 4) (t : Tags)
  | copyr (xs xm xt : BitVec 4) (t : Tags)
  | qfill (tgt : Strm) (k : BitVec 2) (xm xt : BitVec 4) (t : Tags)
  | tsinit (ts : BitVec 6)
  | tspost (ts : BitVec 6) (xs : BitVec 4)
  | tsarrive (xm xs : BitVec 4) (tl : Option (BitVec 3)) (scope : Scope)
  | tsquery (xt : BitVec 4) (ts : BitVec 6)
  | tlquery (xt : BitVec 4) (tl : BitVec 3) (f : BitVec 2)
  | cdecl (xm : BitVec 4)
  | crel (c : BitVec 2)
  | cstat (xt : BitVec 4) (c : BitVec 2) (f : Bool)
  | wdecl (w : BitVec 3) (xm xs : BitVec 4) (tl : Option (BitVec 3)) (scope : Scope)
  | wget (xs xm xt : BitVec 4) (t : Tags)
  | wown (xs xm xt : BitVec 4) (t : Tags)
  | wput (xs xt : BitVec 4) (t : Tags)
  | wdrop (xs xt : BitVec 4) (t : Tags)
  | creduce (fn : CredFn) (xt xs xm : BitVec 4) (t : Tags)
  | cgather (xt xs xm : BitVec 4) (t : Tags)
  | cbcast (xt xs xm : BitVec 4) (t : Tags)
  | cring (xt xs xm : BitVec 4) (t : Tags)
  | cmcast (xt xs xm : BitVec 4) (t : Tags)
  | kvappend (xt xm xs : BitVec 4) (t : Tags)
  | kvref (xm : BitVec 4) (t : Tags)
  | kvsetRep (xm xs : BitVec 4) (t : Tags)
  | kvsetMass (xm xs : BitVec 4) (t : Tags)
  | kvfree (xm : BitVec 4) (t : Tags)
  | roust (xm : BitVec 4) (tl : BitVec 3) (ts : Option (BitVec 6)) (scope : Scope)
  -- events of a core
  | scalarResultWrite (core : CoreIx) (st : Strm)
  | vectorResultWrite (core : CoreIx)
  | matrixWordComplete (core : CoreIx)
  | aswapExchange (core : CoreIx) (acc : BitVec 2)
  | globalLoadComplete (core : CoreIx) (st : Strm)
  | stampwTargetReached (core : CoreIx) (st : Strm)
  | heldSubmissionAccept (core : CoreIx) (st : Strm)
  | commandBegin (core : CoreIx) (storeQ : Bool)
  | engineWriteLands (core : CoreIx) (storeQ : Bool) (ix n : Nat)
  | carouselHeadAdvance (core : CoreIx) (car : BitVec 2)
  | carouselReleaseEffect (core : CoreIx) (car : BitVec 2)
  | qfillAppend (core : CoreIx) (ix : Nat)
  | remoteArrival (core : CoreIx) (storeQ : Bool) (ix : Nat)
  | commandComplete (core : CoreIx) (storeQ : Bool)
  | commandError (core : CoreIx) (storeQ : Bool) (ix : Nat)
  | deferredCommandTrap (core : CoreIx) (st : Strm)
  -- events of the coherence protocol
  | storeAtHome (core : CoreIx) (ix : Nat)
  | acknowledgementAtHome (core : CoreIx) (ix : Nat)
  | homeAtomic (core : CoreIx) (st : Strm)
  | invalidationReceived (ix : Nat)
  | fillReceived (ix : Nat)
  | dieCacheEviction (die : DieIx) (line : Nat)
  | rdupInvalidationRound (page : Nat)
  | windowRequestAtHome (core : CoreIx)
  | windowProbeAtHolder (core : CoreIx) (ix : Nat)
  | homeWriteRelease (core : CoreIx)
  -- launches and jobs
  | launchAcceptance
  | jobDispatch (die : DieIx)
  | dispatchTranslation (core : CoreIx)
  | jobStart (core : CoreIx)
  | gangStart (seq : Nat)
  | preemptionRequest (die : DieIx)
  | forcedPreemption (core : CoreIx)
  | preemptionSaveDone (core : CoreIx)
  | watchdog (core : CoreIx)
  | jobDone (core : CoreIx)
  -- fencing, failures, resets
  | coreFence (core : CoreIx)
  | coresDomainFence (die : DieIx)
  | memoryShellFence (die : DieIx)
  | shellReadmit (die : DieIx)
  | firmwareFailure
  | frameHandover (frame : Nat)
  | uncorrectableEccError (place : EccPlace)
  | boundaryFailure (b : Fin 8)
  | spokeFailure (die : DieIx)
  | fabricPortDown (port : Fin 18)
  | portTrained (ports : BitVec 18)
  | packageReset
  | flashImageCheck
  | bringUp (cfg : BringUpCfg)
  | powerLoss
  | overTemperatureTrip
  -- the host
  | functionLevelReset (fn : Fin 65)
  | vfRemoval (n : Fin 65)
  | submissionDoorbell (fn : Fin 65) (k : Fin 16) (va : Word)
  | dataWindowRead (fn : Fin 65) (off : BitVec 36) (sz : Sz)
  | dataWindowWrite (fn : Fin 65) (off : BitVec 36) (sz val : Nat)
  | invlenWrite (fn : Fin 65) (len : Word)
  | invalidationDone (fn : Fin 65)
  | faultack (fn : Fin 65) (val : Word)
  | ptegoWrite (val : Word)
  | pteUpdateDone
  | attgoWrite (fn : Fin 65)
  | attestationReady (fn : Fin 65)
  | reclenWrite (n : Word)
  | recoveryCheckDone
  | partitionEntryWrite (k : Fin 8) (val : Word)
  | partitionClearDone (k : Fin 8)
  | fabricConfigWrite (val : Word)
  | pwrctlWrite (val : Word)
  | modeChange
  | registerWrite (fn : Fin 65) (bar4 : Bool) (off : BitVec 32) (val : Word)
  | unassignedOpcode (opc : BitVec 8) (ops : BitVec 41)
  | submissionTranslationDone (core : CoreIx) (st : Strm)
  | vfEnable (n : Fin 65)
  | msixVectorUnmask (fn : Fin 65) (vec : Fin 4)
deriving DecidableEq, Repr

/-- An instruction word's fields outside the operands (R177), with its instruction. -/
structure IWord where
  slk : BitVec 10
  stp : Bool
  pg : BitVec 3
  pn : Bool
  op : Instr
deriving DecidableEq, Repr

end Sys2Proof
end

