-- ==== Sys2Proof/WellFormed.lean ====
section
/-! DEFINITION. Which terms of Instr are instruction words with legal operands: the operand values of 11_encoding
R189 to R194 and of the instructions' own descriptions that check 3 of R184 tests. Events are no words. -/

namespace Sys2Proof

/-- Width of a format's elements in bits (09_arithmetic R148, R149). -/
def Fmt.width : Fmt → Nat
  | .fp32 | .i32 => 32
  | .bf16 | .fp16 | .i16 => 16
  | .e4m3 | .e5m2 | .i8 | .u8 | .e8m0 => 8
  | .e2m1 | .i4 | .u4 => 4

/-- The integer formats (R149). -/
def Fmt.isInt : Fmt → Bool
  | .i32 | .i16 | .i8 | .u8 | .i4 | .u4 => true
  | _ => false

/-- The signed integer formats (R149). -/
def Fmt.signed : Fmt → Bool
  | .i32 | .i16 | .i8 | .i4 => true
  | _ => false

/-- Formats 0 to 4 and 6 to 11, which most vector words admit (15_vector R252). -/
def Fmt.general : Fmt → Bool
  | .e2m1 | .e8m0 => false
  | _ => true

/-- Formats 0 to 4 and 6 to 9 (R252). -/
def Fmt.keyed : Fmt → Bool
  | .e2m1 | .e8m0 | .i4 | .u4 => false
  | _ => true

/-- Formats 0 to 2 (R252). -/
def Fmt.wide : Fmt → Bool
  | .fp32 | .bf16 | .fp16 => true
  | _ => false

/-- RM is zero when F is an integer format (R251). -/
def VFmt.ok (f : VFmt) : Bool := f.ef.general && (!f.ef.isInt || f.rm == .rne)

/-- VEXP2, VEXP, VTANH, VSIGM and VSILU: with F = FP32, RM and SAT are zero (R261). -/
def VFmt.sfu32 (f : VFmt) : Bool := f.ef.wide && (f.ef != .fp32 || (f.rm == .rne && !f.sat))

/-- The FP8 formats. -/
def Fmt.fp8 : Fmt → Bool
  | .e4m3 | .e5m2 => true
  | _ => false

/-- Formats that MMA admits as a pair (19_matrix R318). -/
def mmaPair (a b : Fmt) : Bool :=
  match a with
  | .e4m3 | .e5m2 => b.fp8
  | .bf16 | .fp16 | .e2m1 => b == a
  | .i8 | .u8 => b == .i8 || b == .u8
  | .i4 | .u4 => b == .i4 || b == .u4
  | _ => false

/-- Formats that ATTN and AMASS admit as a pair (R318). -/
def attnPair (a b : Fmt) : Bool :=
  match a with
  | .e4m3 | .e5m2 => b.fp8
  | .bf16 | .fp16 => b == a
  | _ => false

/-- Formats that MMAT admits as a pair (R318): those of MMA without the 4-bit formats. -/
def mmatPair (a b : Fmt) : Bool := mmaPair a b && a.width != 4

/-- BFX and BFI: width 1 to 64 and pos + width at most 64 (13 R237). -/
def bitField (pos : BitVec 6) (width : BitVec 7) : Bool :=
  width != 0 && pos.toNat + width.toNat ≤ 64

/-- The instruction is a word whose operands are legal (check 3 of R184, but for what depends on the stream). -/
def WellFormed : Instr → Bool
  | .lbreak _ _ _ off => BitVec.slt 0 off
  | .bfx _ _ p w | .bfi _ _ p w => bitField p w
  | .ld _ _ _ sz sx _ => !(sz == .d && sx)
  | .lda _ _ _ sz sx _ _ => !(sz == .d && sx)
  | .vadd _ _ _ _ f | .vsub _ _ _ _ f | .vmul _ _ _ _ f | .vmin _ _ _ _ f | .vmax _ _ _ _ f => f.ok
  | .vabs _ _ f | .vneg _ _ f => f.ok
  | .vfma _ _ _ _ _ f | .vfms _ _ _ _ _ f | .vfnma _ _ _ _ _ f => f.ok
  | .vand _ _ _ _ ef | .vor _ _ _ _ ef | .vxor _ _ _ _ ef | .vshl _ _ _ _ ef | .vshr _ _ _ _ ef
  | .vsra _ _ _ _ ef => ef.general
  | .vnot _ _ ef => ef.general
  | .vcmp _ _ _ _ _ ef => ef.general
  | .vsel _ _ _ _ _ ef => ef.general
  | .vbcast _ _ _ ef => ef.general
  | .vexp2 _ _ f | .vexp _ _ f | .vtanh _ _ f | .vsigm _ _ f | .vsilu _ _ f => f.sfu32
  | .vlog2 _ _ f | .vrcp _ _ f | .vrsq _ _ f | .vsqrt _ _ f => f.ef.wide
  | .vcvt _ _ f _ => f.ef.general
  | .vpack _ _ _ f => f.ef.general
  | .vunpack _ _ f _ => f.ef.general
  | .vredr _ _ _ f | .vredc _ _ _ f => f.ok
  | .vtrans _ _ ef => ef.general
  | .vperm _ _ _ _ ef => ef.keyed
  | .vsort _ _ _ _ _ ef => ef.keyed
  | .vscan _ _ _ _ f => f.ok
  | .viota _ _ ef _ => ef.isInt
  | .vbucket _ _ _ _ ef => ef.keyed
  | .vhist _ _ _ ef => ef.isInt && ef.keyed
  | .vmxscale _ _ ef _ => ef == .e2m1 || ef.wide || ef == .e4m3
  | .vchscale _ _ vb mode ef =>
    match mode.toNat with
    | 0 => ef == .bf16 && vb == .reg 0
    | 1 => ef == .i4
    | 2 => ef.wide || ef == .e4m3
    | _ => false
  | .vextr _ _ _ ef | .vins _ _ _ ef => ef.isInt
  | .mma _ _ _ _ fa fb _ _ _ _ => mmaPair fa fb
  | .mmat _ _ _ _ fa fb _ _ _ _ => mmatPair fa fb
  | .ald _ _ _ fa _ _ => fa.wide || fa == .i32
  | .ast _ _ _ fa _ _ _ => fa.wide || fa.fp8 || fa == .i32 || fa == .i16 || fa == .i8
  | .attn _ _ _ _ fa fb _ _ => attnPair fa fb
  | .attnf _ _ _ fa _ => fa.wide || fa.fp8
  | .amass _ _ _ fa fb _ _ => attnPair fa fb
  | .tlquery _ _ f => f != 3
  | .nop | .br _ | .brc _ _ _ _ | .jmpx _ _ | .call _ | .ret | .loop _ _ | .loopv _ _ | .join | .waitt _ _ _
  | .waits _ _ _ | .send _ _ _ | .srd _ _ | .swr _ _ | .fence _ _ | .beacon | .yield _ _ | .stampw _ _
  | .trap _ _ | .tret _ | .nest _ _ | .add _ _ _ | .sub _ _ _ | .and _ _ _ | .or _ _ _ | .xor _ _ _
  | .shl _ _ _ | .shr _ _ _ | .sra _ _ _ | .min _ _ _ | .max _ _ _ | .minu _ _ _ | .maxu _ _ _ | .addi _ _ _
  | .andi _ _ _ | .ori _ _ _ | .xori _ _ _ | .shli _ _ _ | .shri _ _ _ | .srai _ _ _ | .li _ _ | .lih _ _
  | .mul _ _ _ | .mulh _ _ _ | .mulhu _ _ _ | .div _ _ _ | .divu _ _ _ | .rem _ _ _ | .remu _ _ _ | .clz _ _
  | .ctz _ _ | .popc _ _ | .cmp _ _ _ _ | .cmpi _ _ _ _ | .pand _ _ _ | .por _ _ _ | .pxor _ _ _ | .pnot _ _
  | .sel _ _ _ _ | .st _ _ _ _ _ | .stl _ _ _ _ _ _ | .atadd _ _ _ _ _ _ _ | .atmin _ _ _ _ _ _ _
  | .atmax _ _ _ _ _ _ _ | .atand _ _ _ _ _ _ _ | .ator _ _ _ _ _ _ _ | .atxor _ _ _ _ _ _ _
  | .atxchg _ _ _ _ _ _ _ | .atcas _ _ _ _ _ _ _ _ | .atincb _ _ _ _ _ _ _ | .atfadd _ _ _ _ _ _
  | .vshape _ _ | .vld _ _ _ _ | .vst _ _ _ _ | .vmov _ _ | .aswap _ | .azero _ _ | .avec _ _ _ _
  | .arstat _ _ _ _ | .alstat _ _ _ _ _ | .abusy _ | .copy _ _ _ _ _ | .copyr _ _ _ _ | .qfill _ _ _ _ _
  | .tsinit _ | .tspost _ _ | .tsarrive _ _ _ _ | .tsquery _ _ | .cdecl _ | .crel _ | .cstat _ _ _
  | .wdecl _ _ _ _ _ | .wget _ _ _ _ | .wown _ _ _ _ | .wput _ _ _ | .wdrop _ _ _ | .creduce _ _ _ _ _
  | .cgather _ _ _ _ | .cbcast _ _ _ _ | .cring _ _ _ _ | .cmcast _ _ _ _ | .kvappend _ _ _ _ | .kvref _ _
  | .kvsetRep _ _ _ | .kvsetMass _ _ _ | .kvfree _ _ | .roust _ _ _ _ => true
  | .scalarResultWrite _ _ | .vectorResultWrite _ | .matrixWordComplete _ | .aswapExchange _ _
  | .globalLoadComplete _ _ | .stampwTargetReached _ _ | .heldSubmissionAccept _ _ | .commandBegin _ _
  | .engineWriteLands _ _ _ _ | .carouselHeadAdvance _ _ | .carouselReleaseEffect _ _ | .qfillAppend _ _
  | .remoteArrival _ _ _ | .commandComplete _ _ | .commandError _ _ _ | .deferredCommandTrap _ _
  | .storeAtHome _ _ | .acknowledgementAtHome _ _ | .homeAtomic _ _ | .invalidationReceived _ | .fillReceived _
  | .dieCacheEviction _ _ | .rdupInvalidationRound _ | .windowRequestAtHome _ | .windowProbeAtHolder _ _
  | .homeWriteRelease _ | .launchAcceptance | .jobDispatch _ | .dispatchTranslation _ | .jobStart _
  | .gangStart _ | .preemptionRequest _ | .forcedPreemption _ | .preemptionSaveDone _ | .watchdog _ | .jobDone _
  | .coreFence _ | .coresDomainFence _ | .memoryShellFence _ | .shellReadmit _ | .firmwareFailure
  | .frameHandover _ | .uncorrectableEccError _ | .boundaryFailure _ | .spokeFailure _ | .fabricPortDown _
  | .portTrained _ | .packageReset | .flashImageCheck | .bringUp _ | .powerLoss | .overTemperatureTrip
  | .functionLevelReset _ | .vfRemoval _ | .submissionDoorbell _ _ _ | .dataWindowRead _ _ _
  | .dataWindowWrite _ _ _ _ | .invlenWrite _ _ | .invalidationDone _ | .faultack _ _ | .ptegoWrite _
  | .pteUpdateDone | .attgoWrite _ | .attestationReady _ | .reclenWrite _ | .recoveryCheckDone
  | .partitionEntryWrite _ _ | .partitionClearDone _ | .fabricConfigWrite _ | .pwrctlWrite _ | .modeChange
  | .registerWrite _ _ _ _ | .unassignedOpcode _ _ | .submissionTranslationDone _ _ | .vfEnable _
  | .msixVectorUnmask _ _ => false

end Sys2Proof
end

