-- ==== Sys2Proof/Decode.lean ====
section
/-! DEFINITION. From a 64-bit word to an instruction, total on every word, and back (11_encoding R177, R186 to R199
and the field tables of the instruction chapters). An unassigned opcode or function code decodes to the row
UNASSIGNED_OPCODE; an illegal operand is refused by name. -/

namespace Sys2Proof

/-- Why a word is refused: a must-be-zero field or a field value outside its legal set (check 3 of R184). -/
inductive DecodeErr where
  | illegalOperand
deriving DecidableEq, Repr

/-- The n bits of w from bit lo upward (R1). -/
abbrev fld (w : Word) (lo n : Nat) : BitVec n := w.extractLsb' lo n

/-- The n bits of w from bit lo are zero (R188). -/
def zf (w : Word) (lo n : Nat) : Bool := fld w lo n == 0

/-- COND codes (R190). -/
def condOf (c : BitVec 4) : Option Cond :=
  match c.toNat with
  | 0 => some .eq | 1 => some .ne | 2 => some .lt | 3 => some .ge | 4 => some .ltu | 5 => some .geu
  | 6 => some .always | _ => none

/-- EF codes (R148, R149, R150). -/
def fmtOf (c : BitVec 4) : Option Fmt :=
  match c.toNat with
  | 0 => some .fp32 | 1 => some .bf16 | 2 => some .fp16 | 3 => some .e4m3 | 4 => some .e5m2 | 5 => some .e2m1
  | 6 => some .i32 | 7 => some .i16 | 8 => some .i8 | 9 => some .u8 | 10 => some .i4 | 11 => some .u4
  | 12 => some .e8m0 | _ => none

/-- RM codes (R156). -/
def rmOf (c : BitVec 2) : RMode :=
  match c.toNat with | 0 => .rne | 1 => .rz | 2 => .rd | _ => .ru

/-- ORD codes (R116). -/
def ordOf (c : BitVec 2) : MOrd :=
  match c.toNat with | 0 => .rlx | 1 => .acq | 2 => .rel | _ => .acqrel

/-- SCOPE codes (R115). -/
def scopeOf (c : BitVec 2) : Scope :=
  match c.toNat with | 0 => .core | 1 => .die | 2 => .pkg | _ => .pod

/-- SZ codes (13 R242). -/
def szOf (c : BitVec 2) : Sz :=
  match c.toNat with | 0 => .b | 1 => .h | 2 => .w | _ => .d

/-- Stream codes of SEND and QFILL (R222, R276). -/
def strmOf (c : BitVec 2) : Strm :=
  match c.toNat with | 0 => .s | 1 => .v | 2 => .m | _ => .c

/-- SWZ codes 0 to 4 (R89, R189). -/
def swzOf (c : BitVec 4) : Option Swz :=
  match c.toNat with
  | 0 => some .plain | 1 => some .sk4 | 2 => some .sk8 | 3 => some .sk16 | 4 => some .sk32 | _ => none

/-- SEL: 0 to 15 an extent, 16 the local scratchpad (R189). -/
def selOf (c : BitVec 5) : Option Sel :=
  if c.toNat < 16 then some (.ext (c.extractLsb' 0 4)) else if c.toNat == 16 then some .loc else none

/-- A 6-bit vector operand code as a source (R192). -/
def vsrcOf (c : BitVec 6) : Option VSrc :=
  if c.toNat < 32 then some (.reg (c.extractLsb' 0 5))
  else if c.toNat < 36 then some (.pop (c.extractLsb' 0 2))
  else if c.toNat < 40 then some (.peek (c.extractLsb' 0 2))
  else if c.toNat < 48 then some (.rot (c.extractLsb' 0 3))
  else if c.toNat < 56 then some (.splat (c.extractLsb' 0 3))
  else none

/-- A 6-bit vector operand code as a destination (R192). -/
def vdstOf (c : BitVec 6) : Option VDst :=
  if c.toNat < 32 then some (.reg (c.extractLsb' 0 5))
  else if 40 ≤ c.toNat ∧ c.toNat < 48 then some (.rot (c.extractLsb' 0 3))
  else none

/-- A splat code 48 to 55, as the base and stride registers of VLD and VST and the operand of VIOTA (R256, R269). -/
def splatOf (c : BitVec 6) : Option (BitVec 3) :=
  if 48 ≤ c.toNat ∧ c.toNat < 56 then some (c.extractLsb' 0 3) else none

/-- VCMP conditions (R197). -/
def vcondOf (c : BitVec 5) : Option VCond :=
  match c.toNat with
  | 0 => some .eq | 1 => some .ne | 2 => some .lt | 3 => some .le | 4 => some .gt | 5 => some .ge
  | 6 => some .unord | _ => none

/-- VREDR and VREDC functions (R197). -/
def redOf (c : BitVec 5) : Option RedFn :=
  match c.toNat with
  | 0 => some .sum | 1 => some .max | 2 => some .min | 3 => some .argmax | 4 => some .argmin | _ => none

/-- CREDUCE functions (R199). -/
def credOf (c : BitVec 4) : Option CredFn :=
  match c.toNat with | 0 => some .sum | 1 => some .max | 2 => some .merge | _ => none

/-- Special registers that SRD names (R194). -/
def sregOf (n : BitVec 29) : Option SReg :=
  match n.toNat with
  | 0x00 => some .mode | 0x01 => some .jobid | 0x02 => some .coord | 0x03 => some .stage | 0x04 => some .gcc
  | 0x05 => some .vshape | 0x06 => some .vrb | 0x07 => some .vring | 0x08 => some .trapvec
  | 0x09 => some .trapcause | 0x0A => some .trappc | 0x0B => some .trapstream | 0x0C => some .trapinfo
  | 0x0D => some .beaconint | 0x0E => some .ovp | 0x0F => some .spillbase | 0x10 => some .prio
  | 0x11 => some .partition | 0x12 => some .incarnation
  | 0x20 => some (.qpop 0) | 0x21 => some (.qpop 1) | 0x22 => some (.qpop 2) | 0x23 => some (.qpop 3)
  | 0x24 => some (.qpeek 0) | 0x25 => some (.qpeek 1) | 0x26 => some (.qpeek 2) | 0x27 => some (.qpeek 3)
  | _ => none

/-- Special registers that SWR may name (R194). -/
def wregOf (n : BitVec 29) : Option WReg :=
  match n.toNat with
  | 0x05 => some .vshape | 0x06 => some .vrb | 0x07 => some .vring | 0x08 => some .trapvec | _ => none

/-- The operands of formats K, J and L (R186). -/
abbrev fXd (w : Word) : BitVec 4 := fld w 37 4
abbrev fXa (w : Word) : BitVec 4 := fld w 33 4
abbrev fXb (w : Word) : BitVec 4 := fld w 29 4
abbrev fFn5 (w : Word) : BitVec 5 := fld w 24 5
abbrev fFn4 (w : Word) : BitVec 4 := fld w 29 4
abbrev fImm (w : Word) : BitVec 29 := fld w 0 29

/-- The opcode byte (R177). -/
abbrev fOpc (w : Word) : BitVec 8 := fld w 45 8

/-- The row for an opcode or function code that is not assigned (R184 check 2, R195). -/
def unassigned (w : Word) : Option Instr := some (.unassignedOpcode (fOpc w) (fld w 0 41))

/-- An instruction when its must-be-zero fields are zero. -/
def need (b : Bool) (i : Instr) : Option Instr := if b then some i else none

/-- Format K with no field used but xd, xa, xb (R186, R188). -/
def kTail (w : Word) : Bool := zf w 0 24

/-- ALU words (R196, 13 R233). -/
def decAlu (w : Word) : Option Instr :=
  match (fFn5 w).toNat with
  | 0 => need (kTail w) (.add (fXd w) (fXa w) (fXb w))
  | 1 => need (kTail w) (.sub (fXd w) (fXa w) (fXb w))
  | 2 => need (kTail w) (.and (fXd w) (fXa w) (fXb w))
  | 3 => need (kTail w) (.or (fXd w) (fXa w) (fXb w))
  | 4 => need (kTail w) (.xor (fXd w) (fXa w) (fXb w))
  | 5 => need (kTail w) (.shl (fXd w) (fXa w) (fXb w))
  | 6 => need (kTail w) (.shr (fXd w) (fXa w) (fXb w))
  | 7 => need (kTail w) (.sra (fXd w) (fXa w) (fXb w))
  | 8 => need (kTail w) (.min (fXd w) (fXa w) (fXb w))
  | 9 => need (kTail w) (.max (fXd w) (fXa w) (fXb w))
  | 10 => need (kTail w) (.minu (fXd w) (fXa w) (fXb w))
  | 11 => need (kTail w) (.maxu (fXd w) (fXa w) (fXb w))
  | _ => unassigned w

/-- ALUI words (R196, R234). -/
def decAlui (w : Word) : Option Instr :=
  match (fFn4 w).toNat with
  | 0 => some (.addi (fXd w) (fXa w) (fImm w))
  | 1 => some (.andi (fXd w) (fXa w) (fImm w))
  | 2 => some (.ori (fXd w) (fXa w) (fImm w))
  | 3 => some (.xori (fXd w) (fXa w) (fImm w))
  | 4 => need (zf w 6 23) (.shli (fXd w) (fXa w) (fld w 0 6))
  | 5 => need (zf w 6 23) (.shri (fXd w) (fXa w) (fld w 0 6))
  | 6 => need (zf w 6 23) (.srai (fXd w) (fXa w) (fld w 0 6))
  | _ => unassigned w

/-- MULDIV words (R196, R236). -/
def decMuldiv (w : Word) : Option Instr :=
  match (fFn5 w).toNat with
  | 0 => need (kTail w) (.mul (fXd w) (fXa w) (fXb w))
  | 1 => need (kTail w) (.mulh (fXd w) (fXa w) (fXb w))
  | 2 => need (kTail w) (.mulhu (fXd w) (fXa w) (fXb w))
  | 3 => need (kTail w) (.div (fXd w) (fXa w) (fXb w))
  | 4 => need (kTail w) (.divu (fXd w) (fXa w) (fXb w))
  | 5 => need (kTail w) (.rem (fXd w) (fXa w) (fXb w))
  | 6 => need (kTail w) (.remu (fXd w) (fXa w) (fXb w))
  | _ => unassigned w

/-- BIT words (R196, R237). -/
def decBit (w : Word) : Option Instr :=
  match (fFn4 w).toNat with
  | 0 => need (zf w 0 29) (.clz (fXd w) (fXa w))
  | 1 => need (zf w 0 29) (.ctz (fXd w) (fXa w))
  | 2 => need (zf w 0 29) (.popc (fXd w) (fXa w))
  | 3 => need (zf w 13 16) (.bfx (fXd w) (fXa w) (fld w 0 6) (fld w 6 7))
  | 4 => need (zf w 13 16) (.bfi (fXd w) (fXa w) (fld w 0 6) (fld w 6 7))
  | _ => unassigned w

/-- PLOG words: bit 3 of xd, xa and xb zero (R196, R239). -/
def decPlog (w : Word) : Option Instr :=
  let z := kTail w && zf w 40 1 && zf w 36 1 && zf w 32 1
  match (fFn5 w).toNat with
  | 0 => need z (.pand (fld w 37 3) (fld w 33 3) (fld w 29 3))
  | 1 => need z (.por (fld w 37 3) (fld w 33 3) (fld w 29 3))
  | 2 => need z (.pxor (fld w 37 3) (fld w 33 3) (fld w 29 3))
  | 3 => need (z && zf w 29 3) (.pnot (fld w 37 3) (fld w 33 3))
  | _ => unassigned w

/-- ATOM words (R186 format A, R196, R245). -/
def decAtom (w : Word) : Option Instr :=
  let xd := fXd w
  let xa := fXa w
  let xb := fXb w
  let xc : BitVec 4 := fld w 25 4
  let dw := (fld w 14 1) == 1
  let ord := ordOf (fld w 12 2)
  let sc := scopeOf (fld w 10 2)
  if (fld w 16 4).toNat ≥ 10 then unassigned w
  else
    match selOf (fld w 20 5) with
    | none => none
    | some sel =>
      let z := zf w 0 10 && fld w 15 1 == 1
      match (fld w 16 4).toNat with
      | 0 => need (z && xc == 0) (.atadd xd xa xb sel dw ord sc)
      | 1 => need (z && xc == 0) (.atmin xd xa xb sel dw ord sc)
      | 2 => need (z && xc == 0) (.atmax xd xa xb sel dw ord sc)
      | 3 => need (z && xc == 0) (.atand xd xa xb sel dw ord sc)
      | 4 => need (z && xc == 0) (.ator xd xa xb sel dw ord sc)
      | 5 => need (z && xc == 0) (.atxor xd xa xb sel dw ord sc)
      | 6 => need (z && xc == 0) (.atxchg xd xa xb sel dw ord sc)
      | 7 => need z (.atcas xd xa xb xc sel dw ord sc)
      | 8 => need (z && xb == 0) (.atincb xd xa xc sel dw ord sc)
      | _ => need (z && xc == 0 && !dw) (.atfadd xd xa xb sel ord sc)

/-- Class 00 (R196). -/
def decClass0 (w : Word) : Option Instr :=
  match (fOpc w).toNat with
  | 0x00 => need (zf w 0 41) .nop
  | 0x01 => need (zf w 29 12) (.br (fImm w))
  | 0x02 => (condOf (fld w 29 4)).bind fun c => some (.brc c (fld w 37 4) (fld w 33 4) (fImm w))
  | 0x03 => need (zf w 0 33) (.jmpx (fXd w) (fXa w))
  | 0x04 => need (zf w 29 12) (.call (fImm w))
  | 0x05 => need (zf w 0 41) .ret
  | 0x06 => need (zf w 29 8) (.loop (fXd w) (fImm w))
  | 0x07 => need (zf w 29 8) (.loopv (fXd w) (fImm w))
  | 0x08 => (condOf (fld w 29 4)).bind fun c => some (.lbreak c (fld w 37 4) (fld w 33 4) (fImm w))
  | 0x09 => need (zf w 0 41) .join
  | 0x0A => need (zf w 37 4 && zf w 32 1) (.waitt (fld w 29 3) (fXa w) (fImm w))
  | 0x0B => need (zf w 37 4 && zf w 7 26) (.waits (fld w 0 6) (fXa w) (fld w 6 1 == 1))
  | 0x0C => need (zf w 37 4 && zf w 28 5 && zf w 0 24) (.send (strmOf (fld w 26 2)) (fld w 24 2) (fXa w))
  | 0x0D => (sregOf (fImm w)).bind fun r => need (zf w 29 8) (.srd (fXd w) r)
  | 0x0E => (wregOf (fImm w)).bind fun r => need (zf w 37 4 && zf w 29 4) (.swr r (fXa w))
  | 0x0F => need (zf w 14 27 && zf w 0 10) (.fence (ordOf (fld w 12 2)) (scopeOf (fld w 10 2)))
  | 0x10 => need (zf w 0 41) .beacon
  | 0x11 => need (zf w 37 4 && zf w 0 29) (.yield (fXa w) (fXb w))
  | 0x12 => need (zf w 0 33) (.stampw (fXd w) (fXa w))
  | 0x13 => need (zf w 37 4 && zf w 29 4) (.trap (fXa w) (fImm w))
  | 0x14 => need (zf w 37 4 && zf w 0 33) (.tret (fXa w))
  | 0x15 => need (zf w 0 33) (.nest (fXd w) (fXa w))
  | 0x20 => decAlu w
  | 0x21 => decAlui w
  | 0x22 => some (.li (fXd w) (fld w 0 37))
  | 0x23 => need (zf w 27 10) (.lih (fXd w) (fld w 0 27))
  | 0x24 => decMuldiv w
  | 0x25 => decBit w
  | 0x26 => (condOf (fld w 25 4)).bind fun c =>
      if fld w 29 1 == 0 then need (zf w 0 25) (.cmp c (fld w 38 3) (fld w 34 4) (fld w 30 4))
      else need (zf w 30 4) (.cmpi c (fld w 38 3) (fld w 34 4) (fld w 0 25))
  | 0x27 => decPlog w
  | 0x28 => need (zf w 27 2 && zf w 0 24) (.sel (fXd w) (fld w 24 3) (fXa w) (fXb w))
  | 0x30 => (selOf (fld w 28 5)).bind fun s =>
      some (.ld (fXd w) (fXa w) s (szOf (fld w 26 2)) (fld w 25 1 == 1) (fld w 0 25))
  | 0x31 => (selOf (fld w 28 5)).bind fun s =>
      need (zf w 25 1) (.st (fXd w) (fXa w) s (szOf (fld w 26 2)) (fld w 0 25))
  | 0x32 => (selOf (fld w 28 5)).bind fun s =>
      some (.lda (fXd w) (fXa w) s (szOf (fld w 26 2)) (fld w 25 1 == 1) (scopeOf (fld w 23 2)) (fld w 0 23))
  | 0x33 => (selOf (fld w 28 5)).bind fun s =>
      need (zf w 25 1) (.stl (fXd w) (fXa w) s (szOf (fld w 26 2)) (scopeOf (fld w 23 2)) (fld w 0 23))
  | 0x34 => decAtom w
  | _ => unassigned w

/-- The fields of format V (R186). -/
abbrev vVd (w : Word) : BitVec 6 := fld w 35 6
abbrev vVa (w : Word) : BitVec 6 := fld w 29 6
abbrev vVb (w : Word) : BitVec 6 := fld w 23 6
abbrev vVc (w : Word) : BitVec 6 := fld w 17 6
abbrev vFn (w : Word) : BitVec 5 := fld w 12 5
abbrev vBrb (w : Word) : Bool := fld w 4 1 == 1
abbrev vMod (w : Word) : BitVec 4 := fld w 0 4

/-- EF, RM and SAT (R186). -/
def vfmtOf (w : Word) : Option VFmt :=
  (fmtOf (fld w 8 4)).map fun f => ⟨f, rmOf (fld w 6 2), fld w 5 1 == 1⟩

/-- vd, va, vb with BRB, and EF, RM, SAT. -/
def decV3 (w : Word) (mk : VDst → VSrc → VSrc → Bool → VFmt → Instr) : Option Instr :=
  (vdstOf (vVd w)).bind fun vd => (vsrcOf (vVa w)).bind fun va => (vsrcOf (vVb w)).bind fun vb =>
  (vfmtOf w).bind fun f => need (zf w 17 6 && zf w 0 4) (mk vd va vb (vBrb w) f)

/-- vd, va and EF, RM, SAT. -/
def decV2 (w : Word) (mk : VDst → VSrc → VFmt → Instr) : Option Instr :=
  (vdstOf (vVd w)).bind fun vd => (vsrcOf (vVa w)).bind fun va =>
  (vfmtOf w).bind fun f => need (zf w 17 12 && zf w 0 5) (mk vd va f)

/-- vd, va, vb, vc with BRB, and EF, RM, SAT. -/
def decV4 (w : Word) (mk : VDst → VSrc → VSrc → VSrc → Bool → VFmt → Instr) : Option Instr :=
  (vdstOf (vVd w)).bind fun vd => (vsrcOf (vVa w)).bind fun va => (vsrcOf (vVb w)).bind fun vb =>
  (vsrcOf (vVc w)).bind fun vc => (vfmtOf w).bind fun f => need (zf w 0 4) (mk vd va vb vc (vBrb w) f)

/-- vd, va, vb with BRB, and EF alone. -/
def decV3e (w : Word) (mk : VDst → VSrc → VSrc → Bool → Fmt → Instr) : Option Instr :=
  (vdstOf (vVd w)).bind fun vd => (vsrcOf (vVa w)).bind fun va => (vsrcOf (vVb w)).bind fun vb =>
  (fmtOf (fld w 8 4)).bind fun f => need (zf w 17 6 && zf w 5 3 && zf w 0 4) (mk vd va vb (vBrb w) f)

/-- vd, va, vb without BRB, EF, and MOD as an operand when `m` holds. -/
def decV3m (w : Word) (m : Bool) (mk : VDst → VSrc → VSrc → Fmt → Instr) : Option Instr :=
  (vdstOf (vVd w)).bind fun vd => (vsrcOf (vVa w)).bind fun va => (vsrcOf (vVb w)).bind fun vb =>
  (fmtOf (fld w 8 4)).bind fun f => need (zf w 17 6 && zf w 4 4 && (m || zf w 0 4)) (mk vd va vb f)

/-- vd, va, EF and MOD; vb, vc, RM, SAT, BRB zero. -/
def decV2e (w : Word) (mk : VDst → VSrc → Fmt → Instr) : Option Instr :=
  (vdstOf (vVd w)).bind fun vd => (vsrcOf (vVa w)).bind fun va =>
  (fmtOf (fld w 8 4)).bind fun f => need (zf w 17 12 && zf w 4 4) (mk vd va f)

/-- vd, va, EF, RM, SAT and MOD; vb, vc, BRB zero. -/
def decV2m (w : Word) (mk : VDst → VSrc → VFmt → Instr) : Option Instr :=
  (vdstOf (vVd w)).bind fun vd => (vsrcOf (vVa w)).bind fun va =>
  (vfmtOf w).bind fun f => need (zf w 17 12 && zf w 4 1) (mk vd va f)

/-- The instruction when FN5 is zero, for an opcode without a function table (R188). -/
def fn0 (w : Word) (i : Option Instr) : Option Instr := if vFn w == 0 then i else none

/-- Class 01 (R197, R252). -/
def decClass1 (w : Word) : Option Instr :=
  let m := vMod w
  match (fOpc w).toNat with
  | 0x40 => fn0 w ((fmtOf (fld w 8 4)).bind fun f => need (zf w 17 24 && zf w 4 4) (.vshape f m))
  | 0x41 => fn0 w ((vdstOf (vVd w)).bind fun vd => (splatOf (vVa w)).bind fun xa =>
      (splatOf (vVc w)).bind fun xc => (selOf (fld w 23 5)).bind fun s =>
      need (zf w 28 1 && zf w 0 12) (.vld vd s xa xc))
  | 0x42 => fn0 w ((vsrcOf (vVd w)).bind fun vs => (splatOf (vVa w)).bind fun xa =>
      (splatOf (vVc w)).bind fun xc => (selOf (fld w 23 5)).bind fun s =>
      need (zf w 28 1 && zf w 0 12) (.vst vs s xa xc))
  | 0x44 =>
    match (vFn w).toNat with
    | 0 => decV3 w .vadd | 1 => decV3 w .vsub | 2 => decV3 w .vmul | 3 => decV3 w .vmin | 4 => decV3 w .vmax
    | 5 => decV2 w .vabs | 6 => decV2 w .vneg | _ => unassigned w
  | 0x45 =>
    match (vFn w).toNat with
    | 0 => decV4 w .vfma | 1 => decV4 w .vfms | 2 => decV4 w .vfnma | _ => unassigned w
  | 0x46 =>
    match (vFn w).toNat with
    | 0 => decV3e w .vand | 1 => decV3e w .vor | 2 => decV3e w .vxor
    | 3 => if m == 0 then decV2e w .vnot else none
    | 4 => decV3e w .vshl | 5 => decV3e w .vshr | 6 => decV3e w .vsra | _ => unassigned w
  | 0x47 =>
    match vcondOf (vFn w) with
    | some c => decV3e w (.vcmp c)
    | none => unassigned w
  | 0x48 => fn0 w ((vdstOf (vVd w)).bind fun vd => (vsrcOf (vVa w)).bind fun va => (vsrcOf (vVb w)).bind fun vb =>
      (vsrcOf (vVc w)).bind fun vc => (fmtOf (fld w 8 4)).bind fun f =>
      need (zf w 5 3 && zf w 0 4) (.vsel vd va vb vc (vBrb w) f))
  | 0x49 =>
    match (vFn w).toNat with
    | 0 => decV2 w .vexp2 | 1 => decV2 w .vexp | 2 => decV2 w .vlog2 | 3 => decV2 w .vrcp | 4 => decV2 w .vrsq
    | 5 => decV2 w .vsqrt | 6 => decV2 w .vtanh | 7 => decV2 w .vsigm | 8 => decV2 w .vsilu | _ => unassigned w
  | 0x4A => fn0 w (if fld w 3 1 == 0 then decV2m w (fun vd va f => .vcvt vd va f (fld w 0 3)) else none)
  | 0x4B => fn0 w ((vdstOf (vVd w)).bind fun vd => (vsrcOf (vVa w)).bind fun va => (vsrcOf (vVb w)).bind fun vb =>
      (vfmtOf w).bind fun f => need (zf w 17 6 && zf w 0 5) (.vpack vd va vb f))
  | 0x4C => fn0 w (if fld w 1 3 == 0 then decV2m w (fun vd va f => .vunpack vd va f (fld w 0 1 == 1)) else none)
  | 0x4D =>
    match redOf (vFn w) with
    | some fn => decV2 w (.vredr fn)
    | none => unassigned w
  | 0x4E =>
    match redOf (vFn w) with
    | some fn => decV2 w (.vredc fn)
    | none => unassigned w
  | 0x4F => fn0 w (if fld w 1 3 == 0 then decV2e w (fun vd va f => .vbcast vd va (fld w 0 1 == 1) f) else none)
  | 0x50 => fn0 w ((vdstOf (vVd w)).bind fun vd => (vsrcOf (vVa w)).bind fun va => need (zf w 0 29) (.vmov vd va))
  | 0x51 => fn0 w (if m == 0 then decV2e w .vtrans else none)
  | 0x52 => fn0 w (decV3e w .vperm)
  | 0x53 => fn0 w (if fld w 3 1 == 0 then
      decV2e w (fun vd va f => .vsort vd va (fld w 0 1 == 1) (fld w 1 1 == 1) (fld w 2 1 == 1) f) else none)
  | 0x54 => fn0 w (if fld w 3 1 == 0 && fld w 1 1 == 0 then
      decV2m w (fun vd va f => .vscan vd va (fld w 0 1 == 1) (fld w 2 1 == 1) f) else none)
  | 0x55 => fn0 w ((vdstOf (vVd w)).bind fun vd => (splatOf (vVa w)).bind fun xa => (fmtOf (fld w 8 4)).bind fun f =>
      need (zf w 17 12 && zf w 6 2 && zf w 0 5) (.viota vd xa f (fld w 5 1 == 1)))
  | 0x56 => fn0 w (decV3m w true (fun vd va vb f => .vbucket vd va vb m f))
  | 0x57 => fn0 w (if fld w 1 3 == 0 then decV2e w (fun vd va f => .vhist vd va (fld w 0 1 == 1) f) else none)
  | 0x58 => fn0 w ((vdstOf (vVd w)).bind fun vd => (vsrcOf (vVa w)).bind fun va => (fmtOf (fld w 8 4)).bind fun f =>
      need (zf w 17 12 && zf w 0 6) (.vmxscale vd va f (rmOf (fld w 6 2))))
  | 0x59 => fn0 w (if fld w 2 2 == 0 then decV3m w true (fun vd va vb f => .vchscale vd va vb (fld w 0 2) f) else none)
  | 0x5A => fn0 w (decV3m w false .vextr)
  | 0x5B => fn0 w (decV3m w false .vins)
  | _ => unassigned w

/-- TLE and TL of a class-10 word: with TLE = 0 the TL field is zero (19 R318). -/
def tl10 (w : Word) : Option (Option (BitVec 3)) :=
  if fld w 11 1 == 1 then some (some (fld w 8 3)) else if fld w 8 3 == 0 then some none else none

/-- The fields of format X (R186). -/
abbrev xAd (w : Word) : BitVec 3 := fld w 38 3
abbrev xXa (w : Word) : BitVec 4 := fld w 34 4
abbrev xXb (w : Word) : BitVec 4 := fld w 30 4
abbrev xXs (w : Word) : BitVec 4 := fld w 26 4

/-- MMA and MMAT. -/
def decMma (w : Word)
    (mk : BitVec 3 → BitVec 4 → BitVec 4 → BitVec 4 → Fmt → Fmt → Swz → Bool → Bool → Option (BitVec 3) → Instr) :
    Option Instr :=
  (fmtOf (fld w 22 4)).bind fun fa => (fmtOf (fld w 18 4)).bind fun fb => (swzOf (fld w 14 4)).bind fun sw =>
  (tl10 w).bind fun tl =>
  need (zf w 13 1 && zf w 5 3 && zf w 0 4)
    (mk (xAd w) (xXa w) (xXb w) (xXs w) fa fb sw (fld w 12 1 == 1) (fld w 4 1 == 1) tl)

/-- Class 10 (R198, 19 R317, R318). -/
def decClass2 (w : Word) : Option Instr :=
  match (fOpc w).toNat with
  | 0x80 => decMma w .mma
  | 0x81 => decMma w .mmat
  | 0x82 => need (zf w 40 1 && zf w 0 38) (.aswap (fld w 38 2))
  | 0x83 => (tl10 w).bind fun tl => need (zf w 12 26 && zf w 0 8) (.azero (xAd w) tl)
  | 0x84 => (fmtOf (fld w 22 4)).bind fun fa => (swzOf (fld w 14 4)).bind fun sw => (tl10 w).bind fun tl =>
      need (zf w 30 4 && zf w 18 4 && zf w 12 2 && zf w 0 8) (.ald (xAd w) (xXa w) (xXs w) fa sw tl)
  | 0x85 => (fmtOf (fld w 22 4)).bind fun fa => (tl10 w).bind fun tl =>
      need (zf w 30 4 && zf w 12 10 && zf w 0 5)
        (.ast (xAd w) (xXa w) (xXs w) fa (rmOf (fld w 6 2)) (fld w 5 1 == 1) tl)
  | 0x86 => (tl10 w).bind fun tl =>
      need (zf w 12 22 && zf w 2 6) (.avec (xAd w) (xXa w) (fld w 0 2) tl)
  | 0x87 => (fmtOf (fld w 22 4)).bind fun fa => (fmtOf (fld w 18 4)).bind fun fb =>
      (swzOf (fld w 14 4)).bind fun sw => (tl10 w).bind fun tl =>
      need (zf w 12 2 && zf w 0 8) (.attn (xAd w) (xXa w) (xXb w) (xXs w) fa fb sw tl)
  | 0x88 => (fmtOf (fld w 22 4)).bind fun fa => (tl10 w).bind fun tl =>
      need (zf w 30 4 && zf w 12 10 && zf w 0 8) (.attnf (xAd w) (xXa w) (xXs w) fa tl)
  | 0x89 => (fmtOf (fld w 22 4)).bind fun fa => (fmtOf (fld w 18 4)).bind fun fb =>
      (swzOf (fld w 14 4)).bind fun sw => (tl10 w).bind fun tl =>
      need (zf w 26 4 && zf w 12 2 && zf w 0 8) (.amass (xAd w) (xXa w) (xXb w) fa fb sw tl)
  | 0x8A => (tl10 w).bind fun tl =>
      need (zf w 30 4 && zf w 12 14 && zf w 0 8) (.arstat (xAd w) (xXa w) (xXs w) tl)
  | 0x8B => (swzOf (fld w 14 4)).bind fun sw => (tl10 w).bind fun tl =>
      need (zf w 30 4 && zf w 18 8 && zf w 12 2 && zf w 0 8) (.alstat (xAd w) (xXa w) (xXs w) sw tl)
  | 0x8C => need (zf w 38 3 && zf w 0 34) (.abusy (xXa w))
  | _ => unassigned w

/-- The timeline operand of a class-11 word (17 R277). -/
def tl11 (w : Word) : Option (Option (BitVec 3)) :=
  if fld w 15 1 == 1 then some (some (fld w 26 3)) else if fld w 26 3 == 0 then some none else none

/-- The turnstile operand of a class-11 word (R277). -/
def ts11 (w : Word) : Option (Option (BitVec 6)) :=
  if fld w 14 1 == 1 then some (some (fld w 20 6)) else if fld w 20 6 == 0 then some none else none

/-- Timeline, turnstile and scope of a queued word (R277). -/
def tags11 (w : Word) : Option Tags :=
  (tl11 w).bind fun tl => (ts11 w).bind fun ts => some ⟨tl, ts, scopeOf (fld w 12 2)⟩

/-- The register fields of format C (R186). -/
abbrev cXm (w : Word) : BitVec 4 := fld w 37 4
abbrev cXs (w : Word) : BitVec 4 := fld w 33 4
abbrev cXt (w : Word) : BitVec 4 := fld w 29 4

/-- A collective word. -/
def decColl (w : Word) (mk : BitVec 4 → BitVec 4 → BitVec 4 → Tags → Instr) : Option Instr :=
  (tags11 w).bind fun t => need (zf w 16 4 && zf w 0 12) (mk (cXt w) (cXs w) (cXm w) t)

/-- Class 11 (R199, 17 R276, 21 R354). -/
def decClass3 (w : Word) : Option Instr :=
  match (fOpc w).toNat with
  | 0xC0 => (tags11 w).bind fun t =>
      need (zf w 16 4 && zf w 1 11) (.copy (if fld w 0 1 == 1 then .st else .ld) (cXt w) (cXm w) (cXs w) t)
  | 0xC1 => (tags11 w).bind fun t => need (zf w 16 4 && zf w 0 12) (.copyr (cXs w) (cXm w) (cXt w) t)
  | 0xC2 => (tags11 w).bind fun t =>
      need (zf w 33 4 && zf w 0 12) (.qfill (strmOf (fld w 18 2)) (fld w 16 2) (cXm w) (cXt w) t)
  | 0xC3 => need (zf w 26 15 && zf w 0 20) (.tsinit (fld w 20 6))
  | 0xC4 => need (zf w 37 4 && zf w 26 7 && zf w 0 20) (.tspost (fld w 20 6) (cXs w))
  | 0xC5 => (tl11 w).bind fun tl =>
      need (zf w 29 4 && zf w 16 10 && zf w 14 1 && zf w 0 12) (.tsarrive (cXm w) (cXs w) tl (scopeOf (fld w 12 2)))
  | 0xC6 => need (zf w 33 8 && zf w 26 3 && zf w 0 20) (.tsquery (cXt w) (fld w 20 6))
  | 0xC8 => need (zf w 33 8 && zf w 18 8 && zf w 0 16) (.tlquery (cXt w) (fld w 26 3) (fld w 16 2))
  | 0xC9 => need (zf w 0 37) (.cdecl (cXm w))
  | 0xCA => need (zf w 18 23 && zf w 0 16) (.crel (fld w 16 2))
  | 0xCB => need (zf w 33 8 && zf w 19 10 && zf w 0 16) (.cstat (cXt w) (fld w 16 2) (fld w 18 1 == 1))
  | 0xCC => (tl11 w).bind fun tl =>
      need (zf w 29 4 && zf w 19 7 && zf w 14 1 && zf w 0 12)
        (.wdecl (fld w 16 3) (cXm w) (cXs w) tl (scopeOf (fld w 12 2)))
  | 0xCD => (tags11 w).bind fun t => need (zf w 16 4 && zf w 0 12) (.wget (cXs w) (cXm w) (cXt w) t)
  | 0xCE => (tags11 w).bind fun t => need (zf w 16 4 && zf w 0 12) (.wown (cXs w) (cXm w) (cXt w) t)
  | 0xCF => (tags11 w).bind fun t => need (zf w 37 4 && zf w 16 4 && zf w 0 12) (.wput (cXs w) (cXt w) t)
  | 0xD0 => (tags11 w).bind fun t => need (zf w 37 4 && zf w 16 4 && zf w 0 12) (.wdrop (cXs w) (cXt w) t)
  | 0xD1 =>
    match credOf (fld w 16 4) with
    | some fn => (tags11 w).bind fun t => need (zf w 0 12) (.creduce fn (cXt w) (cXs w) (cXm w) t)
    | none => unassigned w
  | 0xD2 => decColl w .cgather
  | 0xD3 => decColl w .cbcast
  | 0xD4 => decColl w .cring
  | 0xD5 => decColl w .cmcast
  | 0xD6 => (tags11 w).bind fun t => need (zf w 16 4 && zf w 0 12) (.kvappend (cXt w) (cXm w) (cXs w) t)
  | 0xD7 => (tags11 w).bind fun t => need (zf w 29 8 && zf w 16 4 && zf w 0 12) (.kvref (cXm w) t)
  | 0xD8 => (tags11 w).bind fun t =>
      if fld w 16 4 == 0 then need (zf w 29 4 && zf w 0 12) (.kvsetRep (cXm w) (cXs w) t)
      else if fld w 16 4 == 1 then need (zf w 29 4 && zf w 0 12) (.kvsetMass (cXm w) (cXs w) t) else none
  | 0xD9 => (tags11 w).bind fun t => need (zf w 29 8 && zf w 16 4 && zf w 0 12) (.kvfree (cXm w) t)
  | 0xDA => (tags11 w).bind fun t =>
      match t.tl with
      | some tl => need (zf w 29 8 && zf w 16 4 && zf w 0 12) (.roust (cXm w) tl t.ts t.scope)
      | none => none
  | _ => unassigned w

/-- The operand part of a word (R195 to R199). -/
def decodeOp (w : Word) : Option Instr :=
  match (fld w 51 2).toNat with
  | 0 => decClass0 w
  | 1 => decClass1 w
  | 2 => decClass2 w
  | _ => decClass3 w

/-- Decoding: total on every word. An operand outside its legal set is refused by name (R184 checks 2 and 3). -/
def decode (w : Word) : Except DecodeErr IWord :=
  match decodeOp w with
  | none => .error .illegalOperand
  | some i =>
    match i with
    | .unassignedOpcode o ops => .ok ⟨fld w 54 10, fld w 53 1 == 1, fld w 42 3, fld w 41 1 == 1, .unassignedOpcode o ops⟩
    | i => if WellFormed i then .ok ⟨fld w 54 10, fld w 53 1 == 1, fld w 42 3, fld w 41 1 == 1, i⟩
           else .error .illegalOperand

/-- The host's probe: the instruction that the decoder reads from the bits w. -/
def decodeTableWord (_nbits w : Nat) : Option Instr :=
  match decode (BitVec.ofNat 64 w) with
  | .ok i => some i.op
  | .error _ => none

-- The encoder, from the same tables.

/-- COND codes (R190). -/
def condBits : Cond → BitVec 4
  | .eq => 0 | .ne => 1 | .lt => 2 | .ge => 3 | .ltu => 4 | .geu => 5 | .always => 6

/-- EF codes (R148, R149). -/
def fmtBits : Fmt → BitVec 4
  | .fp32 => 0 | .bf16 => 1 | .fp16 => 2 | .e4m3 => 3 | .e5m2 => 4 | .e2m1 => 5 | .i32 => 6 | .i16 => 7
  | .i8 => 8 | .u8 => 9 | .i4 => 10 | .u4 => 11 | .e8m0 => 12

/-- RM codes (R156). -/
def rmBits : RMode → BitVec 2
  | .rne => 0 | .rz => 1 | .rd => 2 | .ru => 3

/-- ORD codes (R116). -/
def ordBits : MOrd → BitVec 2
  | .rlx => 0 | .acq => 1 | .rel => 2 | .acqrel => 3

/-- SCOPE codes (R115). -/
def scopeBits : Scope → BitVec 2
  | .core => 0 | .die => 1 | .pkg => 2 | .pod => 3

/-- SZ codes (R242). -/
def szBits : Sz → BitVec 2
  | .b => 0 | .h => 1 | .w => 2 | .d => 3

/-- Stream codes (R222). -/
def strmBits : Strm → BitVec 2
  | .s => 0 | .v => 1 | .m => 2 | .c => 3

/-- SWZ codes (R89). -/
def swzBits : Swz → BitVec 4
  | .plain => 0 | .sk4 => 1 | .sk8 => 2 | .sk16 => 3 | .sk32 => 4

/-- SEL codes (R189). -/
def selBits : Sel → BitVec 5
  | .ext e => (0 : BitVec 1) ++ e
  | .loc => 16

/-- Source operand codes (R192). -/
def vsrcBits : VSrc → BitVec 6
  | .reg r => (0 : BitVec 1) ++ r
  | .pop q => (0b1000 : BitVec 4) ++ q
  | .peek q => (0b1001 : BitVec 4) ++ q
  | .rot k => (0b101 : BitVec 3) ++ k
  | .splat x => (0b110 : BitVec 3) ++ x

/-- Destination operand codes (R192). -/
def vdstBits : VDst → BitVec 6
  | .reg r => (0 : BitVec 1) ++ r
  | .rot k => (0b101 : BitVec 3) ++ k

/-- A one-bit field. -/
def bit (b : Bool) : BitVec 1 := BitVec.ofBool b

/-- Special register numbers of SRD (R194). -/
def sregBits : SReg → BitVec 29
  | .mode => 0x00 | .jobid => 0x01 | .coord => 0x02 | .stage => 0x03 | .gcc => 0x04 | .vshape => 0x05
  | .vrb => 0x06 | .vring => 0x07 | .trapvec => 0x08 | .trapcause => 0x09 | .trappc => 0x0A
  | .trapstream => 0x0B | .trapinfo => 0x0C | .beaconint => 0x0D | .ovp => 0x0E | .spillbase => 0x0F
  | .prio => 0x10 | .partition => 0x11 | .incarnation => 0x12
  | .qpop k => (0x8 : BitVec 27) ++ k
  | .qpeek k => (0x9 : BitVec 27) ++ k

/-- Special register numbers of SWR (R194). -/
def wregBits : WReg → BitVec 29
  | .vshape => 0x05 | .vrb => 0x06 | .vring => 0x07 | .trapvec => 0x08

/-- VCMP codes (R197). -/
def vcondBits : VCond → BitVec 5
  | .eq => 0 | .ne => 1 | .lt => 2 | .le => 3 | .gt => 4 | .ge => 5 | .unord => 6

/-- Reduction codes (R197). -/
def redBits : RedFn → BitVec 5
  | .sum => 0 | .max => 1 | .min => 2 | .argmax => 3 | .argmin => 4

/-- CREDUCE codes (R199). -/
def credBits : CredFn → BitVec 4
  | .sum => 0 | .max => 1 | .merge => 2

/-- Format K (R186). -/
def encK (xd xa xb : BitVec 4) (fn : BitVec 5) : BitVec 41 := xd ++ xa ++ xb ++ fn ++ (0 : BitVec 24)

/-- Format J (R186). -/
def encJ (xd xa fn : BitVec 4) (imm : BitVec 29) : BitVec 41 := xd ++ xa ++ fn ++ imm

/-- Format B (R186). -/
def encB (xa xb cond : BitVec 4) (off : BitVec 29) : BitVec 41 := xa ++ xb ++ cond ++ off

/-- Format M (R186). -/
def encM (xd xa : BitVec 4) (sel : Sel) (sz : Sz) (sx : Bool) (off : BitVec 25) : BitVec 41 :=
  xd ++ xa ++ selBits sel ++ szBits sz ++ bit sx ++ off

/-- Format A (R186). -/
def encA (xd xa xb xc : BitVec 4) (sel : Sel) (aop : BitVec 4) (dw : Bool) (ord : MOrd) (sc : Scope) : BitVec 41 :=
  xd ++ xa ++ xb ++ xc ++ selBits sel ++ aop ++ ((1 : BitVec 1) ++ bit dw) ++ ordBits ord ++ scopeBits sc ++
    (0 : BitVec 10)

/-- Format V (R186). -/
def encV (vd va vb vc : BitVec 6) (fn : BitVec 5) (ef : BitVec 4) (rm : BitVec 2) (sat brb : Bool)
    (m : BitVec 4) : BitVec 41 :=
  vd ++ va ++ vb ++ vc ++ fn ++ ef ++ rm ++ bit sat ++ bit brb ++ m

/-- Format V from EF, RM, SAT. -/
def encVF (vd va vb vc : BitVec 6) (fn : BitVec 5) (f : VFmt) (brb : Bool) (m : BitVec 4) : BitVec 41 :=
  encV vd va vb vc fn (fmtBits f.ef) (rmBits f.rm) f.sat brb m

/-- TLE and TL of a class-10 word (R318). -/
def tl10Bits : Option (BitVec 3) → BitVec 4
  | some t => (1 : BitVec 1) ++ t
  | none => 0

/-- Format X (R186); the flags below TL are given as 8 bits. -/
def encX (ad : BitVec 3) (xa xb xs fa fb swz : BitVec 4) (am : BitVec 2) (tl : Option (BitVec 3))
    (low : BitVec 8) : BitVec 41 :=
  ad ++ xa ++ xb ++ xs ++ fa ++ fb ++ swz ++ am ++ tl10Bits tl ++ low

/-- Format C (R186, R277). -/
def encC (xm xs xt : BitVec 4) (tl : Option (BitVec 3)) (ts : Option (BitVec 6)) (fn : BitVec 4) (sc : Scope)
    (low : BitVec 12) : BitVec 41 :=
  xm ++ xs ++ xt ++ tl.getD 0 ++ ts.getD 0 ++ fn ++ bit tl.isSome ++ bit ts.isSome ++ scopeBits sc ++ low

/-- Format C from the tags of R277. -/
def encCT (xm xs xt : BitVec 4) (t : Tags) (fn : BitVec 4) (low : BitVec 12) : BitVec 41 :=
  encC xm xs xt t.tl t.ts fn t.scope low

/-- Opcode and operand bits of an instruction word; an event has none and encodes as an unassigned opcode's row
would, with all operand bits zero. -/
def encodeOp : Instr → BitVec 8 × BitVec 41
  | .nop => (0x00, 0)
  | .br off => (0x01, encB 0 0 0 off)
  | .brc c xa xb off => (0x02, encB xa xb (condBits c) off)
  | .jmpx xd xa => (0x03, encK xd xa 0 0)
  | .call off => (0x04, encB 0 0 0 off)
  | .ret => (0x05, 0)
  | .loop xd imm => (0x06, encJ xd 0 0 imm)
  | .loopv xd imm => (0x07, encJ xd 0 0 imm)
  | .lbreak c xa xb off => (0x08, encB xa xb (condBits c) off)
  | .join => (0x09, 0)
  | .waitt tl xa imm => (0x0A, encJ 0 xa ((0 : BitVec 1) ++ tl) imm)
  | .waits ts xa inv => (0x0B, encJ 0 xa 0 ((0 : BitVec 22) ++ bit inv ++ ts))
  | .send t k xa => (0x0C, encK 0 xa 0 ((0 : BitVec 1) ++ strmBits t ++ k))
  | .srd xd r => (0x0D, encJ xd 0 0 (sregBits r))
  | .swr r xa => (0x0E, encJ 0 xa 0 (wregBits r))
  | .fence o sc => (0x0F, (0 : BitVec 27) ++ ordBits o ++ scopeBits sc ++ (0 : BitVec 10))
  | .beacon => (0x10, 0)
  | .yield xa xb => (0x11, encK 0 xa xb 0)
  | .stampw xd xa => (0x12, encK xd xa 0 0)
  | .trap xa imm => (0x13, encJ 0 xa 0 imm)
  | .tret xa => (0x14, encK 0 xa 0 0)
  | .nest xd xa => (0x15, encK xd xa 0 0)
  | .add xd xa xb => (0x20, encK xd xa xb 0)
  | .sub xd xa xb => (0x20, encK xd xa xb 1)
  | .and xd xa xb => (0x20, encK xd xa xb 2)
  | .or xd xa xb => (0x20, encK xd xa xb 3)
  | .xor xd xa xb => (0x20, encK xd xa xb 4)
  | .shl xd xa xb => (0x20, encK xd xa xb 5)
  | .shr xd xa xb => (0x20, encK xd xa xb 6)
  | .sra xd xa xb => (0x20, encK xd xa xb 7)
  | .min xd xa xb => (0x20, encK xd xa xb 8)
  | .max xd xa xb => (0x20, encK xd xa xb 9)
  | .minu xd xa xb => (0x20, encK xd xa xb 10)
  | .maxu xd xa xb => (0x20, encK xd xa xb 11)
  | .addi xd xa imm => (0x21, encJ xd xa 0 imm)
  | .andi xd xa imm => (0x21, encJ xd xa 1 imm)
  | .ori xd xa imm => (0x21, encJ xd xa 2 imm)
  | .xori xd xa imm => (0x21, encJ xd xa 3 imm)
  | .shli xd xa sh => (0x21, encJ xd xa 4 ((0 : BitVec 23) ++ sh))
  | .shri xd xa sh => (0x21, encJ xd xa 5 ((0 : BitVec 23) ++ sh))
  | .srai xd xa sh => (0x21, encJ xd xa 6 ((0 : BitVec 23) ++ sh))
  | .li xd imm => (0x22, xd ++ imm)
  | .lih xd imm => (0x23, xd ++ (0 : BitVec 10) ++ imm)
  | .mul xd xa xb => (0x24, encK xd xa xb 0)
  | .mulh xd xa xb => (0x24, encK xd xa xb 1)
  | .mulhu xd xa xb => (0x24, encK xd xa xb 2)
  | .div xd xa xb => (0x24, encK xd xa xb 3)
  | .divu xd xa xb => (0x24, encK xd xa xb 4)
  | .rem xd xa xb => (0x24, encK xd xa xb 5)
  | .remu xd xa xb => (0x24, encK xd xa xb 6)
  | .clz xd xa => (0x25, encJ xd xa 0 0)
  | .ctz xd xa => (0x25, encJ xd xa 1 0)
  | .popc xd xa => (0x25, encJ xd xa 2 0)
  | .bfx xd xa p w => (0x25, encJ xd xa 3 ((0 : BitVec 16) ++ w ++ p))
  | .bfi xd xa p w => (0x25, encJ xd xa 4 ((0 : BitVec 16) ++ w ++ p))
  | .cmp c pd xa xb => (0x26, pd ++ xa ++ xb ++ (0 : BitVec 1) ++ condBits c ++ (0 : BitVec 25))
  | .cmpi c pd xa imm => (0x26, pd ++ xa ++ (0 : BitVec 4) ++ (1 : BitVec 1) ++ condBits c ++ imm)
  | .pand pd pa pb => (0x27, encK ((0 : BitVec 1) ++ pd) ((0 : BitVec 1) ++ pa) ((0 : BitVec 1) ++ pb) 0)
  | .por pd pa pb => (0x27, encK ((0 : BitVec 1) ++ pd) ((0 : BitVec 1) ++ pa) ((0 : BitVec 1) ++ pb) 1)
  | .pxor pd pa pb => (0x27, encK ((0 : BitVec 1) ++ pd) ((0 : BitVec 1) ++ pa) ((0 : BitVec 1) ++ pb) 2)
  | .pnot pd pa => (0x27, encK ((0 : BitVec 1) ++ pd) ((0 : BitVec 1) ++ pa) 0 3)
  | .sel xd pk xa xb => (0x28, encK xd xa xb ((0 : BitVec 2) ++ pk))
  | .ld xd xa sel sz sx off => (0x30, encM xd xa sel sz sx off)
  | .st xd xa sel sz off => (0x31, encM xd xa sel sz false off)
  | .lda xd xa sel sz sx sc off => (0x32, encM xd xa sel sz sx (scopeBits sc ++ off))
  | .stl xd xa sel sz sc off => (0x33, encM xd xa sel sz false (scopeBits sc ++ off))
  | .atadd xd xa xb sel dw o sc => (0x34, encA xd xa xb 0 sel 0 dw o sc)
  | .atmin xd xa xb sel dw o sc => (0x34, encA xd xa xb 0 sel 1 dw o sc)
  | .atmax xd xa xb sel dw o sc => (0x34, encA xd xa xb 0 sel 2 dw o sc)
  | .atand xd xa xb sel dw o sc => (0x34, encA xd xa xb 0 sel 3 dw o sc)
  | .ator xd xa xb sel dw o sc => (0x34, encA xd xa xb 0 sel 4 dw o sc)
  | .atxor xd xa xb sel dw o sc => (0x34, encA xd xa xb 0 sel 5 dw o sc)
  | .atxchg xd xa xb sel dw o sc => (0x34, encA xd xa xb 0 sel 6 dw o sc)
  | .atcas xd xa xb xc sel dw o sc => (0x34, encA xd xa xb xc sel 7 dw o sc)
  | .atincb xd xa xc sel dw o sc => (0x34, encA xd xa 0 xc sel 8 dw o sc)
  | .atfadd xd xa xb sel o sc => (0x34, encA xd xa xb 0 sel 9 false o sc)
  | .vshape ef m => (0x40, encV 0 0 0 0 0 (fmtBits ef) 0 false false m)
  | .vld vd sel xa xc =>
    (0x41, encV (vdstBits vd) (vsrcBits (.splat xa)) ((0 : BitVec 1) ++ selBits sel) (vsrcBits (.splat xc)) 0 0 0
      false false 0)
  | .vst vs sel xa xc =>
    (0x42, encV (vsrcBits vs) (vsrcBits (.splat xa)) ((0 : BitVec 1) ++ selBits sel) (vsrcBits (.splat xc)) 0 0 0
      false false 0)
  | .vadd vd va vb brb f => (0x44, encVF (vdstBits vd) (vsrcBits va) (vsrcBits vb) 0 0 f brb 0)
  | .vsub vd va vb brb f => (0x44, encVF (vdstBits vd) (vsrcBits va) (vsrcBits vb) 0 1 f brb 0)
  | .vmul vd va vb brb f => (0x44, encVF (vdstBits vd) (vsrcBits va) (vsrcBits vb) 0 2 f brb 0)
  | .vmin vd va vb brb f => (0x44, encVF (vdstBits vd) (vsrcBits va) (vsrcBits vb) 0 3 f brb 0)
  | .vmax vd va vb brb f => (0x44, encVF (vdstBits vd) (vsrcBits va) (vsrcBits vb) 0 4 f brb 0)
  | .vabs vd va f => (0x44, encVF (vdstBits vd) (vsrcBits va) 0 0 5 f false 0)
  | .vneg vd va f => (0x44, encVF (vdstBits vd) (vsrcBits va) 0 0 6 f false 0)
  | .vfma vd va vb vc brb f => (0x45, encVF (vdstBits vd) (vsrcBits va) (vsrcBits vb) (vsrcBits vc) 0 f brb 0)
  | .vfms vd va vb vc brb f => (0x45, encVF (vdstBits vd) (vsrcBits va) (vsrcBits vb) (vsrcBits vc) 1 f brb 0)
  | .vfnma vd va vb vc brb f => (0x45, encVF (vdstBits vd) (vsrcBits va) (vsrcBits vb) (vsrcBits vc) 2 f brb 0)
  | .vand vd va vb brb ef => (0x46, encV (vdstBits vd) (vsrcBits va) (vsrcBits vb) 0 0 (fmtBits ef) 0 false brb 0)
  | .vor vd va vb brb ef => (0x46, encV (vdstBits vd) (vsrcBits va) (vsrcBits vb) 0 1 (fmtBits ef) 0 false brb 0)
  | .vxor vd va vb brb ef => (0x46, encV (vdstBits vd) (vsrcBits va) (vsrcBits vb) 0 2 (fmtBits ef) 0 false brb 0)
  | .vnot vd va ef => (0x46, encV (vdstBits vd) (vsrcBits va) 0 0 3 (fmtBits ef) 0 false false 0)
  | .vshl vd va vb brb ef => (0x46, encV (vdstBits vd) (vsrcBits va) (vsrcBits vb) 0 4 (fmtBits ef) 0 false brb 0)
  | .vshr vd va vb brb ef => (0x46, encV (vdstBits vd) (vsrcBits va) (vsrcBits vb) 0 5 (fmtBits ef) 0 false brb 0)
  | .vsra vd va vb brb ef => (0x46, encV (vdstBits vd) (vsrcBits va) (vsrcBits vb) 0 6 (fmtBits ef) 0 false brb 0)
  | .vcmp c vd va vb brb ef =>
    (0x47, encV (vdstBits vd) (vsrcBits va) (vsrcBits vb) 0 (vcondBits c) (fmtBits ef) 0 false brb 0)
  | .vsel vd va vb vc brb ef =>
    (0x48, encV (vdstBits vd) (vsrcBits va) (vsrcBits vb) (vsrcBits vc) 0 (fmtBits ef) 0 false brb 0)
  | .vexp2 vd va f => (0x49, encVF (vdstBits vd) (vsrcBits va) 0 0 0 f false 0)
  | .vexp vd va f => (0x49, encVF (vdstBits vd) (vsrcBits va) 0 0 1 f false 0)
  | .vlog2 vd va f => (0x49, encVF (vdstBits vd) (vsrcBits va) 0 0 2 f false 0)
  | .vrcp vd va f => (0x49, encVF (vdstBits vd) (vsrcBits va) 0 0 3 f false 0)
  | .vrsq vd va f => (0x49, encVF (vdstBits vd) (vsrcBits va) 0 0 4 f false 0)
  | .vsqrt vd va f => (0x49, encVF (vdstBits vd) (vsrcBits va) 0 0 5 f false 0)
  | .vtanh vd va f => (0x49, encVF (vdstBits vd) (vsrcBits va) 0 0 6 f false 0)
  | .vsigm vd va f => (0x49, encVF (vdstBits vd) (vsrcBits va) 0 0 7 f false 0)
  | .vsilu vd va f => (0x49, encVF (vdstBits vd) (vsrcBits va) 0 0 8 f false 0)
  | .vcvt vd va f p => (0x4A, encVF (vdstBits vd) (vsrcBits va) 0 0 0 f false ((0 : BitVec 1) ++ p))
  | .vpack vd va vb f => (0x4B, encVF (vdstBits vd) (vsrcBits va) (vsrcBits vb) 0 0 f false 0)
  | .vunpack vd va f h => (0x4C, encVF (vdstBits vd) (vsrcBits va) 0 0 0 f false ((0 : BitVec 3) ++ bit h))
  | .vredr fn vd va f => (0x4D, encVF (vdstBits vd) (vsrcBits va) 0 0 (redBits fn) f false 0)
  | .vredc fn vd va f => (0x4E, encVF (vdstBits vd) (vsrcBits va) 0 0 (redBits fn) f false 0)
  | .vbcast vd va m ef =>
    (0x4F, encV (vdstBits vd) (vsrcBits va) 0 0 0 (fmtBits ef) 0 false false ((0 : BitVec 3) ++ bit m))
  | .vmov vd va => (0x50, encV (vdstBits vd) (vsrcBits va) 0 0 0 0 0 false false 0)
  | .vtrans vd va ef => (0x51, encV (vdstBits vd) (vsrcBits va) 0 0 0 (fmtBits ef) 0 false false 0)
  | .vperm vd va vb brb ef => (0x52, encV (vdstBits vd) (vsrcBits va) (vsrcBits vb) 0 0 (fmtBits ef) 0 false brb 0)
  | .vsort vd va desc idx whole ef =>
    (0x53, encV (vdstBits vd) (vsrcBits va) 0 0 0 (fmtBits ef) 0 false false
      ((0 : BitVec 1) ++ bit whole ++ bit idx ++ bit desc))
  | .vscan vd va excl whole f =>
    (0x54, encVF (vdstBits vd) (vsrcBits va) 0 0 0 f false
      ((0 : BitVec 1) ++ bit whole ++ (0 : BitVec 1) ++ bit excl))
  | .viota vd xa ef sat => (0x55, encV (vdstBits vd) (vsrcBits (.splat xa)) 0 0 0 (fmtBits ef) 0 sat false 0)
  | .vbucket vd va vb m ef => (0x56, encV (vdstBits vd) (vsrcBits va) (vsrcBits vb) 0 0 (fmtBits ef) 0 false false m)
  | .vhist vd va acc ef =>
    (0x57, encV (vdstBits vd) (vsrcBits va) 0 0 0 (fmtBits ef) 0 false false ((0 : BitVec 3) ++ bit acc))
  | .vmxscale vd va ef rm => (0x58, encV (vdstBits vd) (vsrcBits va) 0 0 0 (fmtBits ef) (rmBits rm) false false 0)
  | .vchscale vd va vb mode ef =>
    (0x59, encV (vdstBits vd) (vsrcBits va) (vsrcBits vb) 0 0 (fmtBits ef) 0 false false ((0 : BitVec 2) ++ mode))
  | .vextr vd va vb ef => (0x5A, encV (vdstBits vd) (vsrcBits va) (vsrcBits vb) 0 0 (fmtBits ef) 0 false false 0)
  | .vins vd va vb ef => (0x5B, encV (vdstBits vd) (vsrcBits va) (vsrcBits vb) 0 0 (fmtBits ef) 0 false false 0)
  | .mma ad xa xb xs fa fb sw ovw neg tl =>
    (0x80, encX ad xa xb xs (fmtBits fa) (fmtBits fb) (swzBits sw) ((0 : BitVec 1) ++ bit ovw) tl
      ((0 : BitVec 3) ++ bit neg ++ (0 : BitVec 4)))
  | .mmat ad xa xb xs fa fb sw ovw neg tl =>
    (0x81, encX ad xa xb xs (fmtBits fa) (fmtBits fb) (swzBits sw) ((0 : BitVec 1) ++ bit ovw) tl
      ((0 : BitVec 3) ++ bit neg ++ (0 : BitVec 4)))
  | .aswap ad => (0x82, encX ((0 : BitVec 1) ++ ad) 0 0 0 0 0 0 0 none 0)
  | .azero ad tl => (0x83, encX ad 0 0 0 0 0 0 0 tl 0)
  | .ald ad xa xs fa sw tl => (0x84, encX ad xa 0 xs (fmtBits fa) 0 (swzBits sw) 0 tl 0)
  | .ast ad xa xs fa rm sat tl =>
    (0x85, encX ad xa 0 xs (fmtBits fa) 0 0 0 tl (rmBits rm ++ bit sat ++ (0 : BitVec 5)))
  | .avec ad xa q tl => (0x86, encX ad xa 0 0 0 0 0 0 tl ((0 : BitVec 6) ++ q))
  | .attn ad xa xb xs fa fb sw tl => (0x87, encX ad xa xb xs (fmtBits fa) (fmtBits fb) (swzBits sw) 0 tl 0)
  | .attnf ad xa xs fa tl => (0x88, encX ad xa 0 xs (fmtBits fa) 0 0 0 tl 0)
  | .amass ad xa xb fa fb sw tl => (0x89, encX ad xa xb 0 (fmtBits fa) (fmtBits fb) (swzBits sw) 0 tl 0)
  | .arstat ad xa xs tl => (0x8A, encX ad xa 0 xs 0 0 0 0 tl 0)
  | .alstat ad xa xs sw tl => (0x8B, encX ad xa 0 xs 0 0 (swzBits sw) 0 tl 0)
  | .abusy xa => (0x8C, encX 0 xa 0 0 0 0 0 0 none 0)
  | .copy dir xt xm xs t =>
    (0xC0, encCT xm xs xt t 0 (match dir with | .ld => 0 | .st => 1))
  | .copyr xs xm xt t => (0xC1, encCT xm xs xt t 0 0)
  | .qfill tgt k xm xt t => (0xC2, encCT xm 0 xt t (strmBits tgt ++ k) 0)
  | .tsinit ts => (0xC3, (0 : BitVec 15) ++ ts ++ (0 : BitVec 20))
  | .tspost ts xs => (0xC4, (0 : BitVec 4) ++ xs ++ (0 : BitVec 7) ++ ts ++ (0 : BitVec 20))
  | .tsarrive xm xs tl sc => (0xC5, encC xm xs 0 tl none 0 sc 0)
  | .tsquery xt ts => (0xC6, (0 : BitVec 8) ++ xt ++ (0 : BitVec 3) ++ ts ++ (0 : BitVec 20))
  | .tlquery xt tl f => (0xC8, (0 : BitVec 8) ++ xt ++ tl ++ (0 : BitVec 8) ++ f ++ (0 : BitVec 16))
  | .cdecl xm => (0xC9, xm ++ (0 : BitVec 37))
  | .crel c => (0xCA, (0 : BitVec 23) ++ c ++ (0 : BitVec 16))
  | .cstat xt c f => (0xCB, (0 : BitVec 8) ++ xt ++ (0 : BitVec 10) ++ bit f ++ c ++ (0 : BitVec 16))
  | .wdecl w xm xs tl sc => (0xCC, encC xm xs 0 tl none ((0 : BitVec 1) ++ w) sc 0)
  | .wget xs xm xt t => (0xCD, encCT xm xs xt t 0 0)
  | .wown xs xm xt t => (0xCE, encCT xm xs xt t 0 0)
  | .wput xs xt t => (0xCF, encCT 0 xs xt t 0 0)
  | .wdrop xs xt t => (0xD0, encCT 0 xs xt t 0 0)
  | .creduce fn xt xs xm t => (0xD1, encCT xm xs xt t (credBits fn) 0)
  | .cgather xt xs xm t => (0xD2, encCT xm xs xt t 0 0)
  | .cbcast xt xs xm t => (0xD3, encCT xm xs xt t 0 0)
  | .cring xt xs xm t => (0xD4, encCT xm xs xt t 0 0)
  | .cmcast xt xs xm t => (0xD5, encCT xm xs xt t 0 0)
  | .kvappend xt xm xs t => (0xD6, encCT xm xs xt t 0 0)
  | .kvref xm t => (0xD7, encCT xm 0 0 t 0 0)
  | .kvsetRep xm xs t => (0xD8, encCT xm xs 0 t 0 0)
  | .kvsetMass xm xs t => (0xD8, encCT xm xs 0 t 1 0)
  | .kvfree xm t => (0xD9, encCT xm 0 0 t 0 0)
  | .roust xm tl ts sc => (0xDA, encC xm 0 0 (some tl) ts 0 sc 0)
  | .unassignedOpcode opc ops => (opc, ops)
  | _ => (0xFF, 0)

/-- The word of an instruction (R177). -/
def encode (i : IWord) : Word :=
  i.slk ++ bit i.stp ++ (encodeOp i.op).1 ++ i.pg ++ bit i.pn ++ (encodeOp i.op).2

end Sys2Proof
end

