-- ==== Sys2Proof/Config.lean ====
section
/-! DEFINITION. What one implementation fixes and the spec leaves open: opaque constants, so that no proof can
learn a value of them (25_outside R412; log entries 11, 12, 14). -/

namespace Sys2Proof.Config

/-- The SHA3-512 digest of the vendor key that is fused into the package (R412). DESIGN CHOICE: no value given. -/
opaque fusedKeyDigest : List Byte

/-- The fused minimum security version (R412). DESIGN CHOICE: no value given. -/
opaque fusedMinSvn : Nat

/-- The seed of the device identity key (R412): fused at manufacture, it cannot be read. -/
opaque idSeed : List Byte

/-- The random bytes of a signature over a digest (R412): no value given. -/
opaque signRnd : List Byte → List Byte

/-- A signature over a digest where FIPS 204 lets the signer give up (R412): no value given. -/
opaque signStuck : List Byte → List Byte

/-- The image that lies in flash when the part leaves the factory (R412). -/
opaque factoryFlash : List Byte

/-- A free value: the n-th number that the spec leaves open (log entry 14). -/
opaque freeNat : Nat → Nat

/-- The byte at a peer-tier address in the n-th reading of it (log entry 14): another package's memory. -/
opaque peerByte : Nat → Nat → Byte

/-- The LPDDR frame, counted in frames, that the RM takes for its n-th duplicate of a page (07_ordering R138; log entry
14). -/
opaque dupFrame : Nat → Nat

/-- Whether the directory set of a line has no free line entry (07_ordering R136; log entry 13): the capacity of a
directory is not given. -/
opaque dirSetFull : Nat → Bool

/-- The bits of a register that is poisoned with an origin record (23 R376; log entry 14): no rule states them. -/
opaque poisonBits : Word → Word

/-- The bytes of a poisoned tile row (log entry 14). -/
opaque poisonRow : Word → Row

end Sys2Proof.Config
end

