-- ==== Sys2Proof/Machine/State.lean ====
section
/-! DEFINITION. The state of the machine as plain data: everything the spec gives the package, its dies, its cores
and their jobs, and the machine right after reset. -/

namespace Sys2Proof.Machine

/-- A cause code (23_faults R371). -/
abbrev Cause := BitVec 8

/-- An origin record of poison: cause in [63:57], address in [56:0] (R376). -/
abbrev Origin := Word

/-- Poison of a unit of memory: a cause recorded where it arose, or the origin record carried in by poisoned bytes
(R378). -/
inductive PoU where
  | raw (c : Cause)
  | carried (o : Origin)
deriving DecidableEq, Repr

/-- An x register: its value and, when it is poisoned, the origin record (R376). -/
structure XVal where
  v : Word
  po : Option Origin
deriving DecidableEq, Repr

/-- A predicate register (R376). -/
structure PVal where
  v : Bool
  po : Option Origin
deriving DecidableEq, Repr

/-- A row of a tile register or of a V queue entry, with its poison (15_vector R254). -/
structure VRow where
  v : Row
  po : Option Origin
deriving DecidableEq, Repr

/-- A tile: 16 rows of 128 bytes (R249). -/
abbrev Tile := Vector VRow 16

/-- An accumulator row: 64 words, the statistics m and l, the poison bit with the origin it came from (19 R315). -/
structure AccRowSt where
  w : AccRow
  m : BitVec 32
  l : BitVec 32
  po : Option Origin
deriving DecidableEq, Repr

/-- An accumulator bank: 128 rows (R315). -/
abbrev AccBank := Vector AccRowSt 128

/-- States of a turnstile (05_memory R101). -/
inductive TsState where
  | idle | armed | poisoned | overrun
deriving DecidableEq, Repr

/-- A turnstile, with the posts and arrivals of the present cycle, which take effect together (R101, R103); `decl` says
that a valid declaration of its carousel has set it anew in this cycle (R109). -/
structure Turnstile where
  st : TsState
  phase : Bool
  balance : Int
  cause : Cause
  post : Option Nat
  arr : Nat
  badPhase : Bool
  err : Option Cause
  init : Bool
  decl : Bool
deriving DecidableEq, Repr

/-- A timeline: ISSUED, DONE, FAILNUM, the failed command's cause, and the numbers above DONE that have completed
(R105, R107). -/
structure Timeline where
  issued : Nat
  done : Nat
  failnum : Nat
  cause : Cause
  above : List Nat
deriving DecidableEq, Repr

/-- States of a carousel slot (R113). -/
inductive SlotSt where
  | opened | ready | complete | poisoned
deriving DecidableEq, Repr

/-- A carousel: the fields of CDESC and CPTR, the slots, the releases that wait for outstanding reads, each by the
issue order of the last word of its CREL's cycle (`none` until that cycle ends), and what commands have resolved and has not become READY since: the issuing core, the slot, the
command's order of submission (R108 to R114, R297). -/
structure Carousel where
  decl : Bool
  autoarm : Bool
  firstts : Nat
  count : Nat
  lslot : Nat
  base : Nat
  rot : BitVec 32
  level : Nat
  tail : Nat
  head : Nat
  slots : Vector SlotSt 8
  rel : List (Option Nat)
  res : List (Nat × Nat × Nat)
deriving DecidableEq, Repr

/-- What a latency, an occupancy, an ownership or a pending exchange concerns (R211, R253, R323, R332). -/
inductive Rsc where
  | xreg (st : Strm) (r : BitVec 4)
  | preg (st : Strm) (r : BitVec 3)
  | vreg (r : BitVec 5)
  | vpipe | mempipe | p0 | p1 | sm | xf
  | accOwn (a : BitVec 3) (chain : Bool)
  | accRead (a : BitVec 3)
  | accSwap (a : BitVec 2)
deriving DecidableEq, Repr

/-- A resource is not usable before job cycle `due`; `pc` is the word that made it so; `h` when a trap handler
issued it, whose cycles are counted apart (13 R231). -/
structure Mark where
  rsc : Rsc
  due : Nat
  pc : Word
  h : Bool
deriving DecidableEq, Repr

/-- A scalar result not yet written: register, value and the cycle in which it is written (R211). -/
structure SRes where
  isP : Bool
  reg : BitVec 4
  val : XVal
  due : Nat
deriving DecidableEq, Repr

/-- A queue entry of S, M or C and the gcc from which it can be popped (13 R223). -/
structure QEnt where
  val : XVal
  avail : Nat
deriving DecidableEq, Repr

/-- A queue entry of V (15 R193). -/
structure TileEnt where
  tile : Tile
  avail : Nat
deriving DecidableEq, Repr

/-- Why a group is held or a job is frozen (03 R59 and the rules that add to it). -/
inductive Hold where
  | waiting | gload | stamp | queueFull | remote | carousel | postBuf | homeWrite | translation | kvappend
  | latency | stream | order | ended
deriving DecidableEq, Repr

/-- A stream: program counter, scalar files, results in flight, queues, earliest cycle of its next group (03 R57); `acq` is the
order at which it last acquired: the stores of its die ordered before are acquired with it (07 R119, R122). -/
structure Stream where
  started : Bool
  joined : Bool
  pc : Word
  x : Vector XVal 16
  p : Vector PVal 8
  pend : List SRes
  q : Vector (List QEnt) 4
  popped : Vector Nat 4
  nextAt : Nat
  tried : Nat
  held : Option (Hold × Nat)
  acq : Nat
deriving DecidableEq, Repr

/-- A vector word in flight: the rows it writes to vd in cycle `due` (15 R253, R274). -/
structure VecOp where
  ord : Nat
  vd : BitVec 5
  rows : List (Nat × VRow)
  due : Nat
deriving DecidableEq, Repr

/-- A scratchpad access that a word in flight makes in a later cycle: `data = none` reads 128 bytes into the row of
the vector word `ord`, otherwise the bytes are written (15 R257, 19 R323); `pc` is the word that makes it. -/
structure Move where
  ord : Nat
  strm : Strm
  due : Nat
  row : Nat
  addr : Nat
  data : Option (List Byte)
  po : Option Origin
  reads : Option (Nat × Nat)
  pc : Word
deriving DecidableEq, Repr

/-- A range of operand bytes that a matrix word reads byte by byte: local base and logical offset are resolved at
issue, `at` is the cycle of the read (R323). -/
structure OpRead where
  due : Nat
  key : Nat
  addr : Nat
  len : Nat
deriving DecidableEq, Repr

/-- A class-10 word in flight: what it reads in which cycle, the bytes captured so far, and when it completes. Its last
read lies before cycle `rdEnd`, `prod` is the carousel slot that its masses arrive on, `fin` says that it completes in
the present cycle, `landed` that it has read its operands and written its masses ahead of it, for a later word that
releases them (19 R326, R339; 07 R121), and `skip` lists bytes of its masses over which a later word of its stream has written (07
R117). -/
structure MatOp where
  ord : Nat
  pc : Word
  op : Instr
  xa : Word
  xs : Word
  adesc : List Byte
  pd : List Byte
  reads : List OpRead
  cap : Memory
  capPo : List (Nat × PoU)
  snap : List (Nat × AccRowSt)
  slots : List (Nat × Nat)
  prod : Option (Nat × Nat)
  rdEnd : Nat
  tl : Option (BitVec 3 × Nat)
  due : Nat
  fin : Bool
  landed : Bool
  skip : List Nat
deriving DecidableEq, Repr

/-- What a scalar access does that a clash has moved to the next cycle (03 R62): a load, or an atomic. -/
inductive LateOp where
  | load (sx : Bool)
  | atomic (aop : BitVec 4) (dw : Bool) (b c : Word)
deriving DecidableEq, Repr

/-- A scalar access to the scratchpad that a clash with the other word of its group has moved to cycle `due` (03 R62): its
order and that at which its group began, its bytes, the carousel slots that it arrives on and reads, and its result's register, 0 once a
later word has written it; `noP` says the same of p7. -/
structure Late where
  ord : Nat
  since : Nat
  strm : Strm
  due : Nat
  addr : Nat
  n : Nat
  prod : Option (Nat × Nat)
  cons : Option (Nat × Nat)
  reg : BitVec 4
  noP : Bool
  op : LateOp
deriving DecidableEq, Repr

/-- Kinds of a global access in flight (13 R212, R245, 15 R257); `spill` is a store that reaches the overflow page. -/
inductive GKind where
  | load (sz : Sz) (sx : Bool)
  | atomic (aop : BitVec 4) (dw : Bool) (b c : Word)
  | vrow (row off : Nat)
  | nest
  | spill
deriving DecidableEq, Repr

/-- A global access in flight: its target, its order, and its value once answered. Register 0 stands for a target that a
later word has written; `noP` says the same of p7. -/
structure GAcc where
  strm : Strm
  kind : GKind
  reg : BitVec 5
  va : Word
  pa : Nat
  len : Nat
  acq : Bool
  noP : Bool
  scope : Scope
  ord : Nat
  val : Option (List Byte × Option Origin)
deriving DecidableEq, Repr

/-- Scratchpad traffic of a word issued: the first cycle and how many there are, the stream, the banks it names, the bytes
in each bank group, the local addresses it moves, the word that moves it; `h` for a trap handler's (03 R61; 15 R257;
19 R325). -/
structure Traf where
  due : Nat
  len : Nat
  strm : Strm
  banks : List Nat
  g0 : Nat
  g1 : Nat
  addrs : List Nat
  pc : Word
  h : Bool
deriving DecidableEq, Repr

/-- The registers that a KVAPPEND will write when it completes: xt, and p7 unless a later word has written it (21 R359);
`h` for a trap handler's (13 R231). -/
structure KvRes where
  strm : Strm
  reg : BitVec 4
  ord : Nat
  noP : Bool
  h : Bool
deriving DecidableEq, Repr

/-- A pending freeze event of a lockstep job. -/
structure Frz where
  kind : Hold
  strm : Strm
deriving DecidableEq, Repr

/-- A command of the load or store queue (17_copy R278 to R282, 23 R384). `slot` is the carousel slot of a destination at
its own core, `rslots` and `rbase` those at other cores and where they begin, `srcSlot` that of its source; `ready` says
that a collective has read its sources into `data`; `ents` and `pool` are the block-table entries and the pool that a
KV-indirect copy has read, `holds` its holds, each by its pool, its slot and the address of the slot's descriptor; `words` are the source words that it has read and still uses, `cover` says which bytes of the
last units of memory it has written clean (07 R129; 23 R378); `cnt`, `full`, `refused`, `toks` and `refs` keep what a KV command has come to and what ROUST
read when it began (21 R358, R362, R365, R370); `acq` is the order at which its stream had last acquired (07 R120, R122). -/
structure Cmd where
  ord : Nat
  seq : Nat
  op : Instr
  raw : Word
  pc : Word
  strm : Strm
  iter : Nat
  part : BitVec 16
  xm : Word
  xs : Word
  xt : Word
  blk : List Byte
  blk2 : List Byte
  tl : Option (BitVec 3 × Nat)
  ts : Option (BitVec 6)
  phase : Bool
  rphase : List (Nat × Bool)
  scope : Scope
  frames : List (Nat × Nat)
  holds : List (Nat × Nat × Nat)
  inst : Nat
  slot : Option (Nat × Nat)
  rslots : List (Nat × Nat × Nat)
  begun : Bool
  total : Nat
  pos : Nat
  tagged : List Nat
  fail : Option Cause
  info : Word
  orphan : Bool
  src : Nat
  srcSlot : Option (Nat × Nat)
  dst : Nat
  rbase : List (Nat × Nat)
  ready : Bool
  data : List (Byte × Option PoU)
  ents : List (Nat × Word)
  pool : List Byte
  cnt : Nat
  full : Bool
  refused : Bool
  toks : List (Nat × Nat × Nat × Nat)
  refs : List (Nat × Nat)
  words : List (Nat × List (Byte × Option PoU))
  cover : List (Nat × BitVec 32)
  acq : Nat
deriving DecidableEq, Repr

/-- A global store in the posted-store buffer (07_ordering R123): at the die point, or received by the home and
waiting for the acknowledgements of the dies listed. `more` marks the second piece of a row that crosses into another
page, which takes no entry of its own. -/
structure PStore where
  ord : Nat
  strm : Strm
  seq : Nat
  iter : Nat
  arr : Nat
  pa : Nat
  data : List Byte
  rdup : Bool
  more : Bool
  atHome : Bool
  wait : BitVec 8
deriving DecidableEq, Repr

/-- A write that lands in the present cycle (07 R118): the rank of its writer, the order of the word that makes it (0 for an
engine's), whether it is an atomic's or the merge of a window copy, its bytes, and the 8-byte units of which an engine's command
has now written every byte clean (23 R378). -/
structure Land where
  rank : Nat
  ord : Nat
  atomic : Bool
  merge : Bool
  tag : BitVec 4
  tiles : List Nat
  bytes : List (Nat × Byte × Option PoU)
  whole : List Nat
deriving DecidableEq, Repr

/-- An operand declaration of a nest record (03 R46). -/
structure Decl where
  base : Word
  len : Word
  rd : Bool
  w : Bool
  pin : Bool
  stride : Vector (BitVec 32) 4
deriving DecidableEq, Repr

/-- A nest record's fields as accepted (03 R44, R45). -/
structure NestRec where
  va : Word
  part : BitVec 16
  stages : Nat
  walk : Vector (BitVec 2) 4
  ndim : Nat
  smask : BitVec 4
  gang : Bool
  persist : Bool
  prio : Nat
  lockstep : Bool
  bound : Vector Word 4
  dies : BitVec 8
  maxcores : Nat
  gangmask : BitVec 16
  entry : Vector Word 4
  carve : BitVec 32
  ovfva : Word
  vartab : Word
  beaconUs : BitVec 32
  budgetUs : BitVec 32
  donets : Word
  donecnt : BitVec 32
  tag : BitVec 32
  decl : Vector Decl 16
deriving DecidableEq, Repr

/-- An extent of a core: the job's window and the frames it is pinned to, as (VA page, frame) pairs (05 R92, R93). -/
structure Ext where
  base : Word
  len : Word
  rd : Bool
  w : Bool
  frames : List (Nat × Nat × Bool)
deriving DecidableEq, Repr

/-- A trap that a stream has met: its cause, trapinfo and trappc, where the stream goes on, and whether it is that of an
operation in flight, whose word does not issue again (23 R371 to R373). -/
structure TrapNote where
  strm : Strm
  cause : Cause
  info : Word
  pc : Word
  resume : Word
  flight : Bool
deriving DecidableEq, Repr

/-- Job states (03 R71); `none` is an empty context. -/
inductive JState where
  | none | queued | dispatched | running | frozen | trapped | suspended | preempted | draining | done | fenced
deriving DecidableEq, Repr

/-- A pre-emption request on a job (03 R75): the waiting launch, whether it is at level 7, the wall time. -/
structure PreReq where
  seq : Nat
  lvl7 : Bool
  since : Nat
deriving DecidableEq, Repr

/-- A save under way (03 R76, 13 R229): the slot, whether forced, the tiles it saves. -/
structure Saving where
  slot : Nat
  forced : Bool
  first : Nat
  count : Nat
deriving DecidableEq, Repr

/-- A scratchpad as a job or a save slot holds it. -/
structure SpadImg where
  bytes : Memory
  po : List (Nat × PoU)
  tags : List (Nat × BitVec 4)
deriving DecidableEq, Repr

/-- A job and everything its context holds (03 R57, R76; 13 R226; 23 R383). `sr0` is vshape, vrb, vring and trapvec as
they stood at the start of the cycle (13 R225); `tl0` and `car0` are the timelines and carousels so. `traps` are the traps met in
the present cycle, `stop` is the one that is taken as soon as every operation in flight has completed (23 R372, R373), and
`retStrm` the stream to which a TRET returns (13 R231); `wdog` is what the watchdog has found in
the present cycle, which ends the job as the cycle does (03 R73, R77). -/
structure Job where
  st : JState
  seq : Nat
  iter : Nat
  idx : Vector Word 4
  stage : Word
  nest : NestRec
  prio : Nat
  incarn : BitVec 32
  pkgnum : BitVec 11
  strm : Vector Stream 4
  jc : Nat
  hclk : Nat
  hNext : Nat
  t0 : Nat
  cycDone : Bool
  thawAt : Nat
  vq : Vector (List TileEnt) 4
  vpopped : Vector Nat 4
  vqRes : Vector Nat 4
  v : Vector Tile 32
  vsEf : BitVec 4
  vsRows : BitVec 5
  vrb : Word
  ringB : BitVec 5
  ringS : BitVec 5
  sr0 : Vector Word 4
  accW : Vector AccBank 8
  accV : Vector AccBank 4
  aswap : List (BitVec 2 × Nat × Nat)
  ops : List VecOp
  moves : List Move
  late : List Late
  mops : List MatOp
  marks : List Mark
  traffic : List Traf
  ts : Vector Turnstile 64
  tl : Vector Timeline 8
  tl0 : Vector Timeline 8
  car : Vector Carousel 4
  car0 : Vector Carousel 4
  ext : Vector Ext 16
  ovf : List (Nat × Nat × Bool)
  pins : List Nat
  trapvec : Word
  trapcause : Cause
  trappc : Word
  trapstrm : Strm
  trapinfo : Word
  trapResume : Word
  sResume : Word
  retStrm : Strm
  traps : List TrapNote
  stop : Option TrapNote
  tret : Option Word
  wasTrapped : Bool
  freeze : List Frz
  outs : List GAcc
  kvWait : List KvRes
  owed : List (Nat × Strm × Cause × Word × Word)
  beacon : Nat
  runtime : Nat
  wdog : Option Nat
  preq : Option PreReq
  saving : Option Saving
  channels : Vector Nat 16
  xlated : Bool
  faultPage : Option Nat
deriving DecidableEq, Repr

/-- States of a bound window tile copy (07 R132). -/
inductive WinSt where
  | i | s | e | o | m
deriving DecidableEq, Repr

/-- A bound tile copy: its home, its state, its dirty words as offsets in the tile (R132). -/
structure WinCopy where
  tile : Nat
  home : CoreIx
  homeTile : Nat
  st : WinSt
  dirty : List Nat
deriving DecidableEq, Repr

/-- A declared window of a core (R133, 17 R299). -/
structure WinRange where
  base : Nat
  len : Nat
deriving DecidableEq, Repr

/-- A request in service at a window home: who asks, for which home tile, what, the holders still to
answer, the incarnation of the asking die and the partition of its command (07 R141). -/
structure WinReq where
  req : CoreIx
  homeTile : Nat
  tile : Nat
  own : Bool
  probes : List CoreIx
  inc : BitVec 32
  part : BitVec 16
deriving DecidableEq, Repr

/-- A core (01_package R21). `inbox` holds remote bytes that wait for a frozen cycle (03 R59). `collEnds` holds the
instances of collectives, by channel and number, that have ended with an error before this core issued them
(17_copy R310). `icache` holds the lines of the instruction cache, the last fetched first; `ctxShown` what a CTX register
goes on showing until the cycle ends, once a journalled change has been made in it (24 R391); `ringFreed` the channels of the ring commands that have completed in the
present cycle (18 R314). -/
structure Core where
  spad : Memory
  spadPo : List (Nat × PoU)
  tags : List (Nat × BitVec 4)
  landing : List Land
  inbox : List Land
  ctx0 : Job
  ctx1 : Job
  runIx : Bool
  lq : List Cmd
  sq : List Cmd
  lqFreed : Nat
  sqFreed : Nat
  psb : List PStore
  win : Vector WinRange 8
  copies : List WinCopy
  winReqs : List WinReq
  collEnds : List (Nat × Nat × Cause)
  icache : List Nat
  ringFreed : List Nat
  ctxShown : Vector (Option (BitVec 4 × BitVec 48 × Word)) 2
deriving DecidableEq, Repr

/-- A line of a die cache (07 R123, R137). -/
structure CLine where
  line : Nat
  data : List Byte
  po : List (Nat × PoU)
  seq : BitVec 32
deriving DecidableEq, Repr

/-- A die translation cache entry (05 R99, 25 R401). -/
structure TlbEnt where
  part : BitVec 16
  page : Nat
  frame : Nat
  entry : Nat
  rd : Bool
  w : Bool
  rdup : Bool
deriving DecidableEq, Repr

/-- What a save slot holds (23 R385). -/
inductive SlotUse where
  | free
  | saved (seq iter : Nat)
  | capture (age : Nat)
deriving DecidableEq, Repr

/-- A compute die. `ackSeq` lists the invalidations that it has acknowledged of lines whose fill is on its way: the line, the
sequence, and the order at which it did (07 R137, R145). -/
structure Die where
  lines : List CLine
  pinned : List (Nat × Nat)
  tlb : List TlbEnt
  slots : List SlotUse
  ackSeq : List (Nat × BitVec 32 × Nat)
  roust : Option (Nat × Nat)
  incarn : BitVec 32
deriving DecidableEq, Repr

/-- A fill of a die cache: held at the home while a store to the line waits for acknowledgements (07 R123, R145); `inc` is
the home's incarnation, `part` the partition of the die (R141). -/
structure Fill where
  die : DieIx
  line : Nat
  sent : Bool
  data : List Byte
  po : List (Nat × PoU)
  seq : BitVec 32
  inc : BitVec 32
  part : BitVec 16
deriving DecidableEq, Repr

/-- An invalidation on its way to a die (R123, R137); `ord` names the store or the round it belongs to, `inc` is the home's
incarnation, `part` the partition for which the home sends it (R141). -/
structure Inval where
  die : DieIx
  line : Nat
  seq : BitVec 32
  ord : Nat
  inc : BitVec 32
  part : BitVec 16
deriving DecidableEq, Repr

/-- What a write that takes its turn in a page does: the posted store `ord` of a core, an atomic of one, bytes of a command of
one, or bytes that the host or another package writes, then with the package that waits for the answer and its own number for the
write (07 R139, R144). -/
inductive RdKind where
  | store
  | atomic (aop : BitVec 4) (dw : Bool) (b c : Word) (pa : Nat)
  | engine (bytes : List (Nat × Byte × Option PoU))
  | bytes (bytes : List (Nat × Byte × Option PoU)) (reply : Option (Nat × Nat))
  | farAtomic (aop : BitVec 4) (dw : Bool) (b c : Word) (pa : Nat) (pkg num : Nat)
deriving DecidableEq, Repr

/-- A write to a read-duplicated page held at the owner, or before its owner where the page is a duplicate (07 R139, R144).
`wait` lists the packages that have not yet acknowledged its round, once for each line, `dies` the dies of this package; `part` is the
writer's partition, `mask` the dies that it may probe (R143), and `ans` what the owner of a duplicate has answered to an atomic. -/
structure RdWrite where
  page : Nat
  core : CoreIx
  ord : Nat
  started : Bool
  wait : List Nat
  dies : BitVec 8
  part : BitVec 16
  mask : BitVec 8
  kind : RdKind
  ans : Option (List Byte × Bool)
deriving DecidableEq, Repr

/-- A duplicate of a peer package's page held here: the peer frame, the local frame, and the round of the owner from
which its bytes were fetched (R138, R139), with the bytes that writers of this package have changed since, and the lines that
an invalidation of the owner has made to be fetched again, each with the round of its new bytes. -/
structure Dup where
  peer : Nat
  frame : Nat
  gen : Nat
  chg : List (Nat × Byte)
  fresh : List (Nat × Nat)
deriving DecidableEq, Repr

/-- A launch accepted and not finished (03 R44 to R56). -/
structure Launch where
  seq : Nat
  nest : NestRec
  dies : BitVec 8
  total : Nat
  next : Vector Nat 8
  ended : Nat
  atWall : Nat
  pins : List (Nat × Nat)
  gangAt : Option Nat
  gangDone : List Nat
deriving DecidableEq, Repr

/-- A submission before the RM: by a function slot, by the NEST of a core, then with the order of the access that waits
for the answer (25 R398, 13 R232), or by another package, over the fabric (01 R13). -/
structure Submission where
  ord : Nat
  fn : Option (Fin 65 × Fin 16)
  core : Option Nat
  part : Option (BitVec 16)
  va : Word
  bytes : Option (List Byte)
  quiet : Bool
  far : Option Nat
deriving DecidableEq, Repr

/-- A PREEMPTED job: its context, where its state lies, its scratchpad (03 R76). -/
structure Parked where
  die : DieIx
  slot : Nat
  job : Job
  img : SpadImg
  cmdsL : List Cmd
  cmdsS : List Cmd
  since : Nat
deriving DecidableEq, Repr

/-- A partition entry (25 R405); `gone` once its function has been removed (R397). -/
structure Partition where
  valid : Bool
  priv : Bool
  owner : BitVec 8
  dies : BitVec 8
  id : BitVec 16
  root : BitVec 40
  clearing : Bool
  faults : List Nat
  gone : Bool
deriving DecidableEq, Repr

/-- A function page (25 R395) and its MSI-X state (R396). -/
structure FnPage where
  present : Bool
  substat : Vector Word 16
  winerr : Bool
  dwbase : Word
  invva : Word
  inv : Option (Word × Word)
  attnonce : List Byte
  attstat : BitVec 2
  attrep : List Byte
  mask : Vector Bool 4
  pend : Vector Bool 4
deriving DecidableEq, Repr

/-- Requests and completions that leave the endpoint: MSI-X messages and answers to data-window reads (R393, R400). -/
inductive PcieOut where
  | msix (fn : Nat) (vec : Nat)
  | readData (fn : Nat) (val : Word) (ep : Bool)
deriving DecidableEq, Repr

/-- What a message to another package says (07 R138 to R143; 17 R284, R290): bytes of a command, with its number and whether they are
its last; an arrival of one; the invalidation of a line and its acknowledgement; the registration of a duplicate; a store to the owner of
a page and an atomic there, each with a number; the word that it is ordered, and the old value of an atomic; bytes that a copy
read, or a line of a duplicate, as asked for under a number; a NOT_HELD answer; the answer to a submission. -/
inductive FabricSay where
  | bytes (addr : Nat) (data : List Byte) (cmd : Nat) (last : Bool)
  | arrive (name : Word) (n : Nat) (cmd : Nat) (last : Bool)
  | inval (line : Nat)
  | ack (line : Nat)
  | register (page : Nat)
  | store (addr : Nat) (data : List Byte) (ord : Nat)
  | atomic (addr : Nat) (aop : BitVec 4) (dw : Bool) (b c : Word) (ord : Nat)
  | ordered (ord : Nat)
  | answer (ord : Nat) (old : List Byte) (po : Bool)
  | data (num : Nat) (bytes : List Byte) (po : Bool)
  | notHeld
  | submitted (val : Word)
deriving DecidableEq, Repr

/-- A message to another package: the package, this one's incarnation, the partition ID (07 R141), what it says. -/
structure FabricOut where
  pkg : Nat
  inc : BitVec 32
  part : BitVec 16
  say : FabricSay
deriving DecidableEq, Repr

/-- What a message of another package asks (07 R138 to R143; 17 R284, R290, R294; 01 R13): bytes of a command, by its number, for a core's
scratchpad, under a turnstile, `last` for the last of them; bytes for memory; an arrival; a holder's registration; a store to a page that
this package owns, and an atomic on one; an acknowledgement of a round; the owner's invalidation of a line that is duplicated here; the
owner's word that a store of this package is ordered, or its answer to an atomic; bytes of memory or of a core's scratchpad that a copy
reads; a line of a page that the sender has duplicated; a launch. -/
inductive FabricAsk where
  | land (core : CoreIx) (addr : Nat) (data : List Byte) (ts : Option (BitVec 6)) (cmd : Nat) (last : Bool)
  | write (addr : Nat) (data : List Byte)
  | arrive (core : CoreIx) (ts : BitVec 6) (n : Nat) (cmd : Nat) (last : Bool)
  | register (page : Nat)
  | store (addr : Nat) (data : List Byte) (ord : Nat)
  | atomic (addr : Nat) (aop : BitVec 4) (dw : Bool) (b c : Word) (ord : Nat)
  | ack (line : Nat)
  | inval (line : Nat)
  | ordered (ord : Nat)
  | answer (ord : Nat) (old : List Byte) (po : Bool)
  | read (addr : Nat) (n : Nat) (num : Nat)
  | fetch (line : Nat) (num : Nat)
  | submit (va : Word) (bytes : List Byte)
deriving DecidableEq, Repr

/-- The phase in which a turnstile of a core stood when the first message of a command of another package reached it (17 R284). -/
structure FarPhase where
  pkg : Nat
  cmd : Nat
  core : CoreIx
  ts : BitVec 6
  phase : Bool
deriving DecidableEq, Repr

/-- A message of another package: the sender, its incarnation and partition ID, what it asks (07 R141; 25 R407). -/
structure FabricIn where
  pkg : Nat
  inc : BitVec 32
  part : BitVec 16
  ask : FabricAsk
deriving DecidableEq, Repr

/-- States of BOOTSTAT (25 R413). -/
inductive Boot where
  | check | wait | load | ready | halt
deriving DecidableEq, Repr

/-- Whose turn it is (02 and 95; the order of agents is the model's own data, log entry 2). -/
inductive Turn where
  | issue (core : CoreIx) (st : Strm)
  | cycle (core : CoreIx)
  | event (e : Instr)
  | fabric (m : FabricIn)
  | tick
deriving DecidableEq, Repr

/-- What became of the word being issued. -/
inductive Out where
  | done
  | hold (h : Hold) (info : Nat)
  | trapped (cause : Cause) (info : Word) (pc : Word)
deriving DecidableEq, Repr

/-- The word being issued: core, stream, address of the group, of the word and of the next group, the word, and what
became of it; the order and the traffic of the job at which its group began, which tell what is earlier than the group
(log entry 63). The model's own. -/
structure Cur where
  core : CoreIx
  strm : Strm
  gpc : Word
  wpc : Word
  next : Word
  raw : Word
  out : Out
  qheads : List (Nat × XVal)
  vheads : List (Nat × Tile)
  since : Nat
  traf0 : Nat
deriving DecidableEq, Repr

/-- The package. `fabricIn` are messages of other packages that wait for a cycle in which they can act, `fabricInc` the
incarnations recorded for their senders, `farPhases` the phases at which their commands' first messages found turnstiles;
`holdRounds` the invalidations of owners that the die caches have still to
acknowledge, each with its number, package, line and partition (07 R140, R141). `homeOrder` lists, for a line, the core whose atomic was
performed last in this cycle (14 R248), `kvWaits` the KV commands that wait, in order of arrival (21 R350, R365). -/
structure State where
  gcc : Nat
  power : Bool
  boot : Boot
  fails : BitVec 8
  wall : Nat
  pmode : BitVec 2
  preq : BitVec 2
  pend : Option (Nat × BitVec 2)
  diesvc : BitVec 8
  shellsvc : BitVec 8
  pkgnum : BitVec 11
  coresvc : BitVec 128
  defectsig : Word
  grace : BitVec 32
  ageint : BitVec 32
  saveBase : Vector (BitVec 31) 8
  saveSlots : Vector (BitVec 8) 8
  jrnlBase : BitVec 40
  logn : BitVec 6
  jrnlNext : Nat
  parts : Vector Partition 8
  porten : BitVec 18
  fabPkg : BitVec 11
  fabDone : Bool
  portup : BitVec 18
  ringup : BitVec 8
  incarn : BitVec 32
  mem : Memory
  memPo : List (Nat × Option PoU)
  seqs : List (Nat × BitVec 32)
  dir : List (Nat × BitVec 8)
  regions : List (Nat × BitVec 8)
  fills : List Fill
  invals : List Inval
  rdWrites : List RdWrite
  dups : List Dup
  holders : List (Nat × List Nat)
  launches : List Launch
  subs : List Submission
  parked : List Parked
  fns : Vector FnPage 65
  phys : Bool
  pteAddr : BitVec 49
  pteData : Word
  pteBad : Bool
  pteHeld : Bool
  pteBusy : Option (BitVec 2)
  pcieOut : List PcieOut
  flash : List Byte
  recLen : Option Word
  fwDigest : List Byte
  fwSvn : BitVec 32
  fabricOut : List FabricOut
  fabricIn : List FabricIn
  fabricInc : List (Nat × BitVec 32)
  farPhases : List FarPhase
  holdRounds : List (Nat × Nat × Nat × BitVec 16)
  homeOrder : List (Nat × Nat)
  kvWaits : List (Nat × Nat)
  dies : Vector Die 8
  cores : Vector Core 128
  turns : List Turn
  cur : Cur
  ord : Nat
  free : Nat
deriving DecidableEq, Repr

/-- Why the machine cannot take a step. -/
inductive Fault where
  /-- Raised by `step` when the package has no power: all state is lost and nothing runs (01_package R37). Safe. -/
  | noPower
deriving DecidableEq, Repr

/-- Why an instruction has no meaning. -/
inductive Refusal where
  /-- Raised by an arm of `exec` whose instruction has no meaning yet. Safe. -/
  | notModelled (mnemonic : String)
deriving DecidableEq, Repr

-- The machine after reset.

/-- A clean x register. -/
def XVal.clean (v : Word) : XVal := ⟨v, none⟩

/-- A clean predicate. -/
def PVal.clean (b : Bool) : PVal := ⟨b, none⟩

/-- DESIGN CHOICE (log entry 6): a tile register at T0 is zero and clean; the spec gives no value. -/
def Tile.zero : Tile := Vector.replicate 16 ⟨0, none⟩

/-- A row of an accumulator at T0 (19 R315). -/
def AccRowSt.zero : AccRowSt := ⟨0, 0xFF800000, 0, none⟩

/-- A bank at T0 (R315). -/
def AccBank.zero : AccBank := Vector.replicate 128 AccRowSt.zero

/-- A turnstile at T0 (R101). -/
def Turnstile.zero : Turnstile := ⟨.idle, false, 0, 0, none, 0, false, none, false, false⟩

/-- A timeline at T0 (R105). -/
def Timeline.zero : Timeline := ⟨0, 0, 0, 0, []⟩

/-- An undeclared carousel (R108). -/
def Carousel.zero : Carousel :=
  ⟨false, false, 0, 0, 0, 0, 0, 0, 0, 0, Vector.replicate 8 .opened, [], []⟩

/-- A stream at T0 but for its entry and its index registers (03 R57). -/
def Stream.zero : Stream :=
  { started := false, joined := false, pc := 0, x := Vector.replicate 16 (XVal.clean 0),
    p := Vector.replicate 8 (PVal.clean false), pend := [], q := Vector.replicate 4 [],
    popped := Vector.replicate 4 0, nextAt := 0, tried := 0, held := none, acq := 0 }

/-- A declaration that leaves its extent unused. -/
def Decl.zero : Decl := ⟨0, 0, false, false, false, Vector.replicate 4 0⟩

/-- An empty record, for a context that holds no job. -/
def NestRec.zero : NestRec :=
  { va := 0, part := 0, stages := 0, walk := Vector.replicate 4 0, ndim := 0, smask := 0, gang := false,
    persist := false, prio := 0, lockstep := false, bound := Vector.replicate 4 0, dies := 0, maxcores := 0,
    gangmask := 0, entry := Vector.replicate 4 0, carve := 0, ovfva := 0, vartab := 0, beaconUs := 0,
    budgetUs := 0, donets := 0, donecnt := 0, tag := 0, decl := Vector.replicate 16 Decl.zero }

/-- An extent of length 0. -/
def Ext.zero : Ext := ⟨0, 0, false, false, []⟩

/-- A context that holds no job; its job part has the values of T0 (03 R57). -/
def Job.zero : Job :=
  { st := .none, seq := 0, iter := 0, idx := Vector.replicate 4 0, stage := 0, nest := NestRec.zero, prio := 0,
    incarn := 0, pkgnum := 0, strm := Vector.replicate 4 Stream.zero, jc := 0, hclk := 0, hNext := 0, t0 := 0,
    cycDone := false, thawAt := 0, vq := Vector.replicate 4 [], vpopped := Vector.replicate 4 0,
    vqRes := Vector.replicate 4 0, v := Vector.replicate 32 Tile.zero, vsEf := 0, vsRows := 16, vrb := 0,
    ringB := 0, ringS := 1, sr0 := #v[0x10, 0, 0x100, 0], accW := Vector.replicate 8 AccBank.zero, accV := Vector.replicate 4 AccBank.zero,
    aswap := [], ops := [], moves := [], late := [], mops := [], marks := [], traffic := [],
    ts := Vector.replicate 64 Turnstile.zero, tl := Vector.replicate 8 Timeline.zero,
    tl0 := Vector.replicate 8 Timeline.zero, car := Vector.replicate 4 Carousel.zero,
    car0 := Vector.replicate 4 Carousel.zero, ext := Vector.replicate 16 Ext.zero, ovf := [], pins := [],
    trapvec := 0, trapcause := 0, trappc := 0, trapstrm := .s, trapinfo := 0, trapResume := 0, sResume := 0, retStrm := .s, traps := [],
    stop := none, tret := none,
    wasTrapped := false, freeze := [], outs := [], kvWait := [], owed := [], beacon := 0,
    runtime := 0, wdog := none, preq := none, saving := none, channels := Vector.replicate 16 0,
    xlated := false, faultPage := none }

/-- A core whose domain has just been released (01 R36; 05 R88: tags 0). DESIGN CHOICE (log entry 4): scratchpad
bytes read 0 and no word is poisoned; the spec gives no contents. -/
def Core.zero : Core :=
  { spad := [], spadPo := [], tags := [], landing := [], inbox := [], ctx0 := Job.zero, ctx1 := Job.zero, runIx := false,
    lq := [], sq := [], lqFreed := 0, sqFreed := 0, psb := [],
    win := Vector.replicate 8 ⟨0, 0⟩, copies := [], winReqs := [], collEnds := [],
    icache := [], ringFreed := [], ctxShown := Vector.replicate 2 none }

/-- A die whose memory shell and cores domain have just been released (01 R36). -/
def Die.zero : Die :=
  { lines := [], pinned := [], tlb := [], slots := [], ackSeq := [], roust := none, incarn := 0 }

/-- A partition entry after the package reset (25 R405). -/
def Partition.zero : Partition :=
  { valid := false, priv := false, owner := 0xFF, dies := 0, id := 0, root := 0, clearing := false, faults := [],
    gone := false }

/-- A function page after reset (R395). PRESUMED (log entry 30): the MSI-X vectors are masked, as PCI Express resets
them. -/
def FnPage.zero : FnPage :=
  { present := false, substat := Vector.replicate 16 0, winerr := false, dwbase := 0, invva := 0, inv := none,
    attnonce := List.replicate 64 0, attstat := 0, attrep := [], mask := Vector.replicate 4 true,
    pend := Vector.replicate 4 false }

/-- No word is being issued. -/
def Cur.zero : Cur := ⟨0, .s, 0, 0, 0, 0, .done, [], [], 0, 0⟩

/-- The machine right after the package reset is released: bring-up has not begun (25 R414 step 1), every register
at the value its Reset column gives. -/
def State.reset : State :=
  { gcc := 0, power := true, boot := .check, fails := 0, wall := 0, pmode := 0b10, preq := 0b10, pend := none,
    diesvc := 0xFF, shellsvc := 0xFF, pkgnum := 0, coresvc := BitVec.allOnes 128, defectsig := 0,
    grace := 0x32, ageint := 0x3E8, saveBase := Vector.replicate 8 0, saveSlots := Vector.replicate 8 0,
    jrnlBase := 0, logn := 0, jrnlNext := 1, parts := Vector.replicate 8 Partition.zero, porten := 0, fabPkg := 0,
    fabDone := false, portup := 0, ringup := 0xFF, incarn := 0, mem := [], memPo := [], seqs := [], dir := [],
    regions := [], fills := [], invals := [], rdWrites := [], dups := [], holders := [], launches := [],
    subs := [], parked := [],
    fns := (Vector.replicate 65 FnPage.zero).set 0 { FnPage.zero with present := true }, phys := false,
    pteAddr := 0, pteData := 0, pteBad := false, pteHeld := false, pteBusy := none, pcieOut := [],
    flash := Config.factoryFlash, recLen := none, fwDigest := [], fwSvn := 0, fabricOut := [],
    fabricIn := [], fabricInc := [], farPhases := [], holdRounds := [], homeOrder := [], kvWaits := [], dies := Vector.replicate 8 Die.zero, cores := Vector.replicate 128 Core.zero, turns := [], cur := Cur.zero,
    ord := 1, free := 0 }

end Sys2Proof.Machine
end

