-- ==== Sys2Proof/Machine/Mem.lean ====
section
/-! DEFINITION. Sparse memories in their one canonical form, and small tables kept as lists of pairs. -/

namespace Sys2Proof

/-- Addresses strictly rising from `lo` on and no cell holding zero. -/
def Memory.wfFrom : Nat → Memory → Bool
  | _, [] => true
  | lo, (a, b) :: m => decide (lo ≤ a) && b != 0 && Memory.wfFrom (a + 1) m

/-- The canonical form: addresses strictly rising, no cell holding what an unlisted address reads as (zero). -/
def Memory.wf (m : Memory) : Bool := m.wfFrom 0

/-- One byte (R2); an unlisted address reads as zero (log entry 4). -/
def Memory.get : Memory → Nat → Byte
  | [], _ => 0
  | (a, b) :: m, x => if x = a then b else if x < a then 0 else Memory.get m x

/-- Write one byte, keeping the canonical form. -/
def Memory.put : Memory → Nat → Byte → Memory
  | [], x, v => if v = 0 then [] else [(x, v)]
  | (a, b) :: m, x, v =>
    if x < a then (if v = 0 then (a, b) :: m else (x, v) :: (a, b) :: m)
    else if x = a then (if v = 0 then m else (a, v) :: m)
    else (a, b) :: Memory.put m x v

/-- n bytes from address a upward (R2). -/
def Memory.read (m : Memory) (a n : Nat) : List Byte := (List.range n).map fun i => m.get (a + i)

/-- Bytes written from address a upward (R2). -/
def Memory.write (m : Memory) (a : Nat) : List Byte → Memory
  | [] => m
  | b :: bs => Memory.write (m.put a b) (a + 1) bs

namespace Machine

/-- The entry under a key of a table kept as a list of pairs. -/
def alGet {β : Type} (l : List (Nat × β)) (k : Nat) : Option β := (l.find? fun e => e.1 == k).map Prod.snd

/-- A table without the key. -/
def alDel {β : Type} (l : List (Nat × β)) (k : Nat) : List (Nat × β) := l.filter fun e => e.1 != k

/-- A table with the key set. -/
def alSet {β : Type} (l : List (Nat × β)) (k : Nat) (v : β) : List (Nat × β) := (k, v) :: alDel l k

end Machine

end Sys2Proof
end

