-- ==== Sys2Proof/Machine/Num.lean ====
section
/-! DEFINITION. Number formats and arithmetic (09_arithmetic R148 to R176): exact values, one rounding, element
operations, sums, the reference exponential and the special functions. -/

namespace Sys2Proof

/-- Width w of the M field (R148). -/
def Fmt.man : Fmt → Nat
  | .fp32 => 23 | .bf16 => 7 | .fp16 => 10 | .e4m3 => 3 | .e5m2 => 2 | .e2m1 => 1 | _ => 0

/-- Exponent bias (R148). -/
def Fmt.bias : Fmt → Int
  | .fp32 | .bf16 => 127 | .fp16 | .e5m2 => 15 | .e4m3 => 7 | .e2m1 => 1 | _ => 0

/-- The code of the largest finite magnitude (R148). -/
def Fmt.maxCode : Fmt → Nat
  | .fp32 => 0x7F7FFFFF | .bf16 => 0x7F7F | .fp16 => 0x7BFF | .e4m3 => 0x7E | .e5m2 => 0x7B | .e2m1 => 7 | _ => 0

/-- The canonical NaN (R160); E2M1 has none. -/
def Fmt.qnan : Fmt → Nat
  | .fp32 => 0x7FC00000 | .bf16 => 0x7FC0 | .fp16 => 0x7E00 | .e4m3 => 0x7F | .e5m2 => 0x7F | .e8m0 => 0xFF
  | _ => 0

/-- A floating-point format of R148. -/
def Fmt.isFloat : Fmt → Bool
  | .fp32 | .bf16 | .fp16 | .e4m3 | .e5m2 | .e2m1 => true
  | _ => false

end Sys2Proof

namespace Sys2Proof.Machine

/-- An exact value: NaN, an infinity, or (-1)^neg * m * 2^e, zeros keeping their sign (R148). -/
inductive FV where
  | nan
  | inf (neg : Bool)
  | fin (neg : Bool) (m : Nat) (e : Int)
deriving DecidableEq, Repr

/-- 2^k as a natural number. -/
abbrev p2 (k : Nat) : Nat := 2 ^ k

/-- The value of an E8M0 code (R149). -/
def fvE8m0 (c : Nat) : FV := if c % 256 == 255 then .nan else .fin false 1 ((c % 256 : Nat) - 127)

/-- The value of a floating-point code (R148). -/
def fvOf (f : Fmt) (c : Nat) : FV :=
  if f == .e8m0 then fvE8m0 c else
  let c := c % p2 f.width
  let w := f.man
  let neg := c ≥ p2 (f.width - 1)
  let mag := c % p2 (f.width - 1)
  let m := mag % p2 w
  let e := mag / p2 w
  if mag > f.maxCode then
    if f == .e4m3 || m != 0 then .nan else .inf neg
  else if e == 0 then .fin neg m (1 - f.bias - w)
  else .fin neg (p2 w + m) (e - f.bias - w)

/-- The value of an integer code (R149). -/
def intOf (f : Fmt) (c : Nat) : Int :=
  let c := c % p2 f.width
  if f.signed && c ≥ p2 (f.width - 1) then (c : Int) - p2 f.width else c

/-- Quotient of naturals rounded to a natural under RM for a value of sign `neg` (R156). -/
def roundDiv (rm : RMode) (neg : Bool) (n d : Nat) : Nat :=
  let q := n / d
  let r := n % d
  if r == 0 then q else
  match rm with
  | .rz => q
  | .rd => if neg then q + 1 else q
  | .ru => if neg then q else q + 1
  | .rne => if 2 * r > d || (2 * r == d && q % 2 == 1) then q + 1 else q

/-- ⌊log2 (n / d)⌋ for positive n and d. -/
def flog2 (n d : Nat) : Int :=
  let x : Int := (Nat.log2 n : Int) - Nat.log2 d
  -- the estimate is right or one too high
  if x ≥ 0 then (if n ≥ d * p2 x.toNat then x else x - 1)
  else (if n * p2 (-x).toNat ≥ d then x else x - 1)

/-- What a result above the largest finite value becomes (R157). -/
def overflow (f : Fmt) (rm : RMode) (sat neg : Bool) : Nat :=
  match f with
  | .e2m1 => f.maxCode
  | .e4m3 => if sat then f.maxCode else f.qnan
  | _ =>
    if sat then f.maxCode else
    match rm with
    | .rne => f.maxCode + 1
    | .rz => f.maxCode
    | .rd => if neg then f.maxCode + 1 else f.maxCode
    | .ru => if neg then f.maxCode else f.maxCode + 1

/-- A magnitude code with its sign; a NaN code takes none. -/
def withSign (f : Fmt) (neg : Bool) (code : Nat) : Nat :=
  if neg && !(code == f.qnan && f != .e2m1) then code + p2 (f.width - 1) else code

/-- Round of (-1)^neg * n / d * 2^e into format f (R157), n > 0 and d > 0. -/
def roundQ (f : Fmt) (rm : RMode) (sat neg : Bool) (n d : Nat) (e : Int) : Nat :=
  let w := f.man
  let emin : Int := 1 - f.bias - w
  let x := flog2 n d + e
  let q := max (x - w) emin
  let sh := e - q
  let k := if sh ≥ 0 then roundDiv rm neg (n * p2 sh.toNat) d else roundDiv rm neg n (d * p2 (-sh).toNat)
  let code := (q - emin).toNat * p2 w + k
  withSign f neg (if code > f.maxCode then overflow f rm sat neg else code)

/-- Round (R157). E2M1 has no code for NaN or an infinity; there the block scale carries it (R153). -/
def roundFV (f : Fmt) (rm : RMode) (sat : Bool) : FV → Nat
  | .nan => f.qnan
  | .inf neg =>
    match f with
    | .e4m3 => f.qnan
    | .e2m1 => 0
    | _ => withSign f neg (f.maxCode + 1)
  | .fin neg m e => if m == 0 then withSign f neg 0 else roundQ f rm sat neg m 1 e

/-- Fit: wrap or clamp an exact integer to an integer format (R162). -/
def fitInt (f : Fmt) (sat : Bool) (v : Int) : Nat :=
  let w := f.width
  let lo : Int := if f.signed then -(p2 (w - 1) : Int) else 0
  let hi : Int := if f.signed then p2 (w - 1) - 1 else p2 w - 1
  let v := if sat then max lo (min hi v) else v
  (v % (p2 w : Int)).toNat

/-- An integer as an exact value. -/
def fvInt (v : Int) : FV := .fin (v < 0) v.natAbs 0

/-- Signed scaled magnitude: the integer whose product with 2^e is the value. -/
def sgn (neg : Bool) (m : Nat) : Int := if neg then -(m : Int) else m

/-- Exact sum; an exact zero sum of opposite signs is +0, and −0 in RD (R159, R161). -/
def fvAdd (rm : RMode) : FV → FV → FV
  | .nan, _ => .nan
  | _, .nan => .nan
  | .inf a, .inf b => if a == b then .inf a else .nan
  | .inf a, _ => .inf a
  | _, .inf b => .inf b
  | .fin s m e, .fin t n f =>
    let g := min e f
    let v := sgn s (m * p2 (e - g).toNat) + sgn t (n * p2 (f - g).toNat)
    if v == 0 then
      if m == 0 && n == 0 && s == t then .fin s 0 0 else .fin (rm == .rd) 0 0
    else .fin (v < 0) v.natAbs g

/-- Sign change (R159). -/
def fvNeg : FV → FV
  | .nan => .nan
  | .inf s => .inf !s
  | .fin s m e => .fin (!s) m e

/-- Absolute value (R159). -/
def fvAbs : FV → FV
  | .nan => .nan
  | .inf _ => .inf false
  | .fin _ m e => .fin false m e

/-- Exact product (R159, R160). -/
def fvMul : FV → FV → FV
  | .nan, _ => .nan
  | _, .nan => .nan
  | .inf a, .inf b => .inf (a != b)
  | .inf a, .fin s m _ => if m == 0 then .nan else .inf (a != s)
  | .fin s m _, .inf b => if m == 0 then .nan else .inf (s != b)
  | .fin s m e, .fin t n f => .fin (s != t) (m * n) (e + f)

/-- The value times 2^k. -/
def fvScale (k : Int) : FV → FV
  | .fin s m e => .fin s m (e + k)
  | v => v

/-- Division rounded once into f (R159, R160). -/
def divRound (f : Fmt) (rm : RMode) (sat : Bool) : FV → FV → Nat
  | .nan, _ => f.qnan
  | _, .nan => f.qnan
  | .inf _, .inf _ => f.qnan
  | .inf a, .fin t _ _ => roundFV f rm sat (.inf (a != t))
  | .fin s _ _, .inf b => roundFV f rm sat (.fin (s != b) 0 0)
  | .fin s m e, .fin t n g =>
    if n == 0 then (if m == 0 then f.qnan else roundFV f rm sat (.inf (s != t)))
    else if m == 0 then roundFV f rm sat (.fin (s != t) 0 0)
    else roundQ f rm sat (s != t) m n (e - g)

/-- Numeric order of two values that are not NaN, zeros equal. -/
def fvLt : FV → FV → Bool
  | .nan, _ => false
  | _, .nan => false
  | .inf a, .inf b => a && !b
  | .inf a, .fin _ _ _ => a
  | .fin _ _ _, .inf b => !b
  | .fin s m e, .fin t n f =>
    let g := min e f
    sgn s (m * p2 (e - g).toNat) < sgn t (n * p2 (f - g).toNat)

/-- The sign of a value. -/
def fvSign : FV → Bool
  | .nan => false
  | .inf s => s
  | .fin s _ _ => s

/-- The value is NaN. -/
def fvIsNan : FV → Bool
  | .nan => true
  | _ => false

/-- The value is zero. -/
def fvIsZero : FV → Bool
  | .fin _ m _ => m == 0
  | _ => false

/-- Strictly below with −0 below +0 (R161). -/
def fvLtz (a b : FV) : Bool := fvLt a b || (fvIsZero a && fvIsZero b && fvSign a && !fvSign b)

/-- Maximum under R161. -/
def fvMax (a b : FV) : FV := if fvIsNan a || fvIsNan b then .nan else if fvLtz a b then b else a

/-- Minimum under R161. -/
def fvMin (a b : FV) : FV := if fvIsNan a || fvIsNan b then .nan else if fvLtz b a then b else a

/-- Conversion of one element from S to F (R157, R158). -/
def cvt (src dst : Fmt) (rm : RMode) (sat : Bool) (c : Nat) : Nat :=
  if src.isInt then
    if dst.isInt then
      fitInt dst sat (intOf src c)
    else roundFV dst rm sat (fvInt (intOf src c))
  else
    if dst.isInt then
      match fvOf src c with
      | .nan => 0
      | .inf neg => fitInt dst true (if neg then -(p2 64 : Int) else p2 64)
      | .fin neg m e =>
        let k := if e ≥ 0 then m * p2 e.toNat else roundDiv rm neg m (p2 (-e).toNat)
        fitInt dst true (sgn neg k)
    else roundFV dst rm sat (fvOf src c)

/-- FP32 fused multiply-add, RNE: FMA32 of R169. -/
def fma32 (a b c : Nat) : Nat :=
  roundFV .fp32 .rne false (fvAdd .rne (fvMul (fvOf .fp32 a) (fvOf .fp32 b)) (fvOf .fp32 c))

/-- FP32 addition, RNE (R159). -/
def add32 (a b : Nat) : Nat := roundFV .fp32 .rne false (fvAdd .rne (fvOf .fp32 a) (fvOf .fp32 b))

/-- FP32 subtraction, RNE. -/
def sub32 (a b : Nat) : Nat := roundFV .fp32 .rne false (fvAdd .rne (fvOf .fp32 a) (fvNeg (fvOf .fp32 b)))

/-- FP32 multiplication, RNE. -/
def mul32 (a b : Nat) : Nat := roundFV .fp32 .rne false (fvMul (fvOf .fp32 a) (fvOf .fp32 b))

/-- The reference exponential, FP32 in and out (R169). -/
def exp2Ref (x : Nat) : Nat :=
  match fvOf .fp32 x with
  | .nan => 0x7FC00000
  | .inf neg => if neg then 0 else 0x7F800000
  | .fin neg m e =>
    let v := FV.fin neg m e
    if !fvLt v (.fin false 128 0) then 0x7F800000
    else if fvLt v (.fin true 160 0) then 0
    else
      let k : Int := sgn neg (if e ≥ 0 then m * p2 e.toNat else roundDiv .rne neg m (p2 (-e).toNat))
      let f := roundFV .fp32 .rne false (fvAdd .rne v (fvInt (-k)))
      let p := fma32 0x3AAEC57B f 0x3C1D953C
      let p := fma32 p f 0x3D635844
      let p := fma32 p f 0x3E75FDF0
      let p := fma32 p f 0x3F317218
      let p := fma32 p f 0x3F800000
      roundFV .fp32 .rne false (fvScale k (fvOf .fp32 p))

/-- L of R170. -/
def log2e32 : Nat := 0x3FB8AA3B

/-- VEXP's FP32 result (R170). -/
def expRef (x : Nat) : Nat := exp2Ref (mul32 x log2e32)

/-- Integer square root, bit by bit from bit k downward. -/
def isqrtFrom (n : Nat) : Nat → Nat → Nat
  | 0, r => if (r + 1) * (r + 1) ≤ n then r + 1 else r
  | k + 1, r => isqrtFrom n k (if (r + p2 (k + 1)) * (r + p2 (k + 1)) ≤ n then r + p2 (k + 1) else r)

/-- ⌊√n⌋. -/
def isqrt (n : Nat) : Nat := isqrtFrom n (Nat.log2 n / 2) 0

/-- Square root rounded once (R159, R261): the root is taken to 64 bits and more, with a sticky bit. -/
def sqrtRound (f : Fmt) (rm : RMode) (sat : Bool) : FV → Nat
  | .nan => f.qnan
  | .inf neg => if neg then f.qnan else roundFV f rm sat (.inf false)
  | .fin neg m e =>
    if m == 0 then roundFV f rm sat (.fin neg 0 0)
    else if neg then f.qnan
    else
      let odd := e % 2 != 0
      let m' := (if odd then 2 * m else m) * p2 128
      let e' := (if odd then e - 1 else e) - 128
      let r := isqrt m'
      roundQ f rm sat false (2 * r + if r * r == m' then 0 else 1) 1 (e' / 2 - 1)

/-- 1 / √x rounded once (R261). -/
def rsqRound (f : Fmt) (rm : RMode) (sat : Bool) : FV → Nat
  | .nan => f.qnan
  | .inf neg => if neg then f.qnan else roundFV f rm sat (.fin false 0 0)
  | .fin neg m e =>
    if m == 0 then roundFV f rm sat (.inf neg)
    else if neg then f.qnan
    else
      let odd := e % 2 != 0
      let m' := if odd then 2 * m else m
      let e' := if odd then e - 1 else e
      let r := isqrt (p2 256 / m')
      roundQ f rm sat false (2 * r + if r * r * m' == p2 256 then 0 else 1) 1 (-128 - e' / 2 - 1)

/-- The first n binary digits of log2 y after the point, y in [1, 2) as y * 2^256. -/
def log2Digits : Nat → Nat → Nat → Nat
  | 0, _, acc => acc
  | n + 1, y, acc =>
    let z := y * y / p2 256
    if z ≥ p2 257 then log2Digits n (z / 2) (2 * acc + 1) else log2Digits n z (2 * acc)

/-- log2 x rounded once (R261). DEDUCED (log entry 16): 96 binary digits and a sticky bit, which decide every
rounding that is not a tie; an exact result arises for powers of two alone. -/
def log2Round (f : Fmt) (rm : RMode) (sat : Bool) : FV → Nat
  | .nan => f.qnan
  | .inf neg => if neg then f.qnan else roundFV f rm sat (.inf false)
  | .fin neg m e =>
    if m == 0 then roundFV f rm sat (.inf true)
    else if neg then f.qnan
    else
      let k := Nat.log2 m
      let x : Int := e + k
      if m == p2 k then roundFV f rm sat (fvInt x)
      else
        let d := log2Digits 96 (m * p2 (256 - k)) 0
        let v : Int := 2 * (x * p2 96 + d) + 1
        roundQ f rm sat (v < 0) v.natAbs 1 (-97)

/-- VSIGM's FP32 result (R261). -/
def sigm32 (x : Nat) : Nat :=
  match fvOf .fp32 x with
  | .nan => 0x7FC00000
  | v =>
    let t := roundFV .fp32 .rne false (fvMul (fvNeg v) (fvOf .fp32 log2e32))
    let e := exp2Ref t
    divRound .fp32 .rne false (.fin false 1 0) (fvAdd .rne (.fin false 1 0) (fvOf .fp32 e))

/-- VTANH's FP32 result (R261). -/
def tanh32 (x : Nat) : Nat :=
  match fvOf .fp32 x with
  | .nan => 0x7FC00000
  | v =>
    if fvIsZero v then x % p2 32
    else
      let a := fvMul (fvScale 1 (fvNeg (fvAbs v))) (fvOf .fp32 log2e32)
      let t := fvOf .fp32 (exp2Ref (roundFV .fp32 .rne false a))
      let one : FV := .fin false 1 0
      withSign .fp32 (fvSign v) (divRound .fp32 .rne false (fvAdd .rne one (fvNeg t)) (fvAdd .rne one t))

/-- VSILU's FP32 result (R261). -/
def silu32 (x : Nat) : Nat := mul32 x (sigm32 x)

/-- Functions of VSFU (R261). -/
inductive Sfu where
  | exp2 | exp | log2 | rcp | rsq | sqrt | tanh | sigm | silu
deriving DecidableEq, Repr

/-- A VSFU element in format F (R261): functions 0, 1 and 6 to 8 form FP32 first. -/
def sfu (fn : Sfu) (f : VFmt) (c : Nat) : Nat :=
  let v := fvOf f.ef c
  let x32 := roundFV .fp32 .rne false v
  let via (r : Nat) := if f.ef == .fp32 then r else roundFV f.ef f.rm f.sat (fvOf .fp32 r)
  match fn with
  | .exp2 => via (exp2Ref x32)
  | .exp => via (expRef x32)
  | .log2 => log2Round f.ef f.rm f.sat v
  | .rcp => divRound f.ef f.rm f.sat (.fin false 1 0) v
  | .rsq => rsqRound f.ef f.rm f.sat v
  | .sqrt => sqrtRound f.ef f.rm f.sat v
  | .tanh => via (tanh32 x32)
  | .sigm => via (sigm32 x32)
  | .silu => via (silu32 x32)

/-- An exact sum, folded: infinities and NaNs as in R165; a zero sum is −0 only when every term is −0 (R164). -/
def fvSum : List FV → FV
  | [] => .fin false 0 0
  | v :: vs => vs.foldl (fvAdd .rne) v

/-- The list cut into groups of n, the last possibly shorter (R164, R168). -/
def groupsOf (n : Nat) (l : List α) : List (List α) :=
  (List.range ((l.length + n - 1) / n)).map fun i => (l.drop (i * n)).take n

/-- A grouped FP32 sum (R164): each group sum is exact, each addition to the accumulator rounds once. A group in
which no product takes part is skipped. -/
def groupSum (start : Nat) (groups : List (List FV)) : Nat :=
  groups.foldl (fun acc g =>
    if g.isEmpty then acc else roundFV .fp32 .rne false (fvAdd .rne (fvOf .fp32 acc) (fvSum g))) start

/-- The group size G of R164. -/
def groupSize (f : Fmt) : Nat := if f.width == 16 then 16 else 32

/-- Widening of an element to BF16, FP16 or FP32 kept exactly (R159). -/
def toF32 (f : Fmt) (c : Nat) : Nat := roundFV .fp32 .rne false (fvOf f c)

/-- Key order of R270: NaN above +∞ and equal to NaN, −0 below +0; integers by their sign. `keyLt f a b`. -/
def keyLt (f : Fmt) (a b : Nat) : Bool :=
  if f.isInt then intOf f a < intOf f b
  else
    let x := fvOf f a
    let y := fvOf f b
    if fvIsNan x then false else if fvIsNan y then true else fvLtz x y

/-- An MX block formed from 32 values (R153): the scale and the E2M1 codes. -/
def mxForm (rm : RMode) (vs : List FV) : Nat × List Nat :=
  if vs.any fun v => match v with | .fin _ _ _ => false | _ => true then (0xFF, vs.map fun _ => 0)
  else
    let a := vs.foldl (fun acc v => fvMax acc (fvAbs v)) (.fin false 0 0)
    match a with
    | .fin _ m e =>
      if m == 0 then (0, vs.map fun v => if fvSign v then 8 else 0)
      else
        let x := max (-127) (min 127 (flog2 m 1 + e - 2))
        ((x + 127).toNat, vs.map fun v => roundFV .e2m1 rm true (fvScale (-x) v))
    | _ => (0xFF, vs.map fun _ => 0)

/-- The value an MX element stands for (R152). -/
def mxValue (scale code : Nat) : FV :=
  if scale % 256 == 255 then .nan else fvScale ((scale % 256 : Nat) - 127) (fvOf .e2m1 code)

/-- The BF16 scale of an INT4 channel (R154). -/
def i4Scale (vs : List FV) : Nat :=
  match vs.foldl (fun acc v => fvMax acc (fvAbs v)) (.fin false 0 0) with
  | .fin _ m e => if m == 0 then 0 else roundQ .bf16 .rne false false m 7 e
  | _ => Fmt.qnan .bf16

/-- The INT4 code of a value under a BF16 scale (R154, R265): a NaN value or scale gives 0, ±∞ gives ±7. DESIGN CHOICE (log entry
70): ±∞ under a zero scale gives 0, and the sign of ±7 is the product of the signs of value and scale. -/
def i4Quant (v : FV) (scale : Nat) : Nat :=
  match v, fvOf .bf16 scale with
  | .nan, _ => 0
  | _, .nan => 0
  | .inf neg, .inf t => fitInt .i4 false (if neg != t then -7 else 7)
  | _, .inf _ => 0
  | .inf neg, .fin t n _ => if n == 0 then 0 else fitInt .i4 false (if neg != t then -7 else 7)
  | .fin s m e, .fin t n g =>
    if n == 0 || m == 0 then 0 else
    let sh := e - g
    let q := if sh ≥ 0 then roundDiv .rne (s != t) (m * p2 sh.toNat) n else roundDiv .rne (s != t) m (n * p2 (-sh).toNat)
    fitInt .i4 false (sgn (s != t) (min 7 q))

/-- The value an INT4 code stands for (R154). -/
def i4Value (code scale : Nat) : FV := fvMul (fvInt (intOf .i4 code)) (fvOf .bf16 scale)

/-- A value rounded into the target of an expansion: RNE with SAT (R155). -/
def expandTo (f : Fmt) (v : FV) : Nat := roundFV f .rne true v

/-- Element k of width w of a row (R249). -/
def elem (w : Nat) (r : Row) (k : Nat) : Nat := (r.toNat / p2 (w * k)) % p2 w

/-- A row whose element k of width w is f k (R151, R249). -/
def rowOf (w : Nat) (f : Nat → Nat) : Row :=
  BitVec.ofNat 1024 ((List.range (1024 / w)).foldr (fun k acc => acc * p2 w + f k % p2 w) 0)

/-- A row from a list of elements of width w, zero above. -/
def rowList (w : Nat) (l : List Nat) : Row := rowOf w fun k => l.getD k 0

/-- The 128 bytes of a row. -/
def rowBytes (r : Row) : List Byte := (List.range 128).map fun k => BitVec.ofNat 8 (elem 8 r k)

/-- A row from 128 bytes (R2). -/
def rowOfBytes (l : List Byte) : Row := rowList 8 (l.map BitVec.toNat)

/-- A little-endian number from bytes (R2). -/
def leNat (l : List Byte) : Nat := l.foldr (fun b acc => acc * 256 + b.toNat) 0

/-- The n little-endian bytes of a number (R2). -/
def leBytes (n v : Nat) : List Byte := (List.range n).map fun k => BitVec.ofNat 8 (v / p2 (8 * k))

end Sys2Proof.Machine
end

