-- ==== Sys2Proof/Machine/Access.lean ====
section
/-! DEFINITION. Reading and writing the parts of the state: cores, jobs, streams, registers with their latencies and
poison; and the three ends of a word: done, trapped, held. -/

namespace Sys2Proof.Machine

-- Causes (23_faults R371).

def cIllegalOpcode : Cause := 0x01
def cIllegalGroup : Cause := 0x02
def cIllegalOperand : Cause := 0x03
def cPrivilege : Cause := 0x04
def cScheduleMiss : Cause := 0x08
def cQueueUnderflow : Cause := 0x09
def cQueueOverflow : Cause := 0x0A
def cPoisonConsumed : Cause := 0x10
def cExtentViolation : Cause := 0x11
def cAlignment : Cause := 0x12
def cBankConflict : Cause := 0x13
def cSwizzleMismatch : Cause := 0x14
def cAccBusy : Cause := 0x15
def cCarouselFault : Cause := 0x16
def cTurnstilePoisoned : Cause := 0x18
def cTurnstileOverrun : Cause := 0x19
def cTimelineError : Cause := 0x1A
def cKvFormat : Cause := 0x1B
def cPageNotPresent : Cause := 0x20
def cPageProtection : Cause := 0x21
def cPinExhausted : Cause := 0x22
def cWatchdog : Cause := 0x30
def cDieFenced : Cause := 0x38
def cLinkDown : Cause := 0x39
def cEcc : Cause := 0x40
def cSoftware : Cause := 0x7F

/-- The causes of the system class (R371). -/
def isSystem (c : Cause) : Bool :=
  c == cPageNotPresent || c == cPageProtection || c == cPinExhausted || c == cDieFenced || c == cLinkDown || c == cEcc

/-- How a word ends without its effect: a trap with its trapinfo, or a hold. -/
inductive Stop where
  | trap (c : Cause) (info : Word)
  | hold (h : Hold) (info : Nat)
deriving DecidableEq, Repr

/-- The effect of a word, or why it has none. -/
abbrev Res (α : Type) := Except Stop α

/-- A precise trap when the condition holds. -/
def trapIf (b : Bool) (c : Cause) (info : Word) : Res Unit := if b then .error (.trap c info) else .ok ()

/-- A hold when the condition holds. -/
def holdIf (b : Bool) (h : Hold) : Res Unit := if b then .error (.hold h 0) else .ok ()

/-- The four streams in the order S, V, M, C (R226). -/
def sIx : Strm → Fin 4
  | .s => 0 | .v => 1 | .m => 2 | .c => 3

/-- All streams in the order S, V, M, C. -/
def strms : List Strm := [.s, .v, .m, .c]

/-- Core n of the package (01 R23). -/
def State.core (s : State) (n : CoreIx) : Core := s.cores[n]

/-- The state with core n replaced. -/
def State.setCore (s : State) (n : CoreIx) (c : Core) : State := { s with cores := s.cores.set n c }

/-- The state with core n changed. -/
def State.modCore (s : State) (n : CoreIx) (f : Core → Core) : State := s.setCore n (f (s.core n))

/-- The job of a core's running context (01 R22). -/
def Core.job (c : Core) : Job := if c.runIx then c.ctx1 else c.ctx0

/-- The core with the job of its running context replaced. -/
def Core.setJob (c : Core) (j : Job) : Core := if c.runIx then { c with ctx1 := j } else { c with ctx0 := j }

/-- The job of the other context: empty, staged or draining (01 R22). -/
def Core.other (c : Core) : Job := if c.runIx then c.ctx0 else c.ctx1

/-- The core with the other context replaced. -/
def Core.setOther (c : Core) (j : Job) : Core := if c.runIx then { c with ctx0 := j } else { c with ctx1 := j }

/-- The running job of core n. -/
def State.job (s : State) (n : CoreIx) : Job := (s.core n).job

/-- The state with the running job of core n replaced. -/
def State.setJob (s : State) (n : CoreIx) (j : Job) : State := s.setCore n ((s.core n).setJob j)

/-- The state with the running job of core n changed. -/
def State.modJob (s : State) (n : CoreIx) (f : Job → Job) : State := s.setJob n (f (s.job n))

/-- The die of a core (01 R23). -/
def dieOf (n : CoreIx) : DieIx := ⟨n.val / 16, by omega⟩

/-- Die d. -/
def State.die (s : State) (d : DieIx) : Die := s.dies[d]

/-- The state with die d changed. -/
def State.modDie (s : State) (d : DieIx) (f : Die → Die) : State := { s with dies := s.dies.set d (f (s.die d)) }

/-- The core whose word is being issued. -/
def State.here (s : State) : Core := s.core s.cur.core

/-- The job whose word is being issued. -/
def State.cjob (s : State) : Job := s.job s.cur.core

/-- The state with that job replaced. -/
def State.putJob (s : State) (j : Job) : State := s.setJob s.cur.core j

/-- The state with that job changed. -/
def State.updJob (s : State) (f : Job → Job) : State := s.modJob s.cur.core f

/-- A stream of a job. -/
def Job.stream (j : Job) (st : Strm) : Stream := j.strm[sIx st]

/-- The job with a stream replaced. -/
def Job.setStream (j : Job) (st : Strm) (t : Stream) : Job := { j with strm := j.strm.set (sIx st) t }

/-- The job with a stream changed. -/
def Job.modStream (j : Job) (st : Strm) (f : Stream → Stream) : Job := j.setStream st (f (j.stream st))

/-- The stream whose word is being issued. -/
def State.cstrm (s : State) : Stream := s.cjob.stream s.cur.strm

/-- The state with that stream changed. -/
def State.updStrm (s : State) (f : Stream → Stream) : State := s.updJob fun j => j.modStream s.cur.strm f

/-- The clock that latencies count: job cycles, and the handler's own while TRAPPED (03 R58; 13 R231). -/
def Job.now (j : Job) : Nat := if j.st == .trapped then j.hclk else j.jc

/-- Timing faults trap: lockstep mode, but not in a handler, which issues under the elastic rules (R61, R374). -/
def Job.strict (j : Job) : Bool := j.nest.lockstep && j.st != .trapped

/-- The word that keeps a resource from being used now, if any. -/
def Job.busy (j : Job) (r : Rsc) : Option Mark :=
  j.marks.find? fun m => m.rsc == r && m.h == (j.st == .trapped) && decide (j.now < m.due)

/-- A timing fault: SCHEDULE_MISS in lockstep mode, a stall in elastic mode (R61, R62). -/
def timing (j : Job) (pc : Word) : Stop :=
  if j.strict then .trap cScheduleMiss pc else .hold .latency 0

/-- The resource is free, or the timing fault its use is. -/
def Job.need (j : Job) (r : Rsc) : Res Unit :=
  match j.busy r with
  | some m => .error (timing j m.pc)
  | none => .ok ()

/-- The job with a resource marked for L cycles from now, in place of what marked it before. -/
def Job.mark (j : Job) (r : Rsc) (l : Nat) (pc : Word) : Job :=
  { j with marks := ⟨r, j.now + l, pc, j.st == .trapped⟩ ::
      j.marks.filter fun m => m.rsc != r || m.h != (j.st == .trapped) }

/-- The job with one more mark, beside those that stand. -/
def Job.addMark (j : Job) (r : Rsc) (l : Nat) (pc : Word) : Job :=
  { j with marks := ⟨r, j.now + l, pc, j.st == .trapped⟩ :: j.marks }

/-- An outstanding access will write this x register (13 R212). -/
def GAcc.writesX (g : GAcc) (st : Strm) (r : BitVec 4) : Bool :=
  g.strm == st && (match g.kind with | .vrow _ _ => false | _ => g.reg == (0 : BitVec 1) ++ r)

/-- An outstanding ATINCB will write p7. -/
def GAcc.writesP (g : GAcc) (st : Strm) : Bool :=
  g.strm == st && (match g.kind with | .atomic a _ _ _ => a == 8 && !g.noP | _ => false)

/-- An outstanding VLD will write this tile register. -/
def GAcc.writesV (g : GAcc) (r : BitVec 5) : Bool :=
  match g.kind with | .vrow _ _ => g.reg == r | _ => false

/-- The x register of the issuing stream, once its result has been written (R191, R211, R212). -/
def rdX (s : State) (r : BitVec 4) : Res XVal :=
  if r = 0 then .ok (XVal.clean 0) else do
    s.cjob.need (.xreg s.cur.strm r)
    holdIf (s.cjob.outs.any fun g => g.writesX s.cur.strm r) .latency
    holdIf (s.cjob.kvWait.any fun k => k.strm == s.cur.strm && k.reg == r) .latency
    .ok (s.cstrm.x[r.toFin])

/-- The predicate of the issuing stream; p0 reads 1 (R183). -/
def rdP (s : State) (r : BitVec 3) : Res PVal :=
  if r = 0 then .ok (PVal.clean true) else do
    s.cjob.need (.preg s.cur.strm r)
    holdIf (r == 7 && s.cjob.outs.any fun g => g.writesP s.cur.strm) .latency
    holdIf (r == 7 && s.cjob.kvWait.any fun k => k.strm == s.cur.strm && !k.noP) .latency
    .ok (s.cstrm.p[r.toFin])

/-- A register read whose poison the word consumes (13 R213). -/
def useX (s : State) (r : BitVec 4) : Res Word := do
  let a ← rdX s r
  match a.po with
  | some o => .error (.trap cPoisonConsumed o)
  | none => .ok a.v

/-- The stream's results in flight without those for a register that a later word writes (log entry 7). -/
def Stream.cancel (t : Stream) (isP : Bool) (r : BitVec 4) : Stream :=
  { t with pend := t.pend.filter fun p => !(p.isP == isP && p.reg == r) }

/-- Earlier results of a stream for x register r are discarded: a later word writes it (log entry 7). -/
def Job.claimX (j : Job) (st : Strm) (r : BitVec 4) : Job :=
  let j : Job := { j with
    outs := j.outs.map fun (g : GAcc) => if g.writesX st r then { g with reg := 0 } else g
    kvWait := j.kvWait.map fun (k : KvRes) => if k.strm == st && k.reg == r then { k with reg := 0 } else k
    late := j.late.map fun (l : Late) => if l.strm == st && l.reg == r then { l with reg := 0 } else l
    marks := j.marks.filter fun m => m.rsc != .xreg st r || m.h != (j.st == .trapped) }
  j.modStream st fun t => t.cancel false r

/-- Earlier results of a stream for p7 are discarded. -/
def Job.claimP7 (j : Job) (st : Strm) : Job :=
  let j : Job := { j with
    outs := j.outs.map fun (g : GAcc) => if g.writesP st then { g with noP := true } else g
    kvWait := j.kvWait.map fun (k : KvRes) => if k.strm == st then { k with noP := true } else k
    late := j.late.map fun (l : Late) => if l.strm == st then { l with noP := true } else l
    marks := j.marks.filter fun m => m.rsc != .preg st 7 || m.h != (j.st == .trapped) }
  j.modStream st fun t => t.cancel true 7

/-- The job with a result for x register r of stream st, readable after L cycles (R211); x0 discards it (R191). -/
def Job.wrX (j : Job) (st : Strm) (pc : Word) (r : BitVec 4) (v : XVal) (l : Nat) : Job :=
  if r = 0 then j else
    let j := j.claimX st r
    let j := j.modStream st fun t =>
      { t with pend := t.pend ++ [⟨false, r, v, j.now + l⟩] }
    j.mark (.xreg st r) l pc

/-- The state with a result for x register r of the issuing stream. -/
def wrX (s : State) (r : BitVec 4) (v : XVal) (l : Nat) : State :=
  s.updJob fun j => j.wrX s.cur.strm s.cur.wpc r v l

/-- The job with a result for predicate r of stream st; p0 discards it (R191). -/
def Job.wrP (j : Job) (st : Strm) (pc : Word) (r : BitVec 3) (v : PVal) (l : Nat) : Job :=
  if r = 0 then j else
    let x : XVal := ⟨if v.v then 1 else 0, v.po⟩
    let j := if r == 7 then j.claimP7 st else j
    let j := j.modStream st fun t =>
      let t := t.cancel true ((0 : BitVec 1) ++ r)
      { t with pend := t.pend ++ [⟨true, (0 : BitVec 1) ++ r, x, j.now + l⟩] }
    j.mark (.preg st r) l pc

/-- The state with a result for predicate r of the issuing stream. -/
def wrP (s : State) (r : BitVec 3) (v : PVal) (l : Nat) : State :=
  s.updJob fun j => j.wrP s.cur.strm s.cur.wpc r v l

/-- One scalar result written into its file. -/
def Stream.put (t : Stream) (p : SRes) : Stream :=
  if p.isP then { t with p := t.p.set (p.reg.toNat % 8) ⟨p.val.v == 1, p.val.po⟩ (by omega) }
  else if p.reg = 0 then t else { t with x := t.x.set p.reg.toFin p.val }

/-- Every scalar result that is due by `now` written (R211). -/
def Stream.drain (t : Stream) (now : Nat) : Stream :=
  let due := t.pend.filter fun p => p.due ≤ now
  let t := { t with pend := t.pend.filter fun p => !(decide (p.due ≤ now)) }
  due.foldl Stream.put t

/-- Every scalar result in flight written (R372). -/
def Stream.drainAll (t : Stream) : Stream := t.pend.foldl Stream.put { t with pend := [] }

/-- Write an x register at once, as the answer of a global access does (R212). -/
def Job.setX (j : Job) (st : Strm) (r : BitVec 4) (v : XVal) : Job :=
  if r = 0 then j else j.modStream st fun t => { t with x := t.x.set r.toFin v }

/-- Write a predicate at once. -/
def Job.setP (j : Job) (st : Strm) (r : BitVec 3) (v : PVal) : Job :=
  if r = 0 then j else j.modStream st fun t => { t with p := t.p.set r.toFin v }

/-- The stream is one of SMASK (03 R45). -/
def Job.inMask (j : Job) (st : Strm) : Bool := j.nest.smask.getLsbD (sIx st)

/-- Set one bit of a vector. -/
def setBit {w : Nat} (v : BitVec w) (i : Nat) (b : Bool) : BitVec w :=
  if b then v ||| BitVec.twoPow w i else v &&& ~~~(BitVec.twoPow w i)

end Sys2Proof.Machine
end

