-- ==== Sys2Proof/Machine/Flags.lean ====
section
/-! DEFINITION. Conditions, scalar functions, predicates and the poison that passes through them (11 R190; 13 R233 to
R240, R245; 23 R377). The machine has no flag register: a comparison writes a predicate. -/

namespace Sys2Proof.Machine

/-- The comparison of R190. -/
def condHolds (c : Cond) (a b : Word) : Bool :=
  match c with
  | .eq => a == b
  | .ne => a != b
  | .lt => a.slt b
  | .ge => !a.slt b
  | .ltu => a.ult b
  | .geu => !a.ult b
  | .always => true

/-- The origin of the first poisoned source (R377). -/
def firstPo (l : List (Option Origin)) : Option Origin := l.findSome? id

/-- Counting leading zero bits (R237). -/
def clz64 (a : Word) : Word := if a = 0 then 64 else BitVec.ofNat 64 (63 - Nat.log2 a.toNat)

/-- Counting trailing zero bits (R237). -/
def ctz64 (a : Word) : Word :=
  BitVec.ofNat 64 (((List.range 64).find? fun i => a.getLsbD i).getD 64)

/-- Number of one bits (R237). -/
def popc64 (a : Word) : Word := BitVec.ofNat 64 ((List.range 64).filter fun i => a.getLsbD i).length

/-- Bits [width − 1 : 0] set, for a width of 64 or less. -/
def lowMask (width : BitVec 7) : Word := BitVec.ofNat 64 (2 ^ width.toNat - 1)

/-- BFX (R237). -/
def bfx64 (a : Word) (pos : BitVec 6) (width : BitVec 7) : Word := (a >>> pos.toNat) &&& lowMask width

/-- BFI (R237): bits of d replaced. -/
def bfi64 (d a : Word) (pos : BitVec 6) (width : BitVec 7) : Word :=
  (d &&& ~~~(lowMask width <<< pos.toNat)) ||| ((a &&& lowMask width) <<< pos.toNat)

/-- Signed quotient of R236. -/
def div64 (a b : Word) : Word := if b = 0 then BitVec.allOnes 64 else a.sdiv b

/-- Unsigned quotient of R236. -/
def divu64 (a b : Word) : Word := if b = 0 then BitVec.allOnes 64 else a / b

/-- Signed remainder of R236. -/
def rem64 (a b : Word) : Word := if b = 0 then a else a.srem b

/-- Unsigned remainder of R236. -/
def remu64 (a b : Word) : Word := if b = 0 then a else a % b

/-- High half of the signed product (R236). -/
def mulh64 (a b : Word) : Word := BitVec.ofInt 64 (a.toInt * b.toInt / 2 ^ 64)

/-- High half of the unsigned product (R236). -/
def mulhu64 (a b : Word) : Word := BitVec.ofNat 64 (a.toNat * b.toNat / 2 ^ 64)

/-- Signed minimum. -/
def min64 (a b : Word) : Word := if b.slt a then b else a

/-- Signed maximum. -/
def max64 (a b : Word) : Word := if a.slt b then b else a

/-- Unsigned minimum. -/
def minu64 (a b : Word) : Word := if b.ult a then b else a

/-- Unsigned maximum. -/
def maxu64 (a b : Word) : Word := if a.ult b then b else a

/-- A value of n bytes widened to 64 bits (R242). -/
def widen (sx : Bool) (n v : Nat) : Word :=
  if sx && decide (v ≥ 2 ^ (8 * n - 1)) then BitVec.ofInt 64 ((v : Int) - 2 ^ (8 * n)) else BitVec.ofNat 64 v

/-- Bytes of an SZ code (R242). -/
def szBytes : Sz → Nat
  | .b => 1 | .h => 2 | .w => 4 | .d => 8

/-- The new value of an atomic, from the old value and b and c, all of w bits (R245); aop 0 to 9. -/
def atomNew (aop : BitVec 4) (w old b c : Nat) : Nat :=
  let sg (x : Nat) : Int := if x ≥ 2 ^ (w - 1) then (x : Int) - 2 ^ w else x
  match aop.toNat with
  | 0 => (old + b) % 2 ^ w
  | 1 => if sg b < sg old then b else old
  | 2 => if sg old < sg b then b else old
  | 3 => old &&& b
  | 4 => old ||| b
  | 5 => old ^^^ b
  | 6 => b
  | 7 => if old = c then b else old
  | 8 => if old < c then (old + 1) % 2 ^ w else old
  | _ => add32 old b

/-- What ATINCB writes to p7: 1 on refusal (R245). -/
def incbRefused (old c : Nat) : Bool := decide (c ≤ old)

end Sys2Proof.Machine
end

