-- ==== Sys2Proof/Machine/Sync.lean ====
section
/-! DEFINITION. Turnstiles, timelines, carousels, the local space and what lands in a scratchpad (05_memory R83 to
R91, R101 to R114; 07_ordering R118). -/

namespace Sys2Proof.Machine

-- Turnstiles.

/-- A post of n in this cycle; the posts of a cycle add together (R103, 17 R293). -/
def Turnstile.addPost (t : Turnstile) (n : Nat) : Turnstile := { t with post := some (t.post.getD 0 + n) }

/-- n bytes arrive with the phase recorded for them (R102, R103). -/
def Turnstile.addArr (t : Turnstile) (phase : Bool) (n : Nat) : Turnstile :=
  if n == 0 then t else if phase == t.phase then { t with arr := t.arr + n } else { t with badPhase := true }

/-- A command that would arrive ends with an error, or is discarded (R103). -/
def Turnstile.addErr (t : Turnstile) (c : Cause) : Turnstile := { t with err := some (t.err.getD c) }

/-- The turnstile with the events of its cycle cleared. -/
def Turnstile.settle (t : Turnstile) : Turnstile :=
  { t with post := none, arr := 0, badPhase := false, err := none, init := false, decl := false }

/-- One cycle of a turnstile but for TSINIT: the new turnstile, and whether it completes (R103). -/
def Turnstile.move (t : Turnstile) : Turnstile × Bool :=
  let b : Int := t.balance + t.post.getD 0 - t.arr
  match t.st with
  | .poisoned | .overrun => (t.settle, false)
  | _ =>
    if t.badPhase then ({ t with st := .overrun, cause := 0x19 }.settle, false)
    else match t.err with
    | some c => ({ t with st := .poisoned, cause := c }.settle, false)
    | none =>
      if b < -(2 ^ 39) || 2 ^ 39 - 1 < b then ({ t with st := .overrun, cause := 0x19 }.settle, false)
      else if t.st == .idle && t.post.isNone then ({ t with balance := b }.settle, false)
      else if 0 < b then ({ t with st := .armed, balance := b }.settle, false)
      else if b == 0 then ({ t with st := .idle, balance := 0, phase := !t.phase }.settle, true)
      else ({ t with st := .overrun, cause := 0x19, balance := b }.settle, false)

/-- The turnstile as the events of its cycle find it: a declaration of its carousel makes it IDLE with balance 0 and CAUSE 0
and keeps its phase (R109). -/
def Turnstile.declared (t : Turnstile) : Turnstile :=
  if t.decl then { t with st := .idle, balance := 0, cause := 0 } else t

/-- One cycle of a turnstile (R103): after the other rows, TSINIT (17 R292). -/
def Turnstile.step (t : Turnstile) : Turnstile × Bool :=
  let r := t.declared.move
  if t.init then ({ r.1 with st := .idle, balance := 0, cause := 0 }, r.2) else r

/-- The doubleword at +0 of a turnstile image (R101). -/
def Turnstile.image (t : Turnstile) : Word :=
  let st : BitVec 2 := match t.st with | .idle => 0 | .armed => 1 | .poisoned => 2 | .overrun => 3
  (0 : BitVec 20) ++ st ++ (0 : BitVec 1) ++ BitVec.ofBool t.phase ++ BitVec.ofInt 40 t.balance

/-- The trap of a wait on, or an access under, a POISONED or OVERRUN turnstile (R104, R112). -/
def Turnstile.bad (t : Turnstile) (k : Nat) : Option Stop :=
  let info : Word := BitVec.setWidth 64 t.cause <<< 8 ||| BitVec.ofNat 64 k
  match t.st with
  | .poisoned => some (.trap cTurnstilePoisoned info)
  | .overrun => some (.trap cTurnstileOverrun info)
  | _ => none

/-- The job with a turnstile changed. -/
def Job.modTs (j : Job) (k : BitVec 6) (f : Turnstile → Turnstile) : Job :=
  { j with ts := j.ts.set k.toFin (f j.ts[k.toFin]) }

-- Timelines.

/-- DONE moved over the completed numbers that follow it, at most n of them, and not past FAILNUM − 1 (R105, R107). -/
def Timeline.advance : Nat → Timeline → Timeline
  | 0, t => t
  | n + 1, t =>
    if t.above.contains (t.done + 1) && (t.failnum == 0 || decide (t.done + 1 < t.failnum)) then
      Timeline.advance n { t with done := t.done + 1, above := t.above.filter (· != t.done + 1) }
    else t

/-- Number n completes (R105). -/
def Timeline.complete (t : Timeline) (n : Nat) : Timeline :=
  Timeline.advance (t.above.length + 1) { t with above := n :: t.above }

/-- Number n ends with an error (R107). -/
def Timeline.failAt (t : Timeline) (n : Nat) (c : Cause) : Timeline :=
  if t.failnum == 0 || n < t.failnum then { t with failnum := n, cause := c } else t

/-- The job with a timeline changed. -/
def Job.modTl (j : Job) (k : BitVec 3) (f : Timeline → Timeline) : Job :=
  { j with tl := j.tl.set k.toFin (f j.tl[k.toFin]) }

/-- trapinfo of TIMELINE_ERROR (23 R371). -/
def tlInfo (n : Nat) (c : Cause) (k : BitVec 3) : Word :=
  BitVec.ofNat 64 (n % p2 53 * p2 11) ||| BitVec.setWidth 64 c <<< 3 ||| BitVec.setWidth 64 k

/-- The number the next command on timeline k takes, unless it would be 2^64 (R105). -/
def Job.nextNumber (j : Job) (k : BitVec 3) : Res Nat :=
  let t := j.tl[k.toFin]
  if t.issued + 1 ≥ p2 64 then .error (.trap cTimelineError (tlInfo (p2 53 - 1) 0 k)) else .ok (t.issued + 1)

/-- The job after a word has taken its number on timeline k (R105). -/
def Job.takeNumber (j : Job) (k : BitVec 3) : Job := j.modTl k fun t => { t with issued := t.issued + 1 }

-- Carousels.

/-- Slot size (R108). -/
def Carousel.slotSize (c : Carousel) : Nat := p2 (c.lslot + 12)

/-- A carousel access resolved (R110): whether it is on the producer side, the slot distance j, the slot, the address.
`none` is CAROUSEL_FAULT. -/
def Carousel.resolve (c : Carousel) (off size : Nat) : Option (Bool × Nat × Nat × Nat) :=
  let prod := decide (off < 0x80000)
  let o := if prod then off else off - 0x80000
  let ptr := if prod then c.head else c.tail
  let j := o / c.slotSize
  if !c.decl || c.count ≤ j then none
  else if (o + size - 1) / c.slotSize != j then none
  else
    let k := (ptr + j) % c.count
    some (prod, j, k, c.base + k * c.slotSize + o % c.slotSize)

/-- CDESC (R108). -/
def Carousel.cdesc (c : Carousel) : Word :=
  (0 : BitVec 20) ++ BitVec.ofBool c.decl ++ BitVec.ofBool c.autoarm ++ BitVec.ofNat 6 c.firstts ++
    BitVec.ofNat 4 c.count ++ (0 : BitVec 5) ++ BitVec.ofNat 3 c.lslot ++ BitVec.ofNat 24 c.base

/-- CPTR (R108). -/
def Carousel.cptr (c : Carousel) : Word :=
  c.rot ++ (0 : BitVec 12) ++ BitVec.ofNat 4 c.level ++ (0 : BitVec 4) ++ BitVec.ofNat 4 c.tail ++ (0 : BitVec 4) ++
    BitVec.ofNat 4 c.head

/-- The state of a slot. -/
def Carousel.slot (c : Carousel) (k : Nat) : SlotSt := c.slots.toList.getD k .opened

/-- The carousel with a slot's state set. -/
def Carousel.setSlot (c : Carousel) (k : Nat) (st : SlotSt) : Carousel :=
  if h : k < 8 then { c with slots := c.slots.set k st } else c

/-- HEAD advances over the slot it stands at (R113). -/
def Carousel.advanceHead (c : Carousel) : Carousel :=
  { c.setSlot c.head .ready with
    res := c.res.filter fun r => r.2.1 != c.head
    head := (c.head + 1) % max 1 c.count
    level := c.level + 1
    rot := c.rot + 1 }

/-- A release takes effect (R113, 17 R297): the turnstile to post the slot size to, if AUTOARM. A release with the
slot at TAIL POISONED is discarded. -/
def Carousel.release (c : Carousel) : Carousel × Option Nat :=
  if c.level == 0 || c.slot c.tail == .poisoned then (c, none)
  else
    ({ c.setSlot c.tail .opened with tail := (c.tail + 1) % max 1 c.count, level := c.level - 1 },
     if c.autoarm then some (c.firstts + c.tail) else none)

/-- The job with carousel c changed. -/
def Job.modCar (j : Job) (c : BitVec 2) (f : Carousel → Carousel) : Job :=
  { j with car := j.car.set c.toFin (f j.car[c.toFin]) }

-- What a cycle does to turnstiles and slots.

/-- What a stream waits for on a turnstile, so that a completion from that phase releases it (R104). -/
def waitInfo (k : BitVec 6) (phase : Bool) : Nat := 2 * k.toNat + (if phase then 1 else 0) + 2

/-- A wait that a completion has released, whatever the turnstile does afterwards (R104). -/
def releasedInfo (k : BitVec 6) (phase : Bool) : Nat := waitInfo k phase + 256

/-- Waits on turnstile k for the end of a phase that has just ended are released (R104). -/
def Job.releaseWaits (j : Job) (k : Fin 64) (phase : Bool) : Job :=
  { j with strm := j.strm.map fun (t : Stream) =>
      if t.held == some (.waiting, waitInfo (BitVec.ofFin k) phase) then
        { t with held := some (.waiting, releasedInfo (BitVec.ofFin k) phase) }
      else t }

/-- POISONED or OVERRUN. -/
def Turnstile.broken (t : Turnstile) : Bool := t.st == .poisoned || t.st == .overrun

/-- Something has happened to the turnstile in the present cycle. -/
def Turnstile.hit (t : Turnstile) : Bool := t.post.isSome || t.arr != 0 || t.badPhase || t.err.isSome || t.init || t.decl

/-- What a turnstile's cycle does to the slot of a carousel that uses it (R113): HEAD moves once a cycle at most. -/
def Job.slotEvent (j : Job) (c : Fin 4) (k : Fin 64) (done breaks : Bool) : Job :=
  let car := j.car[c]
  if !car.decl || k.val < car.firstts || car.firstts + car.count ≤ k.val then j
  else
    let slot := k.val - car.firstts
    let car' :=
      if done && car.slot slot == .opened then
        if slot == car.head && car.head == (j.car0[c]).head && decide (car.level < car.count) then car.advanceHead
        else car.setSlot slot .complete
      else if breaks then car.setSlot slot .poisoned
      else car
    { j with car := j.car.set c car' }

/-- One turnstile's cycle (R103, R104, R113). -/
def Job.tsStep (j : Job) (k : Fin 64) : Job :=
  let old := j.ts[k]
  let r := old.step
  let j : Job := { j with ts := j.ts.set k r.1 }
  let j := if r.2 then j.releaseWaits k old.phase else j
  let breaks := r.1.broken && !old.declared.broken
  if r.2 || breaks then (List.finRange 4).foldl (fun (j : Job) c => j.slotEvent c k r.2 breaks) j else j

/-- A COMPLETE slot that HEAD reached in an earlier cycle becomes READY (R113). -/
def Job.headAdvance (j : Job) (car : BitVec 2) : Option Job :=
  let c := j.car[car.toFin]
  if c.decl && c.slot c.head == .complete && (j.car0[car.toFin]).head == c.head && decide (c.level < c.count) then
    some (j.modCar car Carousel.advanceHead)
  else none

/-- The turnstiles of a job that something happened to in this cycle, then the slots that HEAD had reached before (R113). -/
def Job.tsCycle (j : Job) : Job :=
  let hit := (List.finRange 64).filter fun k => (j.ts[k]).hit
  let heads := (List.finRange 4).filter fun c => (j.headAdvance (BitVec.ofFin c)).isSome
  let j := hit.foldl Job.tsStep j
  heads.foldl (fun (j : Job) c => (j.headAdvance (BitVec.ofFin c)).getD j) j

-- The local space.

/-- A local access resolved to G0 or G1: the address and the carousel slot on whose producer or consumer side it is. -/
structure Loc where
  addr : Nat
  prod : Option (Nat × Nat)
  cons : Option (Nat × Nat)
deriving DecidableEq, Repr

/-- Where a local access leads (R84): the scratchpad, a turnstile image, nowhere, a carousel fault, or a slot that is
not ready; `bad` is a slot whose turnstile is POISONED or OVERRUN (R112). -/
inductive LocOut where
  | at (l : Loc)
  | image (k off : Nat)
  | outside
  | carFault (c : Nat)
  | notReady
  | bad (st : Stop)
deriving DecidableEq, Repr

/-- Wholly within G0 or wholly within G1 (R83). -/
def inGroup (a n : Nat) : Bool :=
  decide (a + n ≤ 0x400000) || (decide (0x400000 ≤ a) && decide (a + n ≤ 0x800000))

/-- A local access of n ≥ 1 bytes at address a against the regions of R83 (R84, R110 to R112). -/
def Job.place (j : Job) (a n : Nat) : LocOut :=
  if a < 0x800000 then (if inGroup a n then .at ⟨a, none, none⟩ else .outside)
  else if a < 0xC00000 then
    let c := (a - 0x800000) / 0x100000
    let car := j.car0.toList.getD c Carousel.zero
    match car.resolve ((a - 0x800000) % 0x100000) n with
    | none => .carFault c
    | some (prod, d, k, addr) =>
      let tsk := car.firstts + k
      match (j.ts.toList.getD tsk Turnstile.zero).bad tsk with
      | some st => .bad st
      | none =>
        if prod then
          if car.level + d ≥ car.count then .notReady else .at ⟨addr, some (c, k), none⟩
        else if d ≥ car.level then .notReady else .at ⟨addr, none, some (c, k)⟩
  else if a < 0xC00400 && decide (a / 16 = (a + n - 1) / 16) then .image ((a - 0xC00000) / 16) (a % 16)
  else .outside

/-- The 16 bytes of turnstile image k (R101). -/
def Job.tsImage (j : Job) (k : Nat) : List Byte :=
  let t := j.ts.toList.getD k Turnstile.zero
  leBytes 8 t.image.toNat ++ leBytes 8 t.cause.toNat

/-- Poison of the first poisoned 8-byte word that n bytes at scratchpad address a touch (R86). -/
def Core.poison (c : Core) (a n : Nat) : Option PoU :=
  (List.range ((a + n + 7) / 8 - a / 8)).findSome? fun i => alGet c.spadPo (a / 8 + i)

/-- The origin record of poison met by an access at `addr` (R376). -/
def PoU.origin (p : PoU) (addr : Word) : Origin :=
  match p with
  | .carried o => o
  | .raw c => BitVec.setWidth 64 c <<< 57 ||| (addr &&& 0x01FFFFFFFFFFFFFF)

/-- An origin record made here (R376). -/
def origin (c : Cause) (addr : Word) : Origin := PoU.origin (.raw c) addr

/-- The swizzle tag of a tile (R88). -/
def Core.tag (c : Core) (tile : Nat) : BitVec 4 := (alGet c.tags tile).getD 0

/-- The core with a tile's tag set; a tag of 0 is not listed. -/
def Core.setTag (c : Core) (tile : Nat) (t : BitVec 4) : Core :=
  { c with tags := if t == 0 then alDel c.tags tile else alSet c.tags tile t }

/-- The tiles that n bytes at a touch (R88). -/
def tilesOf (a n : Nat) : List Nat := (List.range ((a + n + 4095) / 4096 - a / 4096)).map (a / 4096 + ·)

/-- Rank of a writer in a landing cycle (R118): local engines, then remote engines by core, then M, V, S, C. -/
def rankOf : Strm → Nat
  | .m => 200 | .v => 201 | .s => 202 | .c => 203

/-- Rank of a copy engine's arrival from core n at core `here` (R118). -/
def rankEngine (here n : Nat) : Nat := if n == here then 0 else n + 1

/-- Bytes that land at a in this cycle, all with the same poison, stamping tag t on the tiles given. -/
def landing (rank ord : Nat) (a : Nat) (bs : List Byte) (po : Option PoU) (t : BitVec 4) (tiles : List Nat) : Land :=
  ⟨rank, ord, false, false, t, tiles, (List.range bs.length).zip bs |>.map fun e => (a + e.1, e.2, po), []⟩

/-- The core with a write that lands in this cycle. -/
def Core.land (c : Core) (l : Land) : Core := { c with landing := c.landing ++ [l] }

/-- The bytes of a landing write that prevail: no writer of lower rank lands on the same 4-byte word (R118). -/
def Land.prevail (all : List Land) (l : Land) : List (Nat × Byte × Option PoU) :=
  l.bytes.filter fun b =>
    all.all fun o => decide (l.rank ≤ o.rank) || o.bytes.all fun e => e.1 / 4 != b.1 / 4

/-- Poison of one 8-byte word after a write of these bytes (R86, R378). -/
def poisonUnit (po : List (Nat × PoU)) (size u : Nat) (bs : List (Nat × Byte × Option PoU)) : List (Nat × PoU) :=
  let mine := bs.filter fun b => b.1 / size == u
  match mine.findSome? fun b => b.2.2 with
  | some p => alSet po u p
  | none => if (List.range size).all fun i => mine.any fun b => b.1 == u * size + i then alDel po u else po

/-- The bytes of one write put into a scratchpad. -/
def Core.commitOne (c : Core) (bs : List (Nat × Byte × Option PoU)) : Core :=
  { c with
    spad := bs.foldl (fun m b => Memory.put m b.1 b.2.1) c.spad
    spadPo := (bs.map fun b => b.1 / 8).eraseDups.foldl (fun po u => poisonUnit po 8 u bs) c.spadPo }

/-- The end of a landing cycle: every write that prevails is seen from now on, and each tile touched takes the tag of
the first writer (R90, R118). -/
def Core.commit (c : Core) : Core :=
  let c' := { c with spadPo := (c.landing.flatMap Land.whole).foldl alDel c.spadPo }
  let c' := c.landing.foldl (fun d l => d.commitOne (l.prevail c.landing)) c'
  let c' := ((c.landing.flatMap Land.tiles).eraseDups).foldl (fun d tile =>
    match (c.landing.filter fun l => l.tiles.contains tile).foldl
        (fun (best : Option Land) l => match best with
          | none => some l
          | some b => if l.rank ≤ b.rank then some l else best) none with
    | some l => d.setTag tile l.tag
    | none => d) c'
  { c' with landing := [] }

/-- A byte as a local atomic finds it: the writes of earlier atomics of this cycle included, so that atomics stay
indivisible (07 R126). -/
def Core.atomicByte (c : Core) (a : Nat) : Byte :=
  match (c.landing.filter Land.atomic).reverse.findSome? fun l => (l.bytes.find? fun b => b.1 == a).map fun b => b.2.1 with
  | some b => b
  | none => c.spad.get a

end Sys2Proof.Machine
end

