-- ==== Sys2Proof/Machine/Global.lean ====
section
/-! DEFINITION. Global memory: the physical map, bytes and poison at their homes, die caches and what a core of a die
sees, translation, page locks (01_package R26 to R36; 05_memory R92 to R100; 07_ordering R123 to R145; 23 R378). -/

namespace Sys2Proof.Machine

/-- What a physical address reaches (R28 to R30). -/
inductive Place where
  | bonded (d : DieIx)
  | lpddr
  | aper (core : CoreIx) (a : Nat)
  | mgmt
  | peer (pkg off : Nat)
  | reserved
deriving DecidableEq, Repr

/-- Size of a page and of its frame (R94). -/
def pageSize : Nat := 0x200000

/-- First physical address of LPDDR (R28). -/
def lpddrBase : Nat := 0x10000000000

/-- First physical address of the scratchpad aperture (R28). -/
def aperBase : Nat := 0x80000000000

/-- First physical address of the management registers (R28). -/
def mgmtBase : Nat := 0xF0000000000

/-- First physical address of the peer tier (R28). -/
def peerBase : Nat := 0x8000000000000

/-- Bytes of bonded DRAM of one die (R28). -/
def bondedSize : Nat := 0xC00000000

/-- Where a peer window's offset leads in its own package (R30); a reserved offset leads to a reserved address. -/
def peerOffset (off : Nat) : Nat :=
  if off < 0x6000000000 then off
  else if off < 0x6080000000 then aperBase + (off - 0x6000000000)
  else if off < 0x8000000000 then 0x6000000000
  else lpddrBase + (off - 0x8000000000)

/-- A peer-tier address that names the package's own number reaches the local location (R31). -/
def canon (own pa : Nat) : Nat :=
  if decide (peerBase ≤ pa) && (pa - peerBase) / p2 40 == own then peerOffset ((pa - peerBase) % p2 40) else pa

/-- Local part of the map (R28, R29). -/
def placeLocal (pa : Nat) : Place :=
  if pa < 0x6000000000 then .bonded ⟨pa / bondedSize % 8, Nat.mod_lt _ (by decide)⟩
  else if pa < lpddrBase then .reserved
  else if pa < 0x20000000000 then .lpddr
  else if pa < aperBase then .reserved
  else if pa < aperBase + 0x80000000 then
    let o := pa - aperBase
    if o % 0x1000000 < 0x800000 then .aper ⟨o / 0x1000000 % 128, Nat.mod_lt _ (by decide)⟩ (o % 0x1000000) else .reserved
  else if pa < mgmtBase then .reserved
  else if pa < 0xF0100000000 then .mgmt
  else .reserved

/-- The whole map for an address already brought to its local name (R28 to R31). -/
def placeOf (pa : Nat) : Place :=
  if pa < peerBase then placeLocal pa
  else
    let o := (pa - peerBase) % p2 40
    match placeLocal (peerOffset o) with
    | .reserved => .reserved
    | _ => .peer ((pa - peerBase) / p2 40) o

/-- The place of a physical address in this package. -/
def State.place (s : State) (pa : Nat) : Place := placeOf (canon s.pkgnum.toNat pa)

/-- The memory shell that holds a home is fenced or in reset (R35). -/
def State.homeDead (s : State) (pa : Nat) : Bool :=
  match s.place pa with
  | .bonded d => !s.shellsvc.getLsbD d.val
  | _ => false

/-- The address lies in DRAM of this package, where page tables and objects in memory may lie (R97). -/
def State.isDram (s : State) (pa : Nat) : Bool :=
  match s.place pa with
  | .bonded _ | .lpddr => true
  | _ => false

-- Homes.

/-- The duplicate that holds a local address (R138). -/
def State.dupAt (s : State) (pa : Nat) : Option Dup :=
  s.dups.find? fun d => decide (d.frame ≤ pa) && decide (pa < d.frame + pageSize)

/-- The round of the owner that a byte of a duplicate comes from: a line that the owner has invalidated is fetched again
(R139). -/
def Dup.roundOf (d : Dup) (off : Nat) : Nat := (alGet d.fresh (off / 256)).getD d.gen

/-- One byte at its home (R26); the bytes of a duplicate are its owner's, which are free values (log entry 14). -/
def State.homeByte (s : State) (pa : Nat) : Byte :=
  match s.dupAt pa with
  | some d => (alGet d.chg (pa - d.frame)).getD (Config.peerByte (d.peer + (pa - d.frame)) (d.roundOf (pa - d.frame)))
  | none => s.mem.get pa

/-- The incarnation of the agent that homes an address: its die, or the package for what the RM die homes (R141). -/
def State.homeInc (s : State) (pa : Nat) : BitVec 32 :=
  match s.place pa with
  | .bonded d => (s.dies[d]).incarn
  | _ => s.incarn

/-- A message sent under an incarnation older than the one recorded for its sender (R141). DEDUCED (log entry 64): older as
numbers modulo 2^32 are. -/
def staleInc (sent recorded : BitVec 32) : Bool := (sent - recorded).msb

/-- n bytes at their homes. -/
def State.homeBytes (s : State) (pa n : Nat) : List Byte := (List.range n).map fun i => s.homeByte (pa + i)

/-- Poison of the 32-byte unit u (R378): bonded DRAM that nothing has written since its shell was released is
poisoned (R36), LPDDR is clean. -/
def State.unitPo (s : State) (u : Nat) : Option PoU :=
  match alGet s.memPo u with
  | some p => p
  | none =>
    if (s.dupAt (u * 32)).isSome then none
    else if u * 32 < 0x6000000000 then some (.raw cEcc) else none

/-- The first poisoned unit that n bytes at pa touch. -/
def State.homePo (s : State) (pa n : Nat) : Option PoU :=
  (List.range ((pa + n + 31) / 32 - pa / 32)).findSome? fun i => s.unitPo (pa / 32 + i)

/-- Bytes, each with the poison it carries, written at their homes (R378). -/
def State.homePut (s : State) (bs : List (Nat × Byte × Option PoU)) : State :=
  let units := (bs.map fun b => b.1 / 32).eraseDups
  let po := units.foldl (fun (po : List (Nat × Option PoU)) u =>
    let mine := bs.filter fun b => b.1 / 32 == u
    match mine.findSome? fun b => b.2.2 with
    | some p => alSet po u (some p)
    | none =>
      if (List.range 32).all fun i => mine.any fun b => b.1 == u * 32 + i then alSet po u none else po) s.memPo
  bs.foldl (fun (t : State) b =>
    match t.dupAt b.1 with
    | some d => { t with dups := t.dups.map fun (e : Dup) =>
        if e.frame == d.frame then { e with chg := alSet e.chg (b.1 - d.frame) b.2.1 } else e }
    | none => { t with mem := t.mem.put b.1 b.2.1 }) { s with memPo := po }

/-- A run of clean bytes with their addresses. -/
def cleanBytes (pa : Nat) (l : List Byte) : List (Nat × Byte × Option PoU) :=
  (List.range l.length).zip l |>.map fun e => (pa + e.1, e.2, none)

/-- Home sequence of a line (R137). -/
def State.seqOf (s : State) (line : Nat) : BitVec 32 := (alGet s.seqs line).getD 0

/-- The dies that the directory records for a line, its region entry included (R136). -/
def State.sharers (s : State) (line : Nat) : BitVec 8 :=
  (alGet s.dir line).getD 0 ||| (alGet s.regions (line / 64)).getD 0

/-- The directory records a die for a line; a set without a free line entry uses the region entry (R136). -/
def State.addSharer (s : State) (d : DieIx) (line : Nat) : State :=
  match alGet s.dir line with
  | some m => { s with dir := alSet s.dir line (setBit m d.val true) }
  | none =>
    if Config.dirSetFull line then
      { s with regions := alSet s.regions (line / 64) (setBit ((alGet s.regions (line / 64)).getD 0) d.val true) }
    else { s with dir := alSet s.dir line (setBit 0 d.val true) }

/-- The dies of a partition: those a probe for it may reach (R143). -/
def State.partDies (s : State) (part : BitVec 16) : BitVec 8 :=
  match s.parts.toList.find? fun p => p.valid && p.id == part with
  | some p => p.dies
  | none => 0

/-- The lines that n bytes touch (R12). -/
def linesOf (pa n : Nat) : List Nat := (List.range ((pa + n + 255) / 256 - pa / 256)).map (pa / 256 + ·)

/-- A die gives up a line at an invalidation of sequence q, at order `ord`; while a fill of it is on its way that is remembered
(R137). -/
def Die.invalidate (d : Die) (line : Nat) (q : BitVec 32) (ord : Nat) (fill : Bool) : Die :=
  { d with
    lines := d.lines.filter fun l => l.line != line
    ackSeq := if fill then d.ackSeq ++ [(line, q, ord)] else d.ackSeq }

/-- A fill of the line is on its way to the die. -/
def State.filling (s : State) (d : DieIx) (line : Nat) : Bool := s.fills.any fun f => f.die == d && f.line == line

/-- The order at which a die first acknowledged an invalidation of the line newer than a fill of sequence q, if it has (R145). -/
def Die.ackedPast (d : Die) (line : Nat) (q : BitVec 32) : Option Nat :=
  (d.ackSeq.find? fun a => a.1 == line && (q - a.2.1).msb).map fun a => a.2.2

/-- Where the home of an address lies, for the order of messages (01 R17): a die, or 8 for the RM die and beyond. -/
def State.homeIx (s : State) (pa : Nat) : Nat :=
  match s.place pa with
  | .bonded d => d.val
  | _ => 8

/-- A round of an owner's invalidation is over once every die cache that was told has acknowledged: the package acknowledges it
(R140). -/
def State.roundOver (s : State) (ord : Nat) : State :=
  match s.holdRounds.find? fun r => r.1 == ord with
  | some (_, pkg, line, part) =>
    if s.invals.any fun e => e.ord == ord then s
    else { s with
      holdRounds := s.holdRounds.filter fun e => e.1 != ord
      fabricOut := s.fabricOut ++ [⟨pkg, s.incarn, part, .ack line⟩] }
  | none => s

/-- An invalidation arrives at its die (R137): the die gives up its copy and acknowledges at once; one that an older incarnation of
the home has sent is dropped (R141). -/
def State.invalArrives (s : State) (i : Inval) : State :=
  if staleInc i.inc (s.homeInc (i.line * 256)) then s
  else
    let s := s.modDie i.die fun d => d.invalidate i.line i.seq s.ord (s.filling i.die i.line)
    if s.invals.any fun e => e.ord == i.ord && e.die == i.die then s
    else { s with
      cores := s.cores.map fun (c : Core) => { c with psb := c.psb.map fun (p : PStore) =>
        if p.ord == i.ord then { p with wait := setBit p.wait i.die.val false } else p }
      rdWrites := s.rdWrites.map fun (w : RdWrite) =>
        if w.ord == i.ord then { w with dies := setBit w.dies i.die.val false } else w }.roundOver i.ord

/-- The invalidations on their way from a home to the dies of a mask arrive: one that the home sends later comes after them (01
R17). -/
def State.flushInvals (s : State) (home : Nat) (mask : BitVec 8) : State :=
  let now (i : Inval) : Bool := mask.getLsbD i.die.val && s.homeIx (i.line * 256) == home
  (s.invals.filter now).foldl State.invalArrives { s with invals := s.invals.filter fun i => !now i }

/-- An atomic at this line may be made by core n in this cycle: those that arrive in one cycle are taken in increasing core number
(14 R248). -/
def State.homeFree (s : State) (n : CoreIx) (pa : Nat) : Bool := (alGet s.homeOrder (pa / 256)).all fun m => decide (m ≤ n.val)

/-- A write ordered at the home at once, as those of engines, of the host, of atomics and of the RM are: the home's
sequence advances and the copies of the dies that its partition may probe are invalidated (R129, R137, R143), after what the
home has told them before (01 R17). -/
def State.orderAtHome (s : State) (mask : BitVec 8) (bs : List (Nat × Byte × Option PoU)) : State :=
  let s := (bs.map fun b => s.homeIx b.1).eraseDups.foldl (fun (t : State) h => t.flushInvals h mask) (s.homePut bs)
  (bs.map fun b => b.1 / 256).eraseDups.foldl (fun (t : State) line =>
    let q := t.seqOf line + 1
    let t : State := { t with
      seqs := alSet t.seqs line q
      dies := Vector.ofFn fun d =>
        if mask.getLsbD d.val then (t.dies[d]).invalidate line q t.ord (t.filling d line) else t.dies[d] }
    { t with dir := match alGet t.dir line with
        | some m => if m &&& ~~~mask == 0 then alDel t.dir line else alSet t.dir line (m &&& ~~~mask)
        | none => t.dir }) s

-- What a die sees.

/-- The cores of a die (R23). -/
def coresOf (d : DieIx) : List CoreIx := (List.finRange 16).map fun i => ⟨16 * d.val + i.val, by omega⟩

/-- A store belongs to this stream of this job. -/
def PStore.own (p : PStore) (st : Strm) (j : Job) : Bool := p.strm == st && p.seq == j.seq && p.iter == j.iter

/-- The stores at the die point that a reader may see, oldest first (R123, R124, R139). -/
def State.dieStores (s : State) (d : DieIx) (vis : CoreIx → PStore → Bool) : List PStore :=
  let all := (coresOf d).flatMap fun c => (s.core c).psb.filter (vis c)
  all.insertionSort fun a b => a.ord ≤ b.ord

/-- Bytes with the stores laid over them. -/
def overlay (ps : List PStore) (pa : Nat) (bs : List Byte) : List Byte :=
  (List.range bs.length).zip bs |>.map fun e =>
    match ps.reverse.find? fun p => decide (p.pa ≤ pa + e.1) && decide (pa + e.1 < p.pa + p.data.length) with
    | some p => p.data.getD (pa + e.1 - p.pa) 0
    | none => e.2

/-- A unit that a store covers whole is clean once the store is seen (R378). -/
def covered (ps : List PStore) (u : Nat) : Bool :=
  ps.any fun p => decide (p.pa ≤ u * 32) && decide (u * 32 + 32 ≤ p.pa + p.data.length)

/-- A cached line of a die. -/
def Die.find (d : Die) (line : Nat) : Option CLine := d.lines.find? fun l => l.line == line

/-- Bytes and first poison as the die's copies hold them; `none` when a line is missing. -/
def Die.cached (d : Die) (pa n : Nat) : Option (List Byte × List (Nat × PoU)) :=
  if (linesOf pa n).all fun l => (d.find l).isSome then
    some ((List.range n).map fun i =>
      match d.find ((pa + i) / 256) with
      | some l => l.data.getD ((pa + i) % 256) 0
      | none => 0, (linesOf pa n).flatMap fun l => match d.find l with | some c => c.po | none => [])
  else none

/-- Bytes and poison with the stores laid over them. -/
def layOver (ps : List PStore) (pa n : Nat) (bs : List Byte) (po : Nat → Option PoU) : List Byte × Option PoU :=
  (overlay ps pa bs,
   (List.range ((pa + n + 31) / 32 - pa / 32)).findSome? fun i =>
     if covered ps (pa / 32 + i) then none else po (pa / 32 + i))

/-- What a relaxed load, or an acquire at core or die scope, reads: the latest value of the die (R124). `none` when
the die holds no copy. -/
def State.dieRead (s : State) (d : DieIx) (vis : CoreIx → PStore → Bool) (pa n : Nat) :
    Option (List Byte × Option PoU) :=
  match (s.die d).cached pa n with
  | some (bs, po) => some (layOver (s.dieStores d vis) pa n bs fun u => alGet po u)
  | none => none

/-- The latest value ordered at the home, with the given stores of the reader over it (R124, R117). A fenced shell
answers with poison DIE_FENCED (R35). -/
def State.homeRead (s : State) (d : DieIx) (vis : CoreIx → PStore → Bool) (pa n : Nat) : List Byte × Option PoU :=
  if s.homeDead pa then (List.replicate n 0, some (.raw cDieFenced))
  else layOver (s.dieStores d vis) pa n (s.homeBytes pa n) s.unitPo

/-- The stores at the die point that an agent sees which reads as an acquire at core or die scope does (R124); of a
read-duplicated line with a write held it sees the old value (R139, R140). -/
def seesDie (_ : CoreIx) (p : PStore) : Bool := !p.rdup

/-- The stores that a command of core n sees (R120, R124; 17 R280): those of its die, or, at package and pod scope, those that its
issue is ordered after: the earlier ones of its own stream, and those of its core and die that its stream had acquired (R119,
R122). -/
def Cmd.sees (c : Cmd) (n m : CoreIx) (p : PStore) : Bool :=
  if c.scope == .pkg || c.scope == .pod then
    ((n == m && p.strm == c.strm && p.seq == c.seq && p.iter == c.iter && decide (p.ord < c.ord)) ||
      (dieOf m == dieOf n && decide (p.ord < c.acq))) && !p.rdup
  else !p.rdup

/-- What an engine of a core reads: the home's value with the stores that it sees laid over it (R120, R129, R140). -/
def State.engineRead (s : State) (d : DieIx) (vis : CoreIx → PStore → Bool) (pa n : Nat) : List Byte × Option PoU :=
  s.homeRead d vis pa n

/-- Another die's store, or a held write to the page, keeps the home from filling the line for die d (R123, R139). -/
def State.fillHeld (s : State) (d : DieIx) (line : Nat) : Bool :=
  ((List.finRange 128).any fun c => dieOf c != d && (s.core c).psb.any fun p =>
    p.atHome && (linesOf p.pa p.data.length).contains line) ||
    s.rdWrites.any fun w => w.started && w.page == line * 256 / pageSize

/-- The home answers a fill: the line as it stands, with its sequence; the die becomes a sharer (R136, R137). The fills that
are on their way stand in the order in which they left. -/
def State.sendFill (s : State) (f : Fill) : State :=
  let f' : Fill := { f with
    sent := true
    data := s.homeBytes (f.line * 256) 256
    po := (List.range 8).filterMap fun i => (s.unitPo (f.line * 8 + i)).map fun p => (f.line * 8 + i, p)
    seq := s.seqOf f.line
    inc := s.homeInc (f.line * 256) }
  let s : State := { s with fills := (s.fills.filter fun g => !(g.die == f.die && g.line == f.line)) ++ [f'] }
  s.addSharer f.die f.line

/-- The fills that nothing holds any more leave the home (R123). -/
def State.releaseFills (s : State) : State :=
  s.fills.foldl (fun (t : State) f => if f.sent || t.fillHeld f.die f.line then t else t.sendFill f) s

/-- The ID of the partition that a die belongs to, which its messages carry (R141); 0 for a die of none. -/
def State.diePart (s : State) (d : DieIx) : BitVec 16 :=
  ((s.parts.toList.find? fun p => p.valid && p.dies.getLsbD d.val).map Partition.id).getD 0

/-- A die asks for a line it does not hold. -/
def State.requestFill (s : State) (d : DieIx) (line : Nat) : State :=
  if s.filling d line || s.homeDead (line * 256) || ((s.die d).find line).isSome then s
  else
    let s : State := { s with fills := s.fills ++ [⟨d, line, false, [], [], 0, 0, s.diePart d⟩] }
    s.releaseFills

-- Stores of streams ordered (R123, R137).

/-- The dies of the partition that owns a die (25 R405). -/
def State.matesOf (s : State) (d : DieIx) : BitVec 8 :=
  match s.parts.toList.find? fun p => p.valid && p.dies.getLsbD d.val with
  | some p => p.dies
  | none => 0

/-- Bytes of a line with a store laid over them. -/
def mergeLine (p : PStore) (line : Nat) (data : List Byte) : List Byte := overlay [p] (line * 256) data

/-- Poison of a line after a store: the units that it covers whole are clean (23 R378). -/
def mergePo (p : PStore) (po : List (Nat × PoU)) : List (Nat × PoU) := po.filter fun e => !covered [p] e.1

/-- The entry of a store leaves the posted-store buffer of its core, and with it what belongs to it. -/
def State.retire (s : State) (n : CoreIx) (p : PStore) : State :=
  { s.modCore n fun c => { c with psb := c.psb.filter fun e => e.ord != p.ord } with
    rdWrites := s.rdWrites.filter fun w => w.ord != p.ord
    invals := s.invals.filter fun i => i.ord != p.ord }

/-- A store of core n is ordered at the home of its lines, and its entry retires; the writer's die keeps the new bytes in the
copy that it holds or is about to receive, and fills that waited leave (R123). A store whose home is fenced is discarded
(23 R416). -/
def State.orderStore (s : State) (n : CoreIx) (p : PStore) : State :=
  if s.homeDead p.pa then (s.retire n p).releaseFills
  else
    let d := dieOf n
    let s := (linesOf p.pa p.data.length).foldl (fun (t : State) line =>
      let q := t.seqOf line + 1
      let t : State := { t with
        seqs := alSet t.seqs line q
        fills := t.fills.map fun (f : Fill) =>
          if f.die == d && f.line == line && f.sent then
            { f with data := mergeLine p line f.data, po := mergePo p f.po } else f }
      t.modDie d fun e => { e with lines := e.lines.map fun (l : CLine) =>
        if l.line == line then { l with data := mergeLine p line l.data, po := mergePo p l.po, seq := q } else l })
      (s.homePut (cleanBytes p.pa p.data))
    (s.retire n p).releaseFills

-- Writes to pages that other packages hold duplicates of (R139, R144).

/-- The writes of a page take turns at its owner: other packages hold it, writes of it wait, or it is itself a duplicate. -/
def State.takesTurns (s : State) (pa : Nat) : Bool :=
  let page := pa / pageSize
  !((alGet s.holders page).getD []).isEmpty || (s.rdWrites.any fun w => w.page == page) || (s.dupAt pa).isSome

/-- A write of core n that is to take its turn. -/
def State.turnOf (s : State) (n : CoreIx) (ord pa : Nat) (part : BitVec 16) (kind : RdKind) : RdWrite :=
  ⟨pa / pageSize, n, ord, false, [], 0, part, s.partDies part, kind, none⟩

/-- A round that has begun and that every holder, and every die that was told, has acknowledged (R139). -/
def RdWrite.over (w : RdWrite) : Bool := w.started && w.wait.isEmpty && w.dies == 0

/-- The same write. -/
def RdWrite.same (w v : RdWrite) : Bool := v.page == w.page && v.core == w.core && v.ord == w.ord

/-- The turn of a write of an engine or of an atomic, numbered by its core: the write once it may be made; one that comes for the
first time takes its place. -/
def State.rdTurn (s : State) (pa : Nat) (w : RdWrite) : State × Option RdWrite :=
  if !s.takesTurns pa then (s, some w)
  else match s.rdWrites.find? w.same with
    | some v => if v.over then ({ s with rdWrites := s.rdWrites.filter fun u => !w.same u }, some v) else (s, none)
    | none => ({ s with rdWrites := s.rdWrites ++ [w] }, none)

/-- Bytes that the host or another package writes, for the dies of a mask and a partition, are ordered at once, or take their
turn. -/
def State.orderInTurn (s : State) (mask : BitVec 8) (part : BitVec 16) (pa : Nat) (bs : List (Nat × Byte × Option PoU))
    (reply : Option (Nat × Nat)) : State :=
  if s.takesTurns pa then
    { s with rdWrites := s.rdWrites ++ [⟨pa / pageSize, 0, s.ord, false, [], 0, part, mask, .bytes bs reply, none⟩], ord := s.ord + 1 }
  else s.orderAtHome mask bs

/-- A store ordered at once: every other die that may hold a copy gives it up first, after what the home has told it before (01
R17). -/
def State.orderNow (s : State) (n : CoreIx) (p : PStore) : State :=
  let mask := s.matesOf (dieOf n)
  let s := (linesOf p.pa p.data.length).foldl (fun (t : State) line =>
    { t with dies := Vector.ofFn fun d =>
        if mask.getLsbD d.val && d != dieOf n then (t.dies[d]).invalidate line (t.seqOf line + 1) t.ord (t.filling d line)
        else t.dies[d] }) (s.flushInvals (s.homeIx p.pa) (setBit mask (dieOf n).val false))
  s.orderStore n p

-- Translation.

/-- A page translated: its frame, where its level-0 entry lies, what the entry allows (R96). -/
structure Xlat where
  frame : Nat
  entry : Nat
  rd : Bool
  w : Bool
  rdup : Bool
deriving DecidableEq, Repr

/-- How a walk ends (R97). -/
inductive Walk where
  | ok (x : Xlat)
  | bad (c : Cause) (info : Word)
deriving DecidableEq, Repr

/-- Frames that no translation reaches (R32); through an extent, the apertures of this and of other packages are more, and
so is the whole peer tier without RDUP, the package's own number there included (R32, R97). -/
def State.frameBad (s : State) (frame : Nat) (ext rdup : Bool) : Bool :=
  match s.place frame with
  | .reserved | .mgmt => true
  | .aper _ _ => ext
  | .peer _ off => ext && (!rdup || decide (0x6000000000 ≤ off) && decide (off < 0x6080000000))
  | _ => ext && !rdup && decide (peerBase ≤ frame)

/-- The checks on a level-0 entry that a translation makes for the access it is for (R97). -/
def State.xlatCheck (s : State) (va : Word) (x : Xlat) (rd w ext : Bool) : Walk :=
  if (rd && !x.rd) || (w && !x.w) || s.frameBad x.frame ext x.rdup then .bad cPageProtection va else .ok x

/-- The walk from a table downward through the levels given (R94 to R97). -/
def State.walkFrom (s : State) (va : Word) (rd w ext : Bool) : List Nat → Nat → Walk
  | [], _ => .bad cPageProtection va
  | lvl :: more, table =>
    let ea := table + va.toNat / p2 (21 + 9 * lvl) % 512 * 8
    if !s.isDram ea then .bad cPageProtection va
    else if s.homeDead ea || (s.homePo (canon s.pkgnum.toNat ea) 8).isSome then .bad cEcc (BitVec.ofNat 64 ea)
    else
      let e : Word := BitVec.ofNat 64 (leNat (s.homeBytes (canon s.pkgnum.toNat ea) 8))
      if !e.getLsbD 0 then .bad cPageNotPresent va
      else if lvl == 0 then
        if e &&& 0xFFF00000001FFFD0 != 0 then .bad cPageProtection va
        else s.xlatCheck va ⟨(e &&& 0x000FFFFFFFE00000).toNat, ea, e.getLsbD 1, e.getLsbD 2, e.getLsbD 5⟩ rd w ext
      else if e &&& 0xFFF0000000000FFE != 0 then .bad cPageProtection va
      else s.walkFrom va rd w ext more (e &&& 0x000FFFFFFFFFF000).toNat

/-- The partition entry in force under an ID (R405, R406). -/
def State.partOf (s : State) (part : BitVec 16) : Option Partition :=
  s.parts.toList.find? fun p => p.valid && p.id == part

/-- A walk through a partition's tables (R94). DESIGN CHOICE (log entry 65): an address with a bit above bit 56 set, which
no level translates, ends the walk in PAGE_PROTECTION; a partition with no entry in force, in PAGE_NOT_PRESENT. -/
def State.walk (s : State) (part : BitVec 16) (va : Word) (rd w ext : Bool) : Walk :=
  if va.toNat ≥ p2 57 then .bad cPageProtection va
  else match s.partOf part with
  | none => .bad cPageNotPresent va
  | some p => s.walkFrom va rd w ext [3, 2, 1, 0] (p.root.toNat * 4096)

/-- The entry that a die's translation cache holds for a page (R99, R401). -/
def Die.tlbFind (d : Die) (part : BitVec 16) (va : Word) : Option TlbEnt :=
  d.tlb.find? fun e => e.part == part && e.page == va.toNat / pageSize

/-- Translation by way of the die's cache, else by a walk (R99). -/
def State.lookup (s : State) (d : DieIx) (part : BitVec 16) (va : Word) (rd w ext : Bool) : Walk :=
  match (s.die d).tlbFind part va with
  | some e => if va.toNat ≥ p2 57 then .bad cPageProtection va
    else s.xlatCheck va ⟨e.frame, e.entry, e.rd, e.w, e.rdup⟩ rd w ext
  | none => s.walk part va rd w ext

/-- The die's translation cache takes a translation. -/
def Die.tlbPut (d : Die) (part : BitVec 16) (va : Word) (x : Xlat) : Die :=
  if (d.tlbFind part va).isSome then d
  else { d with tlb := ⟨part, va.toNat / pageSize, x.frame, x.entry, x.rd, x.w, x.rdup⟩ :: d.tlb }

/-- The pages that a range of addresses touches. -/
def pagesOf (va len : Nat) : List Nat :=
  if len == 0 then [] else (List.range ((va + len + pageSize - 1) / pageSize - va / pageSize)).map (va / pageSize + ·)

/-- D set in a level-0 entry, an atomic OR at the entry's home (R100), for a partition: no die of another one is probed
(R143). -/
def State.setDirty (s : State) (part : BitVec 16) (entry : Nat) : State :=
  let a := canon s.pkgnum.toNat entry
  let b := s.homeByte a
  if b.getLsbD 3 then s else s.orderAtHome (s.partDies part) [(a, b ||| 8, none)]

-- Page locks.

/-- The frame is pinned on the die (R98). -/
def Die.pinCount (d : Die) (frame : Nat) : Nat := (alGet d.pinned frame).getD 0

/-- One more pin on a frame; `none` when the page-lock table is full (R98). -/
def Die.pin1 (d : Die) (frame : Nat) : Option Die :=
  let n := d.pinCount frame
  if n ≥ 65535 || (n == 0 && decide (d.pinned.length ≥ 32768)) then none
  else some { d with pinned := alSet d.pinned frame (n + 1) }

/-- All frames pinned, or none of them (R98, R99). -/
def Die.pin (d : Die) (frames : List Nat) : Option Die := frames.foldl (fun o f => o.bind fun d => d.pin1 f) (some d)

/-- One pin less. -/
def Die.unpin1 (d : Die) (frame : Nat) : Die :=
  let n := d.pinCount frame
  { d with pinned := if n ≤ 1 then alDel d.pinned frame else alSet d.pinned frame (n - 1) }

/-- Pins released (R56, R99). -/
def Die.unpin (d : Die) (frames : List Nat) : Die := frames.foldl Die.unpin1 d

end Sys2Proof.Machine
end

