-- ==== Sys2Proof/Machine/Journal.lean ====
section
/-! DEFINITION. SHA3-512, MSI-X messages and the journal (03 R65; 25 R396, R412; 23 R386 to R392). -/

namespace Sys2Proof.Machine

-- SHA3-512 (FIPS 202), which R65 and R412 name.

/-- Rotation offsets of Keccak, lane x + 5y. -/
def keccakRot : List Nat :=
  [0, 1, 62, 28, 27, 36, 44, 6, 55, 20, 3, 10, 43, 25, 39, 41, 45, 15, 21, 8, 18, 2, 61, 56, 14]

/-- Round constants of Keccak-f[1600]. -/
def keccakRc : List Word :=
  [0x0000000000000001, 0x0000000000008082, 0x800000000000808A, 0x8000000080008000, 0x000000000000808B,
   0x0000000080000001, 0x8000000080008081, 0x8000000000008009, 0x000000000000008A, 0x0000000000000088,
   0x0000000080008009, 0x000000008000000A] ++
  [0x000000008000808B, 0x800000000000008B, 0x8000000000008089, 0x8000000000008003, 0x8000000000008002,
   0x8000000000000080, 0x000000000000800A, 0x800000008000000A, 0x8000000080008081, 0x8000000000008080,
   0x0000000080000001, 0x8000000080008008]

/-- One round of Keccak on 25 lanes. -/
def keccakRound (a : List Word) (rc : Word) : List Word :=
  let col (x : Nat) : Word := (List.range 5).foldl (fun acc y => acc ^^^ a.getD (x % 5 + 5 * y) 0) 0
  let cols := (List.range 5).map col
  let d := (List.range 5).map fun x => cols.getD ((x + 4) % 5) 0 ^^^ (cols.getD ((x + 1) % 5) 0).rotateLeft 1
  let b := (List.range 25).map fun i =>
    -- lane (x', y') of B comes from lane (x, y) with x' = y and y' = 2x + 3y
    let x' := i % 5
    let y' := i / 5
    let x := (x' + 3 * y') % 5
    let y := x'
    (a.getD (x + 5 * y) 0 ^^^ d.getD x 0).rotateLeft (keccakRot.getD (x + 5 * y) 0)
  (List.range 25).map fun i =>
    let x := i % 5
    let y := i / 5
    let v := b.getD i 0 ^^^ (~~~(b.getD ((x + 1) % 5 + 5 * y) 0) &&& b.getD ((x + 2) % 5 + 5 * y) 0)
    if i == 0 then v ^^^ rc else v

/-- The message padded to a multiple of 72 bytes. -/
def sha3Pad (m : List Byte) : List Byte :=
  let k := 72 - m.length % 72
  if k == 1 then m ++ [0x86] else m ++ [0x06] ++ List.replicate (k - 2) 0 ++ [0x80]

/-- SHA3-512 of a message: 64 bytes. -/
def sha3 (m : List Byte) : List Byte :=
  let st := (groupsOf 72 (sha3Pad m)).foldl (fun (a : List Word) blk =>
    let lanes := groupsOf 8 blk
    keccakRc.foldl keccakRound ((List.range 25).map fun i =>
      a.getD i 0 ^^^ BitVec.ofNat 64 (leNat (lanes.getD i [])))) (List.replicate 25 0)
  (st.take 8).flatMap fun w => leBytes 8 w.toNat

/-- The defect-map signature of a core-service mask (R65): CORESVC0 then CORESVC1, little-endian. -/
def defectSig (mask : BitVec 128) : Word := BitVec.ofNat 64 (leNat ((sha3 (leBytes 16 mask.toNat)).take 8))

-- MSI-X.

/-- A message of a vector: sent, or held pending while the vector is masked (R396). -/
def State.msix (s : State) (fn : Fin 65) (vec : Fin 4) : State :=
  let f := s.fns[fn]
  if f.mask[vec] then { s with fns := s.fns.set fn { f with pend := f.pend.set vec true } }
  else { s with pcieOut := s.pcieOut ++ [.msix fn.val vec.val] }

/-- The function that owns a partition (R405). -/
def State.partFn (s : State) (part : BitVec 16) : Option (Fin 65) :=
  match s.partOf part with
  | some p => if h : p.owner.toNat < 65 then some ⟨p.owner.toNat, h⟩ else none
  | none => none

/-- A message to the function of a partition, if it has one. -/
def State.msixPart (s : State) (part : BitVec 16) (vec : Fin 4) : State :=
  match s.partFn part with
  | some f => s.msix f vec
  | none => s

-- The journal.

/-- What an entry says beside its sequence and gcc (R388). -/
structure JEnt where
  kind : Nat
  state : Nat
  cause : Cause
  die : Nat
  core : Nat
  va : Word
  part : BitVec 16
  tag : BitVec 32
  detail : List Byte
deriving DecidableEq, Repr

/-- State codes of R388. -/
def JState.code : JState → Nat
  | .queued => 0 | .dispatched => 1 | .running => 2 | .frozen => 3 | .trapped => 4 | .suspended => 5
  | .preempted => 6 | .draining => 7 | .done => 8 | .fenced => 9 | .none => 0xFFFF

/-- The 64 bytes of an entry (R388). -/
def JEnt.bytes (e : JEnt) (seq gcc : Nat) : List Byte :=
  leBytes 8 seq ++ leBytes 8 gcc ++ leBytes 2 e.kind ++ leBytes 2 e.state ++ leBytes 1 e.cause.toNat ++
    leBytes 1 e.die ++ leBytes 1 e.core ++ [0] ++ leBytes 8 e.va.toNat ++ leBytes 2 e.part.toNat ++
    leBytes 4 e.tag.toNat ++ (e.detail ++ List.replicate 26 0).take 26

/-- An entry written at the head of the ring, and the MSI-X messages it brings (R386, R387, R396). Before JRNLCFG is
written there is no ring. -/
def State.journal (s : State) (e : JEnt) : State :=
  if s.logn == 0 then s
  else
    let pa := s.jrnlBase.toNat * 4096 + 64 * (s.jrnlNext % p2 s.logn.toNat)
    let s := s.orderAtHome 0xFF (cleanBytes pa (e.bytes s.jrnlNext s.gcc))
    let s : State := { s with jrnlNext := s.jrnlNext + 1 }
    if e.kind == 4 || e.kind == 5 then s.msixPart e.part 3
    else if 0xA ≤ e.kind then s.msix 0 3 else s

/-- An entry about the launch of a job (R388). -/
def Job.entry (j : Job) (kind : Nat) (st : JState) (cause : Cause) (core : CoreIx) (detail : List Byte) : JEnt :=
  { kind := kind, state := st.code, cause := cause, die := core.val / 16, core := core.val % 16, va := j.nest.va,
    part := j.nest.part, tag := j.nest.tag, detail := leBytes 6 j.iter ++ detail }

/-- An entry that concerns no job (R388). -/
def bareEntry (kind : Nat) (cause : Cause) (die core : Nat) (detail : List Byte) : JEnt :=
  ⟨kind, 0xFFFF, cause, die, core, 0, 0xFFFF, 0, detail⟩

/-- An entry about a launch as a whole (R388). -/
def launchEntry (kind state : Nat) (cause : Cause) (die : Nat) (n : NestRec) (detail : List Byte) : JEnt :=
  ⟨kind, state, cause, die, 0xFF, n.va, n.part, n.tag, detail⟩

/-- Whole µs of a count of 1/21600 µs, saturating at 2^32 − 1 (R389). -/
def usOf (t : Nat) : Nat := min (t / 21600) (p2 32 - 1)

end Sys2Proof.Machine
end

