-- ==== Sys2Proof/Machine/MatMath.lean ====
section
/-! DEFINITION. What the matrix engine computes (19_matrix R319 to R338; 09_arithmetic R164 to R175): panel layouts,
which bytes a word reads in which cycle, products, soft maximum, masses. -/

namespace Sys2Proof.Machine

/-- Placement of a byte within a 4 KiB tile (05_memory R89). -/
def swzPlace (z : Swz) (o : Nat) : Nat :=
  let go (l g : Nat) (f : Nat → Nat) : Nat :=
    let r := o / l
    r * l + (o % l / g + f r) % (l / g) * g + o % g
  match z with
  | .plain => o
  | .sk4 => go 256 64 fun r => r % 4
  | .sk8 => go 256 32 fun r => r % 8
  | .sk16 => go 512 32 fun r => r % 16
  | .sk32 => go 512 16 fun r => 3 * r % 32

/-- Where logical byte o of an operand lies from its base (R288, R319). -/
def swzOff (z : Swz) (o : Nat) : Nat := o / 4096 * 4096 + swzPlace z (o % 4096)

/-- Elements per 128 bytes (R319). -/
def perRow (f : Fmt) : Nat := 1024 / f.width

/-- RP of R319. -/
def rowsPad (rw : Nat) : Nat := (rw + 31) / 32 * 32

/-- Logical byte of element (r, k) of a panel (R319). -/
def panelByte (f : Fmt) (rw r k : Nat) : Nat :=
  k / perRow f * 128 * rowsPad rw + 128 * r + k % perRow f * f.width / 8

/-- Logical byte of scale g of row r of an MX panel (R319). -/
def panelScale (f : Fmt) (rw r kk g : Nat) : Nat :=
  (kk + perRow f - 1) / perRow f * 128 * rowsPad rw + 128 * r + g

/-- Bytes that a panel occupies (R319). -/
def panelSize (f : Fmt) (rw kk : Nat) : Nat :=
  ((kk + perRow f - 1) / perRow f + if f == .e2m1 then 1 else 0) * 128 * rowsPad rw

/-- PT of R320. -/
def rowPitch (f : Fmt) (d : Nat) : Nat := 128 * ((d * f.width + 1023) / 1024)

/-- Twice κ, the cycles per k (R318). -/
def kappa2 (f : Fmt) : Nat := if f.width == 16 then 4 else if f.width == 4 then 1 else 2

/-- The shape of MMA and MMAT (R321). -/
structure MShape where
  m : Nat
  n : Nat
  k : Nat
deriving DecidableEq, Repr

/-- The shape register of MMA and MMAT. -/
def mShape (x : Word) : MShape := ⟨(x &&& 0xFF).toNat, (x >>> 8 &&& 0xFF).toNat, (x >>> 16 &&& 0xFFFF).toNat⟩

/-- The fields of an attention descriptor (R333). -/
structure ADesc where
  sigma : Nat
  rows : Nat
  qgrp : Nat
  d : Nat
  ntok : Nat
  mask : Nat
  qpos0 : Nat
  tokbase : Nat
  win : Nat
deriving DecidableEq, Repr

/-- An attention descriptor from its 32 bytes (R333). -/
def aDesc (b : List Byte) : ADesc :=
  let f (o n : Nat) : Nat := leNat ((b.drop o).take n)
  ⟨f 0 4, f 4 1, f 5 1, f 6 2, f 8 1, f 9 1, f 12 4, f 16 4, f 20 4⟩

/-- Its fields and reserved bits are legal (R333). -/
def aDescOk (b : List Byte) : Bool :=
  let a := aDesc b
  let z (o n : Nat) : Bool := leNat ((b.drop o).take n) == 0
  decide (1 ≤ a.rows) && decide (a.rows ≤ 128) && decide (1 ≤ a.qgrp) && decide (a.qgrp ≤ 128) && a.d % 32 == 0 &&
    decide (32 ≤ a.d) && decide (a.d ≤ 256) && decide (1 ≤ a.ntok) && decide (a.ntok ≤ 64) && decide (a.mask < 8) &&
    z 10 2 && z 24 8 && ((a.mask / 2 % 2 == 1) == (a.win != 0))

-- Which operand bytes are read in which cycle (R323): operand 0 A or Q, 1 B or K, 2 V.

/-- The k of an MMA that its cycle dt reads. -/
def stepsAt (f : Fmt) (kk dt : Nat) : List Nat :=
  (match kappa2 f with
   | 4 => if dt % 2 == 0 then [dt / 2] else []
   | 1 => [2 * dt, 2 * dt + 1]
   | _ => [dt]).filter (· < kk)

/-- Logical ranges of a word's operands that are read dt cycles after issue: operand, first byte, length (R323). -/
def operandReads (i : Instr) (xs : Word) (adesc : List Byte) (dt : Nat) : List (Nat × Nat × Nat) :=
  let panel (id : Nat) (f : Fmt) (rw kk : Nat) (k : Nat) : List (Nat × Nat × Nat) :=
    (List.range rw).flatMap fun r =>
      (id, panelByte f rw r k, (f.width + 7) / 8) ::
        (if f == .e2m1 && k % 32 == 0 then [(id, panelScale f rw r kk (k / 32), 1)] else [])
  match i with
  | .mma _ _ _ _ fa fb _ _ _ _ =>
    let s := mShape xs
    if s.m == 0 || s.n == 0 then []
    else (stepsAt fa s.k dt).flatMap fun k => panel 0 fa s.m s.k k ++ panel 1 fb s.n s.k k
  | .mmat _ _ _ _ fa fb _ _ _ _ =>
    let s := mShape xs
    if s.m == 0 || s.n == 0 then []
    else (stepsAt fa s.k dt).flatMap fun k => (0, k * 16 * fa.width, s.m * fa.width / 8) :: panel 1 fb s.n s.k k
  | .attn _ _ _ _ fa fb _ _ =>
    let a := aDesc adesc
    let u := (a.d + 63) / 64 * kappa2 fa / 2
    ((stepsAt fa a.d dt).flatMap fun c =>
      ((List.range a.rows).map fun i => (0, i * rowPitch fa a.d + c * fa.width / 8, fa.width / 8)) ++
      ((List.range 64).map fun j => (1, j * rowPitch fb a.d + c * fb.width / 8, fb.width / 8))) ++
    (if dt % u == 0 && decide (dt / u < 64) then [(2, dt / u * rowPitch fb a.d, a.d * fb.width / 8)] else [])
  | .amass _ _ _ fa fb _ _ =>
    let a := aDesc adesc
    (stepsAt fa a.d dt).flatMap fun c =>
      ((List.range a.rows).map fun i => (0, i * rowPitch fa a.d + c * fa.width / 8, fa.width / 8)) ++
      ((List.range 64).map fun j => (1, j * rowPitch fb a.d + c * fb.width / 8, fb.width / 8))
  | .ald _ _ _ fa _ _ =>
    let s := mShape xs
    let len := s.n * fa.width / 8
    let pitch := if s.k == 0 then len else s.k
    if decide (dt < s.m) && s.n != 0 then [(0, dt * pitch, len)] else []
  | .alstat _ _ _ _ _ =>
    let rows := (xs &&& 0xFF).toNat
    let pitch := if (xs >>> 16 &&& 0xFFFF).toNat == 0 then 8 else (xs >>> 16 &&& 0xFFFF).toNat
    ((List.range 32).filter fun i => dt * 32 + i < rows).map fun i => (0, (dt * 32 + i) * pitch, 8)
  | _ => []

/-- The key under which the captured byte o of an operand is kept. -/
def capKey (id o : Nat) : Nat := id * 0x1000000 + o

/-- An element of width w captured at logical byte o; 4-bit elements by the parity of k. -/
def capElem (m : Memory) (id : Nat) (f : Fmt) (o k : Nat) : Nat :=
  if f.width == 4 then ((m.get (capKey id o)).toNat / if k % 2 == 0 then 1 else 16) % 16
  else leNat (m.read (capKey id o) (f.width / 8))

-- Products.

/-- Word n of an accumulator row. -/
def accElem (r : AccRow) (n : Nat) : Nat := r.toNat / p2 (32 * n) % p2 32

/-- An accumulator row from its words. -/
def accOf (f : Nat → Nat) : AccRow :=
  BitVec.ofNat 2048 ((List.range 64).foldr (fun n acc => acc * p2 32 + f n % p2 32) 0)

/-- One output element of a matrix step (R164 to R167): `a k` and `b k` are codes, `sa g` and `sb g` MX scales. -/
def dot (fa fb : Fmt) (neg : Bool) (start kk : Nat) (a b sa sb : Nat → Nat) : Nat :=
  if fa.isInt then
    let p := ((List.range kk).map fun k => intOf fa (a k) * intOf fb (b k)).sum
    (((start : Int) + if neg then -p else p) % (p2 32 : Int)).toNat
  else
    let prod (k : Nat) : FV :=
      let v := if fa == .e2m1 then fvMul (mxValue (sa (k / 32)) (a k)) (mxValue (sb (k / 32)) (b k))
        else fvMul (fvOf fa (a k)) (fvOf fb (b k))
      if neg then fvNeg v else v
    groupSum start (groupsOf (groupSize fa) ((List.range kk).map prod))

/-- The rows of W after MMA or MMAT (R327); `at` and scales read the captured operands. -/
def mmaRows (trans : Bool) (fa fb : Fmt) (ovw neg : Bool) (s : MShape) (cap : Memory) (w : AccBank) :
    List (Nat × AccRow) :=
  if s.m == 0 || s.n == 0 then []
  else (List.range s.m).map fun m =>
    let old := (w.toList.getD m AccRowSt.zero).w
    (m, accOf fun n =>
      if n < s.n then
        let start := if ovw then 0 else accElem old n
        if s.k == 0 then start
        else dot fa fb neg start s.k
          (fun k => if trans then capElem cap 0 fa (k * 16 * fa.width + m * fa.width / 8) m
            else capElem cap 0 fa (panelByte fa s.m m k) k)
          (fun k => capElem cap 1 fb (panelByte fb s.n n k) k)
          (fun g => (cap.get (capKey 0 (panelScale fa s.m m s.k g))).toNat)
          (fun g => (cap.get (capKey 1 (panelScale fb s.n n s.k g))).toNat)
      else accElem old n)

-- Attention.

/-- The position of token j (R335). -/
def kPos (a : ADesc) (pd : List Byte) (j : Nat) : Nat :=
  if a.mask / 4 % 2 == 1 then leNat ((pd.drop (4 * j)).take 4) else a.tokbase + j

/-- Token j is masked for row i (R335). -/
def maskedTok (a : ADesc) (pd : List Byte) (i j : Nat) : Bool :=
  let q := a.qpos0 + i / a.qgrp
  let k := kPos a pd j
  decide (a.ntok ≤ j) || (a.mask % 2 == 1 && decide (q < k)) ||
    (a.mask / 2 % 2 == 1 && decide (k ≤ q) && decide (a.win ≤ q - k))

/-- The score of row i and token j (R171). -/
def score (fa fb : Fmt) (a : ADesc) (cap : Memory) (i j : Nat) : Nat :=
  let g := dot fa fb false 0 a.d
    (fun c => capElem cap 0 fa (i * rowPitch fa a.d + c * fa.width / 8) c)
    (fun c => capElem cap 1 fb (j * rowPitch fb a.d + c * fb.width / 8) c) (fun _ => 0) (fun _ => 0)
  mul32 g a.sigma

/-- −∞ in FP32. -/
def negInf : Nat := 0xFF800000

/-- Maximum of two FP32 codes (R161). -/
def max32 (a b : Nat) : Nat := roundFV .fp32 .rne false (fvMax (fvOf .fp32 a) (fvOf .fp32 b))

/-- One row of ATTN (R172): the new m, l and O columns. -/
def attnRow (fa fb : Fmt) (a : ADesc) (pd : List Byte) (cap : Memory) (i m l : Nat) (o : Nat → Nat) :
    Nat × Nat × List Nat :=
  let pf : Fmt := if fb.width == 8 then .e4m3 else .bf16
  let live := (List.range 64).filter fun j => !maskedTok a pd i j
  let sc := (List.range 64).map fun j => if maskedTok a pd i j then 0 else score fa fb a cap i j
  let t := live.foldl (fun acc j => max32 acc (sc.getD j 0)) negInf
  let mn := max32 m t
  if mn == negInf then (m, l, (List.range a.d).map o)
  else
    let alpha := exp2Ref (sub32 m mn)
    let p := (List.range 64).map fun j =>
      if maskedTok a pd i j then 0
      else roundFV pf .rne false (fvOf .fp32 (exp2Ref (sub32 (sc.getD j 0) mn)))
    let l' := roundFV .fp32 .rne false (fvAdd .rne (fvMul (fvOf .fp32 l) (fvOf .fp32 alpha))
      (fvSum (p.map (fvOf pf))))
    let vrow (j c : Nat) : Nat := capElem cap 2 fb (j * rowPitch fb a.d + c * fb.width / 8) c
    let g := groupSize pf
    let cols := (List.range a.d).map fun c =>
      let start := mul32 (o c) alpha
      groupSum start ((groupsOf g (List.range 64)).map fun js =>
        (js.filter fun j => !maskedTok a pd i j).map fun j => fvMul (fvOf pf (p.getD j 0)) (fvOf fb (vrow j c)))
    (mn, l', cols)

/-- The masses after AMASS (R175): `ml i` are the statistics of row i. -/
def massAfter (fa fb : Fmt) (a : ADesc) (pd : List Byte) (cap : Memory) (ml : Nat → Nat × Nat) (old : List Nat) :
    List Nat :=
  (List.range a.rows).foldl (fun (mass : List Nat) i =>
    (List.range 64).map fun j =>
      let w :=
        if maskedTok a pd i j || fvIsZero (fvOf .fp32 (ml i).2) then 0
        else divRound .fp32 .rne false (fvOf .fp32 (exp2Ref (sub32 (score fa fb a cap i j) (ml i).1)))
          (fvOf .fp32 (ml i).2)
      add32 (mass.getD j 0) w) old

/-- An element of ATTNF (R173). -/
def attnfElem (f : Fmt) (o l : Nat) : Nat :=
  if fvIsZero (fvOf .fp32 l) then 0 else divRound f .rne true (fvOf .fp32 o) (fvOf .fp32 l)

/-- Two partial triples merged (R174): m, l and O. -/
def mergeTriple (a b : Nat × Nat × List Nat) : Nat × Nat × List Nat :=
  let m := max32 a.1 b.1
  if m == negInf then (negInf, 0, a.2.2.map fun _ => 0)
  else
    let x := fvOf .fp32 (exp2Ref (sub32 a.1 m))
    let y := fvOf .fp32 (exp2Ref (sub32 b.1 m))
    let mix (p q : Nat) : Nat :=
      roundFV .fp32 .rne false (fvAdd .rne (fvMul (fvOf .fp32 p) x) (fvMul (fvOf .fp32 q) y))
    (m, mix a.2.1 b.2.1, (a.2.2.zip b.2.2).map fun p => mix p.1 p.2)

end Sys2Proof.Machine
end

