-- ==== Sys2Proof/Machine/VecMath.lean ====
section
/-! DEFINITION. What the vector words compute on rows (15_vector R258 to R273), apart from where operands come from. -/

namespace Sys2Proof.Machine

/-- Elements of a row in width w (R249). -/
def elemsOf (w : Nat) (r : Row) : List Nat := (List.range (1024 / w)).map (elem w r)

/-- Functions of VARITH with two operands (R258). -/
inductive VAr where
  | add | sub | mul | min | max
deriving DecidableEq, Repr

/-- One element of VADD to VMAX (R258, R159, R161, R162). -/
def arith (op : VAr) (f : VFmt) (a b : Nat) : Nat :=
  if f.ef.isInt then
    let x := intOf f.ef a
    let y := intOf f.ef b
    fitInt f.ef f.sat (match op with
      | .add => x + y | .sub => x - y | .mul => x * y | .min => Min.min x y | .max => Max.max x y)
  else
    let x := fvOf f.ef a
    let y := fvOf f.ef b
    roundFV f.ef f.rm f.sat (match op with
      | .add => fvAdd f.rm x y | .sub => fvAdd f.rm x (fvNeg y) | .mul => fvMul x y
      | .min => fvMin x y | .max => fvMax x y)

/-- One element of VABS (R258). -/
def arithAbs (f : VFmt) (a : Nat) : Nat :=
  if f.ef.isInt then fitInt f.ef f.sat (intOf f.ef a).natAbs else roundFV f.ef f.rm f.sat (fvAbs (fvOf f.ef a))

/-- One element of VNEG (R258). -/
def arithNeg (f : VFmt) (a : Nat) : Nat :=
  if f.ef.isInt then fitInt f.ef f.sat (-(intOf f.ef a)) else roundFV f.ef f.rm f.sat (fvNeg (fvOf f.ef a))

/-- One element of VFMA (negp false, negc false), VFMS (negc) and VFNMA (negp): one rounding (R258). -/
def arithFma (negp negc : Bool) (f : VFmt) (a b c : Nat) : Nat :=
  if f.ef.isInt then
    let p := intOf f.ef a * intOf f.ef b
    let z := intOf f.ef c
    fitInt f.ef f.sat ((if negp then -p else p) + (if negc then -z else z))
  else
    let p := fvMul (fvOf f.ef a) (fvOf f.ef b)
    let z := fvOf f.ef c
    roundFV f.ef f.rm f.sat (fvAdd f.rm (if negp then fvNeg p else p) (if negc then fvNeg z else z))

/-- Functions of VLOGIC with two operands. -/
inductive VLg where
  | and | or | xor | shl | shr | sra
deriving DecidableEq, Repr

/-- One element of VLOGIC on w-bit strings (R258). -/
def logic (op : VLg) (w a b : Nat) : Nat :=
  match op with
  | .and => a &&& b
  | .or => a ||| b
  | .xor => a ^^^ b
  | .shl => if b ≥ w then 0 else a * p2 b % p2 w
  | .shr => if b ≥ w then 0 else a / p2 b
  | .sra =>
    let s : Int := if a ≥ p2 (w - 1) then (a : Int) - p2 w else a
    ((s / (p2 (Min.min b w) : Int)) % (p2 w : Int)).toNat

/-- The condition of VCMP on two elements (R259). -/
def vcond (c : VCond) (f : Fmt) (a b : Nat) : Bool :=
  if f.isInt then
    let x := intOf f a
    let y := intOf f b
    match c with
    | .eq => x == y | .ne => x != y | .lt => x < y | .le => x ≤ y | .gt => y < x | .ge => y ≤ x | .unord => false
  else
    let x := fvOf f a
    let y := fvOf f b
    if fvIsNan x || fvIsNan y then c == .ne || c == .unord
    else match c with
    | .eq => !fvLt x y && !fvLt y x
    | .ne => fvLt x y || fvLt y x
    | .lt => fvLt x y
    | .le => !fvLt y x
    | .gt => fvLt y x
    | .ge => !fvLt x y
    | .unord => false

/-- VCVT of one row (R262): `old` is the row of vd, kept where a narrowing writes nothing. -/
def vcvtRow (src : Fmt) (f : VFmt) (p : Nat) (old a : Row) : Row :=
  let ws := src.width
  let wf := f.ef.width
  let c (x : Nat) : Nat := cvt src f.ef f.rm f.sat x
  if ws == wf then rowOf wf fun k => c (elem ws a k)
  else if wf < ws then
    let n := 1024 / ws
    rowOf wf fun k => if decide (p * n ≤ k) && decide (k < p * n + n) then c (elem ws a (k - p * n)) else elem wf old k
  else
    let n := 1024 / wf
    rowOf wf fun k => c (elem ws a (p * n + k))

/-- VPACK of one row (R263). -/
def vpackRow (src : Fmt) (f : VFmt) (a b : Row) : Row :=
  let n := 1024 / src.width
  rowOf f.ef.width fun k =>
    cvt src f.ef f.rm f.sat (if k < n then elem src.width a k else elem src.width b (k - n))

/-- A reduction of a list of elements to one value in F (R168); ARGMAX and ARGMIN give the index. INT32 sums always wrap (R162).
DESIGN CHOICE (log entry 70): ARGMAX and ARGMIN take −0 as below +0, as MAX and MIN do. -/
def reduce (fn : RedFn) (f : VFmt) (l : List Nat) : Nat :=
  let F := f.ef
  match fn with
  | .sum =>
    if F.isInt then fitInt F (f.sat && F != .i32) (l.map (intOf F)).sum
    else
      let p := (groupsOf 32 l).foldl (fun acc g =>
        roundFV .fp32 .rne false (fvAdd .rne (fvOf .fp32 acc) (fvSum (g.map (fvOf F))))) 0
      roundFV F f.rm f.sat (fvOf .fp32 p)
  | .max | .min =>
    let up := fn == .max
    if F.isInt then
      match l with
      | [] => 0
      | x :: xs => xs.foldl (fun m e =>
          if (if up then decide (intOf F m < intOf F e) else decide (intOf F e < intOf F m)) then e else m) x
    else
      match l with
      | [] => 0
      | x :: xs => roundFV F f.rm f.sat (xs.foldl (fun m e =>
          if up then fvMax m (fvOf F e) else fvMin m (fvOf F e)) (fvOf F x))
  | .argmax | .argmin =>
    let up := fn == .argmax
    match (if F.isInt then none else l.findIdx? fun e => fvIsNan (fvOf F e)) with
    | some i => i
    | none =>
      let lt (a b : Nat) : Bool := if F.isInt then decide (intOf F a < intOf F b) else fvLtz (fvOf F a) (fvOf F b)
      ((List.range l.length).foldl (fun (best : Nat) i =>
        if (if up then lt (l.getD best 0) (l.getD i 0) else lt (l.getD i 0) (l.getD best 0)) then i else best) 0)

/-- VREDR of one row (R266). -/
def vredrRow (fn : RedFn) (f : VFmt) (a : Row) : Row :=
  let v := reduce fn f (elemsOf f.ef.width a)
  match fn with
  | .argmax | .argmin => rowList 32 [v]
  | _ => rowList f.ef.width [v]

/-- Row 0 of VREDC over the active rows (R266). -/
def vredcRow (fn : RedFn) (f : VFmt) (rows : List Row) : Row :=
  rowOf f.ef.width fun k => reduce fn f (rows.map fun r => elem f.ef.width r k)

/-- VTRANS of sixteen rows (R267). -/
def vtransRows (w : Nat) (rows : List Row) : List Row :=
  (List.range 16).map fun r => rowOf w fun k => elem w (rows.getD (k % 16) 0) (k / 16 * 16 + r)

/-- A stable sort under the key order of R270, of (key, index) pairs. -/
def sortKeys (f : Fmt) (desc : Bool) (l : List (Nat × Nat)) : List (Nat × Nat) :=
  l.insertionSort fun a b => (if desc then keyLt f a.1 b.1 else keyLt f b.1 a.1) = false

/-- VSORT of a sequence: keys, or the original indices (R270). -/
def vsortList (f : Fmt) (desc idx : Bool) (l : List Nat) : List Nat :=
  (sortKeys f desc (l.zip (List.range l.length))).map fun p => if idx then p.2 else p.1

/-- Rows of a sequence in row-major order. -/
def rowsOfList (w : Nat) (l : List Nat) : List Row := (groupsOf (1024 / w) l).map (rowList w)

/-- VSCAN of a sequence (R271): the exact sum of each prefix, rounded once. -/
def vscanList (excl : Bool) (f : VFmt) (l : List Nat) : List Nat :=
  if f.ef.isInt then
    (l.foldl (fun (st : Int × List Nat) e =>
      let n := st.1 + intOf f.ef e
      (n, st.2 ++ [fitInt f.ef f.sat (if excl then st.1 else n)])) (0, [])).2
  else
    (l.foldl (fun (st : Option FV × List Nat) e =>
      let v := fvOf f.ef e
      let n := match st.1 with | none => v | some a => fvAdd f.rm a v
      (some n, st.2 ++ [if excl then (match st.1 with | none => 0 | some a => roundFV f.ef f.rm f.sat a)
        else roundFV f.ef f.rm f.sat n])) (none, [])).2

/-- VBUCKET of one element against s splitters (R272). -/
def vbucketElem (f : Fmt) (splits : List Nat) (a : Nat) : Nat := (splits.filter fun b => !keyLt f a b).length

/-- Row 0 of VHIST (R273). -/
def vhistRow (acc : Bool) (old : Row) (l : List Nat) : Row :=
  rowOf 32 fun b => (l.filter (· == b)).length + if acc then elem 32 old b else 0

/-- VMXSCALE forming blocks from one row (R264). -/
def vmxPack (src : Fmt) (rm : RMode) (a : Row) : Row :=
  let blocks := (groupsOf 32 (elemsOf src.width a)).map fun g => mxForm rm (g.map (fvOf src))
  let codes := rowList 4 (blocks.flatMap Prod.snd)
  rowOf 8 fun k => if k < 64 then elem 8 codes k else (blocks.getD (k - 64) (0, [])).1

/-- VMXSCALE expanding one packed row (R264, R155). -/
def vmxExpand (f : Fmt) (a : Row) : Row :=
  rowOf f.width fun k => expandTo f (mxValue (elem 8 a (64 + k / 32)) (elem 4 a k))

/-- Row 0 of VCHSCALE SCALE (R265, R154). -/
def vchScale (src : Fmt) (rows : List Row) : Row :=
  rowList 16 ((List.range (1024 / src.width)).map fun k => i4Scale (rows.map fun r => fvOf src (elem src.width r k)))

/-- VCHSCALE QUANT of one row (R265). -/
def vchQuant (src : Fmt) (scales a : Row) : Row :=
  rowList 4 ((List.range (1024 / src.width)).map fun k => i4Quant (fvOf src (elem src.width a k)) (elem 16 scales k))

/-- VCHSCALE EXPAND of one row (R265). A row holds 64 BF16 scales; the scale of a column from 64 upward, which an
8-bit F has, is a free value (log entry 14). -/
def vchExpand (f : Fmt) (scales a : Row) : Row :=
  rowOf f.width fun k =>
    expandTo f (i4Value (elem 4 a k) (if k < 64 then elem 16 scales k else Config.freeNat k % p2 16))

end Sys2Proof.Machine
end

