-- ==== Sys2Proof/Machine/Pipes.lean ====
section
/-! DEFINITION. What the operations in flight of a job do as its cycles pass: scalar results, vector rows, matrix words,
accumulator exchanges, scratchpad traffic (13 R211; 15 R253, R257, R274; 19 R323 to R338). -/

namespace Sys2Proof.Machine

-- Window copies of the core that a write meets (07 R132).

/-- The bound copy of a tile. -/
def Core.copyAt (c : Core) (tile : Nat) : Option WinCopy := c.copies.find? fun w => w.tile == tile

/-- A byte of a scratchpad with its poison as it is carried (17 R281; 19 R326). One of a bound copy in I is poison (07 R132), with
free bits (log entry 14). -/
def Core.cellAt (c : Core) (a : Nat) : Byte × Option PoU :=
  let va : Word := BitVec.ofNat 64 a
  if (c.copyAt (a / 4096)).any fun w => w.st == .i then
    (BitVec.setWidth 8 (Config.poisonBits (origin cExtentViolation va)), some (.carried (origin cExtentViolation va)))
  else (c.spad.get a, (alGet c.spadPo (a / 8)).map fun p => .carried (p.origin va))

/-- Bytes of a scratchpad range as a command reads them. -/
def Core.cellsAt (c : Core) (a n : Nat) : List (Byte × Option PoU) := (List.range n).map fun i => c.cellAt (a + i)

/-- A write by an agent of the core sets dirty bits in copies held in E or M (R132). -/
def Core.winWrite (c : Core) (a n : Nat) : Core :=
  { c with copies := c.copies.map fun (w : WinCopy) =>
      let words := ((List.range ((a + n + 3) / 4 - a / 4)).map (a / 4 + ·)).filter fun x => x / 1024 == w.tile
      if words.isEmpty then w
      else match w.st with
      | .e | .m => { w with st := .m, dirty := (w.dirty ++ words.map (· % 1024)).eraseDups }
      | _ => w }

/-- A write by a stream that lands in this cycle with tag 0 (05 R90, R118). -/
def Core.streamWrite (c : Core) (st : Strm) (ord a : Nat) (bs : List Byte) (po : Option PoU) : Core :=
  (c.winWrite a bs.length).land (Sys2Proof.Machine.landing (rankOf st) ord a bs po 0 (tilesOf a bs.length))

/-- A 128-byte row as the scratchpad holds it now, with its poison (R86, R254). -/
def Core.readRow (c : Core) (a : Nat) : VRow :=
  ⟨rowOfBytes (c.spad.read a 128), (c.poison a 128).map fun p => p.origin (BitVec.ofNat 64 a)⟩

/-- n bytes as the scratchpad holds them now. -/
def Core.bytes (c : Core) (a n : Nat) : List Byte := c.spad.read a n

/-- Arrivals of n bytes on the turnstile of a slot, at its current phase (05 R111). -/
def Job.slotArrive (j : Job) (car slot n : Nat) : Job :=
  let k := BitVec.ofNat 6 ((j.car.toList.getD car Carousel.zero).firstts + slot)
  j.modTs k fun t => t.addArr t.phase n

-- Scratchpad traffic (01 R24; 03 R61, R62).

/-- The bank of a scratchpad address, numbered over both groups (01 R24). -/
def bankOf (a : Nat) : Nat := a / 0x400000 * 32 + a % 0x400000 / 512 % 32

/-- The bank group of a scratchpad address. -/
def groupOf (a : Nat) : Nat := a / 0x400000

/-- The banks that n bytes at a lie in. -/
def banksOf (a n : Nat) : List Nat := ((List.range ((a + n + 511) / 512 - a / 512)).map fun i => bankOf (a / 512 * 512 + 512 * i))

/-- Traffic of one access of n bytes to each of the addresses given, in cycle `due`. -/
def trafOf (j : Job) (st : Strm) (pc : Word) (due : Nat) (addrs : List Nat) (n : Nat) : Traf :=
  ⟨due, 1, st, (addrs.flatMap fun a => banksOf a n).eraseDups, n * (addrs.filter fun a => groupOf a == 0).length,
    n * (addrs.filter fun a => groupOf a != 0).length, addrs, pc, j.st == .trapped⟩

/-- The traffic falls in this cycle. -/
def Traf.covers (t : Traf) (c : Nat) : Bool := decide (t.due ≤ c) && decide (c < t.due + t.len)

/-- The traffic already charged to a cycle of an access. -/
def Traf.peers (t : Traf) (c : Nat) (l : List Traf) : List Traf := l.filter fun u => u.covers c && u.h == t.h

/-- The cycles of an access in which the traffic beside it begins: with the first of its own they tell all. -/
def Traf.points (t : Traf) (l : List Traf) : List Nat := t.due :: (l.map Traf.due).filter t.covers

/-- In this cycle the access names a bank that another names, or passes 512 bytes in a group (R61). -/
def Traf.clashAt (t : Traf) (l : List Traf) (c : Nat) : Bool :=
  let p := t.peers c l
  t.banks.any (fun b => p.any fun u => u.banks.contains b) ||
    (decide (0 < t.g0) && decide ((p.map Traf.g0).sum + t.g0 > 512)) ||
    (decide (0 < t.g1) && decide ((p.map Traf.g1).sum + t.g1 > 512))

/-- In some cycle it does. -/
def Traf.clash (t : Traf) (l : List Traf) : Bool := (t.points l).any (t.clashAt l)

/-- The address that BANK_CONFLICT reports: the first moved that lies in the bank named twice or in the group whose
budget is exceeded (15 R257; 23 R371). -/
def Traf.spot (t : Traf) (l : List Traf) : Word :=
  let p := t.peers (((t.points l).find? (t.clashAt l)).getD t.due) l
  let passes (a : Nat) : Bool :=
    if groupOf a == 0 then decide ((p.map Traf.g0).sum + t.g0 > 512) else decide ((p.map Traf.g1).sum + t.g1 > 512)
  BitVec.ofNat 64 ((t.addrs.find? fun a => passes a || (banksOf a 128).any fun b => p.any fun u => u.banks.contains b).getD
    (t.addrs.headD 0))

-- Scalar results.

/-- The results of a stream that are due are written (R211). -/
def Job.scalarDue (j : Job) (st : Strm) : Job := j.modStream st fun t => t.drain j.now

-- Vector rows.

/-- Rows written into a tile. -/
def Tile.put (t : Tile) (rows : List (Nat × VRow)) : Tile :=
  rows.foldl (fun (t : Tile) r => if h : r.1 < 16 then t.set r.1 r.2 else t) t

/-- A vector word still waits for rows it reads from memory. -/
def Job.rowsOpen (j : Job) (ord : Nat) : Bool :=
  (j.moves.any fun m => m.ord == ord && m.data.isNone) ||
    j.outs.any fun g => g.ord == ord && match g.kind with | .vrow _ _ => true | _ => false

/-- An earlier vector word still waits for rows of the register that this one writes: this one writes after it (R253, R274). -/
def Job.vectorBehind (j : Job) (o : VecOp) : Bool :=
  j.ops.any fun p => p.vd == o.vd && decide (p.ord < o.ord) && j.rowsOpen p.ord

/-- The vector words of those given that are complete write vd, the word issued later prevailing row by row (R274). -/
def Job.vectorBy (j : Job) (which : VecOp → Bool) : Job :=
  let ready := (j.ops.filter fun o => which o && !j.rowsOpen o.ord && !j.vectorBehind o).insertionSort fun a b => a.ord ≤ b.ord
  let j : Job := ready.foldl (fun (j : Job) o =>
    { j with v := j.v.set o.vd.toNat ((j.v[o.vd.toNat]).put o.rows) }) j
  { j with ops := j.ops.filter fun o => !(ready.any fun r => r.ord == o.ord) }

/-- The vector words that are due and complete. -/
def Job.vectorDue (j : Job) : Job := j.vectorBy fun o => decide (o.due ≤ j.now)

/-- The scratchpad address of a row on its way, as the carousels stand: none while it cannot be resolved. -/
def Job.whereTo (j : Job) (m : Move) (n : Nat) : Option Nat :=
  if m.addr < 0x800000 then some m.addr
  else match j.place m.addr n with
  | .at l => some l.addr
  | _ => none

/-- The bytes that a row on its way will write, where they lie. -/
def Job.cells (j : Job) (m : Move) : List (Nat × Byte × Option PoU) :=
  match m.data with
  | some bs =>
    match j.whereTo m bs.length with
    | some a => (List.range bs.length).zip bs |>.map fun e => (a + e.1, e.2, m.po.map PoU.carried)
    | none => []
  | none => []

/-- The scratchpad as the writes of a stream before order `ord` leave it, those still on their way included: within a stream,
accesses to one address take effect in program order (07 R117). -/
def Core.ownView (c : Core) (j : Job) (st : Strm) (ord : Nat) : Core :=
  let c := (c.landing.filter fun l => l.rank == rankOf st && decide (l.ord < ord)).foldl (fun (d : Core) l => d.commitOne l.bytes) c
  (j.moves.filter fun p => p.strm == st && decide (p.ord < ord)).foldl (fun (d : Core) p => d.commitOne (j.cells p)) c

/-- The rows of a stream still on their way carry the bytes of a later write of that stream where they overlap it, since
that one takes effect after them (07 R117). -/
def Job.overwrite (j : Job) (st : Strm) (ord a : Nat) (bs : List Byte) : Job :=
  { j with moves := j.moves.map fun (m : Move) =>
      match m.data with
      | some d =>
        match j.whereTo m d.length with
        | some b =>
          if m.strm == st && decide (m.ord < ord) && decide (b < a + bs.length) && decide (a < b + d.length) then
            { m with data := some (d.zipIdx.map fun e => if a ≤ b + e.2 then bs.getD (b + e.2 - a) e.1 else e.1) }
          else m
        | none => m
      | none => m }

/-- A class-10 word writes masses into the scratchpad. -/
def MatOp.masses (o : MatOp) : Bool := match o.op with | .amass .. => true | _ => false

/-- The masses that earlier words of a stream have still to write leave out bytes that a later word of it has written: within a
stream, accesses to one address take effect in program order (07 R117). -/
def Job.skipMasses (j : Job) (st : Strm) (ord a n : Nat) : Job :=
  if st != .m then j
  else { j with mops := j.mops.map fun (o : MatOp) =>
    if o.masses && !o.fin && !o.landed && decide (o.ord < ord) then { o with skip := (List.range n).map (a + ·) ++ o.skip } else o }

/-- Where a scratchpad access in flight leads when it is due: a scratchpad address with the producer slot it arrives on, poison,
nowhere yet, or a trap. -/
inductive Lead where
  | at (a : Nat) (slot : Option (Nat × Nat))
  | poison (o : Origin)
  | wait
  | bad (cause : Cause) (info : Word)
deriving DecidableEq, Repr

/-- Length of an access in flight. -/
def Move.len (m : Move) : Nat := match m.data with | some d => d.length | none => 128

/-- Window tiles that an access in flight meets at its address (07 R132, R134); `held` tells which tiles of the core other
cores hold. -/
def Move.window (m : Move) (held : Nat → Bool) (c : Core) (a : Nat) (slot : Option (Nat × Nat)) : Lead :=
  let tiles := tilesOf a m.len
  let copies := tiles.filterMap c.copyAt
  if m.data.isSome && copies.any fun w => w.st == .s || w.st == .o || w.st == .i then
    .bad cExtentViolation (BitVec.ofNat 64 a)
  else if m.data.isSome && tiles.any held then .wait
  else if m.data.isNone && copies.any fun w => w.st == .i then .poison (origin cExtentViolation (BitVec.ofNat 64 a))
  else .at a slot

/-- Where an access in flight leads (05 R110 to R112; 15 R257): a carousel row is resolved when it moves. -/
def Job.lead (j : Job) (held : Nat → Bool) (c : Core) (m : Move) : Lead :=
  if m.addr < 0x800000 then m.window held c m.addr m.reads
  else match j.place m.addr m.len with
  | .at l => m.window held c l.addr l.prod
  | .notReady => .wait
  | .bad (.trap cause info) => .bad cause info
  | .carFault k => .bad cCarouselFault (BitVec.ofNat 64 k)
  | _ => .bad cExtentViolation (BitVec.ofNat 64 m.addr)

/-- One scratchpad access performed: its row is read into the vector word, or its bytes land, over what earlier words of its stream
have still to write there (R257, R326; 07 R117). -/
def performMove (c : Core) (j : Job) (m : Move) (a : Nat) (slot : Option (Nat × Nat)) : Core × Job :=
  match m.data with
  | some d =>
    let j := match slot with | some (car, k) => j.slotArrive car k d.length | none => j
    (c.streamWrite m.strm m.ord a d (m.po.map PoU.carried), (j.overwrite m.strm m.ord a d).skipMasses m.strm m.ord a d.length)
  | none => (c, { j with ops := j.ops.map fun (o : VecOp) =>
      if o.ord == m.ord then { o with rows := o.rows ++ [(m.row, (c.ownView j m.strm m.ord).readRow a)] } else o })

/-- A row that yields poison (R132). -/
def Job.poisonRow (j : Job) (m : Move) (g : Origin) : Job :=
  { j with ops := j.ops.map fun (o : VecOp) =>
      if o.ord == m.ord then { o with rows := o.rows ++ [(m.row, ⟨Config.poisonRow g, some g⟩)] } else o }

/-- A trap met by a stream in this cycle (23 R373). -/
def Job.note (j : Job) (t : TrapNote) : Job := { j with traps := j.traps ++ [t] }

/-- The trap of an access in flight: precise on its word; its stream stops where it stands (05 R112; 23 R372). -/
def Job.noteMove (j : Job) (m : Move) (cause : Cause) (info : Word) : Job :=
  j.note ⟨m.strm, cause, info, m.pc, (j.stream m.strm).pc, true⟩

/-- An access that is no longer on its way. -/
def Job.dropMove (j : Job) (m : Move) : Job := { j with moves := j.moves.filter fun p => !(p == m) }

/-- One access that is due at the start of a cycle and that can no longer be made: it traps, or its row is poison (05 R112; 07
R132). -/
def openOne (held : Nat → Bool) (c : Core) (j : Job) (m : Move) : Job :=
  match j.lead held c m with
  | .bad cause info => (j.dropMove m).noteMove m cause info
  | .poison g => (j.dropMove m).poisonRow m g
  | .wait | .at _ _ => j

/-- The carousel rows of one word that can move in this cycle: at most four, of one group, each with its place (15 R257). -/
def Job.groupNow (held : Nat → Bool) (c : Core) (j : Job) (ord : Nat) : List (Move × Nat × Option (Nat × Nat)) :=
  let rows := (j.moves.filter fun m => m.ord == ord && decide (m.due ≤ j.now) && decide (0x800000 ≤ m.addr)).filterMap fun m =>
    match j.lead held c m with
    | .at a slot => some (m, a, slot)
    | _ => none
  let rows := rows.insertionSort fun x y => x.1.row ≤ y.1.row
  rows.filter fun r => r.1.row / 4 == (rows.map fun r => r.1.row / 4).headD 0

/-- The carousel rows of one word that are due are resolved, and are one access of the cycle with the word's other rows in it; what
they clash with stalls them, or traps in lockstep mode, at the first of its rows in the bank or the group (15 R257; 03 R61, R62). -/
def openRows (held : Nat → Bool) (c : Core) (j : Job) (ord : Nat) : Job :=
  match j.groupNow held c ord with
  | [] => j
  | (m, a, slot) :: more =>
    let rows := (m, a, slot) :: more
    let mine (u : Traf) : Bool := u.strm == m.strm && u.pc == m.pc && u.covers j.now && u.h == (j.st == .trapped)
    let beside := j.moves.filterMap fun p =>
      if p.ord == ord && decide (p.due == j.now) && decide (p.addr < 0x800000) then some (p.row, p.addr) else none
    let addrs := ((beside ++ rows.map fun r => (r.1.row, r.2.1)).insertionSort fun x y => x.1 ≤ y.1).map Prod.snd
    let t := trafOf j m.strm m.pc j.now addrs m.len
    let others := j.traffic.filter fun u => !mine u
    if j.st != .trapped && t.clash others then
      if j.strict then (rows.foldl (fun (j : Job) r => j.dropMove r.1) j).noteMove m cBankConflict (t.spot others) else j
    else
      { j with
        traffic := others ++ [t]
        moves := j.moves.map fun (p : Move) =>
          match rows.find? fun r => r.1 == p with
          | some r => { p with addr := r.2.1, reads := if p.data.isSome then r.2.2 else p.reads }
          | none => p }

/-- The accesses that are due as a cycle begins, in issue order, the carousel rows word by word. -/
def Job.openMoves (held : Nat → Bool) (c : Core) (j : Job) : Job :=
  let due := j.moves.filter fun m => decide (m.due ≤ j.now)
  ((due.filter fun m => decide (0x800000 ≤ m.addr)).map Move.ord).eraseDups.foldl (openRows held c) (due.foldl (openOne held c) j)

/-- An access that is due and has to wait: for its carousel slot, for the holders of a window tile, or for the traffic of the
cycle (05 R112; 07 R134; 03 R62). -/
def Job.waits (held : Nat → Bool) (c : Core) (j : Job) (m : Move) : Bool :=
  decide (m.due ≤ j.now) && (decide (0x800000 ≤ m.addr) || j.lead held c m == .wait)

/-- One access that is due is made, unless it must wait for a carousel slot or for the holders of a window tile; one whose slot has
failed traps (05 R112; 07 R134). -/
def moveOne (held : Nat → Bool) (r : Core × Job) (m : Move) : Core × Job :=
  match r.2.lead held r.1 m with
  | .wait => r
  | .bad cause info => (r.1, (r.2.dropMove m).noteMove m cause info)
  | .poison g => (r.1, (r.2.dropMove m).poisonRow m g)
  | .at a slot => performMove r.1 (r.2.dropMove m) m a slot

/-- The accesses that satisfy a test, in issue order. -/
def moveSome (held : Nat → Bool) (c : Core) (j : Job) (which : Move → Bool) : Core × Job :=
  (j.moves.filter which).foldl (moveOne held) (c, j)

/-- The accesses that are due. -/
def moveDue (held : Nat → Bool) (c : Core) (j : Job) (all : Bool) : Core × Job :=
  moveSome held c j fun m => all || (decide (m.due ≤ j.now) && decide (m.addr < 0x800000))

-- Scalar accesses that a clash has moved to the next cycle (03 R62).

/-- A poisoned x register (23 R376); no rule states its bits (log entry 14). -/
def poisonX (o : Origin) : XVal := ⟨Config.poisonBits o, some o⟩

/-- The predicate that ATINCB writes (13 R245): a poisoned unit poisons xd alone (R378); where the atomic was not performed
p7 is set and poisoned (R416). -/
def incbP (r : List Byte × Option Origin) (c : Nat) : PVal :=
  match r with
  | ([], some o) => ⟨true, some o⟩
  | (bs, _) => PVal.clean (incbRefused (leNat bs) c)

/-- What a scalar load of n bytes at a local address finds (R242; 23 R376). -/
def Core.loaded (c : Core) (sx : Bool) (a n : Nat) : XVal :=
  match c.poison a n with
  | some p => poisonX (p.origin (BitVec.ofNat 64 a))
  | none => XVal.clean (widen sx n (leNat (c.bytes a n)))

/-- An atomic on the scratchpad in one step (07 R126; R246), `view` being what its stream finds there: a poisoned unit stays
poisoned, and its old value comes back poisoned (23 R378). The core with the write on its way, the old value, and p7 of
ATINCB. -/
def Core.atomicLocal (c view : Core) (st : Strm) (ord : Nat) (aop : BitVec 4) (b k : Word) (a n : Nat) : Core × XVal × PVal × List Byte :=
  let w := 8 * n
  let bs := (List.range n).map fun i => view.atomicByte (a + i)
  let old := leNat bs
  let new := leBytes n (atomNew aop w old (b.toNat % 2 ^ w) (k.toNat % 2 ^ w))
  let pu := view.poison a n
  let po := pu.map fun p => p.origin (BitVec.ofNat 64 a)
  ((c.winWrite a n).land { Sys2Proof.Machine.landing (rankOf st) ord a new pu 0 (tilesOf a n) with atomic := true }, ⟨BitVec.ofNat 64 old, po⟩,
    incbP (bs, po) (k.toNat % 2 ^ w), new)

/-- A scalar result that is due after l cycles, unless a later word has written its register. -/
def Job.lateResult (j : Job) (st : Strm) (isP : Bool) (reg : BitVec 4) (v : XVal) (l : Nat) : Job :=
  if reg == 0 then j else j.modStream st fun t => { t with pend := t.pend ++ [⟨isP, reg, v, j.now + l⟩] }

/-- A scalar access that is due is made. -/
def lateOne (r : Core × Job) (l : Late) : Core × Job :=
  let (c, j) := r
  let view := c.ownView j l.strm l.since
  match l.op with
  | .load sx => (c, j.lateResult l.strm false l.reg (view.loaded sx l.addr l.n) 4)
  | .atomic aop _ b k =>
    let (c, x, p, new) := c.atomicLocal view l.strm l.ord aop b k l.addr l.n
    let j := ((j.overwrite l.strm l.ord l.addr new).skipMasses l.strm l.ord l.addr l.n).lateResult l.strm false l.reg x 6
    let j := match l.prod with | some (car, k) => j.slotArrive car k l.n | none => j
    (c, if aop == 8 && !l.noP then j.lateResult l.strm true 7 ⟨if p.v then 1 else 0, p.po⟩ 6 else j)

/-- The scalar accesses that are due are made, in issue order. -/
def lateDue (c : Core) (j : Job) : Core × Job :=
  (j.late.filter fun l => decide (l.due ≤ j.now)).foldl lateOne (c, { j with late := j.late.filter fun l => !decide (l.due ≤ j.now) })

-- Accumulators.

/-- The working bank of an accumulator (R315, R316). -/
def Job.bankW (j : Job) (a : BitVec 3) : AccBank := j.accW[a.toFin]

/-- The visible bank: a4 to a7 have one bank (R315). -/
def Job.bankV (j : Job) (a : BitVec 3) : AccBank :=
  if h : a.toNat < 4 then j.accV[a.toNat] else j.accW[a.toFin]

/-- The job with a working bank replaced. -/
def Job.setW (j : Job) (a : BitVec 3) (b : AccBank) : Job := { j with accW := j.accW.set a.toFin b }

/-- One row of a bank changed. -/
def AccBank.upd (b : AccBank) (i : Nat) (f : AccRowSt → AccRowSt) : AccBank :=
  if h : i < 128 then b.set i (f b[i]) else b

/-- The bank's row i. -/
def AccBank.at (b : AccBank) (i : Nat) : AccRowSt := b.toList.getD i AccRowSt.zero

/-- The exchange of the two banks of a0 to a3 (R332). -/
def Job.exchange (j : Job) (a : BitVec 2) : Job :=
  let w := j.accW[a.toNat]
  { j with accW := j.accW.set a.toNat j.accV[a.toFin], accV := j.accV.set a.toFin w }

/-- A word owns or reads the accumulator in this cycle (R323): an exchange takes effect at the end of the first cycle in
which none does. -/
def Job.accBusy (j : Job) (a : BitVec 3) : Bool :=
  j.marks.any fun m => decide (j.now < m.due) && m.h == (j.st == .trapped) &&
    match m.rsc with
    | .accOwn b _ => b == a
    | .accRead b => b == a
    | _ => false

/-- The pending exchanges whose accumulators no word owns or reads in this cycle take effect at its end; the mark keeps the cycle
for later checks (R332; 23 R372). -/
def Job.swapDue (j : Job) (which : BitVec 2 → Bool) : Job :=
  j.aswap.foldl (fun (j : Job) p =>
    if which p.1 && !j.accBusy ((0 : BitVec 1) ++ p.1) then
      { (j.exchange p.1).addMark (.accSwap p.1) 1 (BitVec.ofNat 64 p.2.2) with aswap := j.aswap.filter fun q => q.2.1 != p.2.1 }
    else j) j

-- Matrix words.

/-- The swizzle that a word names. -/
def swzOf : Instr → Swz
  | .mma _ _ _ _ _ _ z _ _ _ | .mmat _ _ _ _ _ _ z _ _ _ | .ald _ _ _ _ z _ | .attn _ _ _ _ _ _ z _
  | .amass _ _ _ _ _ z _ | .alstat _ _ _ z _ => z
  | _ => .plain

/-- The base that operand `id` of a word was resolved to. -/
def MatOp.base (o : MatOp) (id : Nat) : Nat :=
  match o.reads.find? fun r => r.key == id with
  | some r => r.addr
  | none => 0

/-- The issue cycle of a matrix word. -/
def MatOp.at (o : MatOp) : Nat := (o.reads.map OpRead.due).headD o.due

/-- The operand bytes that a word reads in this cycle are captured as they stand at its start (R323, R326); those of a bound copy
that has gone to I are poison (07 R132). -/
def MatOp.capture (o : MatOp) (c : Core) (now : Nat) : MatOp :=
  if o.reads.isEmpty || decide (now < o.at) || o.fin || o.landed then o
  else
    let rs := operandReads o.op o.xs o.adesc (now - o.at)
    let bytes := rs.flatMap fun r => (List.range r.2.2).map fun i =>
      (capKey r.1 (r.2.1 + i), c.cellAt (o.base r.1 + swzOff (swzOf o.op) (r.2.1 + i)))
    { o with
      cap := bytes.foldl (fun m b => m.put b.1 b.2.1) o.cap
      capPo := o.capPo ++ bytes.filterMap fun b => b.2.2.map fun p => (b.1, p) }

/-- The origin of a poisoned captured byte of an operand that satisfies a test on its logical offset. -/
def MatOp.poisonIn (o : MatOp) (id : Nat) (p : Nat → Bool) : Option Origin :=
  o.capPo.findSome? fun e =>
    if e.1 / 0x1000000 == id && p (e.1 % 0x1000000) then
      (match e.2 with | .carried g => some g | .raw c => some (origin c 0))
    else none

/-- The row of a panel that a logical offset feeds (R319). -/
def panelRow (rw o : Nat) : Nat := o / 128 % max 1 (rowsPad rw)

/-- First of two. -/
def orElseO (a b : Option Origin) : Option Origin := match a with | some x => some x | none => b

/-- MMA and MMAT complete (R327, R338). -/
def Job.finishMma (j : Job) (o : MatOp) (ad : BitVec 3) (trans : Bool) (fa fb : Fmt) (ovw neg : Bool) : Job :=
  let s := mShape o.xs
  let w := j.bankW ad
  let fromB := o.poisonIn 1 fun _ => true
  let w' := (mmaRows trans fa fb ovw neg s o.cap w).foldl (fun (b : AccBank) r =>
    let fromA := o.poisonIn 0 fun x =>
      if trans then (if fa.width == 16 then x % 256 / 2 else x % 128) == r.1 else panelRow s.m x == r.1
    let src := orElseO fromA fromB
    b.upd r.1 fun old =>
      { old with
        w := r.2
        po := if ovw && s.n == 64 && src.isNone then none else orElseO old.po src }) w
  j.setW ad w'

/-- AZERO completes (R328). -/
def Job.finishAzero (j : Job) (ad : BitVec 3) : Job := j.setW ad AccBank.zero

/-- ALD completes (R329, R338). -/
def Job.finishAld (j : Job) (o : MatOp) (ad : BitVec 3) (fa : Fmt) : Job :=
  let s := mShape o.xs
  let pitch := if s.k == 0 then s.n * fa.width / 8 else s.k
  let w' := (if s.n == 0 then [] else List.range s.m).foldl (fun (b : AccBank) i =>
    let src := o.poisonIn 0 fun x => decide (i * pitch ≤ x) && decide (x < i * pitch + s.n * fa.width / 8)
    b.upd i fun old =>
      { old with
        w := accOf fun n => if n < s.n then
            let e := leNat (o.cap.read (capKey 0 (i * pitch + n * fa.width / 8)) (fa.width / 8))
            if fa == .bf16 || fa == .fp16 then toF32 fa e else e
          else accElem old.w n
        po := if s.n == 64 && src.isNone then none else orElseO old.po src }) (j.bankW ad)
  j.setW ad w'

/-- ALSTAT completes (R337, R338). -/
def Job.finishAlstat (j : Job) (o : MatOp) (ad : BitVec 3) : Job :=
  let rows := (o.xs &&& 0xFF).toNat
  let pitch := if (o.xs >>> 16 &&& 0xFFFF).toNat == 0 then 8 else (o.xs >>> 16 &&& 0xFFFF).toNat
  j.setW ad ((List.range rows).foldl (fun (b : AccBank) i =>
    let src := o.poisonIn 0 fun x => decide (i * pitch ≤ x) && decide (x < i * pitch + 8)
    b.upd i fun old =>
      { old with
        m := BitVec.ofNat 32 (leNat (o.cap.read (capKey 0 (i * pitch)) 4))
        l := BitVec.ofNat 32 (leNat (o.cap.read (capKey 0 (i * pitch + 4)) 4))
        po := orElseO old.po src }) (j.bankW ad))

/-- The accumulator `ad + n`. -/
def accPlus (ad : BitVec 3) (n : Nat) : BitVec 3 := ad + BitVec.ofNat 3 n

/-- ATTN completes (R336, R338). -/
def Job.finishAttn (j : Job) (o : MatOp) (ad : BitVec 3) (fa fb : Fmt) : Job :=
  let a := aDesc o.adesc
  let kv := orElseO (o.poisonIn 1 fun _ => true) (o.poisonIn 2 fun _ => true)
  (List.range a.rows).foldl (fun (j : Job) i =>
    let st := (j.bankW ad).at i
    let r := attnRow fa fb a o.pd o.cap i st.m.toNat st.l.toNat
      fun c => accElem ((j.bankW (accPlus ad (c / 64))).at i).w (c % 64)
    let src := orElseO (o.poisonIn 0 fun x => x / rowPitch fa a.d == i) kv
    let j := (List.range ((a.d + 63) / 64)).foldl (fun (j : Job) n =>
      let b := j.bankW (accPlus ad n)
      j.setW (accPlus ad n) (b.upd i fun old =>
        { old with
          w := accOf fun c => if n * 64 + c < a.d then r.2.2.getD (n * 64 + c) 0 else accElem old.w c
          po := orElseO old.po src })) j
    j.setW ad ((j.bankW ad).upd i fun old =>
      { old with m := BitVec.ofNat 32 r.1, l := BitVec.ofNat 32 r.2.1 })) j

/-- AMASS completes: the sixty-four masses written in one cycle, poisoned where a poisoned row, operand or old mass
feeds them (R337, R338), but for bytes over which a later word of the stream has written. -/
def finishAmass (c : Core) (o : MatOp) (fa fb : Fmt) : Core :=
  let a := aDesc o.adesc
  let base := o.base 3
  let stat (i : Nat) : AccRowSt := ((o.snap.find? fun e => e.1 == i).map Prod.snd).getD AccRowSt.zero
  let old := (List.range 64).map fun t => leNat (c.spad.read (base + 4 * t) 4)
  let new := massAfter fa fb a o.pd o.cap (fun i => ((stat i).m.toNat, (stat i).l.toNat)) old
  let po (t : Nat) : Option PoU :=
    match o.poisonIn 1 (fun x => x / rowPitch fb a.d == t) with
    | some g => some (.carried g)
    | none =>
      match (List.range a.rows).findSome? fun i =>
        if maskedTok a o.pd i t then none
        else orElseO (stat i).po (o.poisonIn 0 fun x => x / rowPitch fa a.d == i) with
      | some g => some (.carried g)
      | none => c.poison (base + 4 * t) 4
  let bytes := (List.range 64).flatMap fun t =>
    (leBytes 4 (new.getD t 0)).zip (List.range 4) |>.map fun e => (base + 4 * t + e.2, e.1, po t)
  let bytes := bytes.filter fun b => !o.skip.contains b.1
  (c.winWrite base 256).land ⟨rankOf .m, o.ord, false, false, 0, tilesOf base 256, bytes, []⟩

/-- The masses of an AMASS meet a window tile that other cores hold: they wait for it (07 R134). -/
def MatOp.massHeld (o : MatOp) (held : Nat → Bool) (c : Core) : Bool :=
  o.masses && !o.landed && !o.fin && (tilesOf (o.base 3) 256).any held && !((tilesOf (o.base 3) 256).filterMap c.copyAt).any fun w =>
    w.st == .s || w.st == .o || w.st == .i

/-- The masses of an AMASS land, and arrive on the carousel slot that they lie in; where a bound copy may no longer be written the
word traps instead (07 R132). -/
def landAmass (c : Core) (j : Job) (o : MatOp) (fa fb : Fmt) : Core × Job :=
  if ((tilesOf (o.base 3) 256).filterMap c.copyAt).any fun w => w.st == .s || w.st == .o || w.st == .i then
    (c, j.note ⟨.m, cExtentViolation, BitVec.ofNat 64 (o.base 3), o.pc, (j.stream .m).pc, true⟩)
  else (finishAmass c o fa fb, match o.prod with | some (car, k) => j.slotArrive car k 256 | none => j)

/-- AVEC completes: its tile enters the V stream's queue (R331). -/
def Job.finishAvec (j : Job) (s : Nat) (o : MatOp) (q : BitVec 2) : Job :=
  let half := (o.xa >>> 3 &&& 1).toNat
  let b := (o.xa &&& 7).toNat
  let row (r : Nat) : VRow :=
    let st := ((o.snap.find? fun e => e.1 == 16 * b + r).map Prod.snd).getD AccRowSt.zero
    ⟨rowOf 32 fun k => accElem st.w (32 * half + k), st.po⟩
  { j with
    vq := j.vq.set q.toFin (j.vq[q.toFin] ++ [⟨Vector.ofFn fun r => row r.val, s + 1⟩])
    vqRes := j.vqRes.set q.toFin (j.vqRes[q.toFin] - 1) }

/-- A class-10 word reaches its last cycle: its accumulators are written and its timeline number completes (R326). -/
def finishMat (gcc : Nat) (c : Core) (j : Job) (o : MatOp) : Core × Job :=
  let r : Core × Job :=
    match o.op with
    | .mma ad _ _ _ fa fb _ ovw neg _ => (c, j.finishMma o ad false fa fb ovw neg)
    | .mmat ad _ _ _ fa fb _ ovw neg _ => (c, j.finishMma o ad true fa fb ovw neg)
    | .azero ad _ => (c, j.finishAzero ad)
    | .ald ad _ _ fa _ _ => (c, j.finishAld o ad fa)
    | .alstat ad _ _ _ _ => (c, j.finishAlstat o ad)
    | .attn ad _ _ _ fa fb _ _ => (c, j.finishAttn o ad fa fb)
    | .amass _ _ _ fa fb _ _ => if o.landed then (c, j) else landAmass c j o fa fb
    | .avec _ _ q _ => (c, j.finishAvec gcc o q)
    | _ => (c, j)
  match o.tl with
  | some (k, n) => (r.1, r.2.modTl k fun t => t.complete n)
  | none => r

/-- The class-10 words that are due complete, in issue order; each leaves in the next cycle. One whose masses have to wait for a
window tile waits (07 R134). -/
def matrixDue (held : Nat → Bool) (gcc : Nat) (c : Core) (j : Job) : Core × Job :=
  let now (o : MatOp) : Bool := decide (o.due ≤ j.now) && !o.fin && !o.massHeld held c
  let due := (j.mops.filter now).insertionSort fun a b => a.ord ≤ b.ord
  let j : Job := { j with
    mops := (j.mops.filter fun o => !(o.fin && decide (o.due < j.now))).map fun (o : MatOp) => if now o then { o with fin := true } else o }
  due.foldl (fun r o => finishMat gcc r.1 r.2 o) (c, j)

-- One cycle.

/-- What is in flight as a cycle of the job begins: the results that are due can be read from now on. -/
def Job.begin_ (j : Job) : Job := strms.foldl Job.scalarDue j.vectorDue

/-- What the operations in flight of a job do in one of its cycles: the operand bytes and rows that are due are read as the
scratchpad stands at its start, rows land, the matrix words that are due complete, exchanges take effect at its end. -/
def work (held : Nat → Bool) (gcc : Nat) (c : Core) (j : Job) : Core × Job :=
  let j : Job := { j with mops := j.mops.map fun o => o.capture c j.now }
  let (c, j) := moveDue held c j false
  let (c, j) := lateDue c j
  let (c, j) := matrixDue held gcc c j
  (c, j.swapDue fun _ => true)

/-- The last cycle in which anything in flight is due. -/
def Job.lastDue (j : Job) : Nat :=
  ((j.moves.map Move.due) ++ (j.ops.map VecOp.due) ++ (j.mops.map MatOp.due) ++ (j.late.map Late.due) ++
    (if j.aswap.isEmpty then [] else j.marks.map fun (m : Mark) => m.due) ++
    strms.flatMap fun st => (j.stream st).pend.map SRes.due).foldl max j.jc

/-- The cycles from now to the last that is due, one after another, with no word issued: every operation in flight
completes (23 R372). -/
def drainCycles (held : Nat → Bool) (gcc : Nat) : Nat → Core → Job → Core × Job
  | 0, c, j => (c, j)
  | n + 1, c, j =>
    let (c, j) := work held gcc c j
    let c := c.commit
    drainCycles held gcc n c (({ j with jc := j.jc + 1 }.begin_).openMoves held c)

/-- Class-10 words of the job of core c that a later word must find performed are performed ahead of their last cycle: what
they have still to read is read now, and the masses of an AMASS land (07 R119, R121; log entry 62). -/
def matAhead (held : Nat → Bool) (c : Core) (j : Job) (which : MatOp → Bool) : Core × Job :=
  ((j.mops.filter fun o => which o && !o.fin && !o.landed && !o.massHeld held c).insertionSort fun a b => a.ord ≤ b.ord).foldl (fun (r : Core × Job) o =>
    let done := (List.range (o.due + 1 - r.2.now)).foldl (fun (p : MatOp) i =>
      p.capture r.1 (r.2.now + i)) o
    let (c, j) : Core × Job := match o.op with
      | .amass _ _ _ fa fb _ _ => landAmass r.1 r.2 done fa fb
      | _ => r
    (c, { j with mops := j.mops.map fun (p : MatOp) => if p.ord == o.ord then { done with landed := true } else p })) (c, j)

/-- A class-10 word has not written its masses, or not read all its operands. -/
def MatOp.underWay (o : MatOp) (now : Nat) (w : Bool) : Bool :=
  !o.fin && !o.landed && if w then o.masses else !o.reads.isEmpty && decide (now < o.rdEnd)

/-- The accesses of a stream before order `ord` that are still on their way, its reads or its writes: rows of vector words,
rows that matrix words store, operands that they read, masses, and scalar accesses that a clash has moved (07 R121). -/
def Job.onTheWay (j : Job) (st : Strm) (ord : Nat) (which : Bool → Bool) : Bool :=
  (j.moves.any fun m => m.strm == st && decide (m.ord < ord) && which m.data.isSome) ||
    (j.late.any fun l => l.strm == st && decide (l.ord < ord) && match l.op with | .load _ => which false | .atomic .. => which true || which false) ||
    (st == .m && j.mops.any fun o => decide (o.ord < ord) && [true, false].any fun w => which w && o.underWay j.now w)

end Sys2Proof.Machine
end

