-- ==== Sys2Proof/Machine/Save.lean ====
section
/-! DEFINITION. Special registers as they read, and the layout of a save slot (13 R226; 23 R382 to R384). -/

namespace Sys2Proof.Machine

/-- The PERSIST, GANG, MODE and SMASK bits of mode (R226). -/
def Job.modeReg (j : Job) : Word :=
  BitVec.setWidth 64 j.nest.smask <<< 8 ||| (if j.nest.gang then 0x40 else 0) ||| (if j.nest.persist then 0x20 else 0) |||
    if j.nest.lockstep then 1 else 0

/-- The package core number with PKG, as coord reads (R226). -/
def coordReg (pkg : BitVec 11) (core : CoreIx) : Word := BitVec.setWidth 64 pkg <<< 8 ||| BitVec.ofNat 64 core.val

/-- A special register that is no queue, as SRD reads it on core n (R226). -/
def State.sreg (s : State) (n : CoreIx) (j : Job) : SReg → Word
  | .mode => j.modeReg
  | .jobid => BitVec.ofNat 64 j.iter
  | .coord => coordReg j.pkgnum n
  | .stage => j.stage
  | .gcc => BitVec.ofNat 64 s.gcc
  | .vshape => BitVec.setWidth 64 j.vsEf <<< 8 ||| BitVec.setWidth 64 j.vsRows
  | .vrb => j.vrb
  | .vring => BitVec.setWidth 64 j.ringS <<< 8 ||| BitVec.setWidth 64 j.ringB
  | .trapvec => j.trapvec
  | .trapcause => BitVec.setWidth 64 j.trapcause
  | .trappc => j.trappc
  | .trapstream => BitVec.ofNat 64 (sIx j.trapstrm).val
  | .trapinfo => j.trapinfo
  | .beaconint => BitVec.setWidth 64 j.nest.beaconUs
  | .ovp => j.nest.ovfva
  | .spillbase => 0x800000 - BitVec.setWidth 64 j.nest.carve
  | .prio => BitVec.ofNat 64 j.prio
  | .partition => BitVec.setWidth 64 j.nest.part
  | .incarnation => BitVec.setWidth 64 j.incarn
  | .qpop _ | .qpeek _ => 0

/-- The special registers 0x00 to 0x12 (R194). -/
def sregList : List SReg :=
  [.mode, .jobid, .coord, .stage, .gcc, .vshape, .vrb, .vring, .trapvec, .trapcause] ++
  [.trappc, .trapstream, .trapinfo, .beaconint, .ovp, .spillbase, .prio, .partition, .incarnation]

/-- A run of flags as little-endian bytes. -/
def bitBytes (l : List Bool) : List Byte :=
  (groupsOf 8 l).map fun g => BitVec.ofNat 8 (g.foldr (fun b acc => acc * 2 + if b then 1 else 0) 0)

/-- A command record (R384). -/
def Cmd.record (c : Cmd) : List Byte :=
  let flags := 1 + (if c.phase then 2 else 0) + (match c.slot with | some (_, k) => 4 * k | none => 0)
  let head := leBytes 8 c.raw.toNat ++ leBytes 8 c.xm.toNat ++ leBytes 8 c.xs.toNat ++ leBytes 8 c.xt.toNat ++
    leBytes 8 (match c.tl with | some (_, n) => n | none => 0) ++ leBytes 8 flags ++ List.replicate 16 0
  ((head ++ c.blk ++ c.blk2) ++ List.replicate 256 0).take 256

/-- Turnstile images of a job (R101). -/
def Job.tsImages (j : Job) : List Byte := (List.range 64).flatMap j.tsImage

/-- Timelines of a job as a slot holds them (R383). -/
def Job.tlImages (j : Job) : List Byte :=
  j.tl.toList.flatMap fun t => leBytes 8 t.issued ++ leBytes 8 t.done ++ leBytes 8 t.failnum ++ leBytes 8 t.cause.toNat

/-- The bit of R59 that a pending freeze event has in the save slot (R383). -/
def Hold.freezeBit : Hold → Nat
  | .waiting => 1 | .gload => 2 | .stamp => 4 | .queueFull => 8 | .remote => 16 | _ => 0

/-- The segments of a save slot that are not scratchpad, by offset (R383). -/
def State.slotImage (s : State) (n : CoreIx) (j : Job) (st : JState) (cmds : List Cmd) (mask : List Bool)
    (tags : Nat → BitVec 4) : List (Nat × List Byte) :=
  let all := strms.map j.stream
  let wide (l : List Word) : List Byte := l.flatMap fun w => leBytes 8 w.toNat
  let po (o : Option Origin) : Word := o.getD 0
  let sq := [Strm.s, .m, .c].flatMap fun t => (j.stream t).q.toList
  let ents (q : List QEnt) : List (Option XVal) := (List.range 4).map fun i => (q[i]?).map QEnt.val
  let sEnts := sq.flatMap ents
  let vEnts := j.vq.toList.flatMap fun q => (List.range 4).map fun i => (q[i]?).map TileEnt.tile
  let tiles := j.v.toList
  let banks := (List.range 4).flatMap fun a => [j.accW.toList.getD a AccBank.zero, j.accV.toList.getD a AccBank.zero]
  let banks := banks ++ j.accW.toList.drop 4
  let counts := [Strm.s, .v, .m, .c].flatMap fun t =>
    if t == .v then j.vq.toList.map List.length else (j.stream t).q.toList.map List.length
  [(0x0, leBytes 8 j.seq), (0x8, leBytes 8 j.iter), (0x10, leBytes 8 s.gcc), (0x18, leBytes 8 j.jc),
   (0x20, wide (all.map Stream.pc)),
   (0x40, [bitsOf4 (all.map Stream.joined) ++ bitsOf4 (all.map Stream.started)]),
   (0x41, leBytes 1 st.code), (0x44, leBytes 4 (usOf j.beacon)), (0x48, leBytes 4 (usOf j.runtime)),
   (0x50, leBytes 8 j.sResume.toNat),
   (0x58, leBytes 8 ((j.freeze.map fun f => f.kind.freezeBit).foldl (· ||| ·) 0)),
   (0x60, wide (sregList.map (s.sreg n j)))] ++
  [(0x100, wide (all.flatMap fun t => t.x.toList.map XVal.v)),
   (0x300, all.flatMap fun t =>
      bitBytes (true :: (t.p.toList.map PVal.v).drop 1) ++ bitBytes (t.p.toList.map fun p => p.po.isSome) ++
        bitBytes (t.x.toList.map fun x => x.po.isSome) ++ List.replicate 4 0),
   (0x320, wide (all.flatMap fun t => t.x.toList.map (fun x => po x.po) ++ t.p.toList.map fun p => po p.po)),
   (0x620, wide (sEnts.map fun e => match e with | some v => v.v | none => 0)),
   (0x7A0, counts.flatMap (leBytes 1)),
   (0x7B0, bitBytes (sEnts.map fun e => match e with | some v => v.po.isSome | none => false)),
   (0x800, j.tsImages),
   (0xC00, j.tlImages),
   (0xD00, wide (j.car.toList.flatMap fun c => [c.cdesc, c.cptr])),
   (0xD40, wide (sEnts.map fun e => match e with | some v => po v.po | none => 0)),
   (0x1000, bitBytes ((List.range 2048).flatMap fun t => (List.range 4).map fun i => (tags t).getLsbD i)),
   (0x1400, bitBytes mask)] ++
  [(0x2000, cmds.flatMap Cmd.record),
   (0x4000, wide (tiles.flatMap fun t => t.toList.map fun r => po r.po)),
   (0x5000, bitBytes ((tiles.flatMap fun t => t.toList.map fun r => r.po.isSome) ++
      vEnts.flatMap fun e => match e with
        | some t => t.toList.map fun r => r.po.isSome
        | none => List.replicate 16 false)),
   (0x5800, wide (vEnts.flatMap fun e => match e with
      | some t => t.toList.map fun r => po r.po
      | none => List.replicate 16 0)),
   (0x6000, banks.flatMap fun b => b.toList.flatMap fun r => leBytes 4 r.m.toNat ++ leBytes 4 r.l.toNat),
   (0x9000, bitBytes (banks.flatMap fun b => b.toList.map fun r => r.po.isSome)),
   (0x10000, tiles.flatMap fun t => t.toList.flatMap fun r => rowBytes r.v),
   (0x40000, vEnts.flatMap fun e => match e with
      | some t => t.toList.flatMap fun r => rowBytes r.v
      | none => List.replicate 2048 0),
   (0x80000, banks.flatMap fun b => b.toList.flatMap fun r => leBytes 256 r.w.toNat)]
where
  /-- Four flags in the bit order S, V, M, C as a nibble. -/
  bitsOf4 (l : List Bool) : BitVec 4 := BitVec.ofNat 4 (l.foldr (fun b acc => acc * 2 + if b then 1 else 0) 0)

/-- Size of a save slot (R382). -/
def slotSize : Nat := 0x900000

/-- Where save slot k of die d begins (R382). -/
def State.slotBase (s : State) (d : DieIx) (k : Nat) : Nat := (s.saveBase[d]).toNat * pageSize + k * slotSize

/-- A save slot written in the die's bonded DRAM: every byte of it, those not listed zero (R382, R383). -/
def State.writeSlot (s : State) (d : DieIx) (k : Nat) (segs : List (Nat × List Byte)) (img : SpadImg) : State :=
  let base := s.slotBase d k
  let out (a : Nat) : Bool := decide (a < base) || decide (base + slotSize ≤ a)
  let mem : Memory := s.mem.filter fun c => out c.1
  let mem := segs.foldl (fun (m : Memory) seg => m.write (base + seg.1) seg.2) mem
  let mem := img.bytes.foldl (fun (m : Memory) c => m.put (base + 0x100000 + c.1) c.2) mem
  let mem := img.po.foldl (fun (m : Memory) e =>
    let a := base + 0x20000 + e.1 / 8
    m.put a (m.get a ||| BitVec.twoPow 8 (e.1 % 8))) mem
  { s with
    mem := mem
    memPo := (s.memPo.filter fun e => out (e.1 * 32)) ++ (List.range (slotSize / 32)).map fun i => (base / 32 + i, none) }

/-- Some segments of a save slot written anew, the rest as it is. -/
def State.patchSlot (s : State) (d : DieIx) (k : Nat) (segs : List (Nat × List Byte)) : State :=
  { s with mem := segs.foldl (fun (m : Memory) seg => m.write (s.slotBase d k + seg.1) seg.2) s.mem }

/-- The scratchpad of a core as a save takes it. -/
def Core.image (c : Core) : SpadImg := ⟨c.spad, c.spadPo, c.tags⟩

/-- The image restricted to some tiles, the others zero and their tags 0 (13 R229). -/
def SpadImg.only (i : SpadImg) (keep : Nat → Bool) : SpadImg :=
  ⟨i.bytes.filter fun c => keep (c.1 / 4096), i.po.filter fun e => keep (e.1 / 512), i.tags.filter fun e => keep e.1⟩

end Sys2Proof.Machine
end

