-- ==== Sys2Proof/Machine/KvMem.lean ====
section
/-! DEFINITION. What commands read and write at virtual addresses, and the pools, descriptors and references of the
KV cache (05 R99; 17 R280; 21 R340 to R349, R353). -/

namespace Sys2Proof.Machine

/-- A command's effect, or the cause and trapinfo with which it ends (17 R281). -/
abbrev CRes (α : Type) := Except (Cause × Word) α

/-- The command ends when the condition holds. -/
def endIf (b : Bool) (c : Cause) (info : Word) : CRes Unit := if b then .error (c, info) else .ok ()

/-- Who reads and writes: a core's command, whose scope says which posted stores it sees (17 R280). `plan` is there while the
command is only being submitted: the pages that it has been found to touch, each with its frame and whether it is written (05 R99);
`since` is then the order at which the group of the submitting word began. -/
structure KvBy where
  core : CoreIx
  cmd : Cmd
  plan : Option (List (Nat × Nat × Bool))
  since : Option Nat
deriving DecidableEq, Repr

/-- A command of core n as a reader. -/
def Cmd.by (c : Cmd) (n : CoreIx) : KvBy := ⟨n, c, none, none⟩

/-- The posted stores that it sees: at its submission none of its own group (00 R9). -/
def KvBy.sees (b : KvBy) (m : CoreIx) (p : PStore) : Bool :=
  b.cmd.sees b.core m p && !(m == b.core && b.since.any fun o => decide (o ≤ p.ord))

/-- No causes of the machine: what ends a run of a command that is only being submitted, at a page not known yet. -/
def cPlanRead : Cause := 0
def cPlanWrite : Cause := 0xFF

/-- The command as it stands in its queue. -/
def State.live (s : State) (b : KvBy) : Cmd :=
  (((s.core b.core).lq ++ (s.core b.core).sq).find? fun c => c.ord == b.cmd.ord).getD b.cmd

/-- The frame that a pinned translation of the command holds for a page: it stays in use, whatever the tables say (05 R100). -/
def State.pinFor (s : State) (b : KvBy) (va : Word) : Option Nat :=
  ((s.live b).frames.find? fun f => f.2 == va.toNat / pageSize).map Prod.fst

/-- The physical address that a command reaches at a VA of its partition (05 R99, R100). -/
def State.vAddr (s : State) (b : KvBy) (part : BitVec 16) (va : Word) (rd w : Bool) : CRes Nat :=
  let known : Option Nat := match b.plan with
    | some l => (l.find? fun p => p.1 == va.toNat / pageSize && (p.2.2 || !w)).map fun p => p.2.1
    | none => s.pinFor b va
  match known with
  | some f => .ok (f + va.toNat % pageSize)
  | none => match s.lookup (dieOf b.core) part va rd w false with
    | .ok x => if b.plan.isSome then .error (if w then cPlanWrite else cPlanRead, va)
      else .ok (canon s.pkgnum.toNat (x.frame + va.toNat % pageSize))
    | .bad c info => .error (c, info)

/-- An object of the KV cache lies in DRAM of this package (21 R341). -/
def State.kvAddr (s : State) (b : KvBy) (part : BitVec 16) (va : Word) (w : Bool) : CRes Nat := do
  let pa ← s.vAddr b part va true w
  endIf (!s.isDram pa) cIllegalOperand 0
  .ok pa

/-- Bytes of such an object and the first poison among them. -/
def State.kvRead (s : State) (b : KvBy) (part : BitVec 16) (va : Word) (len : Nat) :
    CRes (List Byte × Option PoU) := do
  let pa ← s.kvAddr b part va false
  .ok (s.engineRead (dieOf b.core) b.sees pa len)

/-- Words that a command acts on: a poisoned one ends it with POISON_CONSUMED (21 R355). -/
def State.kvClean (s : State) (b : KvBy) (part : BitVec 16) (va : Word) (len : Nat) : CRes (List Byte) := do
  let (bs, po) ← s.kvRead b part va len
  match po with
  | some p => .error (cPoisonConsumed, p.origin va)
  | none => .ok bs

/-- A number of such an object. -/
def State.kvNat (s : State) (b : KvBy) (part : BitVec 16) (va : Word) (len : Nat) : CRes Nat := do
  .ok (leNat (← s.kvClean b part va len))

/-- Bytes written at their home by a command of a partition (07 R129); a fenced home ends it with DIE_FENCED (23 R416). -/
def State.engineWrite (s : State) (part : BitVec 16) (bs : List (Nat × Byte × Option PoU)) : CRes State :=
  match bs.find? fun b => s.homeDead b.1 with
  | some b => .error (cDieFenced, BitVec.ofNat 64 (b.1 / bondedSize + 0x100))
  | none => .ok (s.orderAtHome (s.partDies part) bs)

/-- D is set in the entry of a page that a command writes, while the tables lead to the frame that it uses (05 R99, R100). That was
done when the command was accepted, unless the page is one that the tables have led to only since (log entry 39). -/
def State.markPage (s : State) (b : KvBy) (part : BitVec 16) (va : Word) : State :=
  if b.plan.isSome then s
  else match s.lookup (dieOf b.core) part va true true false with
  | .ok x => if (s.pinFor b va).all fun f => f == canon s.pkgnum.toNat x.frame then s.setDirty part x.entry else s
  | .bad .. => s

/-- A frame that a command touches is pinned until the command ends (05 R99). DESIGN CHOICE (log entry 39): what the tables led to when
the command was submitted is pinned by then; a frame that they lead to only now is pinned as it is reached, and a full page-lock
table leaves such a one unpinned. -/
def State.touch (s : State) (b : KvBy) (part : BitVec 16) (va : Word) : State :=
  let d := dieOf b.core
  if b.plan.isSome || (s.pinFor b va).isSome then s
  else match s.lookup d part va false false false with
  | .bad .. => s
  | .ok x =>
    let frame := canon s.pkgnum.toNat x.frame
    match (if (s.live b).frames.any fun f => f.1 == frame then some (s.die d) else (s.die d).pin1 frame) with
    | none => s
    | some e =>
      let more (q : List Cmd) : List Cmd := q.map fun (c : Cmd) =>
        if c.ord == b.cmd.ord then { c with frames := c.frames ++ [(frame, va.toNat / pageSize)] } else c
      (s.modDie d fun _ => e).modCore b.core fun k => { k with lq := more k.lq, sq := more k.sq }

/-- The frames of a run of addresses pinned. -/
def State.touchRun (s : State) (b : KvBy) (part : BitVec 16) (va len : Nat) : State :=
  (pagesOf va len).foldl (fun (t : State) p => t.touch b part (BitVec.ofNat 64 (p * pageSize))) s

/-- A KVSET rep that has begun: its `words` are masses, by address, as they would stand without what has been added to them
since (21 R362). -/
def Cmd.replacing (c : Cmd) : Bool := c.begun && match c.op with | .kvsetRep .. => true | _ => false

/-- Those masses of every such command changed. -/
def State.modReps (s : State) (f : List (Nat × List (Byte × Option PoU)) → List (Nat × List (Byte × Option PoU))) : State :=
  { s with cores := s.cores.map fun (k : Core) =>
      { k with sq := k.sq.map fun (c : Cmd) => if c.replacing then { c with words := f c.words } else c } }

/-- Clean bytes of such an object written; what had been added to masses there is gone. -/
def State.kvWrite (s : State) (b : KvBy) (part : BitVec 16) (va : Word) (bs : List Byte) : CRes State := do
  let pa ← s.kvAddr b part va true
  let t ← ((s.touch b part va).markPage b part va).engineWrite part (cleanBytes pa bs)
  .ok (t.modReps fun l => l.filter fun w => !(decide (pa ≤ w.1) && decide (w.1 < pa + bs.length)))

/-- A pool descriptor (R340). -/
structure Pool where
  va : Word
  base : Nat
  lslot : Nat
  heads : Nat
  d : Nat
  slots : Nat
  free : Nat
  freeva : Nat
  descva : Nat
deriving DecidableEq, Repr

/-- A field of a byte-by-byte layout. -/
def fieldAt (b : List Byte) (o n : Nat) : Nat := leNat ((b.drop o).take n)

/-- A pool descriptor from its 64 bytes. -/
def poolOf (va : Word) (b : List Byte) : Pool :=
  ⟨va, fieldAt b 0 8, fieldAt b 8 1, fieldAt b 9 1, fieldAt b 10 2, fieldAt b 16 8, fieldAt b 24 8, fieldAt b 32 8,
    fieldAt b 40 8⟩

/-- The checks of R341 on a pool descriptor. -/
def poolOk (b : List Byte) : Bool :=
  let p := poolOf 0 b
  fieldAt b 12 4 == 0 && fieldAt b 48 16 == 0 && p.base % pageSize == 0 && decide (14 ≤ p.lslot) &&
    decide (p.lslot ≤ 20) && decide (1 ≤ p.heads) && decide (p.heads ≤ 128) && p.d % 32 == 0 && decide (32 ≤ p.d) &&
    decide (p.d ≤ 256) && decide (1 ≤ p.slots) && decide (p.slots ≤ p2 40) && decide (p.free ≤ p.slots) &&
    p.freeva % 8 == 0 && p.descva % 1024 == 0 && decide (256 * p.heads * p.d ≤ p2 p.lslot)

/-- A page of a run of addresses leads to another package's memory. -/
def State.runFar (s : State) (b : KvBy) (part : BitVec 16) (va len : Nat) : Bool :=
  (pagesOf va len).any fun p =>
    match s.lookup (dieOf b.core) part (BitVec.ofNat 64 (p * pageSize)) false false false with
    | .ok x => (match s.place x.frame with | .peer _ _ => true | _ => false)
    | .bad .. => false

/-- The free list, the descriptors or the slots of a pool lie in another package (R341): every page of them is looked at. -/
def State.poolFar (s : State) (b : KvBy) (part : BitVec 16) (p : Pool) : Bool :=
  s.runFar b part p.freeva (8 * p.slots) || s.runFar b part p.descva (1024 * p.slots) ||
    s.runFar b part p.base (p.slots * p2 p.lslot)

/-- A pool descriptor read and checked (R341). -/
def State.pool (s : State) (b : KvBy) (part : BitVec 16) (va : Word) : CRes Pool := do
  endIf (va.toNat % 64 != 0) cIllegalOperand 0
  let bs ← s.kvClean b part va 64
  let p := poolOf va bs
  endIf (!poolOk bs || s.poolFar b part p) cIllegalOperand 0
  .ok p

/-- VA of slot i of a pool (R340). -/
def Pool.slotVa (p : Pool) (i : Nat) : Word := BitVec.ofNat 64 (p.base + i * p2 p.lslot)

/-- VA of the page descriptor of slot i (R340). -/
def Pool.descVa (p : Pool) (i : Nat) : Word := BitVec.ofNat 64 (p.descva + 1024 * i)

/-- REFCNT of a slot (R345). -/
def State.refs (s : State) (b : KvBy) (part : BitVec 16) (p : Pool) (i : Nat) : CRes Nat :=
  s.kvNat b part (p.descVa i) 4

/-- A pop of the free list, one indivisible step at the descriptor's home (R342): the slot taken. -/
def State.popSlot (s : State) (b : KvBy) (part : BitVec 16) (p : Pool) : CRes (Nat × State) := do
  let f ← s.kvNat b part (p.va + 24) 8
  endIf (f == 0 || decide (f > p.slots)) cIllegalOperand 0
  let i ← s.kvNat b part (BitVec.ofNat 64 (p.freeva + 8 * (f - 1))) 8
  endIf (decide (p.slots ≤ i)) cIllegalOperand 0
  let s ← s.kvWrite b part (p.va + 24) (leBytes 8 (f - 1))
  .ok (i, s)

/-- A push of the free list (R342), on the bits as they are stored (R353). -/
def State.pushSlot (s : State) (b : KvBy) (part : BitVec 16) (p : Pool) (i : Nat) : CRes State := do
  let (fb, _) ← s.kvRead b part (p.va + 24) 8
  let f := leNat fb
  let s ← s.kvWrite b part (BitVec.ofNat 64 (p.freeva + 8 * f)) (leBytes 8 i)
  s.kvWrite b part (p.va + 24) (leBytes 8 (f + 1))

/-- One reference more; a count that would pass 2^32 − 1 ends the command (R349). -/
def State.addRef (s : State) (b : KvBy) (part : BitVec 16) (p : Pool) (i : Nat) : CRes State := do
  let r ← s.refs b part p i
  endIf (decide (r + 1 ≥ p2 32)) cIllegalOperand 0
  s.kvWrite b part (p.descVa i) (leBytes 4 (r + 1))

/-- One reference less; the last one frees the slot (R349). -/
def State.dropRef (s : State) (b : KvBy) (part : BitVec 16) (p : Pool) (i : Nat) : CRes State := do
  let (rb, _) ← s.kvRead b part (p.descVa i) 4
  let r := leNat rb
  let s ← s.kvWrite b part (p.descVa i) (leBytes 4 (r - 1))
  if r ≤ 1 then s.pushSlot b part p i else .ok s

/-- A write that leaves the state as it is where it cannot be made. -/
def State.kvTry (s : State) (r : CRes State) : State := match r with | .ok t => t | .error _ => s

/-- A hold released: it never fails (R353). The count lies where the hold was taken; a slot that it frees is pushed where its pool
can be reached. -/
def State.dropHold (s : State) (b : KvBy) (part : BitVec 16) (h : Nat × Nat × Nat) : State :=
  let va : Word := BitVec.ofNat 64 h.1
  let r := leNat (s.engineRead (dieOf b.core) b.sees h.2.2 4).1
  let gone := s.homeDead h.2.2
  let s := s.kvTry (s.engineWrite part (cleanBytes h.2.2 (leBytes 4 (r - 1))))
  if r ≤ 1 && !gone then
    s.kvTry (do
      let pa ← s.kvAddr b part va true
      endIf (s.homeDead pa) cDieFenced 0
      let (bs, _) ← s.kvRead b part va 64
      s.pushSlot b part (poolOf va bs) h.2.1)
  else s

end Sys2Proof.Machine
end

