-- ==== Sys2Proof/Machine/Ops.lean ====
section
/-! DEFINITION. The named operations that the meanings share: answering global accesses, ending commands, stopping a
job, taking a trap and returning from one, suspending, fencing (13 R231; 17 R280 to R284; 23 R371 to R385). -/

namespace Sys2Proof.Machine

-- Finding the job of a command.

/-- The job is the one with this acceptance sequence and iteration. -/
def Job.is (j : Job) (seq iter : Nat) : Bool := j.st != .none && j.seq == seq && j.iter == iter

/-- The state with a job of a core changed, wherever its context is kept: running, other, or saved. -/
def State.modJobOf (s : State) (n : CoreIx) (seq iter : Nat) (f : Job → Job) : State :=
  let c := s.core n
  if c.ctx0.is seq iter then s.setCore n { c with ctx0 := f c.ctx0 }
  else if c.ctx1.is seq iter then s.setCore n { c with ctx1 := f c.ctx1 }
  else { s with parked := s.parked.map fun (p : Parked) => if p.job.is seq iter then { p with job := f p.job } else p }

/-- A job of a core in one of its two contexts. -/
def Core.jobOf (c : Core) (seq iter : Nat) : Option Job :=
  if c.ctx0.is seq iter then some c.ctx0 else if c.ctx1.is seq iter then some c.ctx1 else none

-- Locators and turnstile names (17 R283, R284).

/-- A locator's fields. -/
structure Locator where
  p : Bool
  pkg : Nat
  core : CoreIx
  loc : Nat
deriving DecidableEq, Repr

/-- A locator read from a word. -/
def locator (w : Word) : Locator :=
  ⟨w.getLsbD 43, (w >>> 32 &&& 0x7FF).toNat, ⟨(w >>> 24 &&& 0x7F).toNat % 128, Nat.mod_lt _ (by decide)⟩,
    (w &&& 0xFFFFFF).toNat⟩

/-- Its reserved bits are zero, and PKG is zero when P = 0 (R283). -/
def locatorOk (w : Word) : Bool :=
  w &&& 0xFFFFF00080000000 == 0 && (w.getLsbD 43 || w >>> 32 &&& 0x7FF == 0)

/-- The locator names a core of this package (R283, R31). -/
def State.localName (s : State) (l : Locator) : Bool := !l.p || l.pkg == s.pkgnum.toNat

/-- The turnstile that a LOC names (R284). -/
def locTs (loc : Nat) : Option (BitVec 6) :=
  if decide (0xC00000 ≤ loc) && decide (loc < 0xC00400) && loc % 16 == 0 then
    some (BitVec.ofNat 6 ((loc - 0xC00000) / 16)) else none

/-- A core can be reached by engines: its own bit and its die's are in service (R32, R284). -/
def State.coreUp (s : State) (n : CoreIx) : Bool := s.coresvc.getLsbD n.val && s.diesvc.getLsbD (dieOf n).val

/-- A core belongs to a partition (07 R143). -/
def State.corePart (s : State) (n : CoreIx) (part : BitVec 16) : Bool := (s.partDies part).getLsbD (dieOf n).val

-- Carousel windows (05 R110).

/-- An address on a carousel's producer side: the carousel and the window offset (05 R110). -/
def producerSide (a : Nat) : Option (Nat × Nat) :=
  if decide (0x800000 ≤ a) && decide (a < 0xC00000) && decide (a % 0x100000 < 0x80000) then
    some ((a - 0x800000) / 0x100000, a % 0x100000) else none

/-- An address on a carousel's consumer side. -/
def consumerSide (a : Nat) : Option (Nat × Nat) :=
  if decide (0x800000 ≤ a) && decide (a < 0xC00000) && decide (0x80000 ≤ a % 0x100000) then
    some ((a - 0x800000) / 0x100000, a % 0x100000 - 0x80000) else none

-- Collective blocks (17 R303, R304).

/-- The core mask of a collective block. -/
def cmaskOf (b : List Byte) : Nat := fieldAt b 0 8 + p2 64 * fieldAt b 8 8

/-- The core numbers of a mask in increasing order. -/
def maskCores (m : Nat) : List CoreIx := (List.finRange 128).filter fun n => m.testBit n.val

/-- The members of a collective: packages in order, and in each the cores of the mask (R304). -/
def membersOf (b : List Byte) : List (Nat × CoreIx) :=
  (List.range (fieldAt b 0x12 2)).flatMap fun i => (maskCores (cmaskOf b)).map fun n => (fieldAt b 0x10 2 + i, n)

/-- The rank of a core of this package. -/
def State.rankIn (s : State) (b : List Byte) (n : CoreIx) : Option Nat :=
  (membersOf b).findIdx? fun m => m.1 == s.pkgnum.toNat && m.2 == n

-- Turnstiles that a command arrives on.

/-- The cores of this package at which a command ends, with the turnstile that it names there, if any (17 R276, R280, R284, R307,
R308). -/
def State.ends (s : State) (n : CoreIx) (c : Cmd) : List (CoreIx × Option (BitVec 6)) :=
  let here (l : Locator) (k : Option (BitVec 6)) : List (CoreIx × Option (BitVec 6)) := if s.localName l then [(l.core, k)] else []
  match c.op with
  | .copyr .. => here (locator c.xs) c.ts
  | .tsarrive .. => here (locator c.xm) (locTs (locator c.xm).loc)
  | .cring .. =>
    match s.rankIn c.blk n with
    | some r =>
      (((membersOf c.blk)[(r + 1) % max 1 (membersOf c.blk).length]?).toList.filter fun m => m.1 == s.pkgnum.toNat).map
        fun m => (m.2, c.ts)
    | none => []
  | .cmcast .. => ((membersOf c.blk).filter fun m => m.1 == s.pkgnum.toNat && m.2 != n).map fun m => (m.2, c.ts)
  | _ => [(n, c.ts)]

/-- The turnstiles that a command names, each with its core. -/
def State.arrivals (s : State) (n : CoreIx) (c : Cmd) : List (CoreIx × BitVec 6) :=
  (s.ends n c).filterMap fun e => e.2.map fun k => (e.1, k)

/-- A command's job turnstile at a core: its own job's at its own core, the running job's at another (17 R313). -/
def State.modArrive (s : State) (n : CoreIx) (c : Cmd) (at_ : CoreIx) (k : BitVec 6) (f : Turnstile → Turnstile) :
    State :=
  if at_ == n then s.modJobOf n c.seq c.iter fun j => j.modTs k f else s.modJob at_ fun j => j.modTs k f

/-- The local addresses at which a command writes, at its own core or at those it sends to, that may lie on a carousel's
producer side (17 R276, R290, R305 to R308). -/
def Cmd.fillAt (c : Cmd) : Option Nat :=
  match c.op with
  | .copy .ld .. | .creduce .. | .cgather .. | .cbcast .. | .cring .. | .cmcast .. => some c.xt.toNat
  | .copyr .. => some (locator c.xs).loc
  | _ => none

/-- A command of no bytes, which arrives on nothing (17 R284, R290, R294, R303). -/
def Cmd.silent (c : Cmd) : Bool :=
  match c.op with
  | .copyr .. => c.xt == 0
  | .tsarrive .. => c.xs == 0
  | .creduce .. | .cgather .. | .cbcast .. | .cring .. | .cmcast .. => fieldAt c.blk 0x20 8 == 0
  | _ => false

/-- The commands of core n, submitted before `ord`, that have resolved a slot of the carousel which has not become READY since
(06 R114). -/
def Carousel.filling (c : Carousel) (n ord : Nat) : Nat := (c.res.filter fun r => r.1 == n && decide (r.2.2 < ord)).length

/-- The slot of a job's carousel that a command of core n not begun would resolve, as R114 has it (03 R77). -/
def Job.wouldFill (j : Job) (n : CoreIx) (ord a : Nat) : Option (Nat × Nat) :=
  (producerSide a).bind fun (car, off) =>
    let c := j.car.toList.getD car Carousel.zero
    if !c.decl || c.count ≤ off / c.slotSize then none
    else some (car, (c.head + c.filling n.val ord + off / c.slotSize) % c.count)

/-- The turnstile of a slot of a job's carousel. -/
def Job.slotTs (j : Job) (car k : Nat) : BitVec 6 := BitVec.ofNat 6 ((j.car.toList.getD car Carousel.zero).firstts + k)

/-- The job whose turnstiles a command of core n meets at a core: its own at its own core, the running one at another
(17 R313). -/
def State.jobAt (s : State) (n : CoreIx) (c : Cmd) (m : CoreIx) : Option Job :=
  if m == n then (s.core n).jobOf c.seq c.iter else some (s.job m)

/-- The turnstile at core m that a command not begun would arrive on: that of the carousel slot it would fill, or the one that it
names there, if any (05 R111; 03 R77). -/
def State.wouldArrive (s : State) (n : CoreIx) (c : Cmd) (a : CoreIx × Option (BitVec 6)) : Option (CoreIx × BitVec 6) :=
  match (c.fillAt.bind fun x => (s.jobAt n c a.1).bind fun j => (j.wouldFill n c.ord x).map fun e => j.slotTs e.1 e.2) with
  | some k => some (a.1, k)
  | none => a.2.map fun k => (a.1, k)

/-- The turnstiles of a command that ends with an error become POISONED (05 R103). A carousel destination arrives on
its slot's turnstile instead of the one named (05 R111), and no command reaches a core out of service or of another
partition (R284). -/
def State.poisonArrivals (s : State) (n : CoreIx) (c : Cmd) (cause : Cause) : State :=
  let own : Option (List (CoreIx × BitVec 6)) := match c.slot with
    | some (car, k) => (s.core n).jobOf c.seq c.iter |>.map fun (j : Job) => [(n, j.slotTs car k)]
    | none => none
  let remote : List (CoreIx × BitVec 6) := c.rslots.filterMap fun r =>
    if h : r.1 < 128 then some ((⟨r.1, h⟩ : CoreIx), (s.job ⟨r.1, h⟩).slotTs r.2.1 r.2.2) else none
  let near := (s.ends n c).filter fun a => a.1 == n || (s.coreUp a.1 && s.corePart a.1 c.part)
  let ks : List (CoreIx × BitVec 6) := match own with
    | some l => l
    | none =>
      if !remote.isEmpty then remote
      else if c.begun then near.filterMap fun a => a.2.map fun k => (a.1, k)
      else near.filterMap (s.wouldArrive n c)
  if c.silent then s
  else ks.foldl (fun (t : State) a => t.modArrive n c a.1 a.2 fun x => x.addErr cause) s

/-- A command that is discarded has the slot that it would have resolved: the next one of its job that is discarded counts it (03
R77; 06 R114). -/
def State.countFill (s : State) (n : CoreIx) (c : Cmd) : State :=
  match c.fillAt with
  | none => s
  | some a =>
    let note (j : Job) : Job := match j.wouldFill n c.ord a with
      | some (car, k) => j.modCar (BitVec.ofNat 2 car) fun x => { x with res := x.res ++ [(n.val, k, c.ord)] }
      | none => j
    ((s.ends n c).map Prod.fst).eraseDups.foldl (fun (t : State) m =>
      if m == n then t.modJobOf n c.seq c.iter note else t.modJob m note) s

/-- No command that is still to come counts one that has been discarded, which has resolved no slot (06 R114). -/
def State.uncount (s : State) (n : CoreIx) (gone : List Nat) : State :=
  let clean (j : Job) : Job := { j with car := j.car.map fun (x : Carousel) =>
    { x with res := x.res.filter fun r => !(r.1 == n.val && gone.contains r.2.2) } }
  { s with cores := s.cores.map fun (c : Core) => { c with ctx0 := clean c.ctx0, ctx1 := clean c.ctx1 } }

-- Queues of commands.

/-- The load or the store queue of a core. -/
def Core.queue (c : Core) (store : Bool) : List Cmd := if store then c.sq else c.lq

/-- A queue replaced. -/
def Core.setQueue (c : Core) (store : Bool) (q : List Cmd) : Core :=
  if store then { c with sq := q } else { c with lq := q }

/-- Places taken in a queue, those freed in this cycle included (17 R312). -/
def Core.taken (c : Core) (store : Bool) : Nat := (c.queue store).length + if store then c.sqFreed else c.lqFreed

/-- The state with one command of a queue changed. -/
def State.modCmd (s : State) (n : CoreIx) (store : Bool) (ord : Nat) (f : Cmd → Cmd) : State :=
  s.modCore n fun c => c.setQueue store ((c.queue store).map fun (d : Cmd) => if d.ord == ord then f d else d)

/-- A command leaves its queue: its place is free from the next cycle, its pins and holds are released (17 R312; 05 R99;
21 R353). -/
def State.dropCmd (s : State) (n : CoreIx) (store : Bool) (c : Cmd) : State :=
  let s := s.modCore n fun k =>
    let k := k.setQueue store ((k.queue store).filter fun d => d.ord != c.ord)
    if store then { k with sqFreed := k.sqFreed + 1 } else { k with lqFreed := k.lqFreed + 1 }
  let s := c.holds.foldl (fun (t : State) h => t.dropHold (c.by n) c.part h) s
  s.modDie (dieOf n) fun d => d.unpin (c.frames.map Prod.fst).eraseDups

/-- The results of KVAPPEND are written, and the job no longer waits for them (21 R359). -/
def Job.kvDone (j : Job) (c : Cmd) (x : Word) (p7 : Bool) : Job :=
  match j.kvWait.find? fun k => k.ord == c.ord with
  | some k =>
    let j := j.setX k.strm k.reg (XVal.clean x)
    let j := if k.noP then j else j.setP k.strm 7 (PVal.clean p7)
    { j with
      kvWait := j.kvWait.filter fun e => e.ord != c.ord
      freeze := j.freeze.filter fun f => !(f.kind == .kvappend && f.strm == k.strm) }
  | none => j

/-- A command ends with an error (17 R281): what it had goes back, its turnstile is poisoned, its timeline number
fails, and with neither its cause is owed to its stream. -/
def State.failCmd (s : State) (n : CoreIx) (store : Bool) (c : Cmd) (cause : Cause) (info : Word) : State :=
  let s := s.poisonArrivals n c cause
  let s := s.dropCmd n store c
  s.modJobOf n c.seq c.iter fun j =>
    let j := match c.tl with
      | some (k, m) => j.modTl k fun t => t.failAt m cause
      | none => j
    let j := j.kvDone c (BitVec.ofNat 64 c.pos) true
    if c.tl.isSome || c.ts.isSome || c.orphan then j
    else { j with owed := j.owed ++ [(c.ord, c.strm, cause, info, c.pc)] }

/-- A command not begun of a job that is fenced is discarded as with an error (03 R77; 05 R107). -/
def State.discardCmd (s : State) (n : CoreIx) (store : Bool) (c : Cmd) (cause : Cause) : State :=
  let s := (s.poisonArrivals n c cause).countFill n c
  let s := s.dropCmd n store c
  s.modJobOf n c.seq c.iter fun j =>
    match c.tl with
    | some (k, m) => j.modTl k fun t => t.failAt m cause
    | none => j

/-- A command completes: its number completes, its pins, holds and place are released (17 R280, R312). -/
def State.completeCmd (s : State) (n : CoreIx) (store : Bool) (c : Cmd) : State :=
  let s := s.dropCmd n store c
  s.modJobOf n c.seq c.iter fun j =>
    match c.tl with
    | some (k, m) => j.modTl k fun t => t.complete m
    | none => j

-- Global accesses of streams.

/-- Who may see a store at the die point: its own stream up to the access, every core of the die unless the page is
read-duplicated (07 R117, R123, R139). -/
def visTo (n : CoreIx) (j : Job) (g : GAcc) (c : CoreIx) (p : PStore) : Bool :=
  if c == n && p.own g.strm j then decide (p.ord < g.ord) else !p.rdup

/-- The stores of the accessing stream itself. -/
def visOwn (n : CoreIx) (j : Job) (g : GAcc) (c : CoreIx) (p : PStore) : Bool :=
  c == n && p.own g.strm j && decide (p.ord < g.ord)

/-- An acquire at package or pod scope (07 R124). -/
def GAcc.wide (g : GAcc) : Bool := g.acq && (g.scope == .pkg || g.scope == .pod)

/-- What a load of a stream reads now; `none` while the die lacks the line (07 R124). A home that is fenced answers with poison,
whatever the die holds (01 R35; 05 R92): DESIGN CHOICE (log entry 79), against a note that has a line still held read until it is
evicted. -/
def State.loadNow (s : State) (n : CoreIx) (j : Job) (g : GAcc) : Option (List Byte × Option PoU) :=
  if g.wide then some (s.homeRead (dieOf n) (visOwn n j g) g.pa g.len)
  else if s.homeDead g.pa then some (s.homeRead (dieOf n) (visTo n j g) g.pa g.len)
  else s.dieRead (dieOf n) (visTo n j g) g.pa g.len

/-- The answer of an access: bytes, and the origin record when they are poisoned (23 R376). -/
def GAcc.answer (g : GAcc) (r : List Byte × Option PoU) : List Byte × Option Origin :=
  (r.1, r.2.map fun p => p.origin g.va)

/-- An atomic performed at the home of its line, for the dies of a mask (07 R126; 23 R378): its old bytes and their poison; in a
duplicate `ans` is what the page's owner, which has performed it, has answered (R139, R144). -/
def State.homeAtomic (s : State) (mask : BitVec 8) (pa : Nat) (aop : BitVec 4) (dw : Bool) (b c : Word) (ans : Option (List Byte × Bool)) :
    State × List Byte × Option PoU :=
  let w := if dw then 64 else 32
  let old := leNat (match ans with | some a => a.1 | none => s.homeBytes pa (w / 8))
  let new := atomNew aop w old (b.toNat % 2 ^ w) (c.toNat % 2 ^ w)
  let po := match ans with | some a => (if a.2 then some (PoU.raw cEcc) else none) | none => s.homePo pa (w / 8)
  (s.orderAtHome mask (cleanBytes pa (leBytes (w / 8) new)), leBytes (w / 8) old, po)

/-- An atomic of a stream performed. At a fenced home it is not, and its answer has no bytes (R416). -/
def State.atomicNow (s : State) (j : Job) (g : GAcc) (aop : BitVec 4) (dw : Bool) (b c : Word) (ans : Option (List Byte × Bool)) :
    State × (List Byte × Option Origin) :=
  if s.homeDead g.pa then (s, ([], some (origin cDieFenced g.va)))
  else
    let (t, old, po) := s.homeAtomic (s.partDies j.nest.part) g.pa aop dw b c ans
    (t, (old, po.map fun p => p.origin g.va))

/-- Bytes of a global row of a vector word that have come: the row is whole with its last piece (15 R257). -/
def VecOp.part (o : VecOp) (row off : Nat) (r : List Byte × Option Origin) : VecOp :=
  let old := (alGet o.rows row).getD ⟨0, none⟩
  let bs := rowBytes old.v
  let new := rowOfBytes (bs.take off ++ r.1 ++ bs.drop (off + r.1.length))
  let v : VRow := match r.2 with
    | some g => if old.po.isSome then old else ⟨Config.poisonRow g, some g⟩
    | none => if old.po.isSome then old else ⟨new, none⟩
  { o with rows := alSet o.rows row v }

/-- An access answered writes its registers (13 R212, R242, R245). -/
def Job.writeBack (j : Job) (g : GAcc) (r : List Byte × Option Origin) : Job :=
  let val (v : Word) : XVal := match r.2 with | some o => ⟨Config.poisonBits o, some o⟩ | none => XVal.clean v
  match g.kind with
  | .load sz sx => j.setX g.strm (g.reg.setWidth 4) (val (widen sx (szBytes sz) (leNat r.1)))
  | .atomic aop dw _ c =>
    let old := leNat r.1
    let j := j.setX g.strm (g.reg.setWidth 4) (match r.2 with
      | some o => ⟨BitVec.ofNat 64 old, some o⟩
      | none => XVal.clean (BitVec.ofNat 64 old))
    if aop == 8 && !g.noP then j.setP g.strm 7 (incbP r (c.toNat % if dw then 2 ^ 64 else 2 ^ 32)) else j
  | .vrow row off =>
    { j with ops := j.ops.map fun (o : VecOp) => if o.ord == g.ord then o.part row off r else o }
  | .nest => j.setX g.strm (g.reg.setWidth 4) (XVal.clean (BitVec.ofNat 64 (leNat r.1)))
  | .spill => j

/-- The merge of a copy into a tile has not landed yet. -/
def Core.merging (c : Core) (tile : Nat) : Bool :=
  (c.landing ++ c.inbox).any fun l => l.merge && l.bytes.any fun b => b.1 / 4096 == tile

/-- A tile of core n in a window that it has declared is not its own to write: other cores hold bound copies of it, or what they
held is being merged (07 R133, R134). -/
def State.heldTile (s : State) (n : CoreIx) (tile : Nat) : Bool :=
  ((s.core n).win.toList.any fun w => decide (w.base ≤ tile * 4096) && decide (tile * 4096 < w.base + w.len)) &&
    ((s.core n).merging tile ||
      (List.finRange 128).any fun m => (s.core m).copies.any fun c => c.home == n && c.homeTile == tile && c.st != .i)

/-- A stream has acquired: it is ordered after the stores that its die could see before order `ord` (07 R119, R122). -/
def Job.acquire (j : Job) (st : Strm) (ord : Nat) : Job := j.modStream st fun t => { t with acq := ord }

/-- An access is over: it leaves the list, and when it was the last that froze its job for its stream, that freezing
event clears (03 R59, R60). A vector word whose last global row has come moves its local rows and writes vd, after every
earlier word that has still to write it (15 R274). -/
def State.endAccess (s : State) (n : CoreIx) (g : GAcc) (r : List Byte × Option Origin) : State :=
  let j := (s.job n).writeBack g r
  let j : Job := { j with outs := j.outs.filter fun h => !(h.ord == g.ord && h.kind == g.kind) }
  let j := if g.acq then j.acquire g.strm s.ord else j
  let j : Job := { j with freeze := j.freeze.filter fun f =>
    !(f.kind == .gload && f.strm == g.strm && !(j.outs.any fun h => h.strm == g.strm)) }
  match g.kind with
  | .vrow _ _ =>
    if j.outs.any fun h => h.ord == g.ord then s.setJob n j
    else
      let (_, j) := moveSome (s.heldTile n) (s.core n) j fun m => m.ord == g.ord
      let last := (j.ops.filter fun o => o.vd == g.reg && decide (o.ord < g.ord)).foldl (fun m o => max m o.due) j.now
      let j : Job := { j with ops := j.ops.map fun (o : VecOp) => if o.ord == g.ord then { o with due := last } else o }
      s.setJob n j.vectorDue
  | _ => s.setJob n j

/-- Earlier stores of the accessing stream to the same bytes that are not ordered yet (07 R117). -/
def State.ownBefore (s : State) (n : CoreIx) (g : GAcc) : List PStore :=
  (s.core n).psb.filter fun p =>
    p.own g.strm (s.job n) && decide (p.ord < g.ord) && decide (p.pa < g.pa + g.len) && decide (g.pa < p.pa + p.data.length)

/-- The access can be answered at once: not a NEST that the RM has not answered, nor an atomic that a write to a read-duplicated
page keeps waiting (07 R139, R144) or that another core's at its home precedes in this cycle (14 R248). -/
def State.answerable (s : State) (n : CoreIx) (g : GAcc) : Bool :=
  g.val.isSome || match g.kind with
    | .nest => false
    | .atomic .. => !s.takesTurns g.pa && s.homeFree n g.pa && !((s.ownBefore n g).any PStore.rdup)
    | _ => true

/-- An access answered at once, whatever the die holds: the home answers what the die lacks. -/
def State.answerNow (s : State) (n : CoreIx) (g : GAcc) : State :=
  if !s.answerable n g then s
  else match g.val with
  | some r => s.endAccess n g r
  | none =>
    match g.kind with
    | .atomic aop dw b c =>
      let s := (s.ownBefore n g).foldl (fun (t : State) p => t.orderNow n p) s
      let (t, r) := s.atomicNow (s.job n) g aop dw b c none
      { t with homeOrder := alSet t.homeOrder (g.pa / 256) n.val }.endAccess n g r
    | .nest => s
    | .spill => s.endAccess n g ([], none)
    | _ =>
      let r := (s.loadNow n (s.job n) g).getD (s.homeRead (dieOf n) (visTo n (s.job n) g) g.pa g.len)
      s.endAccess n g (g.answer r)

-- What CTX shows.

/-- State code of a context (23 R390): 0xF for one that holds no job. -/
def ctxCode (st : JState) : BitVec 4 :=
  match st with
  | .none => 0xF
  | st => BitVec.ofNat 4 st.code

/-- What CTX shows of a context (23 R390). -/
def ctxOf (j : Job) : BitVec 4 × BitVec 48 × Word :=
  if j.st == .none then (0xF, 0, 0) else (ctxCode j.st, BitVec.ofNat 48 j.iter, BitVec.ofNat 64 j.seq)

/-- Which of the two contexts the running one, or the other, is. -/
def Core.ctxIx (c : Core) (run : Bool) : Fin 2 := if c.runIx == run then 1 else 0

/-- A change that is not journalled has been made in a context: its CTX register shows it at once (24 R391). -/
def Core.reveal (c : Core) (run : Bool) : Core := { c with ctxShown := c.ctxShown.set (c.ctxIx run) none }

/-- A journalled change is about to be made in a context: its CTX register goes on showing what it shows until the cycle
ends (24 R391). -/
def Core.hide (c : Core) (run : Bool) : Core :=
  let k := c.ctxIx run
  let j := if run then c.job else c.other
  { c with ctxShown := c.ctxShown.set k (some ((c.ctxShown[k]).getD (ctxOf j))) }

/-- The same on core n. -/
def State.hide (s : State) (n : CoreIx) (run : Bool) : State := s.modCore n fun c => c.hide run

-- Stopping a job.

/-- Every operation of the running job that is in flight and can complete now does: loads and atomics, vector, matrix and
scalar results; accepted engine commands go on (23 R372). Job cycles are not counted while it does: latencies stand (03 R61). -/
def State.drain (s : State) (n : CoreIx) : State :=
  let s := (s.job n).outs.foldl (fun (t : State) g => t.answerNow n g) s
  let c := s.core n
  let j := c.job
  let held := s.heldTile n
  let r := if j.st == .trapped then
      let (c, j) := moveDue held c j true
      let due := (j.mops.filter fun o => !o.fin && !o.massHeld held c).insertionSort fun a b => a.ord ≤ b.ord
      let (c, j) := due.foldl (fun r o => finishMat s.gcc r.1 r.2 o) (c, { j with mops := j.mops.filter fun o => o.massHeld held c })
      (c, j.vectorBy fun _ => true)
    else drainCycles held s.gcc (j.lastDue + 1 - j.jc) c j
  let j' : Job := { r.2 with
    jc := j.jc, strm := r.2.strm.map Stream.drainAll
    mops := if j.st == .trapped then r.2.mops else r.2.mops.filter fun o => !o.fin }
  s.setCore n (r.1.setJob j')

/-- Operations that were in flight when the job stopped have not completed (R372). -/
def Job.inFlight (j : Job) : Bool :=
  !j.moves.isEmpty || !j.late.isEmpty || !j.outs.isEmpty || !j.ops.isEmpty || (j.mops.any fun o => !o.fin) || strms.any fun st => !(j.stream st).pend.isEmpty

/-- A slot for a capture: a free one, else the oldest capture (R385). -/
def captureSlot (slots : List SlotUse) : Option Nat :=
  match slots.findIdx? (· == .free) with
  | some k => some k
  | none =>
    ((List.range slots.length).foldl (fun (best : Option (Nat × Nat)) k =>
      match slots.getD k .free with
      | .capture a => if best.all fun b => decide (a < b.2) then some (k, a) else best
      | _ => best) none).map Prod.fst

/-- The state of a fenced job captured into a save slot of its die (R385): the slot taken, if any. -/
def State.capture (s : State) (n : CoreIx) (j : Job) (st : JState) (cmds : List Cmd) : State × Option Nat :=
  let d := dieOf n
  match captureSlot (s.die d).slots with
  | none => (s, none)
  | some k =>
    let c := s.core n
    let s := s.writeSlot d k (s.slotImage n j st cmds (List.replicate 2048 true) c.tag) c.image
    ({ s.modDie d (fun e => { e with slots := e.slots.set k (.capture s.ord) }) with ord := s.ord + 1 }, some k)

/-- A launch loses one job for good: DONE, FENCED or dropped; with the last one the launch is over and its persistent
pins are released (03 R56). -/
def State.launchEnd (s : State) (seq cnt : Nat) : State :=
  match s.launches.find? fun l => l.seq == seq with
  | none => s
  | some l =>
    if l.ended + cnt ≥ l.total then
      let s := l.pins.foldl (fun (t : State) p =>
        if h : p.1 < 8 then t.modDie ⟨p.1, h⟩ fun d => d.unpin1 p.2 else t) s
      { s with launches := s.launches.filter fun m => m.seq != seq }
    else
      { s with launches := s.launches.map fun (m : Launch) =>
          if m.seq == seq then { m with ended := m.ended + cnt } else m }

/-- The entry of a job's fencing (R389): FENCE with its trap, or WATCHDOG with its kind. -/
def Job.fenceEntry (j : Job) (n : CoreIx) (cause : Cause) (slot : Option Nat) (wd : Option Nat)
    (trap : Option (Strm × Word)) (info : Word) : JEnt :=
  let k := leBytes 1 (slot.getD 0xFF)
  match wd with
  | some w => j.entry 5 .fenced cause n (k ++ [0] ++ leBytes 1 w)
  | none =>
    let (st, pc) := trap.getD (.s, 0)
    j.entry 4 .fenced cause n (k ++ leBytes 1 (sIx st).val ++ [0, 0] ++ leBytes 8 pc.toNat ++ leBytes 8 info.toNat)

/-- An empty context. The turnstiles of a core are those of its running context and stand until the next T0 (18 R313). -/
def Job.emptied (j : Job) (run : Bool) : Job := if run then { Job.zero with ts := j.ts } else Job.zero

/-- The same of a job in either context. -/
def State.drainCtx (s : State) (n : CoreIx) (run : Bool) : State :=
  let flip (s : State) : State := s.modCore n fun c => { c with runIx := !c.runIx }
  if run then s.drain n else flip ((flip s).drain n)

/-- A job of a core context is FENCED (03 R77; 23 R379, R385): streams stop, every operation in flight that can complete does, commands
not begun are discarded, those begun go on without it, pins are released, its state is captured as its turnstiles then stand, its
context is cleared, the entry is journalled. DESIGN CHOICE (log entry 80): an operation that waits for something outside the job (an
answer of the RM, a carousel slot, a window tile) is not waited for. -/
def State.fenceJob (s : State) (n : CoreIx) (run : Bool) (cause : Cause) (wd : Option Nat)
    (trap : Option (Strm × Word)) (info : Word) : State :=
  let c := s.core n
  let j0 := if run then c.job else c.other
  if j0.st == .none then s
  else
    let s := if j0.st == .dispatched then s else s.drainCtx n run
    let c := s.core n
    let j := if run then c.job else c.other
    let mine (q : List Cmd) : List Cmd := q.filter fun d => d.seq == j.seq && d.iter == j.iter
    let s := (mine c.lq).foldl (fun (t : State) d => if d.begun then t else t.discardCmd n false d cause) s
    let s := (mine c.sq).foldl (fun (t : State) d => if d.begun then t else t.discardCmd n true d cause) s
    let s := s.uncount n (((mine c.lq ++ mine c.sq).filter fun d => !d.begun).map Cmd.ord)
    let s := s.modCore n fun c =>
      let mark (q : List Cmd) : List Cmd := q.map fun (d : Cmd) =>
        if d.seq == j.seq && d.iter == j.iter then { d with orphan := true } else d
      { c with lq := mark c.lq, sq := mark c.sq }
    let s := s.modDie (dieOf n) fun d => d.unpin j.pins
    let s := match j.saving with
      | some sv => s.modDie (dieOf n) fun d => { d with slots := d.slots.set sv.slot .free }
      | none => s
    let jf := (((s.core n).jobOf j.seq j.iter).getD j).tsCycle
    let left := (mine c.lq ++ mine c.sq).filter fun d => !d.begun
    let (s, slot) := s.capture n { jf with st := .fenced } .fenced left
    let s := s.modCore n fun c =>
      let c := c.hide run
      if run then c.setJob (jf.emptied true) else c.setOther Job.zero
    let s := s.journal (j.fenceEntry n cause slot wd trap info)
    s.launchEnd j.seq 1

/-- A command of a job that is saved and FENCED is discarded as with an error (03 R77; 05 R107). -/
def State.discardParked (s : State) (p : Parked) (n : CoreIx) (c : Cmd) (cause : Cause) : State :=
  let s := (s.poisonArrivals n c cause).countFill n c
  let s := s.modJobOf n c.seq c.iter fun j => match c.tl with
    | some (k, m) => j.modTl k fun t => t.failAt m cause
    | none => j
  let s := c.holds.foldl (fun (t : State) h => t.dropHold (c.by n) c.part h) s
  s.modDie p.die fun d => d.unpin (c.frames.map Prod.fst).eraseDups

/-- A PREEMPTED job is FENCED (R379): it holds no core, so its entry names its die alone, unless it was being restored on core `at_`
(R388). The saved state becomes a
capture (R385), with its state, turnstiles and timelines as the discarded commands leave them. -/
def State.fenceParked (s : State) (p : Parked) (n : CoreIx) (at_ : Option CoreIx) (cause : Cause) (info : Word) : State :=
  let s := ((p.cmdsL ++ p.cmdsS).foldl (fun (t : State) c => t.discardParked p n c cause) s).uncount n
    ((p.cmdsL ++ p.cmdsS).map Cmd.ord)
  let j := (((s.parked.find? fun q => q.job.is p.job.seq p.job.iter).map Parked.job).getD p.job).tsCycle
  let s : State := { s with parked := s.parked.filter fun q => !q.job.is p.job.seq p.job.iter }
  let s := s.patchSlot p.die p.slot [(0x41, leBytes 1 JState.fenced.code), (0x800, j.tsImages), (0xC00, j.tlImages)]
  let s := s.modDie p.die fun d =>
    { d with slots := d.slots.map fun (u : SlotUse) => match u with
        | .saved a b => if a == p.job.seq && b == p.job.iter then .capture s.ord else u
        | _ => u }
  let e := p.job.fenceEntry n cause (some p.slot) none none info
  let s := { s with ord := s.ord + 1 }.journal { e with die := p.die.val, core := match at_ with | some m => m.val % 16 | none => 0xFF }
  s.launchEnd p.job.seq 1

/-- A fault request of a partition for a page, unless it is there or the queue is full (25 R402); the vector is sent
when it becomes the oldest. -/
def State.faultRequest (s : State) (part : BitVec 16) (page : Nat) : State :=
  match s.parts.toList.findIdx? fun p => p.valid && p.id == part with
  | none => s
  | some k =>
    if h : k < 8 then
      let p := s.parts[k]
      if p.faults.contains page || decide (p.faults.length ≥ 64) then s
      else
        let s : State := { s with parts := s.parts.set k { p with faults := p.faults ++ [page] } }
        if p.faults.isEmpty then s.msixPart part 2 else s
    else s

/-- The function of a partition has been removed: its fault requests are answered as unresolvable (25 R397). -/
def State.pageGone (s : State) (part : BitVec 16) : Bool :=
  match s.partOf part with
  | some p => p.gone
  | none => false

/-- What every trap writes (13 R226; 23 R371). -/
def Job.trapped (j : Job) (t : TrapNote) : Job :=
  { j with trapcause := t.cause, trappc := t.pc, trapstrm := t.strm, trapinfo := t.info }

/-- A system cause makes the job SUSPENDED and firmware acts (R375). -/
def State.suspend (s : State) (n : CoreIx) (t : TrapNote) : State :=
  let j := s.job n
  let s := s.hide n true
  let s := s.modJob n fun j =>
    { j with
      st := .suspended, wasTrapped := j.st == .trapped, stop := none
      freeze := j.freeze.filter fun f => f.kind == .remote || f.kind == .kvappend
      faultPage := if t.cause == cPageNotPresent then some (t.info.toNat / pageSize) else none }
  let s := s.journal (j.entry 6 .suspended t.cause n
    ([0] ++ leBytes 1 (sIx t.strm).val ++ [0, 0] ++ leBytes 8 t.pc.toNat ++ leBytes 8 t.info.toNat))
  if t.cause == cPageNotPresent && !s.pageGone j.nest.part then s.faultRequest j.nest.part (t.info.toNat / pageSize)
  else s.fenceJob n true t.cause none (some (t.strm, t.pc)) t.info

/-- The job may run a handler for a user cause (R374); a trap in a handler may not (03 R72). -/
def Job.handles (j : Job) : Bool := j.st != .trapped && j.trapvec != 0 && j.inMask .s && !(j.stream .s).joined

/-- The job enters its handler (R372, R374): S stands at trapvec and begins once nothing is in flight any more. -/
def Job.enter (j : Job) (t : TrapNote) : Job :=
  let sr := (j.stream .s).pc
  let j : Job := { j with
    st := .trapped, retStrm := t.strm, trapResume := t.resume, sResume := sr, hclk := 0, hNext := 0
    stop := if j.inFlight then some t else none
    freeze := j.freeze.filter fun f => f.kind == .remote || f.kind == .kvappend
    marks := if j.nest.lockstep then j.marks else [] }
  j.modStream .s fun u => { u with pc := j.trapvec, held := none }

/-- TAKING A TRAP (R371 to R374): the operations in flight complete, the trap registers are written, the trapping stream
stops at `resume`; a user cause enters the handler on S or fences the job; a system cause suspends it, once everything in
flight has completed. -/
def State.deliver (s : State) (n : CoreIx) (t : TrapNote) : State :=
  let s := s.modJob n fun j =>
    { (j.trapped t).modStream t.strm fun u => { u with pc := t.resume, held := none } with
      traps := j.traps.filter fun u => u.flight && u != t }
  let s := s.drain n
  let j := s.job n
  if isSystem t.cause then
    if j.inFlight then s.modJob n fun j => { j with stop := some t } else s.suspend n t
  else if j.handles then (s.modJob n fun j => j.enter t).modCore n fun c => c.reveal true
  else s.fenceJob n true t.cause none (some (t.strm, t.pc)) t.info

/-- A stop that waits for operations in flight goes on when the last of them has completed (R372): the handler may begin, or, for a
system cause, the job reaches SUSPENDED (R375). -/
def State.stopDue (s : State) (n : CoreIx) : State :=
  match (s.job n).stop with
  | none => s
  | some t =>
    let s := s.drain n
    let j := s.job n
    if j.inFlight then s
    else if isSystem t.cause then s.suspend n t
    else s.modJob n fun j => { j with stop := none }

/-- The return from a trap (13 R231): the trapping stream goes on at `target`, S at the point where it stopped, and
every stream from the job cycle at which it stopped. -/
def Job.trapReturn (j : Job) (target : Word) : Job :=
  let j : Job := { j with st := .running, tret := none, marks := j.marks.filter fun m => !m.h, hclk := 0 }
  let j := if j.retStrm == .s then j else j.modStream .s fun t => { t with pc := j.sResume }
  j.modStream j.retStrm fun t => { t with pc := target }

/-- An operation that the handler issued has not written its result (13 R231). -/
def Job.handlerBusy (j : Job) : Bool :=
  !(j.stream .s).pend.isEmpty || (j.outs.any fun g => g.strm == Strm.s) || (j.kvWait.any fun k => k.strm == Strm.s && k.h) ||
    j.late.any fun l => l.strm == Strm.s

/-- A TRET that waited takes effect (13 R231). -/
def Job.tretDue (j : Job) : Job :=
  match j.tret with
  | some target => if j.st == .trapped && !j.handlerBusy then j.trapReturn target else j
  | none => j

/-- The trap of the word being issued. The word after a TRAP is where its stream resumes (13 R230). -/
def State.takeTrap (s : State) (c : Cause) (info : Word) : State :=
  let resume := if c == cSoftware then s.cur.next else s.cur.gpc
  let t := s.deliver s.cur.core ⟨s.cur.strm, c, info, s.cur.wpc, resume, false⟩
  { t with cur := { t.cur with out := .trapped c info t.cur.wpc } }

/-- What `exec` answers. -/
abbrev Answer := Host.Outcome State Fault Refusal

/-- The end of a word: its effect, its trap, or its hold. -/
def finish (s : State) (r : Res State) : Answer :=
  match r with
  | .ok t => .next { t with cur := { t.cur with out := .done } }
  | .error (.trap c info) => .next (s.takeTrap c info)
  | .error (.hold h info) => .next { s with cur := { s.cur with out := .hold h info } }

/-- The end of an event: a state in which it is not enabled stays as it is. -/
def happen (s : State) (r : Option State) : Answer := .next (r.getD s)

end Sys2Proof.Machine
end

