-- ==== Sys2Proof/Machine/Group.lean ====
section
/-! DEFINITION. Groups: the kinds of words, what a word reads, writes and pops, and the checks made at issue before any
other trap (11_encoding R179 to R185, R194; 15_vector R252, R253). -/

namespace Sys2Proof.Machine

/-- A register under R181. -/
inductive RegId where
  | x (r : BitVec 4)
  | p (r : BitVec 3)
  | v (r : BitVec 5)
  | spec (n : Nat)
deriving DecidableEq, Repr

/-- What a word reads and writes, and the queues it pops (R181). -/
structure Uses where
  rd : List RegId
  wr : List RegId
  pops : List (BitVec 2)
deriving DecidableEq, Repr

/-- The v register of a rotating name (04 R81). -/
def Job.rot (j : Job) (k : BitVec 3) : BitVec 5 :=
  j.ringB + BitVec.ofNat 5 (((k.toNat : Nat) + j.vrb.toNat) % max 1 j.ringS.toNat)

/-- A 3-bit splat register as a register of the stream (R192). -/
def splatReg (r : BitVec 3) : BitVec 4 := (0 : BitVec 1) ++ r

/-- The number of a special register (R194). -/
def sregNum : SReg → Nat
  | .mode => 0 | .jobid => 1 | .coord => 2 | .stage => 3 | .gcc => 4 | .vshape => 5 | .vrb => 6 | .vring => 7
  | .trapvec => 8 | .trapcause => 9 | .trappc => 10 | .trapstream => 11 | .trapinfo => 12 | .beaconint => 13
  | .ovp => 14 | .spillbase => 15 | .prio => 16 | .partition => 17 | .incarnation => 18
  | .qpop k => 0x20 + k.toNat
  | .qpeek k => 0x24 + k.toNat

/-- The special register that SWR names. -/
def wregS : WReg → SReg
  | .vshape => .vshape | .vrb => .vrb | .vring => .vring | .trapvec => .trapvec

/-- A vector source: a rotating name reads vrb and vring and is resolved first (R181, R192). -/
def usesSrc (j : Job) : VSrc → Uses
  | .reg r => ⟨[.v r], [], []⟩
  | .pop q => ⟨[], [], [q]⟩
  | .peek _ => ⟨[], [], []⟩
  | .rot k => ⟨[.v (j.rot k), .spec 6, .spec 7], [], []⟩
  | .splat x => ⟨[.x (splatReg x)], [], []⟩

/-- A vector destination. -/
def usesDst (j : Job) : VDst → Uses
  | .reg r => ⟨[], [.v r], []⟩
  | .rot k => ⟨[.spec 6, .spec 7], [.v (j.rot k)], []⟩

/-- A vector destination that the word reads as well (15 R252). -/
def alsoDst (j : Job) : VDst → Uses
  | .reg r => ⟨[.v r], [], []⟩
  | .rot k => ⟨[.v (j.rot k)], [], []⟩

/-- Uses put together. -/
def Uses.all (l : List Uses) : Uses := ⟨l.flatMap Uses.rd, l.flatMap Uses.wr, l.flatMap Uses.pops⟩

/-- x registers read. -/
def rx (l : List (BitVec 4)) : Uses := ⟨l.map .x, [], []⟩

/-- An x register written. -/
def wx (r : BitVec 4) : Uses := ⟨[], [.x r], []⟩

/-- A three-register scalar word. -/
def alu3 (xd xa xb : BitVec 4) : Uses := ⟨[.x xa, .x xb], [.x xd], []⟩

/-- A two-register scalar word. -/
def alu2 (xd xa : BitVec 4) : Uses := ⟨[.x xa], [.x xd], []⟩

/-- A vector word: its destination, its sources and vshape (R181). -/
def vuse (j : Job) (vd : VDst) (l : List VSrc) : Uses :=
  Uses.all (usesDst j vd :: ⟨[.spec 5], [], []⟩ :: l.map (usesSrc j))

/-- What a word of class 00 uses. -/
def uses0 (isV : Bool) : Instr → Uses
  | .brc _ xa xb _ | .lbreak _ xa xb _ => rx [xa, xb]
  | .jmpx xd xa => alu2 xd xa
  | .call _ => wx 15
  | .ret => rx [15]
  | .loop xd _ => alu2 xd xd
  | .loopv xd _ => if isV then Uses.all [alu2 xd xd, ⟨[.spec 6], [.spec 6], []⟩] else alu2 xd xd
  | .waitt _ xa _ | .waits _ xa _ => rx [xa]
  | .send _ _ xa => rx [xa]
  | .srd xd (.qpop k) => Uses.all [wx xd, ⟨[], [], [k]⟩]
  | .srd xd (.qpeek _) => wx xd
  | .srd xd r => ⟨[.spec (sregNum r)], [.x xd], []⟩
  | .swr r xa => ⟨[.x xa], [.spec (sregNum (wregS r))], []⟩
  | .yield xa xb => rx [xa, xb]
  | .stampw xd xa | .nest xd xa => alu2 xd xa
  | .trap xa _ | .tret xa => rx [xa]
  | .add d a b | .sub d a b | .and d a b | .or d a b | .xor d a b | .shl d a b | .shr d a b | .sra d a b
  | .min d a b | .max d a b | .minu d a b | .maxu d a b | .mul d a b | .mulh d a b | .mulhu d a b | .div d a b
  | .divu d a b | .rem d a b | .remu d a b => alu3 d a b
  | .addi d a _ | .andi d a _ | .ori d a _ | .xori d a _ | .shli d a _ | .shri d a _ | .srai d a _ | .clz d a
  | .ctz d a | .popc d a | .bfx d a _ _ => alu2 d a
  | .bfi d a _ _ => alu3 d a d
  | .li d _ => wx d
  | .lih d _ => alu2 d d
  | .cmp _ pd xa xb => ⟨[.x xa, .x xb], [.p pd], []⟩
  | .cmpi _ pd xa _ => ⟨[.x xa], [.p pd], []⟩
  | .pand d a b | .por d a b | .pxor d a b => ⟨[.p a, .p b], [.p d], []⟩
  | .pnot d a => ⟨[.p a], [.p d], []⟩
  | .sel d k a b => ⟨[.x a, .x b, .p k], [.x d], []⟩
  | .ld d a _ _ _ _ | .lda d a _ _ _ _ _ => alu2 d a
  | .st d a _ _ _ | .stl d a _ _ _ _ => rx [a, d]
  | .atadd d a b _ _ _ _ | .atmin d a b _ _ _ _ | .atmax d a b _ _ _ _ | .atand d a b _ _ _ _
  | .ator d a b _ _ _ _ | .atxor d a b _ _ _ _ | .atxchg d a b _ _ _ _ | .atfadd d a b _ _ _ => alu3 d a b
  | .atcas d a b c _ _ _ _ => ⟨[.x a, .x b, .x c], [.x d], []⟩
  | .atincb d a c _ _ _ _ => ⟨[.x a, .x c], [.x d, .p 7], []⟩
  | _ => ⟨[], [], []⟩

/-- What a word of class 01 uses. -/
def uses1 (j : Job) : Instr → Uses
  | .vshape _ _ => ⟨[.spec 5], [.spec 5], []⟩
  | .vld vd _ xa xc => Uses.all [vuse j vd [], rx [splatReg xa, splatReg xc]]
  | .vst vs _ xa xc => Uses.all [⟨[.spec 5], [], []⟩, usesSrc j vs, rx [splatReg xa, splatReg xc]]
  | .vadd d a b _ _ | .vsub d a b _ _ | .vmul d a b _ _ | .vmin d a b _ _ | .vmax d a b _ _ => vuse j d [a, b]
  | .vand d a b _ _ | .vor d a b _ _ | .vxor d a b _ _ | .vshl d a b _ _ | .vshr d a b _ _ | .vsra d a b _ _ =>
    vuse j d [a, b]
  | .vabs d a _ | .vneg d a _ | .vexp2 d a _ | .vexp d a _ | .vlog2 d a _ | .vrcp d a _ | .vrsq d a _
  | .vsqrt d a _ | .vtanh d a _ | .vsigm d a _ | .vsilu d a _ => vuse j d [a]
  | .vnot d a _ | .vtrans d a _ => vuse j d [a]
  | .vfma d a b c _ _ | .vfms d a b c _ _ | .vfnma d a b c _ _ => vuse j d [a, b, c]
  | .vsel d a b c _ _ => vuse j d [a, b, c]
  | .vcmp _ d a b _ _ => vuse j d [a, b]
  | .vmov d a => vuse j d [a]
  | .vbcast d a _ _ => vuse j d [a]
  | .vcvt d a _ _ => Uses.all [vuse j d [a], alsoDst j d]
  | .vpack d a b _ => vuse j d [a, b]
  | .vunpack d a _ _ => vuse j d [a]
  | .vredr _ d a _ | .vredc _ d a _ => vuse j d [a]
  | .vperm d a b _ _ => vuse j d [a, b]
  | .vsort d a _ _ _ _ => vuse j d [a]
  | .vscan d a _ _ _ => vuse j d [a]
  | .viota d xa _ _ => Uses.all [vuse j d [], rx [splatReg xa]]
  | .vbucket d a b _ _ => vuse j d [a, b]
  | .vhist d a acc _ => if acc then Uses.all [vuse j d [a], alsoDst j d] else vuse j d [a]
  | .vmxscale d a _ _ => vuse j d [a]
  | .vchscale d a b mode _ => if mode == 0 then vuse j d [a] else vuse j d [a, b]
  | .vextr d a b _ => vuse j d [a, b]
  | .vins d a b _ => Uses.all [vuse j d [a, b], alsoDst j d]
  | _ => ⟨[], [], []⟩

/-- What a word of class 10 or 11 uses (17 R276; 19 R317; 21 R354). -/
def uses23 : Instr → Uses
  | .mma _ xa xb xs _ _ _ _ _ _ | .mmat _ xa xb xs _ _ _ _ _ _ | .attn _ xa xb xs _ _ _ _ => rx [xa, xb, xs]
  | .ald _ xa xs _ _ _ | .ast _ xa xs _ _ _ _ | .attnf _ xa xs _ _ | .arstat _ xa xs _ | .alstat _ xa xs _ _ =>
    rx [xa, xs]
  | .avec _ xa _ _ => rx [xa]
  | .amass _ xa xb _ _ _ _ => rx [xa, xb]
  | .abusy xa => wx xa
  | .copy _ xt xm xs _ | .copyr xs xm xt _ | .wget xs xm xt _ | .wown xs xm xt _ => rx [xm, xs, xt]
  | .qfill _ _ xm xt _ => rx [xm, xt]
  | .tspost _ xs => rx [xs]
  | .tsarrive xm xs _ _ => rx [xm, xs]
  | .tsquery xt _ | .tlquery xt _ _ | .cstat xt _ _ => wx xt
  | .cdecl xm => rx [xm]
  | .wdecl _ xm xs _ _ => rx [xm, xs]
  | .wput xs xt _ | .wdrop xs xt _ => rx [xs, xt]
  | .creduce _ xt xs xm _ | .cgather xt xs xm _ | .cbcast xt xs xm _ | .cring xt xs xm _ | .cmcast xt xs xm _ =>
    rx [xm, xs, xt]
  | .kvappend xt xm xs _ => ⟨[.x xm, .x xs], [.x xt, .p 7], []⟩
  | .kvref xm _ | .kvfree xm _ | .roust xm _ _ _ => rx [xm]
  | .kvsetRep xm xs _ | .kvsetMass xm xs _ => rx [xm, xs]
  | _ => ⟨[], [], []⟩

/-- The class of an opcode (R177). -/
def classBits (raw : Word) : Nat := (raw >>> 51).toNat % 4

/-- What a word uses, its guard included (R181). -/
def usesOf (j : Job) (st : Strm) (raw : Word) (w : IWord) : Uses :=
  let u := match classBits raw with
    | 0 => uses0 (st == Strm.v) w.op
    | 1 => uses1 j w.op
    | _ => uses23 w.op
  { u with rd := .p w.pg :: u.rd }

/-- x0 and p0 never conflict (R181). -/
def RegId.counts : RegId → Bool
  | .x r => r != 0
  | .p r => r != 0
  | _ => true

/-- A word is a memory word (R180). -/
def isMem : Instr → Bool
  | .ld .. | .st .. | .lda .. | .stl .. | .atadd .. | .atmin .. | .atmax .. | .atand .. | .ator .. | .atxor ..
  | .atxchg .. | .atcas .. | .atincb .. | .atfadd .. | .fence .. | .vld .. | .vst .. => true
  | _ => false

/-- A word is a control or wait word (R180). -/
def isCtl : Instr → Bool
  | .br .. | .brc .. | .jmpx .. | .call .. | .ret | .loop .. | .loopv .. | .lbreak .. | .join | .waitt ..
  | .waits .. | .yield .. | .stampw .. | .trap .. | .tret .. => true
  | _ => false

/-- The kind of a word under R180. -/
def kindOf (raw : Word) (i : Instr) : Option Nat :=
  if classBits raw == 2 then some 0 else if classBits raw == 3 then some 1
  else if isMem i then some 2 else if isCtl i then some 3 else none

/-- The pipe of a vector word: memory, arithmetic or none (15 R252). -/
def pipeOf (raw : Word) (i : Instr) : Option Rsc :=
  if classBits raw != 1 then none
  else match i with
  | .vshape .. => none
  | .vld .. | .vst .. => some .mempipe
  | _ => some .vpipe

/-- Two words may not form a group (R180, R181, R253). -/
def pairBad (j : Job) (st : Strm) (r1 r2 : Word) (a b : IWord) : Bool :=
  let u := usesOf j st r1 a
  let v := usesOf j st r2 b
  let meet (l m : List RegId) : Bool := l.any fun r => r.counts && m.contains r
  isCtl a.op || ((kindOf r1 a.op).isSome && kindOf r1 a.op == kindOf r2 b.op) ||
    meet u.wr v.rd || meet v.wr u.rd || meet u.wr v.wr || (u.pops.any fun q => v.pops.contains q) ||
    ((pipeOf r1 a.op).isSome && pipeOf r1 a.op == pipeOf r2 b.op)

/-- The opcode may stand in the stream: its class (R185), and S only (R196). -/
def streamOk (st : Strm) (raw : Word) : Bool :=
  let opc := (raw >>> 45).toNat % 256
  match opc / 64 with
  | 0 => st == .s || !(opc == 0x04 || opc == 0x05 || opc == 0x14 || opc == 0x15 || opc == 0x24)
  | 1 => st == .v
  | 2 => st == .m
  | _ => st == .s || st == .c

/-- An SRD or SWR that its stream may not make (R194). -/
def sregBad (st : Strm) : Instr → Bool
  | .srd _ (.qpop _) | .srd _ (.qpeek _) => st == .v
  | .swr .trapvec _ => st != .s
  | .swr _ _ => st != .v
  | _ => false

/-- A group as fetched and checked, or the trap of the first check of R184 that fails with the word it is raised on. -/
inductive Group where
  | one (w : IWord)
  | two (a b : IWord)
  | bad (second : Bool) (c : Cause) (info : Word)
deriving DecidableEq, Repr

/-- Check 2 of R184 on one word. -/
def opcodeBad (st : Strm) (raw : Word) : Bool :=
  !streamOk st raw || match decode raw with
    | .ok w => (match w.op with | .unassignedOpcode _ _ => true | _ => false)
    | .error _ => false

/-- Check 3 of R184 on one word. -/
def operandBad (st : Strm) (raw : Word) : Bool :=
  match decode raw with
  | .ok w => sregBad st w.op
  | .error _ => true

/-- STP of a word (R177). -/
def stpOf (raw : Word) : Bool := raw.getLsbD 53

/-- A one-word group checked (R184). -/
def checkOne (st : Strm) (r : Word) : Group :=
  if opcodeBad st r then .bad false cIllegalOpcode r
  else if operandBad st r then .bad false cIllegalOperand r
  else match decode r with
    | .ok w => .one w
    | .error _ => .bad false cIllegalOperand r

/-- A two-word group checked in the order of R184. -/
def checkTwo (j : Job) (st : Strm) (r1 r2 : Word) : Group :=
  if !stpOf r2 || r2 >>> 54 != 0 then .bad false cIllegalGroup r1
  else if opcodeBad st r1 then .bad false cIllegalOpcode r1
  else if opcodeBad st r2 then .bad true cIllegalOpcode r2
  else if operandBad st r1 then .bad false cIllegalOperand r1
  else if operandBad st r2 then .bad true cIllegalOperand r2
  else match decode r1, decode r2 with
    | .ok a, .ok b => if pairBad j st r1 r2 a b then .bad false cIllegalGroup r1 else .two a b
    | _, _ => .bad false cIllegalOperand r1

end Sys2Proof.Machine
end

