-- ==== Sys2Proof/Machine/Operands.lean ====
section
/-! DEFINITION. Operand forms: effective addresses and where they lead, scratchpad traffic, vector operands, and the order
that a word waits for (03 R61, R62; 05 R84 to R93, R110 to R112; 07 R121, R127, R132 to R134; 11 R192; 13 R241). -/

namespace Sys2Proof.Machine

-- Effective addresses (13 R241).

/-- A device virtual address has 57 bits (05 R94). -/
def va57 (w : Word) : Word := w &&& 0x01FFFFFFFFFFFFFF

/-- What an effective address names: a place in an extent, a local address, or nothing. -/
inductive Named where
  | ext (x : Ext) (va : Word)
  | loc (a : Nat)
  | outside (addr : Word)
deriving DecidableEq, Repr

/-- The overflow page as an extent with RD and W (R241). -/
def Job.ovfExt (j : Job) : Ext := ⟨j.nest.ovfva, 0x200000, true, true, j.ovf⟩

/-- The placement of n bytes at effective address e (R92, R241; 03 R78). -/
def Job.named (j : Job) (sel : Sel) (e : Word) (n : Nat) : Named :=
  match sel with
  | .ext k =>
    let x := j.ext[k.toFin]
    let va := va57 (x.base + e)
    if x.len == 0 || decide (e.toInt < 0) || decide (e.toNat + n > x.len.toNat) then .outside va else .ext x va
  | .loc =>
    let carve := j.nest.carve.toNat
    let o := e.toNat - (p2 64 - p2 24)
    if e.toNat < p2 24 then .loc e.toNat
    else if e.toNat < p2 64 - p2 24 then .outside e
    else if o + n > carve + (if j.nest.ovfva != 0 then pageSize else 0) then .outside e
    else if o + n ≤ carve then .loc (0x800000 - carve + o)
    else if carve ≤ o then .ext j.ovfExt (va57 (j.nest.ovfva + BitVec.ofNat 64 (o - carve)))
    else .outside e

/-- What an access does: it reads, it writes, or both (an atomic); a vector row does not reach turnstile images. -/
structure Acc where
  rd : Bool
  w : Bool
  row : Bool
deriving DecidableEq, Repr

/-- Where an access leads once every check is made: a place in the scratchpad, a turnstile image, a global address with
the frame it is pinned to, or nowhere, which for a load is poison. -/
inductive Target where
  | loc (l : Loc)
  | image (k off : Nat)
  | glob (va : Word) (pa : Nat) (rdup : Bool)
  | poison (o : Origin)
deriving DecidableEq, Repr

/-- A failed check: a store or atomic traps, a load returns poison (R84, R92). -/
def Acc.fails (a : Acc) (addr : Word) : Res Target :=
  if a.w then .error (.trap cExtentViolation addr) else .ok (.poison (origin cExtentViolation addr))

/-- The physical address of a VA in an extent (R93); extents translate through frames pinned at dispatch. -/
def Ext.pa (x : Ext) (va : Word) : Option (Nat × Bool) :=
  (x.frames.find? fun f => f.1 == va.toNat / pageSize).map fun f => (f.2.1 + va.toNat % pageSize, f.2.2)

/-- The cores that hold a bound copy of a home tile, other than those in I (07 R132 to R134). -/
def State.winHolders (s : State) (home : CoreIx) (tile : Nat) : List CoreIx :=
  (List.finRange 128).filter fun n =>
    (s.core n).copies.any fun c => c.home == home && c.homeTile == tile && c.st != .i

/-- A tile lies in a declared window of its core (R133). -/
def Core.inWindow (c : Core) (tile : Nat) : Bool :=
  c.win.toList.any fun w => decide (w.base ≤ tile * 4096) && decide (tile * 4096 < w.base + w.len)

/-- Window tiles that a resolved local access meets (R132, R134). -/
def State.winCheck (s : State) (n : CoreIx) (a : Acc) (l : Loc) (len : Nat) : Res Target :=
  let c := s.core n
  let tiles := tilesOf l.addr len
  let held := tiles.filterMap c.copyAt
  if a.w && held.any fun w => w.st == .s || w.st == .o || w.st == .i then
    .error (.trap cExtentViolation (BitVec.ofNat 64 l.addr))
  else if a.w && tiles.any (s.heldTile n) then
    .error (.hold .homeWrite ((tiles.find? (s.heldTile n)).getD 0))
  else if a.rd && !a.w && held.any fun w => w.st == .i then a.fails (BitVec.ofNat 64 l.addr)
  else .ok (.loc l)

/-- A local access of core n's job against the regions and carousels (R84, R110 to R112). -/
def State.localTarget (s : State) (n : CoreIx) (a : Acc) (addr len : Nat) : Res Target :=
  match (s.job n).place addr len with
  | .at l => s.winCheck n a l len
  | .image k off => if a.w || a.row then a.fails (BitVec.ofNat 64 addr) else .ok (.image k off)
  | .outside => a.fails (BitVec.ofNat 64 addr)
  | .carFault c => .error (.trap cCarouselFault (BitVec.ofNat 64 c))
  | .notReady => .error (.hold .carousel 0)
  | .bad st => .error st

/-- An access named, checked and resolved (R84, R92, R241). -/
def State.target (s : State) (n : CoreIx) (a : Acc) (sel : Sel) (e : Word) (len : Nat) : Res Target :=
  match (s.job n).named sel e len with
  | .outside addr => a.fails addr
  | .loc addr => s.localTarget n a addr len
  | .ext x va =>
    if (a.rd && !x.rd) || (a.w && !x.w) then a.fails va
    else match x.pa va with
    | some (pa, rdup) => .ok (.glob va (canon s.pkgnum.toNat pa) rdup)
    | none => a.fails va

/-- The alignment of a scalar access, checked before all else (R84, R92, R241): the misaligned effective address. -/
def aligned (e : Word) (n : Nat) : Res Unit := trapIf (e.toNat % n != 0) cAlignment e

-- Scratchpad traffic (R61, R62).

/-- A word's traffic taken into account. In elastic mode a conflict with earlier groups stalls the word, and one with the other
word of its group moves its access by one cycle, which is how much is answered; in lockstep mode the cycle that issues it
decides (R61, R62). `k` is how much traffic the job had when the group began (log entry 63). -/
def Job.charge (j : Job) (k : Nat) (ts : List Traf) : Res (Job × Nat) :=
  if !j.strict && ts.any fun t => t.clash (j.traffic.take k) then .error (.hold .latency 0)
  else if !j.strict && ts.any fun t => t.clash j.traffic then
    .ok ({ j with traffic := j.traffic ++ ts.map fun (t : Traf) => { t with due := t.due + 1 } }, 1)
  else .ok ({ j with traffic := j.traffic ++ ts }, 0)

-- The order a word waits for (07 R117, R119, R121, R127). The words of a group issue in one cycle (11 R182): none is earlier
-- than another (log entry 63).

/-- The accesses that the issuing stream began before this group and that are outstanding. -/
def State.earlier (s : State) : List GAcc :=
  s.cjob.outs.filter fun g => g.strm == s.cur.strm && decide (g.ord < s.cur.since)

/-- The stores of a stream in the posted-store buffer. -/
def Core.storesOf (c : Core) (st : Strm) (j : Job) : List PStore := c.psb.filter fun p => p.own st j

/-- The stores that the issuing stream posted before this group. -/
def State.posted (s : State) : List PStore :=
  (s.here.storesOf s.cur.strm s.cjob).filter fun p => decide (p.ord < s.cur.since)

/-- An earlier acquire of the stream has not been performed yet (R121). -/
def acqGate (s : State) : Res Unit := holdIf (s.earlier.any GAcc.acq) .order

/-- An earlier access of the stream to these bytes is outstanding (R117). -/
def sameGate (s : State) (pa n : Nat) : Res Unit :=
  holdIf (s.earlier.any fun g => decide (g.pa < pa + n) && decide (pa < g.pa + g.len)) .order

/-- A store has reached the point that a release at this scope requires (R127); one to a read-duplicated page has no die
point (R123). -/
def relPoint (sc : Scope) (p : PStore) : Bool :=
  match sc with
  | .core | .die => !p.rdup
  | .pkg | .pod => false

/-- An atomic that its home has not performed yet. -/
def GAcc.writes (g : GAcc) : Bool := (match g.kind with | .atomic .. => true | _ => false) && g.val.isNone

/-- The stream's earlier accesses that are still on their way into or out of the scratchpad: in elastic mode a word that must
find them performed waits; in lockstep mode, where the code fixes its cycle, they are performed ahead of it (R119, R121; 03 R58;
log entry 62). `which` tells writes (`true`) and reads that count. -/
def performed (which : Bool → Bool) (s : State) : Res State :=
  let j := s.cjob
  let (st, ord) := (s.cur.strm, s.cur.since)
  if !j.onTheWay st ord which then .ok s
  else if !j.strict then .error (.hold .order 0)
  else
    let (c, j) := moveSome (s.heldTile s.cur.core) s.here j fun m => m.strm == st && decide (m.ord < ord) && which m.data.isSome
    let (c, j) := matAhead (s.heldTile s.cur.core) c j fun o => st == .m && decide (o.ord < ord) && [true, false].any fun w => which w && o.underWay j.now w
    if j.onTheWay st ord which then .error (.hold .order 0) else .ok (s.setCore s.cur.core (c.setJob j))

/-- The scratchpad as the issuing stream finds n bytes at an address: with its own earlier writes in it, those still on their way and
masses still to be written among them (07 R117). In elastic mode a word waits for what its stream has still to do there. -/
def ownAt (s : State) (a n : Nat) : Res Core := do
  let (st, ord) := (s.cur.strm, s.cur.since)
  let meets (b k : Nat) : Bool := decide (b < a + n) && decide (a < b + k)
  let mass (o : MatOp) : Bool :=
    st == .m && decide (o.ord < ord) && o.underWay s.cjob.now true && meets (o.base 3) 256
  holdIf (s.cjob.late.any fun l => l.strm == st && decide (l.ord < ord) && meets l.addr l.n) .order
  holdIf (!s.cjob.strict && s.cjob.mops.any mass) .order
  .ok ((matAhead (fun _ => false) s.here s.cjob mass).1.ownView s.cjob st ord)

/-- In elastic mode a matrix word waits until its stream has written the bytes that it reads (07 R117); in lockstep mode the code
fixes the cycle of each (19 R323, R326). -/
def operandGate (s : State) (l : List (Nat × Nat)) : Res Unit :=
  let j := s.cjob
  let (st, ord) := (s.cur.strm, s.cur.since)
  let meets (b k : Nat) : Bool := l.any fun r => decide (b < r.1 + r.2) && decide (r.1 < b + k)
  holdIf (!j.strict && ((j.moves.any fun m => m.strm == st && decide (m.ord < ord) && m.data.isSome && meets m.addr m.len) ||
    (j.late.any fun l => l.strm == st && decide (l.ord < ord) && meets l.addr l.n) ||
    j.mops.any fun o => st == .m && decide (o.ord < ord) && o.underWay j.now true && meets (o.base 3) 256)) .order

/-- The stores that the issuing stream has acquired from cores of its die and that have still to reach the point that a release at
this scope requires (R122). -/
def State.acquired (s : State) (sc : Scope) : Bool :=
  (coresOf (dieOf s.cur.core)).any fun m => (s.core m).psb.any fun p => decide (p.ord < s.cstrm.acq) && !p.rdup && !relPoint sc p

/-- A release waits for the stream's earlier accesses, and for what it had acquired before (R121, R122, R127). -/
def relGate (s : State) (sc : Scope) : Res State := do
  let s ← performed (fun _ => true) s
  holdIf (!s.earlier.isEmpty) .order
  holdIf ((s.posted.any fun p => !relPoint sc p) || s.acquired sc) .postBuf
  .ok s

/-- What a stream wrote before a SEND is visible to its core when the value can be taken (R119): its atomics have been
performed, its stores to read-duplicated pages are ordered, its rows and masses have landed. -/
def sendGate (s : State) : Res State := do
  holdIf (s.earlier.any GAcc.writes) .order
  holdIf (s.posted.any fun p => !relPoint .core p) .postBuf
  performed id s

/-- A global access in flight: a lockstep job freezes until it is answered (03 R59; 13 R212). -/
def State.await (s : State) (g : GAcc) : State :=
  s.updJob fun j =>
    let j : Job := { j with outs := j.outs ++ [g] }
    if j.strict then { j with st := .frozen, freeze := j.freeze ++ [⟨.gload, g.strm⟩] } else j

/-- Entries of the posted-store buffer in use (R123). -/
def Core.psbUsed (c : Core) : Nat := (c.psb.filter fun p => !p.more).length

/-- Whether an ORD makes the read an acquire. -/
def ordAcq : MOrd → Bool
  | .acq | .acqrel => true
  | _ => false

/-- Whether an ORD makes the write a release. -/
def ordRel : MOrd → Bool
  | .rel | .acqrel => true
  | _ => false

-- Vector operands (11 R192, R193; 15 R251, R253).

/-- A tile in which every row is the same. -/
def Tile.same (r : VRow) : Tile := Vector.replicate 16 r

/-- A row of 1024 / w copies of the low w bits of a register (R251). -/
def splatRow (w : Nat) (v : Word) : Row := rowOf w fun _ => v.toNat % p2 w

/-- A tile register of the V stream, once its result has been written (R253). -/
def rdV (s : State) (r : BitVec 5) : Res Tile := do
  s.cjob.need (.vreg r)
  holdIf (s.cjob.ops.any fun o => o.vd == r) .latency
  .ok s.cjob.v[r.toNat]

/-- The head of a V queue: the value a word of the same group has seen already, else the entry that can be popped now
(R193; 13 R223). -/
def headV (s : State) (q : BitVec 2) : Res Tile :=
  match alGet s.cur.vheads q.toNat with
  | some t => .ok t
  | none =>
    match s.cjob.vq[q.toFin] with
    | e :: _ =>
      if e.avail ≤ s.gcc then .ok e.tile
      else if s.cjob.strict then .error (.trap cQueueUnderflow (BitVec.ofNat 64 (4 + q.toNat)))
      else .error (.hold .stream 0)
    | [] =>
      if s.cjob.strict then .error (.trap cQueueUnderflow (BitVec.ofNat 64 (4 + q.toNat)))
      else .error (.hold .stream 0)

/-- A vector source as a tile; w is the width of its elements (R192, R251). -/
def rdSrc (s : State) (w : Nat) : VSrc → Res Tile
  | .reg r => rdV s r
  | .rot k => rdV s (s.cjob.rot k)
  | .pop q | .peek q => headV s q
  | .splat x => do
    let v ← rdX s (splatReg x)
    .ok (Tile.same ⟨splatRow w v.v, v.po⟩)

/-- Row r of a tile. -/
def Tile.row (t : Tile) (r : Nat) : VRow := t.toList.getD r ⟨0, none⟩

/-- Row r of vb, or its row 0 under BRB (R251). -/
def Tile.brb (t : Tile) (b : Bool) (r : Nat) : VRow := t.row (if b then 0 else r)

/-- The queue that a source pops. -/
def popOf : VSrc → Option (BitVec 2)
  | .pop q => some q
  | _ => none

/-- The queue whose head a source reads. -/
def headOf : VSrc → Option (BitVec 2)
  | .pop q | .peek q => some q
  | _ => none

/-- The issuing stream acquires: a wait, or a value taken from a queue, orders it after what its die can see (07 R119, R120). -/
def State.acquires (s : State) : State := s.updJob fun j => j.acquire s.cur.strm s.ord

/-- The state after a word has read these sources: each queue named by a pop loses one entry, and a later word of the
group still sees the head that was read (11 R181, R193); what its sender wrote is acquired with it (07 R119). -/
def takeSrcs (s : State) (l : List VSrc) : State :=
  let s : State := (l.filterMap headOf).eraseDups.foldl (fun (t : State) q =>
    match alGet t.cur.vheads q.toNat, t.cjob.vq[q.toFin] with
    | none, e :: _ => { t with cur := { t.cur with vheads := alSet t.cur.vheads q.toNat e.tile } }
    | _, _ => t) s
  (l.filterMap popOf).eraseDups.foldl (fun (t : State) q =>
    t.updJob fun j =>
      { j with vq := j.vq.set q.toFin (j.vq[q.toFin]).tail, vpopped := j.vpopped.set q.toFin (j.vpopped[q.toFin] + 1) })
    (if (l.filterMap headOf).isEmpty then s else s.acquires)

/-- The register of a vector destination. -/
def dstReg (j : Job) : VDst → BitVec 5
  | .reg r => r
  | .rot k => j.rot k

/-- A word may write vd after L cycles: no earlier word writes it in a later cycle (R253), and none that was due to write it waits for
its rows. -/
def Job.needDst (j : Job) (vd : BitVec 5) (l : Nat) : Res Unit :=
  match j.marks.find? fun m => m.rsc == .vreg vd && m.h == (j.st == .trapped) && decide (j.now + l < m.due) with
  | some m => .error (timing j m.pc)
  | none => holdIf ((j.outs.any fun g => g.writesV vd) || j.ops.any fun o => o.vd == vd && decide (o.due ≤ j.now)) .latency

/-- Active rows (R249). -/
def Job.rows (j : Job) : Nat := j.vsRows.toNat

/-- ⌈a / b⌉. -/
def ceilDiv (a b : Nat) : Nat := (a + b - 1) / b

/-- Occupancy of a word on elements of w bits (R252). -/
def occ (rows w : Nat) : Nat := if w ≥ 16 then ceilDiv rows 4 else ceilDiv rows 2

/-- A word of the arithmetic pipe issues: it occupies the pipe for o cycles and writes the rows after l (R253). -/
def issueV (s : State) (vd : BitVec 5) (o l : Nat) (srcs : List VSrc) (rows : List (Nat × VRow)) : Res State := do
  s.cjob.need .vpipe
  s.cjob.needDst vd l
  let s := takeSrcs s srcs
  let op : VecOp := ⟨s.ord, vd, rows, s.cjob.now + l⟩
  let s := s.updJob fun j =>
    ({ j with ops := j.ops ++ [op] }.mark .vpipe o s.cur.wpc).mark (.vreg vd) l s.cur.wpc
  .ok { s with ord := s.ord + 1 }

end Sys2Proof.Machine
end

