-- ==== Sys2Proof/Machine/Phys.lean ====
section
/-! DEFINITION. What engines and instruction fetch reach at a physical address: DRAM at its home, another core's
scratchpad through the aperture, or another package (01 R26 to R32; 07 R129, R141; 11 R178; 23 R378, R416). -/

namespace Sys2Proof.Machine

/-- Poison of scratchpad bytes with the local addresses, as an access through the aperture reads them. -/
def Core.read (c : Core) (a n : Nat) : List Byte × Option PoU := (c.spad.read a n, c.poison a n)

/-- The n bytes at a physical address as an agent of die d reads them, with the posted stores that it sees. The bytes of another package are free values
(log entry 14), new in each reading. -/
def State.physRead (s : State) (d : DieIx) (vis : CoreIx → PStore → Bool) (pa n : Nat) : List Byte × Option PoU :=
  match s.place pa with
  | .bonded _ | .lpddr => s.engineRead d vis pa n
  | .aper c a => (s.core c).read a n
  | .peer _ _ => ((List.range n).map fun i => Config.peerByte (pa + i) (s.gcc + s.ord), none)
  | .mgmt | .reserved => (List.replicate n 0, none)

/-- A job takes remote bytes: in lockstep mode only in a frozen cycle, which this makes one (03 R59, R60). `none` when
the present cycle has been a job cycle already. -/
def Job.openRemote (j : Job) : Option Job :=
  if j.nest.lockstep && (j.st == .running || j.st == .frozen) then
    if j.cycDone then none
    else if j.freeze.any fun f => f.kind == .remote then some j
    else some { j with st := .frozen, freeze := j.freeze ++ [⟨.remote, .s⟩] }
  else some j

/-- Bytes of an engine of core n land in the scratchpad of core `m` at local address a with swizzle tag t on the tiles given
(05 R90; 07 R118), and make the units `whole` clean (23 R378); bytes of another core's engine or of a collective (`far`) freeze a lockstep job (03 R59). `none` when they must
wait for the next cycle. -/
def State.landAt (s : State) (n m : CoreIx) (far : Bool) (a : Nat) (bs : List (Byte × Option PoU)) (t : BitVec 4)
    (tiles whole : List Nat) : Option State :=
  let put (s : State) : State := s.modCore m fun c =>
    (c.winWrite a bs.length).land
      ⟨rankEngine m.val n.val, 0, false, false, t, tiles, (List.range bs.length).zip bs |>.map fun e => (a + e.1, e.2), whole⟩
  if n == m && !far then some (put s)
  else match (s.job m).openRemote with
  | none => none
  | some j => some (put (s.setJob m j))

/-- Capacity of the instruction cache: 256 KiB (01 R21). DESIGN CHOICE (log entry 34): in lines of 256 bytes, the oldest
fetched leaving first. -/
def icacheLines : Nat := 1024

/-- The instruction cache holds the line of a word that has been fetched (01 R21). -/
def Core.fetched (c : Core) (line : Nat) : Core :=
  if c.icache.contains line then c else { c with icache := (line :: c.icache).take icacheLines }

/-- A frame that instruction fetch does not reach: the aperture and the peer tier, which engines, copies and duplicates reach
(01 R25, R32). DESIGN CHOICE (log entry 81): a fetch that a walk leads there ends in PAGE_PROTECTION; R97 lets the walk end as
Translated, and no rule says what the fetch then does. -/
def State.fetchBad (s : State) (frame : Nat) : Bool :=
  match s.place frame with
  | .aper _ _ | .peer _ _ => true
  | _ => false

/-- The word at a program counter (R178): its bytes are read for the die, RD = 1 is needed, the die's translation cache keeps
the translation and the core's instruction cache the line. DESIGN CHOICE (log entry 81): a word in a poisoned unit, whatever the
origin of its poison, is the system cause ECC_UNCORRECTABLE, one whose shell is fenced DIE_FENCED; no rule gives a cause for either. -/
def State.fetchWord (s : State) (n : CoreIx) (va : Word) : Except (Cause × Word) (Word × State) :=
  let d := dieOf n
  let part := (s.job n).nest.part
  match s.lookup d part va true false false with
  | .bad c info => .error (c, info)
  | .ok x =>
    if s.fetchBad x.frame then .error (cPageProtection, va)
    else
      let pa := canon s.pkgnum.toNat (x.frame + va.toNat % pageSize)
      match s.engineRead d seesDie pa 8 with
      | (bs, none) =>
        .ok (BitVec.ofNat 64 (leNat bs), (s.modDie d fun e => e.tlbPut part va x).modCore n fun c => c.fetched (pa / 256))
      | (_, some (.raw c)) =>
        .error (if c == cDieFenced then (cDieFenced, BitVec.ofNat 64 (pa / bondedSize + 0x100)) else (cEcc, BitVec.ofNat 64 pa))
      | (_, some (.carried _)) => .error (cEcc, BitVec.ofNat 64 pa)

end Sys2Proof.Machine
end

