-- ==== Sys2Proof/Machine/Windows.lean ====
section
/-! DEFINITION. Window tile copies: merges, transfers, what a holder and a home do (07 R132 to R135, R142, R143, R147;
17 R299 to R302). -/

namespace Sys2Proof.Machine

/-- A byte and its poison. -/
def Core.cell (c : Core) (a : Nat) : Byte × Option PoU := (c.spad.get a, alGet c.spadPo (a / 8))

/-- A write lands in a tile in this cycle: what it writes moves with the tile from the next cycle on (R118). -/
def Core.landsIn (c : Core) (tile : Nat) : Bool := c.landing.any fun l => l.bytes.any fun b => b.1 / 4096 == tile

/-- The bound copy of a home tile that a core holds. -/
def Core.copyOf (c : Core) (home : CoreIx) (tile : Nat) : Option WinCopy :=
  c.copies.find? fun w => w.home == home && w.homeTile == tile

/-- The core with the state and mask of one bound copy replaced. -/
def Core.setCopy (c : Core) (tile : Nat) (st : WinSt) (dirty : List Nat) : Core :=
  { c with copies := c.copies.map fun (w : WinCopy) => if w.tile == tile then { w with st := st, dirty := dirty } else w }

/-- Bytes of a window merge at a home: in a cycle that is a job cycle of a lockstep job they wait for a frozen one
(03 R59). -/
def State.landMerge (s : State) (n home : CoreIx) (l : Land) : State :=
  match (s.job home).openRemote with
  | some j => if n == home then s.modCore home fun c => c.land l else (s.setJob home j).modCore home fun c => c.land l
  | none => s.modCore home fun c => { c with inbox := c.inbox ++ [l] }

/-- Dirty words of a copy merged into the home tile, whose tag becomes that of the sending side (05 R90; 07 R132). -/
def State.winMerge (s : State) (n : CoreIx) (w : WinCopy) : State :=
  if w.dirty.isEmpty || !s.coreUp w.home then s
  else
    let c := s.core n
    let bytes := w.dirty.flatMap fun k => (List.range 4).map fun i =>
      let b := c.cell (w.tile * 4096 + 4 * k + i)
      (w.homeTile * 4096 + 4 * k + i, b.1, b.2)
    s.landMerge n w.home ⟨rankEngine w.home.val n.val, 0, false, true, c.tag w.tile, [w.homeTile], bytes, []⟩

/-- The home tile overlaid by the dirty words of any O or M holder: bytes, poison and tag (R132). -/
def State.winData (s : State) (home : CoreIx) (tile : Nat) : List (Byte × Option PoU) × BitVec 4 :=
  let h := s.core home
  let own := (List.finRange 128).filterMap fun n =>
    ((s.core n).copyOf home tile).bind fun w =>
      if w.st == .o || w.st == .m then some (s.core n, w) else none
  ((List.range 4096).map fun o =>
    match own.find? fun e => e.2.dirty.contains (o / 4) with
    | some e => e.1.cell (e.2.tile * 4096 + o)
    | none => h.cell (tile * 4096 + o), h.tag tile)

/-- A holder changes state for another core's WGET (`own = false`), for its WOWN, or for a home write (R132). -/
def State.winProbe (s : State) (holder home : CoreIx) (tile : Nat) (own : Bool) : State :=
  match (s.core holder).copyOf home tile with
  | none => s
  | some w =>
    if own then
      let s := if w.st == .o || w.st == .m then s.winMerge holder w else s
      s.modCore holder fun c => c.setCopy w.tile .i []
    else match w.st with
      | .e => s.modCore holder fun c => c.setCopy w.tile .s []
      | .m => s.modCore holder fun c => c.setCopy w.tile .o w.dirty
      | _ => s

/-- No write lands in this cycle in a copy of the home tile: its holders can give it up (R118). -/
def State.winQuiet (s : State) (home : CoreIx) (tile : Nat) : Bool :=
  (s.winHolders home tile).all fun n => !((s.core n).copyOf home tile).any fun w => (s.core n).landsIn w.tile

/-- The holders that must answer a request: for WGET an E or M holder, for WOWN or a home write every other holder
that is not in I (R132). -/
def State.winNeeds (s : State) (req home : CoreIx) (tile : Nat) (own : Bool) : List CoreIx :=
  (s.winHolders home tile).filter fun n =>
    n != req && (own || (((s.core n).copyOf home tile).any fun w => w.st == .e || w.st == .m))

/-- Arrivals of a command at its own core: on the slot it resolved, else on the turnstile it names (05 R102, R111). -/
def State.arriveOwn (s : State) (n : CoreIx) (c : Cmd) (k : Nat) : State :=
  s.modJobOf n c.seq c.iter fun j =>
    match c.slot, c.ts with
    | some (car, slot), _ => j.slotArrive car slot k
    | none, some t => j.modTs t fun x => x.addArr c.phase k
    | none, none => j

/-- A request is settled: the requester's tile is bound in its new state, with the data when it had none (R132, R300). -/
def State.winSettle (s : State) (req home : CoreIx) (homeTile tile : Nat) (own : Bool) : State :=
  match (s.core req).copyAt tile with
  | some w =>
    match w.st with
    | .i => bindIt s
    | .s => if own then s.modCore req fun c => c.setCopy tile .e [] else s
    | .o => if own then s.modCore req fun c => c.setCopy tile .m w.dirty else s
    | .e | .m => s
  | none => bindIt s
where
  /-- The data of the home tile land in the copy, with the tag of the home tile (05 R90). -/
  bindIt (s : State) : State :=
    let (bs, t) := s.winData home homeTile
    let l : Land := ⟨0, 0, false, false, t, [tile], (List.range 4096).zip bs |>.map fun e => (tile * 4096 + e.1, e.2), []⟩
    s.modCore req fun c =>
      let c := c.land l
      { c with copies := c.copies.filter (fun w => w.tile != tile) ++ [⟨tile, home, homeTile, if own then .e else .s, []⟩] }

/-- WPUT on one bound tile (R132). -/
def State.winPut (s : State) (n : CoreIx) (tile : Nat) : State :=
  match (s.core n).copyAt tile with
  | none => s
  | some w =>
    match w.st with
    | .m => (s.winMerge n w).modCore n fun c => c.setCopy tile .e []
    | .o => (s.winMerge n w).modCore n fun c => c.setCopy tile .s []
    | _ => s

/-- WDROP on one bound tile: O and M merged first, then ordinary scratchpad again (R132). -/
def State.winDrop (s : State) (n : CoreIx) (tile : Nat) : State :=
  match (s.core n).copyAt tile with
  | none => s
  | some w =>
    let s := if w.st == .o || w.st == .m then s.winMerge n w else s
    s.modCore n fun c => { c with copies := c.copies.filter fun v => v.tile != tile }

/-- Every copy of a core's own window tile goes to I, merged first (R299). -/
def State.winRecall (s : State) (home : CoreIx) (tile : Nat) : State :=
  (s.winHolders home tile).foldl (fun (t : State) n => t.winProbe n home tile true) s

/-- The tiles of a declared window. -/
def WinRange.tiles (w : WinRange) : List Nat := (List.range (w.len / 4096)).map (w.base / 4096 + ·)

/-- The windows of a job that is DRAINING are undeclared and its copies dropped, each once nothing lands in it any more
(R302). -/
def State.tearWindows (s : State) (n : CoreIx) : State :=
  let c := s.core n
  let s := c.copies.foldl (fun (t : State) w => if c.landsIn w.tile then t else t.winDrop n w.tile) s
  let s := (c.win.toList.flatMap WinRange.tiles).foldl (fun (t : State) tile =>
    if t.winQuiet n tile then t.winRecall n tile else t) s
  let left (w : WinRange) : Bool := w.tiles.any fun tile => !(s.winHolders n tile).isEmpty || (s.core n).merging tile
  s.modCore n fun c =>
    let win := c.win.map fun (w : WinRange) => if left w then w else ⟨0, 0⟩
    { c with win := win, winReqs := if win.toList.all (fun w => w.len == 0) then [] else c.winReqs }

/-- The core has no window and no bound copy left. -/
def Core.torn (c : Core) : Bool := c.copies.isEmpty && c.win.toList.all fun w => w.len == 0

/-- A core leaves service: its copies leave the sharer vectors, a tile it held in O or M is poisoned at the home
(07 R142), and the copies bound to it go to I (R147). -/
def State.winFence (s : State) (n : CoreIx) : State :=
  let held := (s.core n).copies
  let s := held.foldl (fun (t : State) w =>
    if w.st == .o || w.st == .m then
      t.modCore w.home fun c =>
        { c with spadPo := (List.range 512).foldl (fun po i => alSet po (w.homeTile * 512 + i) (PoU.raw cEcc)) c.spadPo }
    else t) s
  let s := s.modCore n fun c => { c with copies := [], win := Vector.replicate 8 ⟨0, 0⟩, winReqs := [] }
  { s with cores := s.cores.map fun (c : Core) =>
      { c with
        copies := c.copies.map fun (w : WinCopy) => if w.home == n then { w with st := .i, dirty := [] } else w
        winReqs := c.winReqs.filterMap fun (r : WinReq) =>
          if r.req == n then none else some { r with probes := r.probes.filter fun h => h != n } } }

-- Writes of engines.

/-- How a write of an engine fares: done, to be tried in a later cycle, or the command ends. -/
inductive Wrote where
  | done (s : State)
  | wait (s : State)
  | bad (c : Cause) (info : Word)

/-- Bytes of an engine of core n land at local address a of core m, unless a bound copy there may not be written. A home
write to a tile that other cores hold sends their copies to I and lands on top of what they merge, once that has landed (07
R132, R134). -/
def State.landOn (s : State) (n m : CoreIx) (far : Bool) (a : Nat) (bs : List (Byte × Option PoU)) (t : BitVec 4)
    (tiles whole : List Nat) : Wrote :=
  let c := s.core m
  let mine := tilesOf a bs.length
  if mine.any fun x => (c.copyAt x).any fun w => w.st == .s || w.st == .o || w.st == .i then
    .bad cExtentViolation (BitVec.ofNat 64 a)
  else if mine.any c.merging then .wait s
  else if mine.any (s.heldTile m) then
    .wait ((mine.filter fun x => s.heldTile m x && s.winQuiet m x).foldl (fun (u : State) x => u.winRecall m x) s)
  else match s.landAt n m far a bs t tiles whole with
    | some u => .done u
    | none => .wait s

/-- Bytes that the command `ord` of core n writes at a physical address (07 R129, R143; 23 R416): in DRAM they are ordered at
once, or in their turn in a page that other packages duplicate (R139, R144); in a scratchpad aperture they land, with tag 0 when
they are the first in their tile (05 R90); to another package they leave by the fabric, `last` for the last of the command. `whole` are the addresses of the units
that the command has now written clean throughout (23 R378). -/
def State.physWrite (s : State) (n : CoreIx) (ord : Nat) (part : BitVec 16) (incarn : BitVec 32) (stamp last : Bool) (pa : Nat)
    (bs : List (Byte × Option PoU)) (whole : List Nat) : Wrote :=
  match s.place pa with
  | .bonded _ | .lpddr =>
    let put := (List.range bs.length).zip bs |>.map fun e => (pa + e.1, e.2)
    let (s, now) := s.rdTurn pa (s.turnOf n ord pa part (.engine put))
    if now.isNone then .wait s
    else match s.engineWrite part put with
    | .ok t => .done { t with memPo := whole.foldl (fun l u => alSet l (u / 32) none) t.memPo }
    | .error (c, info) => .bad c info
  | .aper m a =>
    if !s.coreUp m then .bad cDieFenced (BitVec.ofNat 64 m.val)
    else if !s.corePart m part then .bad cPageProtection (BitVec.ofNat 64 pa)
    else s.landOn n m (n != m) a bs 0 (if stamp then tilesOf a bs.length else []) (whole.map fun u => (u + a - pa) / 8)
  | .peer pkg off =>
    .done { s with fabricOut := s.fabricOut ++ [⟨pkg, incarn, part, .bytes off (bs.map Prod.fst) ord last⟩] }
  | .mgmt | .reserved => .bad cPageProtection (BitVec.ofNat 64 pa)

end Sys2Proof.Machine
end

