-- ==== Sys2Proof/Machine/Control.lean ====
section
/-! DEFINITION. Control transfers, hardware loops, waits, queues, special registers, fences, traps and launches of class
00 (13_control_scalar R213 to R232, R244, R247). -/

namespace Sys2Proof.Machine

/-- The word itself as trapinfo (23 R371). -/
def State.raw (s : State) : Word := s.cur.raw

/-- A control transfer: the stream goes on at the target (R178, R215). -/
def jump (s : State) (target : Word) : Res State := do
  trapIf (target &&& 7 != 0) cAlignment target
  .ok (s.updStrm fun t => { t with pc := target })

/-- The word address plus 8 times a 29-bit word offset (R187). -/
def wordTarget (s : State) (off : BitVec 29) : Word := s.cur.wpc + imm29' off <<< 3
where
  /-- A 29-bit field sign-extended. -/
  imm29' (i : BitVec 29) : Word := i.signExtend 64

/-- NOP (R215). -/
def execNop (s : State) : Answer := finish s (.ok s)

/-- BR (R215). -/
def execBr (off : BitVec 29) (s : State) : Answer := finish s (jump s (wordTarget s off))

/-- A conditional branch (R215); both operands are consumed (R213). -/
def branchIf (cond : Cond) (xa xb : BitVec 4) (off : BitVec 29) (s : State) : Res State := do
  let a ← useX s xa
  let b ← useX s xb
  if condHolds cond a b then jump s (wordTarget s off) else .ok s

/-- BRC (R215). -/
def execBrc (cond : Cond) (xa xb : BitVec 4) (off : BitVec 29) (s : State) : Answer :=
  finish s (branchIf cond xa xb off s)

/-- LBREAK (R216): as BRC; vrb is unchanged. -/
def execLbreak (cond : Cond) (xa xb : BitVec 4) (off : BitVec 29) (s : State) : Answer :=
  finish s (branchIf cond xa xb off s)

/-- JMPX (R215): the target is read before the link is written. -/
def execJmpx (xd xa : BitVec 4) (s : State) : Answer :=
  finish s (do
    let t ← useX s xa
    jump (wrX s xd (XVal.clean s.cur.next) 1) t)

/-- CALL (R215). -/
def execCall (off : BitVec 29) (s : State) : Answer :=
  finish s (jump (wrX s 15 (XVal.clean s.cur.next) 1) (wordTarget s off))

/-- RET (R215). -/
def execRet (s : State) : Answer :=
  finish s (do
    let t ← useX s 15
    jump s t)

/-- The counted back edge (R217): the state after it, and whether it was taken. -/
def loopBack (xd : BitVec 4) (imm : BitVec 29) (s : State) : Res (State × Bool) := do
  let c ← useX s xd
  if c.toNat ≤ 1 then .ok (wrX s xd (XVal.clean 0) 1, false)
  else do
    let t ← jump (wrX s xd (XVal.clean (c - 1)) 1) (wordTarget s imm)
    .ok (t, true)

/-- LOOP (R217). -/
def execLoop (xd : BitVec 4) (imm : BitVec 29) (s : State) : Answer :=
  finish s (do
    let r ← loopBack xd imm s
    .ok r.1)

/-- LOOPV (R217; 04 R81): in the V stream a taken back edge advances vrb with the branch. -/
def execLoopv (xd : BitVec 4) (imm : BitVec 29) (s : State) : Answer :=
  finish s (do
    let r ← loopBack xd imm s
    if r.2 && s.cur.strm == Strm.v then .ok (r.1.updJob fun j => { j with vrb := j.vrb + 1 }) else .ok r.1)

-- Rendezvous and waits.

/-- Every started stream has joined (03 R57, R72). -/
def Job.allJoined (j : Job) : Bool := strms.all fun st => !(j.stream st).started || (j.stream st).joined

/-- JOIN (R218): the last one makes the job DRAINING (03 R72). -/
def execJoin (s : State) : Answer :=
  finish s (do
    trapIf (s.cjob.st == .trapped) cIllegalOpcode s.raw
    let s := s.updStrm fun t => { t with joined := true }
    if s.cjob.allJoined then
      .ok (s.updJob fun j => { j with st := .draining })
    else .ok s)

/-- The oldest class-10 word, incomplete in this job cycle, that holds a number at or below n on a timeline (20 R339). What has
completed during a stop is none of them (23 R372). -/
def oldestHolder (j : Job) (k : BitVec 3) (n : Nat) : Option MatOp :=
  ((j.mops.insertionSort fun a b => a.ord ≤ b.ord).find? fun o => decide (j.jc ≤ o.due) && match o.tl with
    | some (c, m) => c == k && decide (m ≤ n)
    | none => false)

/-- A timeline wait for n (05 R106, R107): DONE and FAILNUM as they stood at the start of the cycle, ISSUED with the
command of the group's other word (11 R181). -/
def waitTimeline (s : State) (k : BitVec 3) (n : Nat) : Res State := do
  let t := s.cjob.tl0[k.toFin]
  trapIf (decide (n > (s.cjob.tl[k.toFin]).issued)) cTimelineError (tlInfo n 0 k)
  trapIf (t.failnum != 0 && decide (n ≥ t.failnum)) cTimelineError (tlInfo t.failnum t.cause k)
  match if s.cjob.strict then oldestHolder s.cjob k n else none with
  | some o => .error (.trap cScheduleMiss o.pc)
  | none => pure ()
  holdIf (decide (t.done < n)) .waiting
  .ok s.acquires

/-- WAITT (R219). -/
def execWaitt (tl : BitVec 3) (xa : BitVec 4) (imm : BitVec 29) (s : State) : Answer :=
  finish s (do
    let a ← useX s xa
    waitTimeline s tl (a + imm.signExtend 64).toNat)

/-- A turnstile wait for the end of phase φ (R104): its state is checked before its phase. -/
def waitTurnstile (s : State) (k : BitVec 6) (phase : Bool) : Res State :=
  if s.cstrm.held == some (.waiting, releasedInfo k phase) then .ok s.acquires
  else
    let t := s.cjob.ts[k.toFin]
    match t.bad k.toNat with
    | some st => .error st
    | none => if t.phase != phase then .ok s.acquires else .error (.hold .waiting (waitInfo k phase))

/-- WAITS (R220). -/
def execWaits (ts : BitVec 6) (xa : BitVec 4) (inv : Bool) (s : State) : Answer :=
  finish s (do
    let a ← useX s xa
    waitTurnstile s ts (a.getLsbD 0 != inv))

/-- STAMPW (R221). -/
def execStampw (xd xa : BitVec 4) (s : State) : Answer :=
  finish s (do
    let t ← useX s xa
    if s.gcc < t.toNat then .error (.hold .stamp t.toNat)
    else .ok (wrX s xd (XVal.clean (BitVec.ofNat 64 s.gcc)) 1))

-- Queues.

/-- A number naming a queue: [3:2] the stream that owns it, [1:0] the queue (23 R371). -/
def queueInfo (st : Strm) (k : BitVec 2) : Word := BitVec.ofNat 64 (4 * (sIx st).val + k.toNat)

/-- Entries and places of a queue that cannot be filled in this cycle (R223; 19 R331). -/
def Job.qTaken (j : Job) (st : Strm) (k : BitVec 2) : Nat :=
  if st == .v then (j.vq[k.toFin]).length + j.vpopped[k.toFin] + j.vqRes[k.toFin]
  else ((j.stream st).q[k.toFin]).length + (j.stream st).popped[k.toFin]

/-- A value appended to a queue; the V stream's entries are tiles (R222, R223). -/
def Job.append (j : Job) (st : Strm) (k : BitVec 2) (v : XVal) (avail : Nat) : Job :=
  if st == .v then
    let row (r : Fin 16) : VRow := if r.val == 0 then ⟨v.v.setWidth 1024, v.po⟩ else ⟨0, none⟩
    { j with vq := j.vq.set k.toFin (j.vq[k.toFin] ++ [⟨Vector.ofFn row, avail⟩]) }
  else j.modStream st fun t => { t with q := t.q.set k.toFin (t.q[k.toFin] ++ [⟨v, avail⟩]) }

/-- SEND (R222, R223, R247). DESIGN CHOICE (log entry 82): a poisoned value comes before a stream outside SMASK. -/
def execSend (t : Strm) (k : BitVec 2) (xa : BitVec 4) (s : State) : Answer :=
  finish s (do
    let v ← useX s xa
    trapIf (!s.cjob.inMask t) cIllegalOperand s.raw
    let s ← sendGate s
    if s.cjob.qTaken t k ≥ 4 then
      .error (if s.cjob.strict then .trap cQueueOverflow (queueInfo t k) else .hold .stream 0)
    else .ok (s.updJob fun j => j.append t k (XVal.clean v) (s.gcc + 1)))

/-- The head of a scalar queue of the issuing stream: what the group has seen, or the entry that can be popped now
(R223, R224). -/
def headX (s : State) (k : BitVec 2) : Res XVal :=
  match alGet s.cur.qheads k.toNat with
  | some v => .ok v
  | none =>
    let none_ : Stop :=
      if s.cjob.strict then .trap cQueueUnderflow (queueInfo s.cur.strm k) else .hold .stream 0
    match (s.cstrm.q[k.toFin]).head? with
    | some e => if e.avail ≤ s.gcc then .ok e.val else .error none_
    | none => .error none_

/-- The head read by a pop or a peek stays visible to the group; a pop takes it away once (11 R181, R193); what its sender wrote
is acquired with it (07 R119). -/
def takeHead (s : State) (k : BitVec 2) (v : XVal) (pop : Bool) : State :=
  let s : State := { s with cur := { s.cur with qheads := alSet s.cur.qheads k.toNat v } }.acquires
  if pop then
    s.updStrm fun t => { t with q := t.q.set k.toFin (t.q[k.toFin]).tail, popped := t.popped.set k.toFin (t.popped[k.toFin] + 1) }
  else s

-- Special registers.

/-- What SRD reads in the issue cycle: a register that another stream may write reads as it stood at the start of the
cycle (R225). -/
def readSReg (s : State) (r : SReg) : Word :=
  let j := s.cjob
  match r with
  | .vshape => if s.cur.strm == Strm.v then s.sreg s.cur.core j r else j.sr0[0]
  | .vrb => if s.cur.strm == Strm.v then s.sreg s.cur.core j r else j.sr0[1]
  | .vring => if s.cur.strm == Strm.v then s.sreg s.cur.core j r else j.sr0[2]
  | .trapvec => if s.cur.strm == Strm.s then s.sreg s.cur.core j r else j.sr0[3]
  | r => s.sreg s.cur.core j r

/-- SRD (R224, R225). -/
def execSrd (xd : BitVec 4) (r : SReg) (s : State) : Answer :=
  finish s (match r with
    | .qpop k => do
      let v ← headX s k
      .ok (wrX (takeHead s k v true) xd v 1)
    | .qpeek k => do
      let v ← headX s k
      .ok (wrX (takeHead s k v false) xd v 1)
    | r => .ok (wrX s xd (XVal.clean (readSReg s r)) 1))

/-- A value that SWR refuses: a RES0 bit set, or a field out of range (R227). -/
def swrBad (r : WReg) (v : Word) : Bool :=
  match r with
  | .vshape =>
    v &&& ~~~(0xF1F : Word) != 0 || v &&& 0x1F == 0 || decide ((v &&& 0x1F).toNat > 16) ||
      decide ((v >>> 8 &&& 0xF).toNat > 12)
  | .vrb => false
  | .vring =>
    let rs := (v >>> 8 &&& 0x1F).toNat
    let rb := (v &&& 0x1F).toNat
    v &&& ~~~(0x1F1F : Word) != 0 || rs == 0 || decide (rs > 16) || decide (rb + rs > 32)
  | .trapvec => v &&& 7 != 0

/-- The job with a special register written (R225). -/
def Job.setReg (j : Job) (r : WReg) (v : Word) : Job :=
  match r with
  | .vshape => { j with vsEf := (v >>> 8).setWidth 4, vsRows := v.setWidth 5 }
  | .vrb => { j with vrb := v }
  | .vring => { j with ringS := (v >>> 8).setWidth 5, ringB := v.setWidth 5 }
  | .trapvec => { j with trapvec := v }

/-- SWR (R225, R227). -/
def execSwr (r : WReg) (xa : BitVec 4) (s : State) : Answer :=
  finish s (do
    let v ← useX s xa
    trapIf (swrBad r v) cIllegalOperand s.raw
    .ok (s.updJob fun j => j.setReg r v))

-- Fences, beacons, yields.

/-- FENCE (R244; 07 R121, R127, R128): it waits for what it orders later accesses behind. -/
def execFence (ord : MOrd) (scope : Scope) (s : State) : Answer :=
  finish s (do
    holdIf (ordAcq ord && !s.earlier.isEmpty) .order
    let s ← if ordAcq ord then performed (fun w => !w) s else pure s
    let s := if ordAcq ord then s.acquires else s
    if ordRel ord then relGate s scope else .ok s)

/-- BEACON (R228). -/
def execBeacon (s : State) : Answer :=
  finish s (.ok (s.updJob fun j => if j.nest.persist then { j with beacon := 0 } else j))

/-- The first free save slot of a die (23 R382, R385). -/
def Die.freeSlot (d : Die) : Option Nat := d.slots.findIdx? (· == .free)

/-- A save slot taken for a job that stops (R385). -/
def State.takeSlot (s : State) (n : CoreIx) (sv : Saving) : State :=
  let j := s.job n
  let s := s.modDie (dieOf n) fun d => { d with slots := d.slots.set sv.slot (.saved j.seq j.iter) }
  s.modJob n fun j => { j with saving := some sv }

/-- The slot into which a job is to be saved at a YIELD: the one that another stream has taken for it in this cycle, else a free one. -/
def State.yieldSlot (s : State) (n : CoreIx) : Option Nat :=
  match (s.job n).saving with
  | some sv => some sv.slot
  | none => (s.die (dieOf n)).freeSlot

/-- YIELD (R229): a pending pre-emption is taken at the boundary that follows, saving the tiles of the range. DESIGN CHOICE (log
entry 68): of two streams of a lockstep job that yield in one cycle the later in the order S, V, M, C decides the range. DESIGN
CHOICE (log entry 83): trapinfo of a range that does not lie in G0 and G1 is its first address. -/
def execYield (xa xb : BitVec 4) (s : State) : Answer :=
  finish s (do
    let a ← useX s xa
    let b ← useX s xb
    trapIf (b != 0 && decide (a.toNat + b.toNat > 0x800000)) cExtentViolation a
    match s.cjob.preq, s.yieldSlot s.cur.core with
    | some _, some k =>
      if s.cjob.nest.gang then .ok s
      else
        let first := a.toNat / 4096
        let count := if b == 0 then 0 else (a.toNat + b.toNat + 4095) / 4096 - first
        .ok (s.takeSlot s.cur.core ⟨k, false, first, count⟩)
    | _, _ => .ok s)

-- Traps and launches.

/-- UNASSIGNED_OPCODE (11 R184, R195; 00 R8): a word whose opcode or function code is not assigned. -/
def execUnassignedOpcode (_opc : BitVec 8) (_ops : BitVec 41) (s : State) : Answer :=
  finish s (.error (.trap cIllegalOpcode s.raw))

/-- TRAP (R230): the cause SOFTWARE; after TRET the stream goes on at the next group. -/
def execTrap (xa : BitVec 4) (imm : BitVec 29) (s : State) : Answer :=
  finish s (do
    let a ← useX s xa
    .error (.trap cSoftware (a + imm.signExtend 64)))

/-- TRET (R231): at once when every operation of the handler has written its result, else it is kept until then. -/
def execTret (xa : BitVec 4) (s : State) : Answer :=
  finish s (do
    trapIf (s.cjob.st != .trapped) cIllegalOpcode s.raw
    let t ← useX s xa
    trapIf (xa != 0 && t &&& 7 != 0) cAlignment t
    let target := if xa == 0 then s.cjob.trapResume else t
    .ok (s.updJob fun j =>
      if j.handlerBusy then { j with tret := some target } else { j.trapReturn target with thawAt := s.gcc + 1 }))

/-- Every page that a nest record touches translated for a read (R232): where it lies. -/
def recordPlaces (s : State) (va : Word) : Res (List Nat × State) :=
  let d := dieOf s.cur.core
  let part := s.cjob.nest.part
  (pagesOf va.toNat 640).foldl (fun (r : Res (List Nat × State)) page => do
    let (l, s) ← r
    let pva : Word := BitVec.ofNat 64 (page * pageSize)
    match s.lookup d part (if page == va.toNat / pageSize then va else pva) true false false with
    | .ok x =>
      if s.fetchBad x.frame then .error (.trap cPageProtection pva)
      else .ok (l ++ [canon s.pkgnum.toNat x.frame], s.modDie d fun e => e.tlbPut part pva x)
    | .bad c info => .error (.trap c info)) (.ok ([], s))

/-- The record's bytes, byte i at its place, as they stood at the start of the group (00 R9), and the origin of the first poisoned
unit. -/
def recordBytes (s : State) (va : Word) (frames : List Nat) : List Byte × Option Origin :=
  let d := dieOf s.cur.core
  let one (i : Nat) : List Byte × Option PoU :=
    let a := va.toNat + i
    s.physRead d (fun m p => seesDie m p && !(m == s.cur.core && decide (s.cur.since ≤ p.ord))) (frames.getD (a / pageSize - va.toNat / pageSize) 0 + a % pageSize) 1
  ((List.range 640).flatMap fun i => (one i).1,
   (List.range 640).findSome? fun i => (one i).2.map fun p => p.origin (va + BitVec.ofNat 64 i))

/-- NEST (R232): the record is read and put before the RM, which answers in xd. -/
def execNest (xd xa : BitVec 4) (s : State) : Answer :=
  finish s (do
    let va ← useX s xa
    acqGate s
    let s ← relGate s .pkg
    let (frames, s) ← recordPlaces s va
    let (bytes, po) := recordBytes s va frames
    match po with
    | some o => .error (.trap cPoisonConsumed o)
    | none =>
      let g : GAcc := ⟨s.cur.strm, .nest, (0 : BitVec 1) ++ xd, va, 0, 0, false, false, .pkg, s.ord, none⟩
      let s : State := { s.updJob (fun j => j.claimX s.cur.strm xd) with
        subs := s.subs ++ [⟨s.ord, none, some s.cur.core.val, some s.cjob.nest.part, va, some bytes, false, none⟩], ord := s.ord + 1 }
      .ok (s.await g))

end Sys2Proof.Machine
end

