-- ==== Sys2Proof/Machine/LoadStore.lean ====
section
/-! DEFINITION. Loads, stores and atomics of class 00 (13_control_scalar R211 to R213, R241 to R246; 05 R84, R92; 07 R117,
R121, R123 to R127; 23 R376 to R378, R416). -/

namespace Sys2Proof.Machine

/-- Traffic of one scalar access in the issue cycle, and the cycles by which a clash with the other word of its group delays it
(03 R61, R62). -/
def scalarTraffic (s : State) (a n : Nat) : Res (State × Nat) := do
  let (j, d) ← s.cjob.charge s.cur.traf0 [trafOf s.cjob s.cur.strm s.cur.wpc s.cjob.now [a] n]
  .ok (s.putJob j, d)

/-- A scalar access to n bytes that a clash moves to the next cycle: its registers are claimed, and its results are readable that
cycle later (03 R62). -/
def State.later (s : State) (l : Loc) (n : Nat) (xd : BitVec 4) (p7 : Bool) (op : LateOp) (lat : Nat) : State :=
  let st := s.cur.strm
  { s.updJob fun j =>
      let j := if xd == 0 then j else (j.claimX st xd).mark (.xreg st xd) (lat + 1) s.cur.wpc
      let j := if p7 then (j.claimP7 st).mark (.preg st 7) (lat + 1) s.cur.wpc else j
      { j with late := j.late ++ [⟨s.ord, s.cur.since, st, j.now + 1, l.addr, n, l.prod, l.cons, xd, !p7, op⟩] } with
    ord := s.ord + 1 }

/-- A global access begins: the lines that the die lacks are asked for (07 R123, R124). -/
def State.ask (s : State) (d : DieIx) (pa n : Nat) : State :=
  (linesOf pa n).foldl (fun (t : State) l => t.requestFill d l) s

/-- A load (R242, R243). A poisoned address register makes no access (23 R377). DESIGN CHOICE (log entry 82): its result then comes
after 4 cycles with no freeze; the table of latencies has no row for it. -/
def loadWord (xd xa : BitVec 4) (sel : Sel) (sz : Sz) (sx acq : Bool) (scope : Scope) (off : Word) (s : State) :
    Res State := do
  let a ← rdX s xa
  match a.po with
  | some o => .ok (wrX s xd (poisonX o) 4)
  | none =>
    let e := a.v + off
    let n := szBytes sz
    acqGate s
    aligned e n
    match ← s.target s.cur.core ⟨true, false, false⟩ sel e n with
    | .poison o => .ok (wrX s xd (poisonX o) 4)
    | .image k o => .ok (wrX s xd (XVal.clean (widen sx n (leNat (((s.cjob.tsImage k).drop o).take n)))) 4)
    | .loc l =>
      let view ← ownAt s l.addr n
      let (s, d) ← scalarTraffic s l.addr n
      let s := if acq then s.updJob fun j => j.acquire s.cur.strm s.ord else s
      .ok (if d == 0 then wrX s xd (view.loaded sx l.addr n) 4 else s.later l n xd false (.load sx) 4)
    | .glob va pa _ =>
      sameGate s pa n
      let g : GAcc := ⟨s.cur.strm, .load sz sx, (0 : BitVec 1) ++ xd, va, pa, n, acq, true, scope, s.ord, none⟩
      let s : State := { s.updJob fun j => j.claimX s.cur.strm xd with ord := s.ord + 1 }
      let s := if g.wide then s else s.ask (dieOf s.cur.core) pa n
      .ok (s.await g)

/-- LD (R242). -/
def execLd (xd xa : BitVec 4) (sel : Sel) (sz : Sz) (sx : Bool) (off : BitVec 25) (s : State) : Answer :=
  finish s (loadWord xd xa sel sz sx false .core (off.signExtend 64) s)

/-- LDA (R243). -/
def execLda (xd xa : BitVec 4) (sel : Sel) (sz : Sz) (sx : Bool) (scope : Scope) (off : BitVec 23) (s : State) :
    Answer :=
  finish s (loadWord xd xa sel sz sx true scope (off.signExtend 64) s)

/-- A store of a stream enters the posted-store buffer (07 R123, R127); one whose home is fenced is discarded
(23 R416). -/
def State.post (s : State) (pa : Nat) (bs : List Byte) (rdup more : Bool) : State :=
  if s.homeDead pa then s
  else
    let p : PStore := ⟨s.ord, s.cur.strm, s.cjob.seq, s.cjob.iter, 0, pa, bs, rdup, more, false, 0⟩
    { s.modCore s.cur.core fun c => { c with psb := c.psb ++ [p] } with ord := s.ord + 1 }

/-- The bytes of a stream's store put in place: a scratchpad write, in this cycle or one later, counted on its carousel slot and
laid over the stream's earlier rows that are still on their way (07 R117), or an entry of the posted-store buffer. -/
def storeAt (s : State) (bs : List Byte) : Target → Res State
  | .loc l => do
    let _ ← ownAt s l.addr bs.length
    let (s, d) ← scalarTraffic s l.addr bs.length
    let s := s.updJob fun j => (j.overwrite s.cur.strm s.ord l.addr bs).skipMasses s.cur.strm s.ord l.addr bs.length
    let s := if d == 0 then
        let s := match l.prod with
          | some (car, k) => s.updJob fun j => j.slotArrive car k bs.length
          | none => s
        s.modCore s.cur.core fun c => c.streamWrite s.cur.strm s.ord l.addr bs none
      else s.updJob fun j =>
        { j with moves := j.moves ++ [⟨s.ord, s.cur.strm, j.now + d, 0, l.addr, some bs, none, l.prod, s.cur.wpc⟩] }
    .ok { s with ord := s.ord + 1 }
  | .glob _ pa rdup => do
    sameGate s pa bs.length
    holdIf (decide (s.here.psbUsed ≥ 16)) .postBuf
    .ok (s.post pa bs rdup false)
  | .image _ _ | .poison _ => .ok s

/-- A store of a lockstep job that reaches the overflow page freezes it, as a load does (R212). -/
def State.awaitSpill (s : State) (sel : Sel) (t : Target) : State :=
  match sel, t with
  | .loc, .glob va pa _ =>
    if s.cjob.strict then
      { s with ord := s.ord + 1 }.await ⟨s.cur.strm, .spill, 0, va, pa, 0, false, true, .core, s.ord, none⟩
    else s
  | _, _ => s

/-- A store (R242, R243). DESIGN CHOICE (log entry 82): its registers are consumed before the checks of R84 and R92; R242 and R213 give
no order of POISON_CONSUMED and those causes. -/
def storeWord (xd xa : BitVec 4) (sel : Sel) (sz : Sz) (rel : Option Scope) (off : Word) (s : State) : Res State := do
  let a ← useX s xa
  let d ← useX s xd
  let e := a + off
  let n := szBytes sz
  acqGate s
  aligned e n
  let t ← s.target s.cur.core ⟨false, true, false⟩ sel e n
  let s ← match rel with
    | some sc => relGate s sc
    | none => pure s
  let s ← storeAt s (leBytes n d.toNat) t
  .ok (s.awaitSpill sel t)

/-- ST (R242). -/
def execSt (xd xa : BitVec 4) (sel : Sel) (sz : Sz) (off : BitVec 25) (s : State) : Answer :=
  finish s (storeWord xd xa sel sz none (off.signExtend 64) s)

/-- STL (R243). -/
def execStl (xd xa : BitVec 4) (sel : Sel) (sz : Sz) (scope : Scope) (off : BitVec 23) (s : State) : Answer :=
  finish s (storeWord xd xa sel sz (some scope) (off.signExtend 64) s)

/-- An atomic on the scratchpad, one step in the issue cycle (07 R126; R246). -/
def localAtomic (s : State) (xd : BitVec 4) (aop : BitVec 4) (dw : Bool) (b c : Word) (acq : Bool) (l : Loc) : Res State := do
  let n := if dw then 8 else 4
  let st := s.cur.strm
  let view ← ownAt s l.addr n
  let (s, d) ← scalarTraffic s l.addr n
  let s := if acq then s.updJob fun j => j.acquire st s.ord else s
  if d != 0 then .ok (s.later l n xd (aop == 8) (.atomic aop dw b c) 6)
  else
    let (k, old, p, new) := s.here.atomicLocal view st s.ord aop b c l.addr n
    let s := (s.setCore s.cur.core k).updJob fun j =>
      let j := (j.overwrite st s.ord l.addr new).skipMasses st s.ord l.addr n
      match l.prod with
      | some (car, i) => j.slotArrive car i n
      | none => j
    let s := wrX { s with ord := s.ord + 1 } xd old 6
    .ok (if aop == 8 then wrP s 7 p 6 else s)

/-- An atomic (R245, R246): both permissions, its registers consumed in the order xa, xb, xc. DESIGN CHOICE (log entry 82): before the
checks of R84 and R92. -/
def atomicWord (xd xa xb xc : BitVec 4) (sel : Sel) (aop : BitVec 4) (dw : Bool) (ord : MOrd) (scope : Scope)
    (s : State) : Res State := do
  let e ← useX s xa
  let b ← useX s xb
  let c ← useX s xc
  let n := if dw then 8 else 4
  acqGate s
  aligned e n
  let t ← s.target s.cur.core ⟨true, true, false⟩ sel e n
  let s ← if ordRel ord then relGate s scope else pure s
  match t with
  | .loc l => localAtomic s xd aop dw b c (ordAcq ord) l
  | .glob va pa _ =>
    sameGate s pa n
    let g : GAcc :=
      ⟨s.cur.strm, .atomic aop dw b c, (0 : BitVec 1) ++ xd, va, pa, n, ordAcq ord, aop != 8, scope, s.ord, none⟩
    let s : State := { s.updJob (fun j =>
      let j := j.claimX s.cur.strm xd
      if aop == 8 then j.claimP7 s.cur.strm else j) with ord := s.ord + 1 }
    .ok (s.await g)
  | .image _ _ | .poison _ => .ok s

/-- ATADD (R245). -/
def execAtadd (xd xa xb : BitVec 4) (sel : Sel) (dw : Bool) (ord : MOrd) (scope : Scope) (s : State) : Answer :=
  finish s (atomicWord xd xa xb 0 sel 0 dw ord scope s)

/-- ATMIN (R245). -/
def execAtmin (xd xa xb : BitVec 4) (sel : Sel) (dw : Bool) (ord : MOrd) (scope : Scope) (s : State) : Answer :=
  finish s (atomicWord xd xa xb 0 sel 1 dw ord scope s)

/-- ATMAX (R245). -/
def execAtmax (xd xa xb : BitVec 4) (sel : Sel) (dw : Bool) (ord : MOrd) (scope : Scope) (s : State) : Answer :=
  finish s (atomicWord xd xa xb 0 sel 2 dw ord scope s)

/-- ATAND (R245). -/
def execAtand (xd xa xb : BitVec 4) (sel : Sel) (dw : Bool) (ord : MOrd) (scope : Scope) (s : State) : Answer :=
  finish s (atomicWord xd xa xb 0 sel 3 dw ord scope s)

/-- ATOR (R245). -/
def execAtor (xd xa xb : BitVec 4) (sel : Sel) (dw : Bool) (ord : MOrd) (scope : Scope) (s : State) : Answer :=
  finish s (atomicWord xd xa xb 0 sel 4 dw ord scope s)

/-- ATXOR (R245). -/
def execAtxor (xd xa xb : BitVec 4) (sel : Sel) (dw : Bool) (ord : MOrd) (scope : Scope) (s : State) : Answer :=
  finish s (atomicWord xd xa xb 0 sel 5 dw ord scope s)

/-- ATXCHG (R245). -/
def execAtxchg (xd xa xb : BitVec 4) (sel : Sel) (dw : Bool) (ord : MOrd) (scope : Scope) (s : State) : Answer :=
  finish s (atomicWord xd xa xb 0 sel 6 dw ord scope s)

/-- ATCAS (R245, R248). -/
def execAtcas (xd xa xb xc : BitVec 4) (sel : Sel) (dw : Bool) (ord : MOrd) (scope : Scope) (s : State) : Answer :=
  finish s (atomicWord xd xa xb xc sel 7 dw ord scope s)

/-- ATINCB (R245): the bounded increment; p7 tells a refusal. -/
def execAtincb (xd xa xc : BitVec 4) (sel : Sel) (dw : Bool) (ord : MOrd) (scope : Scope) (s : State) : Answer :=
  finish s (atomicWord xd xa 0 xc sel 8 dw ord scope s)

/-- ATFADD (R245): FP32, rounded to nearest even. -/
def execAtfadd (xd xa xb : BitVec 4) (sel : Sel) (ord : MOrd) (scope : Scope) (s : State) : Answer :=
  finish s (atomicWord xd xa xb 0 sel 9 false ord scope s)

end Sys2Proof.Machine
end

