-- ==== Sys2Proof/Machine/Vector.lean ====
section
/-! DEFINITION. The vector words but for loads and stores: shape, element-wise words, special functions, conversions,
scales, reductions, rearrangement, sort, scan and counts (15_vector R249 to R273). -/

namespace Sys2Proof.Machine

-- What the words share.

/-- The word is not admitted with this shape (R250): ILLEGAL_OPERAND at issue. -/
def shapeIf (s : State) (b : Bool) : Res Unit := trapIf b cIllegalOperand s.raw

/-- S, the source format that vshape holds (R250). -/
def State.srcFmt (s : State) : Res Fmt :=
  match fmtOf s.cjob.vsEf with
  | some f => .ok f
  | none => .error (.trap cIllegalOperand s.raw)

/-- Rows 0 to n − 1 by number. -/
def rowsBy (n : Nat) (f : Nat → VRow) : List (Nat × VRow) := (List.range n).map fun r => (r, f r)

/-- A row that is clean unless one of its sources is poisoned (R254). -/
def mkRow (v : Row) (po : List (Option Origin)) : VRow := ⟨v, firstPo po⟩

/-- Poison of the active rows of a tile (R254). -/
def Tile.anyPo (t : Tile) (n : Nat) : Option Origin := firstPo ((List.range n).map fun r => (t.row r).po)

/-- The values of the active rows. -/
def Tile.vals (t : Tile) (n : Nat) : List Row := (List.range n).map fun r => (t.row r).v

/-- The elements of the active rows in row-major order (R270, R271). -/
def Tile.elems (t : Tile) (w n : Nat) : List Nat := (t.vals n).flatMap (elemsOf w)

/-- An element-wise word of one source in F (R258). -/
def map1 (vd : VDst) (va : VSrc) (w o l : Nat) (g : Nat → Nat) (s : State) : Res State := do
  let a ← rdSrc s w va
  issueV s (dstReg s.cjob vd) o l [va] (rowsBy s.cjob.rows fun r =>
    mkRow (rowOf w fun k => g (elem w (a.row r).v k)) [(a.row r).po])

/-- An element-wise word of two sources in F; under BRB every row reads row 0 of vb (R251, R258). -/
def map2 (vd : VDst) (va vb : VSrc) (brb : Bool) (w o l : Nat) (g : Nat → Nat → Nat) (s : State) : Res State := do
  let a ← rdSrc s w va
  let b ← rdSrc s w vb
  issueV s (dstReg s.cjob vd) o l [va, vb] (rowsBy s.cjob.rows fun r =>
    let x := a.row r
    let y := b.brb brb r
    mkRow (rowOf w fun k => g (elem w x.v k) (elem w y.v k)) [x.po, y.po])

/-- An element-wise word of three sources in F. -/
def map3 (vd : VDst) (va vb vc : VSrc) (brb : Bool) (w o l : Nat) (g : Nat → Nat → Nat → Nat) (s : State) :
    Res State := do
  let a ← rdSrc s w va
  let b ← rdSrc s w vb
  let c ← rdSrc s w vc
  issueV s (dstReg s.cjob vd) o l [va, vb, vc] (rowsBy s.cjob.rows fun r =>
    let x := a.row r
    let y := b.brb brb r
    let z := c.row r
    mkRow (rowOf w fun k => g (elem w x.v k) (elem w y.v k) (elem w z.v k)) [x.po, y.po, z.po])

/-- Occupancy under the present shape for elements of format F (R252). -/
def State.occF (s : State) (f : Fmt) : Nat := occ s.cjob.rows f.width

-- Shape.

/-- VSHAPE (R255). -/
def execVshape (ef : Fmt) (rowsM1 : BitVec 4) (s : State) : Answer :=
  finish s (.ok (s.updJob fun j =>
    { j with vsEf := fmtBits ef, vsRows := BitVec.ofNat 5 (rowsM1.toNat + 1) }))

-- Element-wise words (R258).

/-- A VARITH word of two sources. -/
def arithWord (op : VAr) (vd : VDst) (va vb : VSrc) (brb : Bool) (f : VFmt) (s : State) : Res State :=
  map2 vd va vb brb f.ef.width (s.occF f.ef) (s.occF f.ef + 3) (arith op f) s

/-- VADD (R258). -/
def execVadd (vd : VDst) (va vb : VSrc) (brb : Bool) (f : VFmt) (s : State) : Answer :=
  finish s (arithWord .add vd va vb brb f s)

/-- VSUB (R258). -/
def execVsub (vd : VDst) (va vb : VSrc) (brb : Bool) (f : VFmt) (s : State) : Answer :=
  finish s (arithWord .sub vd va vb brb f s)

/-- VMUL (R258). -/
def execVmul (vd : VDst) (va vb : VSrc) (brb : Bool) (f : VFmt) (s : State) : Answer :=
  finish s (arithWord .mul vd va vb brb f s)

/-- VMIN (R258, R161). -/
def execVmin (vd : VDst) (va vb : VSrc) (brb : Bool) (f : VFmt) (s : State) : Answer :=
  finish s (arithWord .min vd va vb brb f s)

/-- VMAX (R258, R161). -/
def execVmax (vd : VDst) (va vb : VSrc) (brb : Bool) (f : VFmt) (s : State) : Answer :=
  finish s (arithWord .max vd va vb brb f s)

/-- VABS (R258). -/
def execVabs (vd : VDst) (va : VSrc) (f : VFmt) (s : State) : Answer :=
  finish s (map1 vd va f.ef.width (s.occF f.ef) (s.occF f.ef + 3) (arithAbs f) s)

/-- VNEG (R258). -/
def execVneg (vd : VDst) (va : VSrc) (f : VFmt) (s : State) : Answer :=
  finish s (map1 vd va f.ef.width (s.occF f.ef) (s.occF f.ef + 3) (arithNeg f) s)

/-- A VFMA word. -/
def fmaWord (negp negc : Bool) (vd : VDst) (va vb vc : VSrc) (brb : Bool) (f : VFmt) (s : State) : Res State :=
  map3 vd va vb vc brb f.ef.width (s.occF f.ef) (s.occF f.ef + 5) (arithFma negp negc f) s

/-- VFMA (R258). -/
def execVfma (vd : VDst) (va vb vc : VSrc) (brb : Bool) (f : VFmt) (s : State) : Answer :=
  finish s (fmaWord false false vd va vb vc brb f s)

/-- VFMS (R258). -/
def execVfms (vd : VDst) (va vb vc : VSrc) (brb : Bool) (f : VFmt) (s : State) : Answer :=
  finish s (fmaWord false true vd va vb vc brb f s)

/-- VFNMA (R258). -/
def execVfnma (vd : VDst) (va vb vc : VSrc) (brb : Bool) (f : VFmt) (s : State) : Answer :=
  finish s (fmaWord true false vd va vb vc brb f s)

/-- A VLOGIC word of two sources. -/
def logicWord (op : VLg) (vd : VDst) (va vb : VSrc) (brb : Bool) (ef : Fmt) (s : State) : Res State :=
  map2 vd va vb brb ef.width (s.occF ef) (s.occF ef + 3) (logic op ef.width) s

/-- VAND (R258). -/
def execVand (vd : VDst) (va vb : VSrc) (brb : Bool) (ef : Fmt) (s : State) : Answer :=
  finish s (logicWord .and vd va vb brb ef s)

/-- VOR (R258). -/
def execVor (vd : VDst) (va vb : VSrc) (brb : Bool) (ef : Fmt) (s : State) : Answer :=
  finish s (logicWord .or vd va vb brb ef s)

/-- VXOR (R258). -/
def execVxor (vd : VDst) (va vb : VSrc) (brb : Bool) (ef : Fmt) (s : State) : Answer :=
  finish s (logicWord .xor vd va vb brb ef s)

/-- VNOT (R258). -/
def execVnot (vd : VDst) (va : VSrc) (ef : Fmt) (s : State) : Answer :=
  finish s (map1 vd va ef.width (s.occF ef) (s.occF ef + 3) (fun a => p2 ef.width - 1 - a) s)

/-- VSHL (R258). -/
def execVshl (vd : VDst) (va vb : VSrc) (brb : Bool) (ef : Fmt) (s : State) : Answer :=
  finish s (logicWord .shl vd va vb brb ef s)

/-- VSHR (R258). -/
def execVshr (vd : VDst) (va vb : VSrc) (brb : Bool) (ef : Fmt) (s : State) : Answer :=
  finish s (logicWord .shr vd va vb brb ef s)

/-- VSRA (R258). -/
def execVsra (vd : VDst) (va vb : VSrc) (brb : Bool) (ef : Fmt) (s : State) : Answer :=
  finish s (logicWord .sra vd va vb brb ef s)

/-- VCMP (R259): all ones where the condition holds, zero elsewhere. -/
def execVcmp (cond : VCond) (vd : VDst) (va vb : VSrc) (brb : Bool) (ef : Fmt) (s : State) : Answer :=
  finish s (map2 vd va vb brb ef.width (s.occF ef) (s.occF ef + 3)
    (fun a b => if vcond cond ef a b then p2 ef.width - 1 else 0) s)

/-- VSEL (R260): A where C has any bit set. -/
def execVsel (vd : VDst) (va vb vc : VSrc) (brb : Bool) (ef : Fmt) (s : State) : Answer :=
  finish s (map3 vd va vb vc brb ef.width (s.occF ef) (s.occF ef + 3) (fun a b c => if c != 0 then a else b) s)

/-- VMOV (R260): the active rows bit for bit. -/
def execVmov (vd : VDst) (va : VSrc) (s : State) : Answer :=
  finish s (do
    let a ← rdSrc s 64 va
    let o := ceilDiv s.cjob.rows 4
    issueV s (dstReg s.cjob vd) o (o + 3) [va] (rowsBy s.cjob.rows a.row))

/-- VBCAST (R260): row 0 into every row, or element 0 of a row into every element of it. -/
def execVbcast (vd : VDst) (va : VSrc) (m : Bool) (ef : Fmt) (s : State) : Answer :=
  finish s (do
    let w := ef.width
    let a ← rdSrc s w va
    issueV s (dstReg s.cjob vd) (s.occF ef) (s.occF ef + 3) [va] (rowsBy s.cjob.rows fun r =>
      if m then mkRow (rowOf w fun _ => elem w (a.row r).v 0) [(a.row r).po] else a.row 0))

-- Special functions (R261).

/-- A VSFU word: its occupancy counts 32 elements in a cycle (R252). -/
def sfuWord (fn : Sfu) (vd : VDst) (va : VSrc) (f : VFmt) (s : State) : Res State :=
  let o := ceilDiv (s.cjob.rows * (1024 / f.ef.width)) 32
  map1 vd va f.ef.width o (o + 12) (sfu fn f) s

/-- VEXP2 (R261, R169). -/
def execVexp2 (vd : VDst) (va : VSrc) (f : VFmt) (s : State) : Answer := finish s (sfuWord .exp2 vd va f s)

/-- VEXP (R261, R170). -/
def execVexp (vd : VDst) (va : VSrc) (f : VFmt) (s : State) : Answer := finish s (sfuWord .exp vd va f s)

/-- VLOG2 (R261). -/
def execVlog2 (vd : VDst) (va : VSrc) (f : VFmt) (s : State) : Answer := finish s (sfuWord .log2 vd va f s)

/-- VRCP (R261). -/
def execVrcp (vd : VDst) (va : VSrc) (f : VFmt) (s : State) : Answer := finish s (sfuWord .rcp vd va f s)

/-- VRSQ (R261). -/
def execVrsq (vd : VDst) (va : VSrc) (f : VFmt) (s : State) : Answer := finish s (sfuWord .rsq vd va f s)

/-- VSQRT (R261). -/
def execVsqrt (vd : VDst) (va : VSrc) (f : VFmt) (s : State) : Answer := finish s (sfuWord .sqrt vd va f s)

/-- VTANH (R261). -/
def execVtanh (vd : VDst) (va : VSrc) (f : VFmt) (s : State) : Answer := finish s (sfuWord .tanh vd va f s)

/-- VSIGM (R261). -/
def execVsigm (vd : VDst) (va : VSrc) (f : VFmt) (s : State) : Answer := finish s (sfuWord .sigm vd va f s)

/-- VSILU (R261). -/
def execVsilu (vd : VDst) (va : VSrc) (f : VFmt) (s : State) : Answer := finish s (sfuWord .silu vd va f s)

-- Conversions and scales.

/-- The checks that VCVT, VPACK and VUNPACK make on S and RM at issue (R250, R251). -/
def cvtCheck (s : State) (src : Fmt) (f : VFmt) : Res Unit :=
  shapeIf s (!src.general || (f.ef.isInt && src.isInt && f.rm != .rne))

/-- VCVT (R262): a narrowing reads vd and keeps the rest of its rows. -/
def execVcvt (vd : VDst) (va : VSrc) (f : VFmt) (p : BitVec 3) (s : State) : Answer :=
  finish s (do
    let src ← s.srcFmt
    cvtCheck s src f
    let ws := src.width
    let wf := f.ef.width
    let q := max ws wf / min ws wf
    shapeIf s (decide (q ≤ p.toNat))
    let a ← rdSrc s ws va
    let narrow := decide (wf < ws)
    let old ← if narrow then rdV s (dstReg s.cjob vd) else .ok Tile.zero
    let o := occ s.cjob.rows (max ws wf)
    issueV s (dstReg s.cjob vd) o (o + 4) [va] (rowsBy s.cjob.rows fun r =>
      mkRow (vcvtRow src f p.toNat (old.row r).v (a.row r).v) [(a.row r).po, if narrow then (old.row r).po else none]))

/-- VPACK (R263). -/
def execVpack (vd : VDst) (va vb : VSrc) (f : VFmt) (s : State) : Answer :=
  finish s (do
    let src ← s.srcFmt
    cvtCheck s src f
    shapeIf s (src.width != 2 * f.ef.width)
    let a ← rdSrc s src.width va
    let b ← rdSrc s src.width vb
    let o := occ s.cjob.rows src.width
    issueV s (dstReg s.cjob vd) o (o + 4) [va, vb] (rowsBy s.cjob.rows fun r =>
      mkRow (vpackRow src f (a.row r).v (b.row r).v) [(a.row r).po, (b.row r).po]))

/-- VUNPACK (R263). -/
def execVunpack (vd : VDst) (va : VSrc) (f : VFmt) (h : Bool) (s : State) : Answer :=
  finish s (do
    let src ← s.srcFmt
    cvtCheck s src f
    shapeIf s (f.ef.width != 2 * src.width)
    let a ← rdSrc s src.width va
    let o := occ s.cjob.rows f.ef.width
    issueV s (dstReg s.cjob vd) o (o + 4) [va] (rowsBy s.cjob.rows fun r =>
      mkRow (vcvtRow src f (if h then 1 else 0) 0 (a.row r).v) [(a.row r).po]))

/-- VMXSCALE (R264): to packed rows with F = E2M1, from packed rows with S = E2M1. -/
def execVmxscale (vd : VDst) (va : VSrc) (ef : Fmt) (rm : RMode) (s : State) : Answer :=
  finish s (do
    let src ← s.srcFmt
    let form := ef == .e2m1
    shapeIf s (if form then !src.wide else src != .e2m1)
    let a ← rdSrc s src.width va
    let o := occ s.cjob.rows (max src.width ef.width)
    issueV s (dstReg s.cjob vd) o (o + 8) [va] (rowsBy s.cjob.rows fun r =>
      mkRow (if form then vmxPack src rm (a.row r).v else vmxExpand ef (a.row r).v) [(a.row r).po]))

/-- VCHSCALE (R265): SCALE, QUANT and EXPAND of columns as channels. -/
def execVchscale (vd : VDst) (va vb : VSrc) (mode : BitVec 2) (ef : Fmt) (s : State) : Answer :=
  finish s (do
    let src ← s.srcFmt
    let n := s.cjob.rows
    shapeIf s (if mode == 2 then src != .i4 else !src.wide)
    let o := occ n (max src.width ef.width)
    let a ← rdSrc s src.width va
    if mode == 0 then
      issueV s (dstReg s.cjob vd) o (o + 8) [va] [(0, mkRow (vchScale src (a.vals n)) [a.anyPo n])]
    else
      let b ← rdSrc s 16 vb
      issueV s (dstReg s.cjob vd) o (o + 8) [va, vb] (rowsBy n fun r =>
        mkRow (if mode == 1 then vchQuant src (b.row 0).v (a.row r).v else vchExpand ef (b.row 0).v (a.row r).v)
          [(a.row r).po, (b.row 0).po]))

-- Reductions (R266).

/-- VREDR (R266): each row to its element 0. -/
def execVredr (fn : RedFn) (vd : VDst) (va : VSrc) (f : VFmt) (s : State) : Answer :=
  finish s (do
    let a ← rdSrc s f.ef.width va
    issueV s (dstReg s.cjob vd) (s.occF f.ef) (s.occF f.ef + 8) [va] (rowsBy s.cjob.rows fun r =>
      mkRow (vredrRow fn f (a.row r).v) [(a.row r).po]))

/-- VREDC (R266): each column to row 0. -/
def execVredc (fn : RedFn) (vd : VDst) (va : VSrc) (f : VFmt) (s : State) : Answer :=
  finish s (do
    let a ← rdSrc s f.ef.width va
    let n := s.cjob.rows
    issueV s (dstReg s.cjob vd) (s.occF f.ef) (s.occF f.ef + 8) [va] [(0, mkRow (vredcRow fn f (a.vals n)) [a.anyPo n])])

-- Rearrangement.

/-- VTRANS (R267): ROWS must be 16. -/
def execVtrans (vd : VDst) (va : VSrc) (ef : Fmt) (s : State) : Answer :=
  finish s (do
    shapeIf s (s.cjob.rows != 16)
    let a ← rdSrc s ef.width va
    let out := vtransRows ef.width (a.vals 16)
    issueV s (dstReg s.cjob vd) 4 8 [va] (rowsBy 16 fun r => mkRow (out.getD r 0) [a.anyPo 16]))

/-- VPERM (R268). -/
def execVperm (vd : VDst) (va vb : VSrc) (brb : Bool) (ef : Fmt) (s : State) : Answer :=
  finish s (do
    let w := ef.width
    let a ← rdSrc s w va
    let b ← rdSrc s w vb
    issueV s (dstReg s.cjob vd) (s.occF ef) (s.occF ef + 4) [va, vb] (rowsBy s.cjob.rows fun r =>
      let x := a.row r
      let y := b.brb brb r
      mkRow (rowOf w fun k => elem w x.v (elem w y.v k % (1024 / w))) [x.po, y.po]))

/-- VSORT (R270): row by row, or the active rows as one sequence. -/
def execVsort (vd : VDst) (va : VSrc) (desc idx whole : Bool) (ef : Fmt) (s : State) : Answer :=
  finish s (do
    let w := ef.width
    let n := s.cjob.rows
    shapeIf s (whole && idx && w == 8)
    let a ← rdSrc s w va
    if whole then
      let out := rowsOfList w (vsortList ef desc idx (a.elems w n))
      issueV s (dstReg s.cjob vd) 64 96 [va] (rowsBy n fun r => mkRow (out.getD r 0) [a.anyPo n])
    else
      issueV s (dstReg s.cjob vd) 16 40 [va] (rowsBy n fun r =>
        mkRow (rowList w (vsortList ef desc idx (elemsOf w (a.row r).v))) [(a.row r).po]))

/-- VSCAN (R271): prefix sums by row, or over the active rows. -/
def execVscan (vd : VDst) (va : VSrc) (excl whole : Bool) (f : VFmt) (s : State) : Answer :=
  finish s (do
    let w := f.ef.width
    let n := s.cjob.rows
    let a ← rdSrc s w va
    let o := 2 * s.occF f.ef + (if whole then 4 else 0)
    if whole then
      let out := rowsOfList w (vscanList excl f (a.elems w n))
      issueV s (dstReg s.cjob vd) o (o + 8) [va] (rowsBy n fun r => mkRow (out.getD r 0) [a.anyPo n])
    else
      issueV s (dstReg s.cjob vd) o (o + 8) [va] (rowsBy n fun r =>
        mkRow (rowList w (vscanList excl f (elemsOf w (a.row r).v))) [(a.row r).po]))

/-- VIOTA (R269): a count from the splat value upward. -/
def execViota (vd : VDst) (xa : BitVec 3) (ef : Fmt) (sat : Bool) (s : State) : Answer :=
  finish s (do
    let b ← rdX s (splatReg xa)
    let w := ef.width
    issueV s (dstReg s.cjob vd) (s.occF ef) (s.occF ef + 3) [] (rowsBy s.cjob.rows fun r =>
      mkRow (rowOf w fun k => fitInt ef sat (intOf ef (b.v.toNat % p2 w) + (r * (1024 / w) + k : Nat))) [b.po]))

/-- VBUCKET (R272): how many of the first s splitters are at or below each element. -/
def execVbucket (vd : VDst) (va vb : VSrc) (sM1 : BitVec 4) (ef : Fmt) (s : State) : Answer :=
  finish s (do
    let w := ef.width
    let a ← rdSrc s w va
    let b ← rdSrc s w vb
    let splits := (elemsOf w (b.row 0).v).take (sM1.toNat + 1)
    issueV s (dstReg s.cjob vd) (s.occF ef) (s.occF ef + 4) [va, vb] (rowsBy s.cjob.rows fun r =>
      mkRow (rowOf w fun k => vbucketElem ef splits (elem w (a.row r).v k)) [(a.row r).po, (b.row 0).po]))

/-- VHIST (R273): counts of the values below 32 into row 0. -/
def execVhist (vd : VDst) (va : VSrc) (acc : Bool) (ef : Fmt) (s : State) : Answer :=
  finish s (do
    let w := ef.width
    let n := s.cjob.rows
    let a ← rdSrc s w va
    let old ← if acc then rdV s (dstReg s.cjob vd) else .ok Tile.zero
    issueV s (dstReg s.cjob vd) (s.occF ef) (s.occF ef + 6) [va]
      [(0, mkRow (vhistRow acc (old.row 0).v (a.elems w n)) [a.anyPo n, (old.row 0).po])])

/-- The index of row r in row 0 of vb (R268). -/
def rowIndex (ef : Fmt) (b : Tile) (r : Nat) : Nat := elem ef.width (b.row 0).v r % 16

/-- VEXTR (R268): rows of va chosen by the indices, rows at or above ROWS among them. DESIGN CHOICE (log entry 84): the rows read
(R254) are those that the indices choose, and row 0 of vb. -/
def execVextr (vd : VDst) (va vb : VSrc) (ef : Fmt) (s : State) : Answer :=
  finish s (do
    let n := s.cjob.rows
    let a ← rdSrc s ef.width va
    let b ← rdSrc s ef.width vb
    let po := firstPo (((List.range n).map fun r => (a.row (rowIndex ef b r)).po) ++ [(b.row 0).po])
    let o := ceilDiv n 4
    issueV s (dstReg s.cjob vd) o (o + 3) [va, vb] (rowsBy n fun r => mkRow (a.row (rowIndex ef b r)).v [po]))

/-- VINS (R268): row r of va into the row that its index names; a later r prevails, other rows are kept. DESIGN CHOICE (log entry
84): the rows read (R254) are the active rows of va, and row 0 of vb. -/
def execVins (vd : VDst) (va vb : VSrc) (ef : Fmt) (s : State) : Answer :=
  finish s (do
    let n := s.cjob.rows
    let a ← rdSrc s ef.width va
    let b ← rdSrc s ef.width vb
    let _ ← rdV s (dstReg s.cjob vd)
    let po := firstPo [a.anyPo n, (b.row 0).po]
    let o := ceilDiv n 4
    issueV s (dstReg s.cjob vd) o (o + 3) [va, vb]
      ((List.range n).map fun r => (rowIndex ef b r, mkRow (a.row r).v [po])))

end Sys2Proof.Machine
end

