-- ==== Sys2Proof/Machine/VecMem.lean ====
section
/-! DEFINITION. VLD and VST: rows between a tile and the scratchpad or global memory (15_vector R256, R257; 05 R84, R92,
R110 to R112; 13 R212; 23 R377, R378). -/

namespace Sys2Proof.Machine

/-- A piece of a global row: its offset in the row, its VA, its physical address, its length, whether the page is
read-duplicated. -/
structure Piece where
  off : Nat
  va : Word
  pa : Nat
  len : Nat
  rdup : Bool
deriving DecidableEq, Repr

/-- Where a row leads once checked: a scratchpad address with the producer slot it arrives on, a carousel window address
that is resolved when the row moves, pieces of global memory, or nowhere. -/
inductive RowTo where
  | loc (a : Nat) (prod : Option (Nat × Nat))
  | car (a : Nat)
  | glob (l : List Piece)
  | poison (o : Origin)
deriving DecidableEq, Repr

/-- The address of row r (R256). -/
def rowAddr (e stride : Word) (r : Nat) : Word := e + BitVec.ofNat 64 r * stride

/-- The pieces of a global row: two where it crosses into another page (05 R93). -/
def State.pieces (s : State) (a : Acc) (x : Ext) (va : Word) : Res RowTo :=
  let k := min 128 (pageSize - va.toNat % pageSize)
  let one (off : Nat) (v : Word) (len : Nat) : Option Piece :=
    (x.pa v).map fun p => ⟨off, v, canon s.pkgnum.toNat p.1, len, p.2⟩
  let parts := one 0 va k :: if k == 128 then [] else [one k (va57 (va + BitVec.ofNat 64 k)) (128 - k)]
  if parts.all Option.isSome then .ok (.glob (parts.filterMap id))
  else if a.w then .error (.trap cExtentViolation va)
  else .ok (.poison (origin cExtentViolation va))

/-- A row of a vector load or store placed and checked (R256); one in a carousel slot that can be resolved now meets the window tiles
there now (07 R132, R134). -/
def State.rowTo (s : State) (w : Bool) (sel : Sel) (e : Word) : Res RowTo :=
  let n := s.cur.core
  let a : Acc := ⟨!w, w, true⟩
  let none_ (addr : Word) : Res RowTo :=
    if w then .error (.trap cExtentViolation addr) else .ok (.poison (origin cExtentViolation addr))
  match s.cjob.named sel e 128 with
  | .outside addr => none_ addr
  | .ext x va => if (!w && !x.rd) || (w && !x.w) then none_ va else s.pieces a x va
  | .loc addr =>
    if decide (0x800000 ≤ addr) && decide (addr < 0xC00000) then
      match s.cjob.place addr 128 with
      | .carFault c => .error (.trap cCarouselFault (BitVec.ofNat 64 c))
      | .bad st => .error st
      | .at l => match s.winCheck n a l 128 with
        | .ok (.poison o) => .ok (.poison o)
        | .ok _ => .ok (.car addr)
        | .error st => .error st
      | _ => .ok (.car addr)
    else match s.localTarget n a addr 128 with
      | .ok (.loc l) => .ok (.loc l.addr l.prod)
      | .ok _ => .ok (.poison (origin cExtentViolation (BitVec.ofNat 64 addr)))
      | .error st => .error st

/-- The rows of a word, checked in increasing r (R256). DESIGN CHOICE (log entry 67): ALIGNMENT of a misaligned stride reports
the stride. -/
def rowsTo (s : State) (w : Bool) (sel : Sel) (e stride : Word) : Res (List (Nat × RowTo)) := do
  trapIf (e.toNat % 16 != 0) cAlignment e
  trapIf (stride.toNat % 16 != 0) cAlignment stride
  (List.range s.cjob.rows).mapM fun r => do
    let t ← s.rowTo w sel (rowAddr e stride r)
    .ok (r, t)

/-- The scratchpad traffic of the local rows, four in a cycle from `first` on (R257). -/
def rowTraffic (s : State) (first : Nat) (rows : List (Nat × RowTo)) : List Traf :=
  ((List.range 4).map fun g =>
    rows.filterMap fun r => match r.2 with
      | .loc a _ => if r.1 / 4 == g then some a else none
      | _ => none).zipIdx.filterMap fun p =>
    if p.1.isEmpty then none else some (trafOf s.cjob .v s.cur.wpc (first + p.2) p.1 128)

/-- A vector word that moves rows occupies the memory pipe for ⌈ROWS / 4⌉ cycles (R252). -/
def State.occRows (s : State) : Nat := ceilDiv s.cjob.rows 4

/-- The row of a load that is poisoned (R256, R377). -/
def poisonRow (o : Origin) : VRow := ⟨Config.poisonRow o, some o⟩

/-- The movement of row r of a load, when it is local. -/
def loadMove (s : State) (r : Nat × RowTo) : Option Move :=
  let at_ (a : Nat) : Option Move := some ⟨s.ord, .v, s.cjob.now + 1 + r.1 / 4, r.1, a, none, none, none, s.cur.wpc⟩
  match r.2 with
  | .loc a _ => at_ a
  | .car a => at_ a
  | _ => none

/-- A piece cut where it crosses into another line: each part is read as its own line stands (07 R145). -/
def Piece.byLine (p : Piece) : List Piece :=
  let k := min p.len (256 - p.pa % 256)
  { p with len := k } ::
    if k == p.len then [] else [⟨p.off + k, p.va + BitVec.ofNat 64 k, p.pa + k, p.len - k, p.rdup⟩]

/-- The global accesses of a load. -/
def loadAccs (s : State) (vd : BitVec 5) (r : Nat × RowTo) : List GAcc :=
  match r.2 with
  | .glob l => (l.flatMap Piece.byLine).map fun p => ⟨.v, .vrow r.1 p.off, vd, p.va, p.pa, p.len, false, true, .core, s.ord, none⟩
  | _ => []

/-- The rows of a load that are poisoned at issue. -/
def loadPoison (rows : List (Nat × RowTo)) : List (Nat × VRow) :=
  rows.filterMap fun r => match r.2 with
    | .poison o => some (r.1, poisonRow o)
    | _ => none

/-- A load with its rows placed issues: local rows are read as they move, global rows freeze or stall (R257, R212). -/
def issueLoad (s : State) (vd : BitVec 5) (rows : List (Nat × RowTo)) : Res State := do
  let accs := rows.flatMap (loadAccs s vd)
  let o := s.occRows
  let l := if accs.isEmpty then o + 4 else 1
  s.cjob.needDst vd l
  for g in accs do
    sameGate s g.pa g.len
  let (j, _) ← s.cjob.charge s.cur.traf0 (rowTraffic s (s.cjob.now + 1) rows)
  let op : VecOp := ⟨s.ord, vd, loadPoison rows, j.now + l⟩
  let j : Job := { j with ops := j.ops ++ [op], moves := j.moves ++ rows.filterMap (loadMove s) }
  let j := (j.mark .mempipe o s.cur.wpc).mark (.vreg vd) l s.cur.wpc
  let s : State := { s.putJob j with ord := s.ord + 1 }
  .ok (accs.foldl (fun (t : State) g => (t.ask (dieOf t.cur.core) g.pa g.len).await g) s)

/-- VLD (R256, R257). -/
def execVld (vd : VDst) (sel : Sel) (xa xc : BitVec 3) (s : State) : Answer :=
  finish s (do
    s.cjob.need .mempipe
    let a ← rdX s (splatReg xa)
    let c ← rdX s (splatReg xc)
    acqGate s
    let d := dstReg s.cjob vd
    match firstPo [a.po, c.po] with
    | some o => issueLoad s d ((List.range s.cjob.rows).map fun r => (r, .poison o))
    | none =>
      let rows ← rowsTo s false sel a.v c.v
      issueLoad s d rows)

/-- The bytes of row r of a store put in place: a write that lands later, or one entry of the posted-store buffer
(R257). -/
def storeRow (t : Tile) (s : State) (r : Nat × RowTo) : State :=
  let bs := rowBytes (t.row r.1).v
  let move (a : Nat) (prod : Option (Nat × Nat)) : State :=
    let m : Move := ⟨s.ord, .v, s.cjob.now + 2 + r.1 / 4, r.1, a, some bs, none, prod, s.cur.wpc⟩
    s.updJob fun j => { j with moves := j.moves ++ [m] }
  match r.2 with
  | .loc a prod => move a prod
  | .car a => move a none
  | .glob l => l.foldl (fun (u : State) p => u.post p.pa ((bs.drop p.off).take p.len) p.rdup (p.off != 0)) s
  | .poison _ => s

/-- The pieces of global memory that a store writes. -/
def storePieces (rows : List (Nat × RowTo)) : List Piece :=
  rows.flatMap fun r => match r.2 with
    | .glob l => l
    | _ => []

/-- VST (R256, R257): its base and stride are consumed, then the rows it stores (R254). DESIGN CHOICE (log entry 67): the checks
of every row come before POISON_CONSUMED of the rows stored. One that reaches the overflow page freezes a lockstep job (13
R212). -/
def execVst (vs : VSrc) (sel : Sel) (xa xc : BitVec 3) (s : State) : Answer :=
  finish s (do
    s.cjob.need .mempipe
    let e ← useX s (splatReg xa)
    let c ← useX s (splatReg xc)
    acqGate s
    let t ← rdSrc s 64 vs
    let rows ← rowsTo s true sel e c
    match t.anyPo s.cjob.rows with
    | some o => .error (.trap cPoisonConsumed o)
    | none =>
      for p in storePieces rows do
        sameGate s p.pa p.len
      let full := (rows.filter fun r => match r.2 with | .glob _ => true | _ => false).length
      holdIf (full != 0 && decide (s.here.psbUsed + full > 16)) .postBuf
      let (j, _) ← s.cjob.charge s.cur.traf0 (rowTraffic s (s.cjob.now + 2) rows)
      let s := takeSrcs (s.putJob (j.mark .mempipe s.occRows s.cur.wpc)) [vs]
      let s := rows.foldl (storeRow t) s
      let s : State := { s with ord := s.ord + 1 }
      .ok (match (storePieces rows).head? with
        | some p => s.awaitSpill sel (.glob p.va p.pa p.rdup)
        | none => s))

end Sys2Proof.Machine
end

