-- ==== Sys2Proof/Machine/Matrix.lean ====
section
/-! DEFINITION. The matrix and attention words of class 10: the checks at issue, pipes and ownership, what each word
captures, stores and leaves to complete (19_matrix R315 to R338; 05 R87, R91; 20 R339). -/

namespace Sys2Proof.Machine

-- Operand ranges.

/-- A range of operand bytes or a control block: its number, its local address and length, whether it is written. -/
structure Rng where
  id : Nat
  addr : Nat
  len : Nat
  w : Bool
deriving DecidableEq, Repr

/-- A range resolved: where it lies and the carousel slot on whose producer or consumer side. -/
structure Placed where
  id : Nat
  addr : Nat
  len : Nat
  prod : Option (Nat × Nat)
  cons : Option (Nat × Nat)
deriving DecidableEq, Repr

/-- A range resolved through carousels and required to lie in G0 or G1 (check 5 of R322): no load is turned into
poison. -/
def placeRange (s : State) (r : Rng) : Res Placed := do
  match ← s.localTarget s.cur.core ⟨!r.w, r.w, true⟩ r.addr r.len with
  | .loc l => .ok ⟨r.id, l.addr, r.len, l.prod, l.cons⟩
  | _ => .error (.trap cExtentViolation (BitVec.ofNat 64 r.addr))

/-- A control block of which a word reads the first `used` bytes: resolved as an operand is, then read as the
stream's earlier writes leave it (07 R117); a poisoned word
among them is consumed (R322). -/
def ctlPart (s : State) (addr len used : Nat) : Res (Placed × List Byte) := do
  let p ← placeRange s ⟨9, addr, len, false⟩
  let view ← ownAt s p.addr len
  match view.poison p.addr used with
  | some q => .error (.trap cPoisonConsumed (q.origin (BitVec.ofNat 64 p.addr)))
  | none => .ok (p, view.bytes p.addr len)

/-- A control block read whole. -/
def ctlBlock (s : State) (addr len : Nat) : Res (Placed × List Byte) := ctlPart s addr len len

/-- The operand rule (05 R87; check 6): every other operand lies in the group that does not hold A or Q. -/
def groupRule (l : List Placed) : Res Unit :=
  match l with
  | a :: bs => trapIf (bs.any fun b => groupOf b.addr == groupOf a.addr) cBankConflict (BitVec.ofNat 64 a.addr)
  | [] => .ok ()

/-- The swizzle check (05 R91; check 7). -/
def tagCheck (s : State) (z : Swz) (l : List Placed) : Res Unit :=
  match l.findSome? fun p => (tilesOf p.addr p.len).find? fun t => s.here.tag t != swzBits z with
  | some t => .error (.trap cSwizzleMismatch (BitVec.ofNat 64 (t * 4096)))
  | none => .ok ()

/-- The base of an operand is aligned (R319, R320). -/
def baseAligned (z : Swz) (a : Nat) : Res Unit :=
  trapIf (a % (if z == .plain then 128 else 4096) != 0) cAlignment (BitVec.ofNat 64 a)

/-- A poisoned row among those that a read-out consumes (R338; check 8). -/
def rowsClean (b : AccBank) (n : Nat) : Res Unit :=
  match (List.range n).findSome? fun i => (b.at i).po with
  | some o => .error (.trap cPoisonConsumed o)
  | none => .ok ()

-- Pipes, ownership, traffic.

/-- The timing of a word (R323): pipes, occupancy, latency, accumulators, whether it may be chained, and its traffic. -/
structure MWord where
  pipes : List Rsc
  o : Nat
  l : Nat
  compute : List (BitVec 3)
  readout : List (BitVec 3)
  chain : Bool
  traf : List Traf
deriving DecidableEq, Repr

/-- The marks in force that satisfy a test, the latest first. -/
def Job.live (j : Job) (p : Rsc → Bool) : List Mark :=
  j.marks.filter fun m => decide (j.now < m.due) && m.h == (j.st == .trapped) && p m.rsc

/-- The compute words that own an accumulator. -/
def Job.owners (j : Job) (a : BitVec 3) : List Mark :=
  j.live fun r => match r with | .accOwn b _ => b == a | _ => false

/-- The read-outs that still read an accumulator. -/
def Job.readers (j : Job) (a : BitVec 3) : List Mark := j.live fun r => r == .accRead a

/-- An ASWAP of the accumulator is pending (R332): the word it came with. One whose exchange took effect during a stop stays
pending until the end of the job cycle in which it would have (23 R372). -/
def Job.swapping (j : Job) (a : BitVec 3) : Option Word :=
  match j.aswap.find? fun p => (0 : BitVec 1) ++ p.1 == a with
  | some p => some (BitVec.ofNat 64 p.2.2)
  | none => ((j.live fun r => match r with | .accSwap b => (0 : BitVec 1) ++ b == a | _ => false).head?).map Mark.pc

/-- a4 to a7 have one bank (R315, R316). -/
def oneBank (a : BitVec 3) : Bool := a.toNat ≥ 4

/-- The words that keep a compute word from an accumulator (R324): another owner, unless both belong to one chain, and
a read-out. -/
def Job.computeMet (j : Job) (chain : Bool) (a : BitVec 3) : Option Word :=
  let own := (j.owners a).filter fun m => !(chain && match m.rsc with | .accOwn _ c => c | _ => false)
  ((own ++ j.readers a).head?).map Mark.pc

/-- The timing conditions of R324, in the order pipes, pending exchanges, ownership. -/
def MWord.free (w : MWord) (s : State) : Res Unit := do
  let j := s.cjob
  for p in w.pipes do
    j.need p
  match (w.compute ++ w.readout).findSome? j.swapping with
  | some pc => .error (timing j pc)
  | none => pure ()
  match w.compute.findSome? (j.computeMet w.chain) with
  | some pc => .error (timing j pc)
  | none => pure ()
  match w.readout.findSome? fun a => ((j.owners a).getLast?).map fun m => (a, m.pc) with
  | some (a, pc) =>
    if oneBank a && !j.strict then .error (.trap cAccBusy (pc + BitVec.setWidth 64 a)) else .error (timing j pc)
  | none => pure ()
  -- the M stream's own traffic (R325); in elastic mode that of earlier groups (log entry 63)
  let own := (if j.strict then j.traffic else j.traffic.take s.cur.traf0).filter fun t => t.strm == Strm.m
  if w.traf.any fun t => t.clash own then .error (timing j s.cur.wpc) else pure ()

/-- The job with a word's pipes and accumulators taken (R323). -/
def MWord.take (w : MWord) (j : Job) (pc : Word) : Job :=
  let j := w.pipes.foldl (fun (j : Job) p => j.mark p w.o pc) j
  let j := w.compute.foldl (fun (j : Job) a => j.addMark (.accOwn a w.chain) w.l pc) j
  w.readout.foldl (fun (j : Job) a => j.addMark (.accRead a) w.l pc) j

/-- The number that a word takes on its timeline at issue (R326). -/
def tlTake (s : State) (tl : Option (BitVec 3)) : Res (Option (BitVec 3 × Nat) × Job) :=
  match tl with
  | none => .ok (none, s.cjob)
  | some k => do
    let n ← s.cjob.nextNumber k
    .ok (some (k, n), s.cjob.takeNumber k)

/-- A matrix word that has nothing captured yet. -/
def matOp (s : State) (i : Instr) : MatOp :=
  { ord := s.ord, pc := s.cur.wpc, op := i, xa := 0, xs := 0, adesc := [], pd := [], reads := [], cap := [],
    capPo := [], snap := [], slots := [], prod := none, rdEnd := 0, tl := none, due := 0, fin := false, landed := false, skip := [] }

/-- Every check has passed: the word issues (R322 check 9, R323, R325, R326), after the loads that its accesses are ordered
behind (07 R121); `d` is the cycle by which a clash with the other word of its group moves all that it does (03 R62). -/
def issueM (s : State) (w : MWord) (tl : Option (BitVec 3)) (op : MatOp) (moves : List Move) : Res State := do
  w.free s
  if op.reads.isEmpty && moves.isEmpty then pure () else acqGate s
  operandGate s (op.reads.map fun r => (r.addr / 4096 * 4096, r.addr % 4096 + r.len + 4096))
  let (num, j) ← tlTake s tl
  let (j, d) ← j.charge s.cur.traf0 w.traf
  let j := { w with o := w.o + d, l := w.l + d }.take j s.cur.wpc
  let op : MatOp := { op with
    tl := num, due := j.now + d + w.l - 1, rdEnd := j.now + d + w.o
    reads := op.reads.map fun (r : OpRead) => { r with due := r.due + d } }
  let moves := moves.map fun (m : Move) => { m with due := m.due + d }
  .ok { s.putJob { j with mops := j.mops ++ [op], moves := j.moves ++ moves } with ord := s.ord + 1 }

/-- The operands of a word as it reads them from its issue cycle on. -/
def opReads (s : State) (l : List Placed) : List OpRead := l.map fun p => ⟨s.cjob.now, p.id, p.addr, p.len⟩

/-- Consumer-side slots that a word reads. -/
def opSlots (l : List Placed) : List (Nat × Nat) := l.filterMap Placed.cons

/-- What the arrays count in each cycle of their occupancy (R325). -/
def arrayTraf (s : State) (o g0 g1 : Nat) : List Traf :=
  if o == 0 then [] else [⟨s.cjob.now, o, .m, [], g0, g1, [], s.cur.wpc, false⟩]

/-- 128 bytes in the group of the first operand and 64 in that of the second. -/
def pairTraf (s : State) (o : Nat) (l : List Placed) : List Traf :=
  match l with
  | a :: _ => if groupOf a.addr == 0 then arrayTraf s o 128 64 else arrayTraf s o 64 128
  | [] => []

/-- The transfer port moves n bytes at an address, dt cycles after issue (R325). -/
def xfTraf (s : State) (dt a n : Nat) : Traf := trafOf s.cjob .m s.cur.wpc (s.cjob.now + dt) [a] n

/-- A scratchpad write of the M stream, dt cycles after issue (R326). -/
def mStore (s : State) (dt a : Nat) (bs : List Byte) (prod : Option (Nat × Nat)) : Move :=
  ⟨s.ord, .m, s.cjob.now + dt, 0, a, some bs, none, prod, s.cur.wpc⟩

/-- The trapinfo of ILLEGAL_OPERAND (23 R371). -/
def operandIf (s : State) (b : Bool) : Res Unit := trapIf b cIllegalOperand s.raw

-- Products (R327).

/-- The array of an accumulator (R323). -/
def arrayOf (a : BitVec 3) : Rsc := if a.toNat % 2 == 0 then .p0 else .p1

/-- MMA and MMAT. -/
def mmaWord (i : Instr) (trans : Bool) (ad : BitVec 3) (xa xb xs : BitVec 4) (fa fb : Fmt) (z : Swz)
    (tl : Option (BitVec 3)) (s : State) : Res State := do
  let a ← useX s xa
  let b ← useX s xb
  let x ← useX s xs
  let h := mShape x
  operandIf s (x >>> 32 != 0 || decide (h.m > 128) || decide (h.n > 64) || decide (h.k > 4096) ||
    (fa == .e2m1 && h.k % 32 != 0))
  baseAligned z a.toNat
  baseAligned z b.toNat
  let sizeA := if trans then h.k * 16 * fa.width else panelSize fa h.m h.k
  let rs : List Rng := if h.m == 0 || h.n == 0 || h.k == 0 then []
    else [⟨0, a.toNat, sizeA, false⟩, ⟨1, b.toNat, panelSize fb h.n h.k, false⟩]
  let ps ← rs.mapM (placeRange s)
  groupRule ps
  tagCheck s z ps
  let o := max 1 ((h.k * kappa2 fa + 1) / 2)
  issueM s ⟨[arrayOf ad], o, o + 24, [ad], [], true, pairTraf s o ps⟩ tl
    { matOp s i with xa := a, xs := x, reads := opReads s ps, slots := opSlots ps } []

/-- MMA (R327). -/
def execMma (ad : BitVec 3) (xa xb xs : BitVec 4) (fa fb : Fmt) (z : Swz) (ovw neg : Bool) (tl : Option (BitVec 3))
    (s : State) : Answer :=
  finish s (mmaWord (.mma ad xa xb xs fa fb z ovw neg tl) false ad xa xb xs fa fb z tl s)

/-- MMAT (R327). -/
def execMmat (ad : BitVec 3) (xa xb xs : BitVec 4) (fa fb : Fmt) (z : Swz) (ovw neg : Bool) (tl : Option (BitVec 3))
    (s : State) : Answer :=
  finish s (mmaWord (.mmat ad xa xb xs fa fb z ovw neg tl) true ad xa xb xs fa fb z tl s)

-- Accumulator transfers.

/-- ASWAP (R332): the exchange waits for the words issued before it. -/
def execAswap (ad : BitVec 2) (s : State) : Answer :=
  finish s (match s.cjob.swapping ((0 : BitVec 1) ++ ad) with
    | some pc => .error (timing s.cjob pc)
    | none =>
      .ok { s.updJob (fun j => { j with aswap := j.aswap ++ [(ad, s.ord, s.cur.wpc.toNat)] }) with ord := s.ord + 1 })

/-- AZERO (R328). -/
def execAzero (ad : BitVec 3) (tl : Option (BitVec 3)) (s : State) : Answer :=
  finish s (issueM s ⟨[.xf], 1, 2, [ad], [], false, []⟩ tl (matOp s (.azero ad tl)) [])

/-- The shape of ALD and AST (R320, R321): rows, columns, pitch. -/
def xferShape (s : State) (x : Word) (eb : Nat) (z : Swz) (a : Nat) : Res (Nat × Nat × Nat) := do
  let h := mShape x
  let pitch := if h.k == 0 then h.n * eb else h.k
  operandIf s (x >>> 32 != 0 || decide (h.m > 128) || decide (h.n > 64) || decide (pitch < h.n * eb))
  trapIf (a % (if z == .plain then eb else 4096) != 0) cAlignment (BitVec.ofNat 64 a)
  trapIf (pitch % eb != 0) cAlignment (BitVec.ofNat 64 (a + pitch))
  .ok (h.m, h.n, pitch)

/-- ALD (R329). -/
def execAld (ad : BitVec 3) (xa xs : BitVec 4) (fa : Fmt) (z : Swz) (tl : Option (BitVec 3)) (s : State) : Answer :=
  finish s (do
    let a ← useX s xa
    let x ← useX s xs
    let eb := fa.width / 8
    let (m, n, pitch) ← xferShape s x eb z a.toNat
    let rs : List Rng := if m == 0 || n == 0 then [] else [⟨0, a.toNat, (m - 1) * pitch + n * eb, false⟩]
    let ps ← rs.mapM (placeRange s)
    tagCheck s z ps
    let traf := ps.flatMap fun p => (List.range m).map fun i => xfTraf s i (p.addr + i * pitch) (n * eb)
    issueM s ⟨[.xf], max 1 m, max 1 m + 4, [ad], [], false, traf⟩ tl
      { matOp s (.ald ad xa xs fa z tl) with xa := a, xs := x, reads := opReads s ps, slots := opSlots ps } [])

/-- A word of an accumulator in the format that AST stores (R330). -/
def astElem (fa : Fmt) (rm : RMode) (sat : Bool) (v : Nat) : Nat :=
  match fa with
  | .fp32 | .i32 => v
  | .i16 | .i8 => fitInt fa sat (intOf .i32 v)
  | _ => roundFV fa rm sat (fvOf .fp32 v)

/-- AST (R330): its rows are M-stream stores. -/
def execAst (ad : BitVec 3) (xa xs : BitVec 4) (fa : Fmt) (rm : RMode) (sat : Bool) (tl : Option (BitVec 3)) (s : State) :
    Answer :=
  finish s (do
    let a ← useX s xa
    let x ← useX s xs
    let eb := fa.width / 8
    let (m, n, pitch) ← xferShape s x eb .plain a.toNat
    let rs : List Rng := if m == 0 || n == 0 then [] else [⟨0, a.toNat, (m - 1) * pitch + n * eb, true⟩]
    let ps ← rs.mapM (placeRange s)
    let v := s.cjob.bankV ad
    if n != 0 then rowsClean v m
    let traf := ps.flatMap fun p => (List.range m).map fun i => xfTraf s (3 + i) (p.addr + i * pitch) (n * eb)
    let moves := ps.flatMap fun p => (List.range m).map fun i =>
      mStore s (3 + i) (p.addr + i * pitch)
        ((List.range n).flatMap fun k => leBytes eb (astElem fa rm sat (accElem (v.at i).w k))) p.prod
    issueM s ⟨[.xf], max 1 m, max 1 m + 3, [], [ad], false, traf⟩ tl (matOp s (.ast ad xa xs fa rm sat tl)) moves)

/-- AVEC (R331): a block of V[ad] goes to a queue of the V stream; its place is reserved at issue. -/
def execAvec (ad : BitVec 3) (xa : BitVec 4) (q : BitVec 2) (tl : Option (BitVec 3)) (s : State) : Answer :=
  finish s (do
    let a ← useX s xa
    operandIf s (a >>> 4 != 0)
    let w : MWord := ⟨[.xf], 4, 6, [], [ad], false, []⟩
    w.free s
    if s.cjob.qTaken .v q ≥ 4 then .error (timing s.cjob s.cur.wpc)
    else
      let b := 16 * (a &&& 7).toNat
      let snap := (List.range 16).map fun r => (b + r, (s.cjob.bankV ad).at (b + r))
      let s ← issueM s w tl { matOp s (.avec ad xa q tl) with xa := a, snap := snap } []
      .ok (s.updJob fun j => { j with vqRes := j.vqRes.set q.toFin (j.vqRes[q.toFin] + 1) }))

/-- The shape of ARSTAT and ALSTAT (R320, R321): rows and pitch. -/
def statShape (s : State) (x : Word) (z : Swz) (a : Nat) : Res (Nat × Nat) := do
  let rows := (x &&& 0xFF).toNat
  let p := (x >>> 16 &&& 0xFFFF).toNat
  operandIf s (x >>> 32 != 0 || x >>> 8 &&& 0xFF != 0 || rows == 0 || decide (rows > 128) ||
    (p != 0 && (decide (p < 8) || p % 4 != 0)))
  trapIf (a % (if z == .plain then 4 else 4096) != 0) cAlignment (BitVec.ofNat 64 a)
  .ok (rows, if p == 0 then 8 else p)

/-- The traffic of the statistics words: 32 rows in a cycle (R323). -/
def statTraf (s : State) (first base rows pitch : Nat) : List Traf :=
  (List.range (ceilDiv rows 32)).map fun g =>
    trafOf s.cjob .m s.cur.wpc (s.cjob.now + first + g)
      (((List.range 32).filter fun i => decide (32 * g + i < rows)).map fun i => base + (32 * g + i) * pitch) 8

/-- ARSTAT (R337). -/
def execArstat (ad : BitVec 3) (xa xs : BitVec 4) (tl : Option (BitVec 3)) (s : State) : Answer :=
  finish s (do
    let a ← useX s xa
    let x ← useX s xs
    let (rows, pitch) ← statShape s x .plain a.toNat
    let p ← placeRange s ⟨0, a.toNat, (rows - 1) * pitch + 8, true⟩
    let v := s.cjob.bankV ad
    rowsClean v rows
    let o := ceilDiv rows 32
    let moves := (List.range rows).map fun i =>
      mStore s (3 + i / 32) (p.addr + i * pitch) (leBytes 4 (v.at i).m.toNat ++ leBytes 4 (v.at i).l.toNat) p.prod
    issueM s ⟨[.xf], o, o + 3, [], [ad], false, statTraf s 3 p.addr rows pitch⟩ tl (matOp s (.arstat ad xa xs tl)) moves)

/-- ALSTAT (R337). -/
def execAlstat (ad : BitVec 3) (xa xs : BitVec 4) (z : Swz) (tl : Option (BitVec 3)) (s : State) : Answer :=
  finish s (do
    let a ← useX s xa
    let x ← useX s xs
    let (rows, pitch) ← statShape s x z a.toNat
    let p ← placeRange s ⟨0, a.toNat, (rows - 1) * pitch + 8, false⟩
    tagCheck s z [p]
    let o := ceilDiv rows 32
    issueM s ⟨[.xf], o, o + 4, [ad], [], false, statTraf s 0 p.addr rows pitch⟩ tl
      { matOp s (.alstat ad xa xs z tl) with xa := a, xs := x, reads := opReads s [p], slots := opSlots [p] } [])

/-- ABUSY (R332): the state of the engine at the start of the cycle. -/
def execAbusy (xa : BitVec 4) (s : State) : Answer :=
  let j := s.cjob
  let flag (b : Bool) (i : Nat) : Word := if b then BitVec.twoPow 64 i else 0
  let busy (r : Rsc) : Bool := !(j.live fun q => q == r).isEmpty
  let accs := (List.range 8).map (BitVec.ofNat 3)
  let v := (accs.map fun a => flag (!(j.owners a).isEmpty) a.toNat ||| flag (!(j.readers a).isEmpty) (8 + a.toNat)).foldl
    (· ||| ·) 0
  finish s (.ok (wrX s xa (XVal.clean (v ||| flag (busy .p0) 16 ||| flag (busy .p1) 17 ||| flag (busy .sm) 18 |||
    flag (busy .xf) 19 ||| flag (accs.any fun a => (j.swapping a).isSome) 20)) 1))

-- Attention.

/-- The accumulators from ad upward that hold D columns; all within a0 to a3 or all within a4 to a7 (R334). -/
def accRange (ad : BitVec 3) (d : Nat) : Option (List (BitVec 3)) :=
  let n := ceilDiv d 64
  if ad.toNat + n ≤ (if oneBank ad then 8 else 4) then some ((List.range n).map (accPlus ad)) else none

/-- The low 24-bit field of a register, and the next. -/
def lo24 (w : Word) : Nat := (w &&& 0xFFFFFF).toNat

/-- Bits [47:24]. -/
def hi24 (w : Word) : Nat := (w >>> 24 &&& 0xFFFFFF).toNat

/-- What the checks of ATTN and AMASS find: descriptor bytes, position words, the operands placed, the mass block. -/
structure AttnIn where
  adesc : List Byte
  pd : List Byte
  ops : List Placed
  mass : Option Placed
deriving DecidableEq, Repr

/-- Checks 2 to 7 of R322 for ATTN (`v` its V address) and AMASS. -/
def attnChecks (s : State) (ad : BitVec 3) (a b : Word) (v : Option Word) (fa fb : Fmt) (z : Swz) : Res AttnIn := do
  trapIf (hi24 a % 32 != 0) cAlignment (BitVec.ofNat 64 (hi24 a))
  let (_, bytes) ← ctlBlock s (hi24 a) 32
  let d := aDesc bytes
  operandIf s (!aDescOk bytes || a >>> 48 != 0 || b >>> 48 != 0 || (v.getD 0) >>> 24 != 0 ||
    (v.isSome && (accRange ad d.d).isNone))
  baseAligned z (lo24 a)
  baseAligned z (lo24 b)
  match v with
  | some w => baseAligned z w.toNat
  | none => pure ()
  trapIf (hi24 b % 4 != 0) cAlignment (BitVec.ofNat 64 (hi24 b))
  let kv (id addr : Nat) : Rng := ⟨id, addr, 64 * rowPitch fb d.d, false⟩
  let rs : List Rng := ⟨0, lo24 a, d.rows * rowPitch fa d.d, false⟩ :: kv 1 (lo24 b) ::
    match v with | some w => [kv 2 w.toNat] | none => []
  let ps ← rs.mapM (placeRange s)
  let pd ← if d.mask / 4 % 2 == 1 then do
      let (_, bs) ← ctlBlock s (hi24 b + 0x140) 256
      .ok bs
    else .ok []
  let mass ← if v.isNone then do
      let _ ← ctlBlock s (hi24 b + 0x40) 256
      let p ← placeRange s ⟨3, hi24 b + 0x40, 256, true⟩
      .ok (some p)
    else .ok none
  groupRule ps
  tagCheck s z ps
  .ok ⟨bytes, pd, ps, mass⟩

/-- ATTN (R336). -/
def execAttn (ad : BitVec 3) (xa xb xs : BitVec 4) (fa fb : Fmt) (z : Swz) (tl : Option (BitVec 3)) (s : State) :
    Answer :=
  finish s (do
    let a ← useX s xa
    let b ← useX s xb
    let x ← useX s xs
    let c ← attnChecks s ad a b (some x) fa fb z
    let d := (aDesc c.adesc).d
    let o := 64 * ceilDiv d 64 * kappa2 fa / 2
    issueM s ⟨[.p0, .p1, .sm], o, o + 40, (accRange ad d).getD [], [], false, arrayTraf s o 128 128⟩ tl
      { matOp s (.attn ad xa xb xs fa fb z tl) with
        xa := a, xs := x, adesc := c.adesc, pd := c.pd, reads := opReads s c.ops, slots := opSlots c.ops } [])

/-- AMASS (R337). -/
def execAmass (ad : BitVec 3) (xa xb : BitVec 4) (fa fb : Fmt) (z : Swz) (tl : Option (BitVec 3)) (s : State) : Answer :=
  finish s (do
    let a ← useX s xa
    let b ← useX s xb
    let c ← attnChecks s ad a b none fa fb z
    let d := aDesc c.adesc
    let o := max (d.d * kappa2 fa / 2) d.rows
    let l := o + 40
    let mass := c.mass.toList
    let traf := pairTraf s o c.ops ++ mass.map fun p => xfTraf s (l - 1) p.addr 256
    let snap := (List.range d.rows).map fun i => (i, (s.cjob.bankV ad).at i)
    issueM s ⟨[.p0, .sm], o, l, [], [ad], false, traf⟩ tl
      { matOp s (.amass ad xa xb fa fb z tl) with
        xa := a, adesc := c.adesc, pd := c.pd, reads := opReads s (c.ops ++ mass), snap := snap,
        slots := opSlots c.ops, prod := mass.findSome? Placed.prod } [])

/-- ATTNF (R337): O / l, row by row. -/
def execAttnf (ad : BitVec 3) (xa xs : BitVec 4) (fa : Fmt) (tl : Option (BitVec 3)) (s : State) : Answer :=
  finish s (do
    let a ← useX s xa
    let x ← useX s xs
    let eb := fa.width / 8
    let rows := (x &&& 0xFF).toNat
    let dv := (x >>> 32 &&& 0xFFFF).toNat
    let p := (x >>> 16 &&& 0xFFFF).toNat
    let pitch := if p == 0 then dv * eb else p
    operandIf s (x >>> 48 != 0 || x >>> 8 &&& 0xFF != 0 || rows == 0 || decide (rows > 128) || dv == 0 ||
      decide (dv > 256) || decide (pitch < dv * eb) || (accRange ad dv).isNone)
    trapIf (a.toNat % eb != 0) cAlignment a
    trapIf (pitch % eb != 0) cAlignment (a + BitVec.ofNat 64 pitch)
    let q ← placeRange s ⟨0, a.toNat, (rows - 1) * pitch + dv * eb, true⟩
    let accs := (accRange ad dv).getD []
    for c in accs do
      rowsClean (s.cjob.bankV c) rows
    let u := ceilDiv (dv * eb) 256
    let o := rows * u
    let row (i : Nat) : List Byte :=
      let l := ((s.cjob.bankV ad).at i).l.toNat
      (List.range dv).flatMap fun c =>
        leBytes eb (attnfElem fa (accElem ((s.cjob.bankV (accPlus ad (c / 64))).at i).w (c % 64)) l)
    let pieces := (List.range rows).flatMap fun i => (List.range u).map fun k =>
      (8 + u * i + k, q.addr + i * pitch + 256 * k, ((row i).drop (256 * k)).take 256)
    issueM s ⟨[.xf], o, o + 8, [], accs, false, pieces.map fun e => xfTraf s e.1 e.2.1 e.2.2.length⟩ tl
      (matOp s (.attnf ad xa xs fa tl)) (pieces.map fun e => mStore s e.1 e.2.1 e.2.2 q.prod))

end Sys2Proof.Machine
end

