-- ==== Sys2Proof/Machine/Tensor.lean ====
section
/-! DEFINITION. Tensor maps and their elements, those of KV-indirect maps among them (17_copy R285 to R289; 21 R344, R347,
R348, R351, R352; 09 R155). -/

namespace Sys2Proof.Machine

/-- A tensor map with its coordinate block (R285). -/
structure TMap where
  base : Nat
  dims : Nat
  ef : Nat
  swz : Nat
  mflags : Nat
  edge : Nat
  sshift : Nat
  fill : Nat
  size : List Nat
  stride : List Nat
  win : List Nat
  step : List Nat
  org : List Int
deriving DecidableEq, Repr

/-- A tensor map from its 112 bytes and the 28 bytes of its coordinate block (R285). -/
def tmapOf (b o : List Byte) : TMap :=
  { base := fieldAt b 0 8, dims := fieldAt b 8 1, ef := fieldAt b 9 1, swz := fieldAt b 10 1, mflags := fieldAt b 11 1,
    edge := fieldAt b 12 2, sshift := fieldAt b 14 1, fill := fieldAt b 16 4,
    size := (List.range 7).map fun d => fieldAt b (0x14 + 4 * d) 4,
    stride := (List.range 6).map fun d => fieldAt b (0x30 + 6 * d) 6,
    win := (List.range 7).map fun d => fieldAt b (0x54 + 2 * d) 2,
    step := (List.range 3).map fun d => fieldAt b (0x62 + d) 1,
    org := (List.range 7).map fun d => (BitVec.ofNat 32 (fieldAt o (4 * d) 4)).toInt }

/-- Its element format. -/
def TMap.fmt (m : TMap) : Fmt := (fmtOf (BitVec.ofNat 4 m.ef)).getD .u8

/-- KVIND. -/
def TMap.kvind (m : TMap) : Bool := m.mflags / 2 % 2 == 1

/-- EXPAND. -/
def TMap.expand (m : TMap) : Bool := m.mflags / 4 % 2 == 1

/-- Its swizzle (05 R89). -/
def TMap.swizzle (m : TMap) : Swz :=
  match m.swz with | 1 => .sk4 | 2 => .sk8 | 3 => .sk16 | 4 => .sk32 | _ => .plain

/-- Edge mode of a dimension (R285). -/
def TMap.edgeOf (m : TMap) (d : Nat) : Nat := m.edge / 4 ^ d % 4

/-- Step of a dimension; 0 reads as 1 (R285, R286). -/
def TMap.stepOf (m : TMap) (d : Nat) : Nat := if d < 3 then max 1 (m.step.getD d 0) else 1

/-- Stride of a dimension in bytes (R286). -/
def TMap.strideOf (m : TMap) (d : Nat) : Nat := if d == 0 then 0 else m.stride.getD (d - 1) 0 * 2 ^ (m.sshift % 16)

/-- Elements of the box. -/
def TMap.count (m : TMap) : Nat := (m.win.take m.dims).foldl (· * ·) 1

/-- B, the bytes of the box (R286). -/
def TMap.bytes (m : TMap) : Nat := m.count * m.fmt.width / 8

/-- Bytes of one unit of the copy: an element, or the two 4-bit elements of a byte. -/
def TMap.unit (m : TMap) : Nat := max 1 (m.fmt.width / 8)

/-- Elements of one unit. -/
def TMap.perUnit (m : TMap) : Nat := if m.fmt.width == 4 then 2 else 1

/-- Units of the box. -/
def TMap.units (m : TMap) : Nat := m.bytes / m.unit

/-- The box indices of element e, dimension 0 innermost (R286). -/
def digits : List Nat → Nat → List Nat
  | [], _ => []
  | w :: ws, e => e % max 1 w :: digits ws (e / max 1 w)

/-- The raw coordinate of dimension d (R286). -/
def TMap.raw (m : TMap) (d i : Nat) : Int := m.org.getD d 0 + i * m.stepOf d

/-- A coordinate as the edge mode leaves it; `none` outside (R286). -/
def TMap.coordOf (m : TMap) (d i : Nat) : Option Nat :=
  let c := m.raw d i
  let n := m.size.getD d 1
  if 0 ≤ c ∧ c < n then some c.toNat
  else match m.edgeOf d with
  | 2 => some (if c < 0 then 0 else n - 1)
  | 3 => some (c % (n : Int)).toNat
  | _ => none

/-- The coordinates of element e; `none` when it lies outside (R286). -/
def TMap.coords (m : TMap) (e : Nat) : Option (List Nat) :=
  let ds := digits (m.win.take m.dims) e
  let cs := (List.range ds.length).map fun d => m.coordOf d (ds.getD d 0)
  if cs.all Option.isSome then some (cs.filterMap id) else none

/-- The address of an element, modulo 2^57 (R286). -/
def TMap.va (m : TMap) (cs : List Nat) : Nat :=
  (m.base + cs.headD 0 * m.fmt.width / 8 +
    ((List.range cs.length).map fun d => cs.getD d 0 * m.strideOf d).sum) % 2 ^ 57

/-- The lowest dimension under TRAP in which some element lies outside (R287). -/
def TMap.trapDim (m : TMap) : Option Nat :=
  (List.range m.dims).find? fun d =>
    m.edgeOf d == 0 && (decide (m.raw d 0 < 0) || decide (m.raw d (m.win.getD d 1 - 1) ≥ m.size.getD d 1))

/-- Offsets of failing fields, each with its test (R287). -/
def TMap.faults (m : TMap) (b : List Byte) (st : Bool) : List (Nat × Bool) :=
  let w := m.fmt.width
  let nz (o n : Nat) : Bool := fieldAt b o n != 0
  [(0x00, m.base % m.unit != 0), (0x08, m.dims == 0 || decide (m.dims > 7)), (0x09, decide (m.ef > 11)),
   (0x0A, decide (m.swz > 4)),
   (0x0B, m.mflags % 2 != 0 || decide (m.mflags ≥ 8) || (m.expand && (!m.kvind || st || !(m.ef == 1 || m.ef == 3)))),
   (0x0C, decide (m.edge ≥ 2 ^ 14) || (List.range 7).any fun d => decide (m.dims ≤ d) && m.edgeOf d != 0),
   (0x0C, st && (List.range m.dims).any fun d => m.edgeOf d == 2),
   (0x0C, w == 4 && decide (m.edgeOf 0 ≥ 2)),
   (0x0E, decide (m.sshift ≥ 16)), (0x0F, nz 0x0F 1), (0x54, decide (m.bytes > 0x800000)),
   (0x54, w == 4 && m.win.getD 0 0 % 2 != 0), (0x62, w == 4 && decide (m.step.getD 0 0 > 1)), (0x65, nz 0x65 11),
   (0x70, w == 4 && m.org.getD 0 0 % 2 != 0)] ++
  (List.range 7).map (fun d => (0x14 + 4 * d, (m.size.getD d 0 == 0) == decide (d < m.dims))) ++
  (List.range 6).map (fun d => (0x30 + 6 * d,
    if d + 1 < m.dims then m.strideOf (d + 1) % m.unit != 0 else m.stride.getD d 0 != 0)) ++
  (List.range 7).map (fun d => (0x54 + 2 * d, (m.win.getD d 0 == 0) == decide (d < m.dims) ||
    (st && decide (d < m.dims) && m.edgeOf d == 3 && decide (m.win.getD d 0 > m.size.getD d 0)))) ++
  (List.range 3).map fun d => (0x62 + d, (decide (m.dims ≤ d) && m.step.getD d 0 != 0) ||
    (st && decide (d < m.dims) && m.edgeOf d == 3 && decide (m.stepOf d > 1)))

/-- The lowest offset that fails. -/
def firstFault (l : List (Nat × Bool)) : Option Nat :=
  (l.filterMap fun e => if e.2 then some e.1 else none).min?

-- KV-indirect maps (21 R344, R347, R348, R351, R352).

/-- ST of a block-table entry (R344). -/
def entSt (e : Word) : Nat := (e >>> 62).toNat

/-- Its format tag. -/
def entFmt (e : Word) : Nat := (e >>> 58 &&& 15).toNat

/-- VALIDM1. -/
def entValid (e : Word) : Nat := (e >>> 52 &&& 63).toNat

/-- SLOT. -/
def entSlot (e : Word) : Nat := (e &&& 0xFFFFFFFFFF).toNat

/-- The format of a part under a tag (R347): part 0 is K, 1 is V. -/
def partFmt (tag part : Nat) : Fmt :=
  match tag with
  | 0 => .bf16 | 1 => .fp16 | 2 => .e4m3 | 3 => .e5m2
  | 4 => if part == 0 then .i4 else .e2m1
  | _ => if part == 0 then .e4m3 else .e2m1

/-- An entry that no command may use (R347). -/
def entBad (e : Word) : Bool := entSt e == 3 || (entSt e != 0 && decide (entFmt e > 5))

/-- First byte of the block of a part and head (R348). -/
def kvBlock (h d part head : Nat) : Nat := part * 128 * h * d + head * 128 * d

/-- Slot offset of element (j, c), and of the scale it has with the scale's bytes (R348). -/
def kvPlaces (f : Fmt) (h d part head j c : Nat) : Nat × Option (Nat × Nat) :=
  let b := kvBlock h d part head
  match f with
  | .i4 => (b + d / 2 * j + c / 2, some (b + 32 * d + 2 * c, 2))
  | .e2m1 => (b + d / 2 * j + c / 2, some (b + 32 * d + d / 32 * j + c / 32, 1))
  | f => (b + f.width / 8 * (d * j + c), none)

/-- The disagreements of a KV-indirect map with R351 and its pool, by map offset. -/
def TMap.kvFaults (m : TMap) (p : Pool) : List (Nat × Bool) :=
  [(0x00, m.base % 64 != 0), (0x08, m.dims != 4),
   (0x0C, m.edgeOf 0 != 0 || decide (m.edgeOf 1 > 1) || m.edgeOf 2 != 0 || m.edgeOf 3 != 0), (0x0E, m.sshift != 0),
   (0x14, m.size.getD 0 0 != p.d), (0x1C, decide (m.size.getD 2 0 > p.heads)), (0x20, decide (m.size.getD 3 0 > 2))] ++
  (List.range 6).map (fun d => (0x30 + 6 * d, m.stride.getD d 0 != 0)) ++
  (List.range 3).map fun d => (0x62 + d, decide (m.step.getD d 0 > 1))

/-- The page that an element lies in and its token there, inside or not (R351). -/
def kvPage (cs : List Nat) : Nat × Nat := (cs.getD 1 0 / 64, cs.getD 1 0 % 64)

/-- The entry under which an element is held: of those read, the valid one of its page that holds its token (R351). -/
def kvHeld (ents : List (Nat × Word)) (cs : List Nat) : Option Word :=
  let (p, j) := kvPage cs
  match alGet ents p with
  | some e => if entSt e != 0 && decide (j ≤ entValid e) then some e else none
  | none => none

/-- The value of a stored element expanded with its scale and rounded once (09 R155). -/
def kvExpand (target src : Fmt) (code scale : Nat) : Nat :=
  match src with
  | .i4 => expandTo target (i4Value code scale)
  | .e2m1 => expandTo target (mxValue scale code)
  | f => expandTo target (fvOf f code)

-- Commands with a map.

/-- The map of a COPY command. -/
def Cmd.map (c : Cmd) : TMap := tmapOf c.blk c.blk2

/-- The physical address of a VA under the frames that a command has pinned (05 R99). -/
def State.pinned (s : State) (c : Cmd) (va : Nat) : Nat :=
  match c.frames.find? fun f => f.2 == va / pageSize with
  | some f => canon s.pkgnum.toNat (f.1 + va % pageSize)
  | none => mgmtBase

/-- Where an element of a command's box lies: its VA, its format there, whether it is the high nibble of its byte, and the
VA and length of its scale; `none` for one that lies outside. -/
def Cmd.elemAt (c : Cmd) (m : TMap) (e : Nat) : Option (Nat × Fmt × Bool × Option (Nat × Nat)) :=
  match m.coords e with
  | none => none
  | some cs =>
    if m.kvind then
      match kvHeld c.ents cs with
      | none => none
      | some en =>
        let p := poolOf 0 c.pool
        let f := partFmt (entFmt en) (cs.getD 3 0)
        let (o, sc) := kvPlaces f p.heads p.d (cs.getD 3 0) (cs.getD 2 0) (kvPage cs).2 (cs.getD 0 0)
        let va (x : Nat) : Nat := (p.slotVa (entSlot en)).toNat + x
        some (va o, f, f.width == 4 && cs.getD 0 0 % 2 == 1, sc.map fun q => (va q.1, q.2))
    else some (m.va cs, m.fmt, m.fmt.width == 4 && cs.headD 0 % 2 == 1, none)

/-- A source word of a command, under its number, as the command read it when it first needed it: each 4-byte word is read
once (07 R129, R131). -/
def Cmd.once (c : Cmd) (k : Nat) (read : Unit → List (Byte × Option PoU)) : List (Byte × Option PoU) × Cmd :=
  match alGet c.words k with
  | some w => (w, c)
  | none => (read (), { c with words := (k, read ()) :: c.words })

/-- The number stored in n bytes of one word at a VA of a command of core n, and its poison with its origin record (17 R280;
23 R376). -/
def State.fetchNat (s : State) (n : CoreIx) (c : Cmd) (va len : Nat) : (Nat × Option PoU) × Cmd :=
  let pa := s.pinned c va
  let (w, c) := c.once (pa / 4) fun _ =>
    let r := s.physRead (dieOf n) (c.sees n) (pa / 4 * 4) 4
    r.1.map fun b => (b, r.2)
  let w := (w.drop (pa % 4)).take len
  ((leNat (w.map Prod.fst), (w.findSome? Prod.snd).map fun p => .carried (p.origin (BitVec.ofNat 64 va))), c)

/-- An element of a box as DIR 0 writes it, with its poison (R289; 21 R352). -/
def State.elemRead (s : State) (n : CoreIx) (c : Cmd) (m : TMap) (e : Nat) : (Nat × Option PoU) × Cmd :=
  match c.elemAt m e with
  | none => ((m.fill % 2 ^ m.fmt.width, none), c)
  | some (va, f, hi, sc) =>
    let ((v, po), c) := s.fetchNat n c va (max 1 (f.width / 8))
    let code := if f.width == 4 then (if hi then v / 16 else v % 16) else v
    if m.expand then
      let ((x, po'), c) := match sc with | some (q, k) => s.fetchNat n c q k | none => ((0, none), c)
      ((kvExpand m.fmt f code x, if po.isSome then po else po'), c)
    else ((code, po), c)

/-- The bytes of unit u as DIR 0 writes them. -/
def State.unitRead (s : State) (n : CoreIx) (c : Cmd) (m : TMap) (u : Nat) : List (Byte × Option PoU) × Cmd :=
  if m.perUnit == 2 then
    let (a, c) := s.elemRead n c m (2 * u)
    let (b, c) := s.elemRead n c m (2 * u + 1)
    ([(BitVec.ofNat 8 (a.1 + 16 * b.1), if a.2.isSome then a.2 else b.2)], c)
  else
    let (a, c) := s.elemRead n c m u
    ((leBytes m.unit a.1).map fun b => (b, a.2), c)

/-- The unit of memory of `size` bytes at which a command writes n bytes: the command with those that it has written clean so
far, and the unit's address when they are all of it (23 R378). -/
def Cmd.covers (c : Cmd) (size a : Nat) (bs : List (Byte × Option PoU)) : Cmd × List Nat :=
  let u := a / size * size
  if bs.any fun b => b.2.isSome then ({ c with cover := alDel c.cover u }, [])
  else
    let got := (alGet c.cover u).getD 0 ||| BitVec.ofNat 32 ((2 ^ bs.length - 1) * 2 ^ (a % size))
    if got == BitVec.ofNat 32 (2 ^ size - 1) then ({ c with cover := alDel c.cover u }, [u])
    else ({ c with cover := alSet c.cover u got }, [])

/-- The local address of logical byte o of a box that begins at `base` (R288). -/
def TMap.localAt (m : TMap) (base o : Nat) : Nat := base + swzOff m.swizzle o

/-- Elements whose byte or unit must be reached: their addresses, in order (R278 step 5). -/
def TMap.vas (m : TMap) : List Nat :=
  (List.range m.count).filterMap fun e => (m.coords e).map m.va

end Sys2Proof.Machine
end

