-- ==== Sys2Proof/Machine/Submit.lean ====
section
/-! DEFINITION. The submission of queued words: local blocks and ranges, translation and page locks, acceptance
(17_copy R277 to R282, R303, R304; 05 R85, R99, R100; 07 R120). -/

namespace Sys2Proof.Machine

/-- A register value that names a local address (R277). -/
def localReg (w : Word) : Res Unit := trapIf (decide (w.toNat ≥ p2 24)) cExtentViolation w

/-- A value aligned to n. -/
def alignedTo (w : Word) (n : Nat) : Res Unit := trapIf (w.toNat % n != 0) cAlignment w

/-- An operand block, of which `used` bytes are read: its address is checked, then it is read as a control block is (R278
step 3). -/
def blockPart (s : State) (a : Word) (align len used : Nat) : Res (List Byte) := do
  localReg a
  alignedTo a align
  let (_, bs) ← ctlPart s a.toNat len used
  .ok bs

/-- An operand block read whole. -/
def blockAt (s : State) (a : Word) (align len : Nat) : Res (List Byte) := blockPart s a align len len

/-- A local range that a command reads, or writes, against the regions of R83 (05 R84, R85, R110): readiness is a matter of its
beginning; a source may lie in a turnstile image. -/
def rangeOk (s : State) (w : Bool) (a : Word) (len : Nat) : Res Unit := do
  localReg a
  if len == 0 then .ok ()
  else match s.cjob.place a.toNat len with
  | .carFault c => .error (.trap cCarouselFault (BitVec.ofNat 64 c))
  | .image _ _ => trapIf w cExtentViolation a
  | .outside => .error (.trap cExtentViolation a)
  | .at _ | .notReady | .bad _ => .ok ()

/-- A failing word (23 R371). -/
def badWord (s : State) (b : Bool) : Res Unit := trapIf b cIllegalOperand s.raw

-- Collective blocks (R303 to R306).

/-- CHAN of a collective block. -/
def chanOf (b : List Byte) : Nat := fieldAt b 0x14 1

/-- The element format of a collective block. -/
def collFmt (b : List Byte) : Fmt := (fmtOf (BitVec.ofNat 4 (fieldAt b 0x15 1))).getD .u8

/-- COUNT. -/
def countOf (b : List Byte) : Nat := fieldAt b 0x20 8

/-- A two-sided collective (R304). -/
def twoSided : Instr → Bool
  | .creduce .. | .cgather .. | .cbcast .. => true
  | _ => false

/-- Bits that one member contributes (R303, R305). -/
def memberBits (i : Instr) (b : List Byte) : Nat :=
  match i with
  | .creduce .merge _ _ _ _ => countOf b * (8 + 4 * fieldAt b 0x16 2) * 8
  | .cring .. | .cmcast .. => countOf b * 8
  | _ => countOf b * (collFmt b).width

/-- Bytes that one member contributes. -/
def memberBytes (i : Instr) (b : List Byte) : Nat := memberBits i b / 8

/-- Bytes that every member's destination takes (R305, R307, R308). -/
def resultBytes (i : Instr) (b : List Byte) : Nat :=
  match i with
  | .cgather .. => (membersOf b).length * memberBytes i b
  | _ => memberBytes i b

-- Sources and destinations.

/-- The local range that a command reads: where and how long; none for one that reads no scratchpad (R276). -/
def Cmd.source (c : Cmd) : Option (Nat × Nat) :=
  match c.op with
  | .copy .st .. => some (c.xt.toNat, c.map.bytes)
  | .copyr .. => some (c.xm.toNat, c.xt.toNat)
  | .qfill t .. => some (c.xm.toNat, c.xt.toNat * if t == Strm.v then 2048 else 8)
  | .creduce .. | .cgather .. | .cbcast .. | .cring .. | .cmcast .. => some (c.xs.toNat, memberBytes c.op c.blk)
  | _ => none

/-- The local range of its own core that a command writes: where and how long. -/
def Cmd.target (c : Cmd) : Option (Nat × Nat) :=
  match c.op with
  | .copy .ld .. => some (c.xt.toNat, c.map.bytes)
  | .creduce .. | .cgather .. | .cbcast .. => some (c.xt.toNat, resultBytes c.op c.blk)
  | _ => none

/-- The cores to which a command sends, each with the package and the local range there (R283, R290, R307, R308). -/
def State.sendsTo (s : State) (n : CoreIx) (c : Cmd) : List (Nat × CoreIx × Nat × Nat) :=
  let own := s.pkgnum.toNat
  match c.op with
  | .copyr .. =>
    let l := locator c.xs
    [(if l.p then l.pkg else own, l.core, l.loc, c.xt.toNat)]
  | .tsarrive .. =>
    let l := locator c.xm
    [(if l.p then l.pkg else own, l.core, l.loc, 0)]
  | .cring .. =>
    match s.rankIn c.blk n with
    | some r => ((membersOf c.blk)[(r + 1) % max 1 (membersOf c.blk).length]?).toList.map fun m =>
        (m.1, m.2, c.xt.toNat, countOf c.blk)
    | none => []
  | .cmcast .. => ((membersOf c.blk).filter fun m => !(m.1 == own && m.2 == n)).map fun m =>
      (m.1, m.2, c.xt.toNat, countOf c.blk)
  | _ => []

-- What a command reads in the scratchpad.

/-- Bytes that an engine reads at a place resolved in the local space. -/
def Core.sourceCells (c : Core) (j : Job) (a n : Nat) : List (Byte × Option PoU) :=
  if 0xC00000 ≤ a then (((j.tsImage ((a - 0xC00000) / 16)).drop (a % 16)).take n).map fun b => (b, none)
  else c.cellsAt a n

/-- The job whose local space a command of core n reads. -/
def State.jobFor (s : State) (n : CoreIx) (c : Cmd) : Job := ((s.core n).jobOf c.seq c.iter).getD (s.job n)

/-- The scratchpad of core n as a command of it reads it: with what its stream wrote before, rows and masses still on their way among
it (07 R120). -/
def State.cmdView (s : State) (n : CoreIx) (c : Cmd) : Core :=
  let j := s.jobFor n c
  (matAhead (fun _ => false) (s.core n) j fun o => c.strm == .m && decide (o.ord < c.ord) && o.underWay j.now true).1.ownView j c.strm c.ord

/-- The bytes of a command's source. -/
def State.srcCells (s : State) (n : CoreIx) (c : Cmd) (a len : Nat) : List (Byte × Option PoU) :=
  (s.cmdView n c).sourceCells (s.jobFor n c) a len

-- Acceptance.

/-- A command of the word being issued, with nothing gathered yet. -/
def State.command (s : State) (op : Instr) (ts : Option (BitVec 6)) (scope : Scope) (xm xs xt : Word) : Cmd :=
  let j := s.cjob
  { ord := s.ord, seq := j.seq, iter := j.iter, op := op, raw := s.cur.raw, pc := s.cur.wpc, strm := s.cur.strm, part := j.nest.part,
    xm := xm, xs := xs, xt := xt, blk := [], blk2 := [], tl := none, ts := ts, phase := false, rphase := [],
    scope := scope, frames := [], holds := [], inst := 0, slot := none, rslots := [], begun := false,
    total := 0, pos := 0, tagged := [], fail := none, info := 0, orphan := false, src := 0, srcSlot := none, dst := 0,
    rbase := [], ready := false, data := [], ents := [], pool := [], cnt := 0, full := false, refused := false,
    toks := [], refs := [], words := [], cover := [], acq := s.cstrm.acq }

/-- The accesses of the stream before a class-11 word (07 R120, R121): atomics performed, and stores to read-duplicated
pages, which have no die point, ordered. What else it has written the command's reads see (`State.cmdView`). -/
def submitGate (s : State) : Res Unit := do
  acqGate s
  holdIf (s.earlier.any fun g => match g.kind with | .atomic .. => true | _ => false) .order
  holdIf (s.cjob.late.any fun l => l.strm == s.cur.strm && decide (l.ord < s.cur.since) && match l.op with | .atomic .. => true | .load _ => false) .order
  holdIf (s.posted.any fun p => !relPoint .core p) .postBuf

/-- The queue has a free place (R278 step 4). -/
def placeGate (s : State) (store : Bool) : Res Unit := holdIf (decide (s.here.taken store ≥ 16)) .queueFull

/-- The distinct pages of a list of addresses, each with the first address in it. -/
def pageList (vas : List Nat) : List (Nat × Nat) :=
  vas.foldl (fun (l : List (Nat × Nat)) va => if (alGet l (va / pageSize)).isSome then l else l ++ [(va / pageSize, va)]) []

/-- The pages of a command translated through the die's translation cache (R99, R279): a page that it lacks holds the
submission until the walk is done; a walk that fails is a system cause. -/
def translatePages (s : State) (pages : List (Nat × Nat)) (rd w : Bool) : Res (List (Nat × Xlat)) :=
  let d := dieOf s.cur.core
  let part := s.cjob.nest.part
  pages.foldl (fun (r : Res (List (Nat × Xlat))) p => do
    let l ← r
    match s.lookup d part (BitVec.ofNat 64 p.2) rd w false with
    | .bad c info => .error (.trap c info)
    | .ok x =>
      if ((s.die d).tlbFind part (BitVec.ofNat 64 p.2)).isSome then .ok (l ++ [(p.1, x)])
      else .error (.hold .translation p.1)) (.ok [])

/-- The smallest scope that contains a core of this package, or one of another (07 R127, R130). -/
def State.scopeTo (s : State) (n : CoreIx) (pkg : Nat) (m : CoreIx) : Scope :=
  if pkg != s.pkgnum.toNat then .pod else if m == n then .core else if dieOf m == dieOf n then .die else .pkg

/-- The wider of two scopes. -/
def scopeMax (a b : Scope) : Scope :=
  let k : Scope → Nat | .core => 0 | .die => 1 | .pkg => 2 | .pod => 3
  if k a < k b then b else a

/-- A command is performed at the smallest scope that contains its own and every agent that it writes to or arrives at (R130); a
window command's pod is package (07 R135). DESIGN CHOICE (log entry 88): the home of global bytes is no such agent: a memory shell or
LPDDR, which R115's table places in an instance too, widens nothing. -/
def State.widen (s : State) (n : CoreIx) (c : Cmd) : Scope :=
  let own := s.pkgnum.toNat
  let members := if twoSided c.op then membersOf c.blk else []
  let frames := match c.op with
    | .copy .st .. => c.frames.filterMap fun f => match s.place f.1 with
      | .aper m _ => some (own, m)
      | .peer p _ => some (p, n)
      | _ => none
    | .wput .. | .wdrop .. => (s.core n).copies.filterMap fun w =>
      if c.xs.toNat / 4096 ≤ w.tile && w.tile < c.xs.toNat / 4096 + c.xt.toNat then some (own, w.home) else none
    | _ => []
  let sc := ((s.sendsTo n c).map (fun d => (d.1, d.2.1)) ++ members ++ frames).foldl
    (fun (sc : Scope) a => scopeMax sc (s.scopeTo n a.1 a.2)) c.scope
  match c.op with
  | .wget .. | .wown .. | .wput .. | .wdrop .. | .wdecl .. => if sc == .pod then .pkg else sc
  | _ => sc

/-- Acceptance (R278 step 6): pins taken, D set in the entry of every destination frame, the number, the phase, the tail
of the queue. -/
def acceptCmd (s : State) (store : Bool) (c : Cmd) (tl : Option (BitVec 3)) (xl : List (Nat × Xlat)) (w : Bool) :
    Res State := do
  let name (x : Nat × Xlat) : Nat := canon s.pkgnum.toNat x.2.frame
  let frames := (xl.map name).eraseDups
  trapIf (decide (frames.length > 1024)) cPinExhausted (BitVec.ofNat 64 frames.length)
  let d := dieOf s.cur.core
  match (s.die d).pin frames with
  | none => .error (.hold .queueFull 0)
  | some die =>
    let num ← match tl with
      | none => pure none
      | some k => do
        let n ← s.cjob.nextNumber k
        pure (some (k, n))
    let own : Option (BitVec 6) := match (s.arrivals s.cur.core c).find? fun a => a.1 == s.cur.core with
      | some a => some a.2
      | none => none
    let c : Cmd := { c with
      tl := num
      frames := xl.map fun x => (name x, x.1)
      phase := match own with | some k => (s.cjob.ts[k.toFin]).phase | none => false }
    let c : Cmd := { c with scope := s.widen s.cur.core c }
    let s := s.modDie d fun _ => die
    let s := if w then (xl.map fun x => x.2.entry).eraseDups.foldl (fun (t : State) e => t.setDirty c.part e) s else s
    let s := s.modCore s.cur.core fun k => k.setQueue store (k.queue store ++ [c])
    let s := match tl with | some k => s.updJob fun j => j.takeNumber k | none => s
    .ok { s with ord := s.ord + 1 }

/-- Steps 4 to 6 of R278 for a command that names no virtual address. -/
def submitLocal (s : State) (store : Bool) (c : Cmd) (tl : Option (BitVec 3)) : Res State := do
  submitGate s
  placeGate s store
  acceptCmd s store c tl [] false

/-- Steps 4 to 6 of R278 for a command whose blocks name the addresses given. -/
def submitVas (s : State) (store : Bool) (c : Cmd) (tl : Option (BitVec 3)) (vas : List Nat) (rd w : Bool) : Res State := do
  submitGate s
  placeGate s store
  let xl ← translatePages s (pageList vas) rd w
  acceptCmd s store c tl xl w

-- What a KV command touches.

/-- A page that a KV command touches: an address in it, its translation, whether it is written (05 R99). -/
structure KvPg where
  va : Nat
  x : Xlat
  w : Bool
deriving DecidableEq, Repr

/-- A run of a KV command that is being submitted, with the pages known so far; each page that it comes to and that is not known yet
is translated and joins them (05 R99). A walk that fails is a system cause, any other error what `fail` makes of it. -/
def State.kvLook {α : Type} (s : State) (b : KvBy) (part : BitVec 16) (run : KvBy → CRes α) (fail : Cause × Word → Res α) :
    Nat → List KvPg → Res (α × List KvPg)
  | 0, l => .error (.trap cPinExhausted (BitVec.ofNat 64 l.length))
  | k + 1, l =>
    match run { b with plan := some (l.map fun p => (p.va / pageSize, canon s.pkgnum.toNat p.x.frame, p.w)) } with
    | .ok a => .ok (a, l)
    | .error (c, va) =>
      if c == cPlanRead || c == cPlanWrite then
        match s.lookup (dieOf b.core) part va false false false with
        | .ok x => s.kvLook b part run fail k ((l.filter fun p => p.va / pageSize != va.toNat / pageSize) ++ [⟨va.toNat, x, c == cPlanWrite⟩])
        | .bad cause info => .error (.trap cause info)
      else if c == cPageNotPresent || c == cPageProtection || c == cEcc then .error (.trap c va)
      else do
        let a ← fail (c, va)
        .ok (a, l)

/-- A command touches at most 1,024 frames (R99), each page first to be read and then to be written. -/
def lookLimit : Nat := 2050

/-- The pages found are in the die's translation cache (R99, R279), D is set in the entries of those that are written, in one burst
(R100), and the command is accepted with all of them pinned. -/
def acceptKv (s : State) (store : Bool) (c : Cmd) (tl : Option (BitVec 3)) (l : List KvPg) : Res State := do
  let _ ← translatePages s (l.map fun p => (p.va / pageSize, p.va)) false false
  let dirty := ((l.filter KvPg.w).map fun p => p.x.entry).eraseDups
  acceptCmd (dirty.foldl (fun (t : State) e => t.setDirty c.part e) s) store c tl (l.map fun p => (p.va / pageSize, p.x)) false

end Sys2Proof.Machine
end

