-- ==== Sys2Proof/Machine/CopyWords.lean ====
section
/-! DEFINITION. The copy words COPY, COPYR and QFILL, and the turnstile, timeline and carousel words, at issue (17_copy R285
to R298; 21 R350 to R353). -/

namespace Sys2Proof.Machine

-- COPY.

/-- A KV command's cause as a precise trap of the submitting word (21 R341, R355). -/
def kvTrap {α : Type} (s : State) (r : CRes α) : Res α :=
  match r with
  | .ok a => .ok a
  | .error (c, info) => .error (.trap c (if c == cIllegalOperand then s.raw else info))

/-- The header of a block table: its pool's VA, CAP, NPAGE, NTOK, NEXTPOS, OWNER (21 R343). -/
structure KvTable where
  va : Word
  poolVa : Word
  cap : Nat
  npage : Nat
  ntok : Nat
  nextpos : Nat
  owner : Nat
deriving DecidableEq, Repr

/-- A table header read (R343). -/
def State.kvTable (s : State) (me : KvBy) (part : BitVec 16) (va : Word) : CRes KvTable := do
  let b ← s.kvClean me part va 64
  .ok ⟨va, BitVec.ofNat 64 (fieldAt b 0 8), fieldAt b 8 4, fieldAt b 12 4, fieldAt b 16 8, fieldAt b 24 8, fieldAt b 32 8⟩

/-- VA of entry p of a table (R343). -/
def entryVa (va : Word) (p : Nat) : Word := va + BitVec.ofNat 64 (0x40 + 8 * p)

/-- Entry p of a table (R344). -/
def State.kvEntry (s : State) (me : KvBy) (part : BitVec 16) (va : Word) (p : Nat) : CRes Word := do
  .ok (BitVec.ofNat 64 (← s.kvNat me part (entryVa va p) 8))

/-- An entry that a command uses: its format and its slot are legal (R341, R347). -/
def State.kvUse (s : State) (me : KvBy) (part : BitVec 16) (pool : Pool) (va : Word) (p : Nat) : CRes Word := do
  let e ← s.kvEntry me part va p
  endIf (entBad e) cKvFormat (entryVa va p)
  endIf (entSt e != 0 && decide (entSlot e ≥ pool.slots)) cIllegalOperand 0
  .ok e

/-- The table whose header lies at this physical address has a ROUST in progress (R350, R365). -/
def State.tableBusy (s : State) (pa : Nat) : Bool :=
  s.dies.toList.any fun d => match d.roust with
    | some (n, ord) => if h : n < 128 then ((s.core ⟨n, h⟩).sq.find? fun c => c.ord == ord).any fun c => c.dst == pa else false
    | none => false

/-- The pages of a KV-indirect box, those of its token range that lie in the map and the table (R351). -/
def TMap.kvPages (m : TMap) (npage : Nat) : List Nat :=
  ((List.range (m.win.getD 1 0)).filterMap fun i =>
    let t := m.raw 1 i
    if 0 ≤ t ∧ t < m.size.getD 1 0 ∧ t.toNat / 64 < npage then some (t.toNat / 64) else none).eraseDups

/-- The parts that a KV-indirect box touches. -/
def TMap.kvParts (m : TMap) : List Nat :=
  (List.range (m.win.getD 3 0)).filterMap fun i =>
    let p := m.raw 3 i
    if 0 ≤ p ∧ p < m.size.getD 3 0 then some p.toNat else none

/-- Without EXPAND, the part formats of a touched entry are those of the map, of 8 or 16 bits (R352). -/
def TMap.kvPlainBad (m : TMap) (e : Word) : Bool :=
  !m.expand && m.kvParts.any fun p =>
    partFmt (entFmt e) p != m.fmt || !(m.fmt.width == 8 || m.fmt.width == 16)

/-- The table headers on which a KV command acts next. -/
def State.kvTables (s : State) (c : Cmd) : List Nat :=
  match c.op with
  | .kvappend .. => [s.pinned c (fieldAt c.blk (16 * c.pos) 8)]
  | .kvref .. => [s.pinned c (fieldAt c.blk 0 8), s.pinned c (fieldAt c.blk 8 8)]
  | .kvfree .. | .kvsetRep .. | .kvsetMass .. | .roust .. => [s.pinned c (fieldAt c.blk 0 8)]
  | _ => []

/-- A KV command that waits, as it stands in its store queue. -/
def State.kvWaiting (s : State) (e : Nat × Nat) : Option Cmd :=
  if h : e.1 < 128 then (s.core ⟨e.1, h⟩).sq.find? fun c => c.ord == e.2 else none

/-- A KV-indirect copy may not act on a table yet: a ROUST is in progress there, or a KV command that arrived before waits for it
(R350). -/
def State.tableHeld (s : State) (pa : Nat) : Bool :=
  s.tableBusy pa || s.kvWaits.any fun e => (s.kvWaiting e).any fun d => (s.kvTables d).contains pa

/-- The header and the pool that a KV-indirect copy reads, with the pool's 64 bytes (R351). -/
def State.kvHead (s : State) (part : BitVec 16) (va : Word) (me : KvBy) : CRes (KvTable × Pool × List Byte) := do
  let t ← s.kvTable me part va
  let pool ← s.pool me part t.poolVa
  .ok (t, pool, ← s.kvClean me part t.poolVa 64)

/-- The entries that it reads (R351, R352). -/
def State.kvEnts (s : State) (part : BitVec 16) (m : TMap) (va : Word) (t : KvTable) (pool : Pool) (me : KvBy) :
    CRes (List (Nat × Word)) :=
  (m.kvPages t.npage).foldl (fun (r : CRes (List (Nat × Word))) p => do
    let l ← r
    let e ← s.kvUse me part pool va p
    endIf (entSt e != 0 && m.kvPlainBad e) cKvFormat (entryVa va p)
    .ok (l ++ [(p, e)])) (.ok [])

/-- The holds that it takes (R353), each with the place of its count; a count in a poisoned unit is consumed (R355). The slots, and what
the release of a hold may write, are touched with them. -/
def State.kvHolds (s : State) (part : BitVec 16) (store : Bool) (t : KvTable) (pool : Pool) (slots : List Nat) (me : KvBy) :
    CRes (State × List (Nat × Nat × Nat)) := do
  let _ ← slots.mapM fun i => do
    let pa ← s.vAddr me part (pool.slotVa i) (!store) store
    endIf (!s.isDram pa) cIllegalOperand 0
  let _ ← s.kvAddr me part t.poolVa true
  let _ ← if slots.isEmpty then pure 0 else s.kvAddr me part (BitVec.ofNat 64 (pool.freeva + 8 * pool.free)) true
  slots.foldl (fun (r : CRes (State × List (Nat × Nat × Nat))) i => do
    let (u, l) ← r
    let u ← u.addRef me part pool i
    .ok (u, l ++ [(t.poolVa.toNat, i, ← s.kvAddr me part (pool.descVa i) true)])) (.ok (s, []))

/-- Step 5 of a KV-indirect submission: the header, the pool and the entries are read as one step, checked, and a hold is
taken on each touched slot (R351 to R353). -/
def submitKv (s : State) (store : Bool) (c : Cmd) (tl : Option (BitVec 3)) (m : TMap) : Res State := do
  submitGate s
  placeGate s store
  let me : KvBy := { c.by s.cur.core with since := some s.cur.since }
  let part := c.part
  let va := BitVec.ofNat 64 m.base
  let head ← translatePages s (pageList [m.base]) true false
  let pa := (head.map fun x => canon s.pkgnum.toNat (x.2.frame + m.base % pageSize)).headD 0
  holdIf (s.tableHeld pa) .queueFull
  trapIf (m.base % 64 != 0) cIllegalOperand 0
  let ((t, pool, pb), l) ← s.kvLook me part (s.kvHead part va) (fun e => kvTrap s (.error e)) lookLimit []
  match firstFault (m.kvFaults pool) with
  | some o => .error (.trap cIllegalOperand (BitVec.ofNat 64 o))
  | none => pure ()
  let (ents, l) ← s.kvLook me part (s.kvEnts part m va t pool) (fun e => kvTrap s (.error e)) lookLimit l
  let ents := ents.filter fun e => entSt e.2 != 0
  trapIf (m.edgeOf 1 == 0 && (List.range m.count).any fun e =>
    match m.coords e with | some cs => (kvHeld ents cs).isNone | none => true) cExtentViolation 1
  let slots := (ents.map fun e => entSlot e.2).eraseDups
  let ((s', holds), l) ← s.kvLook me part (s.kvHolds part store t pool slots) (fun e => kvTrap s (.error e)) lookLimit l
  acceptKv s' store { c with ents := ents, pool := pb, holds := holds } tl l

/-- COPY at issue (R278, R285 to R289). -/
def effCopy (dir : Dir) (xt xm xs : BitVec 4) (t : Tags) (i : Instr) (s : State) : Res State := do
  let vm ← useX s xm
  let vs ← useX s xs
  let vt ← useX s xt
  localReg vm
  alignedTo vm 16
  trapIf (decide (vm.toNat + 112 > 0x800000)) cExtentViolation vm
  let b ← blockAt s vm 16 112
  -- origins of dimensions at or above DIMS are not read (R285)
  let o ← blockPart s vs 4 28 (4 * min 7 (fieldAt b 8 1))
  let m := tmapOf b o
  let st := dir == .st
  match firstFault (m.faults b st) with
  | some o => .error (.trap cIllegalOperand (BitVec.ofNat 64 o))
  | none => pure ()
  match m.trapDim with
  | some d => .error (.trap cExtentViolation (BitVec.ofNat 64 d))
  | none => pure ()
  localReg vt
  alignedTo vt (if m.swz == 0 then 16 else 4096)
  rangeOk s (!st) vt m.bytes
  let c : Cmd := { s.command i t.ts t.scope vm vs vt with blk := b, blk2 := o, total := m.units }
  if m.kvind then submitKv s st c t.tl m
  else submitVas s st c t.tl m.vas (!st) st

/-- COPY (R289). -/
def execCopy (dir : Dir) (xt xm xs : BitVec 4) (t : Tags) (s : State) : Answer :=
  finish s (effCopy dir xt xm xs t (.copy dir xt xm xs t) s)

/-- A tagged source keeps its permutation only at the same place in a tile: the addresses differ modulo 4,096 (R290). -/
def Core.tagMoves (c : Core) (a n : Nat) (src dst : Nat) : Bool :=
  (tilesOf a n).any (fun x => c.tag x != 0) && src % 4096 != dst % 4096

/-- COPYR at issue (R283, R290). A source in a carousel slot that is not ready has its tags looked at when the command begins. -/
def effCopyr (xs xm xt : BitVec 4) (t : Tags) (s : State) : Res State := do
  let vm ← useX s xm
  let loc ← useX s xs
  let n ← useX s xt
  localReg vm
  badWord s (!locatorOk loc)
  alignedTo vm 16
  trapIf ((locator loc).loc % 16 != 0) cAlignment loc
  alignedTo n 16
  badWord s (decide (n.toNat > 0x800000))
  rangeOk s false vm n.toNat
  let c := s.command (.copyr xs xm xt t) t.ts t.scope vm loc n
  if n == 0 then submitLocal s true { c with total := 0 } t.tl
  else
    match s.cjob.place vm.toNat n.toNat with
    | .at l => trapIf (s.here.tagMoves l.addr n.toNat vm.toNat (locator loc).loc) cAlignment vm
    | _ => pure ()
    submitLocal s true { c with total := n.toNat / 16 } t.tl

/-- COPYR (R290). -/
def execCopyr (xs xm xt : BitVec 4) (t : Tags) (s : State) : Answer := finish s (effCopyr xs xm xt t s)

/-- QFILL at issue (R291). -/
def effQfill (tgt : Strm) (k : BitVec 2) (xm xt : BitVec 4) (t : Tags) (s : State) : Res State := do
  let vm ← useX s xm
  let n ← useX s xt
  badWord s (n == 0 || decide (n.toNat > 4096))
  badWord s (!s.cjob.inMask tgt)
  localReg vm
  alignedTo vm (if tgt == Strm.v then 16 else 8)
  rangeOk s false vm (n.toNat * if tgt == Strm.v then 2048 else 8)
  submitLocal s false { s.command (.qfill tgt k xm xt t) t.ts t.scope vm 0 n with total := n.toNat } t.tl

/-- QFILL (R291). -/
def execQfill (tgt : Strm) (k : BitVec 2) (xm xt : BitVec 4) (t : Tags) (s : State) : Answer :=
  finish s (effQfill tgt k xm xt t s)

-- Turnstile and timeline words.

/-- The declared carousel that a turnstile belongs to (R292). -/
def Job.carouselOf (j : Job) (k : Nat) : Option Nat :=
  j.car.toList.findIdx? fun c => c.decl && decide (c.firstts ≤ k) && decide (k < c.firstts + c.count)

/-- TSINIT (R292): at the end of its cycle, after that cycle's posts and arrivals. -/
def execTsinit (ts : BitVec 6) (s : State) : Answer :=
  finish s (do
    match s.cjob.carouselOf ts.toNat with
    | some c => .error (.trap cCarouselFault (BitVec.ofNat 64 c))
    | none => .ok (s.updJob fun j => j.modTs ts fun t => { t with init := true }))

/-- TSPOST (R293). -/
def execTspost (ts : BitVec 6) (xs : BitVec 4) (s : State) : Answer :=
  finish s (do
    let n ← useX s xs
    badWord s (decide (n.toNat ≥ p2 39))
    .ok (s.updJob fun j => j.modTs ts fun t => t.addPost n.toNat))

/-- TSARRIVE (R294). -/
def execTsarrive (xm xs : BitVec 4) (tl : Option (BitVec 3)) (scope : Scope) (s : State) : Answer :=
  finish s (do
    let name ← useX s xm
    let n ← useX s xs
    badWord s (!locatorOk name)
    badWord s (decide (n.toNat ≥ p2 39) || (locTs (locator name).loc).isNone)
    let s ← performed (fun _ => true) s
    submitLocal s true { s.command (.tsarrive xm xs tl scope) none scope name n 0 with total := 1 } tl)

/-- TSQUERY (R295). -/
def execTsquery (xt : BitVec 4) (ts : BitVec 6) (s : State) : Answer :=
  finish s (
    let t := s.cjob.ts[ts.toFin]
    .ok (wrX s xt (XVal.clean (t.image &&& 0xFFFFFFFFFFF ||| BitVec.setWidth 64 t.cause <<< 44)) 1))

/-- TLQUERY (R295): the timeline at the start of the issue cycle. -/
def execTlquery (xt : BitVec 4) (tl : BitVec 3) (f : BitVec 2) (s : State) : Answer :=
  finish s (
    let t := s.cjob.tl0[tl.toFin]
    let v := match f.toNat with | 0 => t.done | 1 => t.issued | _ => t.failnum
    .ok (wrX s xt (XVal.clean (BitVec.ofNat 64 v)) 1))

-- Carousel words.

/-- The fields of a declaration block (R296; 05 R108). -/
def carouselOf (b : List Byte) : Carousel :=
  let w : Word := BitVec.ofNat 64 (fieldAt b 0 8)
  { Carousel.zero with
    decl := true, autoarm := w.getLsbD 42, firstts := (w >>> 36 &&& 63).toNat, count := (w >>> 32 &&& 15).toNat,
    lslot := (w >>> 24 &&& 7).toNat, base := (w &&& 0xFFFFFF).toNat }

/-- Reserved bits of a declaration block (R296). -/
def declReserved (b : List Byte) : Bool :=
  let w : Word := BitVec.ofNat 64 (fieldAt b 0 8)
  w >>> 43 != 0 || w >>> 27 &&& 0x1F != 0 || decide (fieldAt b 8 8 ≥ 4)

/-- Ranges a to a + n − 1 and b to b + m − 1 meet. -/
def meets (a n b m : Nat) : Bool := decide (a < b + m) && decide (b < a + n)

/-- The cases of R109 in which a declaration of carousel k is refused. -/
def Job.declBad (j : Job) (k : Nat) (c : Carousel) : Bool :=
  let old := j.car.toList.getD k Carousel.zero
  let poisoned := old.slots.toList.any (· == .poisoned)
  decide (c.lslot > 6) || decide (c.count < 2) || decide (c.count > 8) || c.base % c.slotSize != 0 ||
    !inGroup c.base (c.count * c.slotSize) || decide (c.firstts + c.count > 64) ||
    ((List.range 4).any fun i =>
      let o := j.car.toList.getD i Carousel.zero
      i != k && o.decl && (meets c.base (c.count * c.slotSize) o.base (o.count * o.slotSize) ||
        meets c.firstts c.count o.firstts o.count)) ||
    (old.decl && !poisoned && (old.level != 0 || old.slots.toList.any (· == .complete)))

/-- A command of some core has resolved a destination into carousel k of core n's running job, or will (R296): at its own core a
command fills the carousels of its own job. -/
def State.carouselInUse (s : State) (n : CoreIx) (k : Nat) : Bool :=
  (List.finRange 128).any fun m =>
    (((s.core m).lq ++ (s.core m).sq).filter fun c => m != n || (s.job n).is c.seq c.iter).any fun c =>
      (m == n && (match c.slot with | some (car, _) => car == k | none => false)) ||
      (c.rslots.any fun r => r.1 == n.val && r.2.1 == k) ||
      (!c.begun &&
        ((m == n && (c.target.bind fun t => producerSide t.1).any fun p => p.1 == k) ||
         (s.sendsTo m c).any fun d => d.1 == s.pkgnum.toNat && d.2.1 == n && (producerSide d.2.2.1).any fun p => p.1 == k))

/-- The job after a valid declaration of carousel k (R109): as the cycle ends its turnstiles become IDLE with their phases kept,
and with AUTOARM each is posted the slot size. DESIGN CHOICE (log entry 71): whatever else is posted to them or arrives on them in
that cycle counts on the turnstiles as declared. -/
def Job.declare (j : Job) (k : BitVec 2) (c : Carousel) : Job :=
  let j := j.modCar k fun _ => c
  (List.range c.count).foldl (fun (j : Job) i =>
    j.modTs (BitVec.ofNat 6 (c.firstts + i)) fun t =>
      let t : Turnstile := { t with decl := true }
      if c.autoarm then t.addPost c.slotSize else t) j

/-- CDECL (R296). -/
def execCdecl (xm : BitVec 4) (s : State) : Answer :=
  finish s (do
    let a ← useX s xm
    let b ← blockAt s a 16 16
    let k := BitVec.ofNat 2 (fieldAt b 8 8)
    let info : Word := BitVec.setWidth 64 k
    trapIf (declReserved b) cCarouselFault info
    trapIf (s.cjob.declBad k.toNat (carouselOf b)) cCarouselFault info
    trapIf (s.carouselInUse s.cur.core k.toNat) cCarouselFault info
    .ok (s.updJob fun j => j.declare k (carouselOf b)))

/-- CREL (R297): the release waits for the reads of the slot that are outstanding as its cycle ends. -/
def execCrel (c : BitVec 2) (s : State) : Answer :=
  finish s (do
    let k := s.cjob.car[c.toFin]
    let level := min k.level (s.cjob.car0[c.toFin]).level
    trapIf (!k.decl || decide (k.rel.length + 1 > level)) cCarouselFault (BitVec.setWidth 64 c)
    let s := s.updJob fun j => j.modCar c fun k => { k with rel := k.rel ++ [none] }
    .ok s)

/-- CSTAT (R298): CPTR or CDESC at the start of the issue cycle. -/
def execCstat (xt : BitVec 4) (c : BitVec 2) (f : Bool) (s : State) : Answer :=
  finish s (
    let k := s.cjob.car0[c.toFin]
    .ok (wrX s xt (XVal.clean (if f then k.cdesc else k.cptr)) 1))

end Sys2Proof.Machine
end

