-- ==== Sys2Proof/Machine/WindowWords.lean ====
section
/-! DEFINITION. The window words and the collective words at issue (17_copy R299 to R310). -/

namespace Sys2Proof.Machine

-- Windows.

/-- The windows of a core once the WDECL commands in its store queue have taken effect. -/
def Core.winAfter (c : Core) : List WinRange :=
  (c.sq.foldl (fun (w : Vector WinRange 8) (d : Cmd) => match d.op with
    | .wdecl k .. => w.set k.toFin ⟨d.xm.toNat, d.xs.toNat⟩
    | _ => w) c.win).toList

/-- WDECL at issue (R299). -/
def execWdecl (w : BitVec 3) (xm xs : BitVec 4) (tl : Option (BitVec 3)) (scope : Scope) (s : State) : Answer :=
  finish s (do
    let a ← useX s xm
    let n ← useX s xs
    let bad (b : Bool) : Res Unit := trapIf b cExtentViolation a
    bad (a.toNat % 4096 != 0 || n.toNat % 4096 != 0 || decide (a.toNat + n.toNat > 0x800000))
    let mine := s.here.winAfter
    badWord s (n != 0 && (mine.getD w.toNat ⟨0, 0⟩).len != 0)
    bad (n != 0 && (mine.any (fun r => r.len != 0 && meets a.toNat n.toNat r.base r.len) ||
      s.here.copies.any fun c => meets a.toNat n.toNat (c.tile * 4096) 4096))
    submitLocal s true { s.command (.wdecl w xm xs tl scope) none scope a n 0 with total := 1 } tl)

/-- The tiles of a window command's local range. -/
def windowTiles (a n : Word) : List Nat := (List.range n.toNat).map (a.toNat / 4096 + ·)

/-- WGET and WOWN at issue (R276, R300): the home's locator in xm, the local address in xs. -/
def effWget (i : Instr) (xs xm xt : BitVec 4) (t : Tags) (s : State) : Res State := do
  let loc ← useX s xm
  let a ← useX s xs
  let n ← useX s xt
  localReg a
  badWord s (!locatorOk loc)
  badWord s (n == 0 || decide (n.toNat > 512))
  alignedTo a 4096
  let l := locator loc
  trapIf (l.loc % 4096 != 0) cAlignment loc
  let bad (b : Bool) : Res Unit := trapIf b cExtentViolation a
  bad (!inGroup a.toNat (n.toNat * 4096))
  let home := s.localName l && l.core == s.cur.core
  let tiles := windowTiles a n
  let other := tiles.any fun x => (s.here.copyAt x).any fun c =>
    !(s.localName l && c.home == l.core && c.homeTile == l.loc / 4096 + (x - a.toNat / 4096))
  let fresh := (tiles.filter fun x => (s.here.copyAt x).isNone).length
  bad (home || tiles.any s.here.inWindow || other || decide (s.here.copies.length + fresh > 512))
  submitLocal s false { s.command i t.ts t.scope loc a n with total := n.toNat } t.tl

/-- WGET (R300). -/
def execWget (xs xm xt : BitVec 4) (t : Tags) (s : State) : Answer :=
  finish s (effWget (.wget xs xm xt t) xs xm xt t s)

/-- WOWN (R300). -/
def execWown (xs xm xt : BitVec 4) (t : Tags) (s : State) : Answer :=
  finish s (effWget (.wown xs xm xt t) xs xm xt t s)

/-- WPUT and WDROP at issue (R301): the local range lies in G0 or in G1 (R278; 05 R84, R85); as
releases they come after what the stream has on its way (07 R121, R135). -/
def effWput (i : Instr) (xs xt : BitVec 4) (t : Tags) (s : State) : Res State := do
  let a ← useX s xs
  let n ← useX s xt
  localReg a
  badWord s (n == 0 || decide (n.toNat > 512))
  alignedTo a 4096
  trapIf (!inGroup a.toNat (n.toNat * 4096)) cExtentViolation a
  match (windowTiles a n).find? fun x => (s.here.copyAt x).isNone with
  | some x => .error (.trap cExtentViolation (BitVec.ofNat 64 (x * 4096)))
  | none => do
    let s ← performed (fun _ => true) s
    submitLocal s true { s.command i t.ts t.scope 0 a n with total := n.toNat } t.tl

/-- WPUT (R301). -/
def execWput (xs xt : BitVec 4) (t : Tags) (s : State) : Answer := finish s (effWput (.wput xs xt t) xs xt t s)

/-- WDROP (R301). -/
def execWdrop (xs xt : BitVec 4) (t : Tags) (s : State) : Answer := finish s (effWput (.wdrop xs xt t) xs xt t s)

-- Collectives.

/-- Element formats that a two-sided collective admits (R305). -/
def collAdmits (i : Instr) (ef : Nat) : Bool :=
  match i with
  | .creduce .sum _ _ _ _ => ef == 0 || ef == 1 || ef == 2 || ef == 6
  | .creduce .max _ _ _ _ => decide (ef ≤ 4) || (decide (6 ≤ ef) && decide (ef ≤ 9))
  | .creduce .merge _ _ _ _ => ef == 0
  | _ => decide (ef ≤ 12)

/-- A collective block that no word may use (R303, R304, R305, R309). -/
def State.collBad (s : State) (n : CoreIx) (i : Instr) (b : List Byte) : Bool :=
  let pkg0 := fieldAt b 0x10 2
  let npkg := fieldAt b 0x12 2
  let dv := fieldAt b 0x16 2
  let root := fieldAt b 0x18 4
  let members := (maskCores (cmaskOf b)).length * npkg
  decide (pkg0 ≥ 2048) || npkg == 0 || decide (npkg > 2048) || decide (pkg0 + npkg > 2048) || decide (chanOf b ≥ 16) ||
    fieldAt b 0x1C 4 != 0 || fieldAt b 0x28 24 != 0 ||
    (match i with
     | .creduce .merge _ _ _ _ => dv == 0 || decide (dv > 256)
     | _ => dv != 0) ||
    (match i with | .cbcast .. => false | _ => root != 0) || decide (members < 2) || (s.rankIn b n).isNone ||
    decide (root ≥ members) || !collAdmits i (fieldAt b 0x15 1) ||
    (match i with
     | .cring .. => decide (countOf b > 0x100000) || decide (chanOf b ≥ 14)
     | .cmcast .. => decide (countOf b > 0x800000)
     | _ => false)

/-- An address at another member, against the regions that do not depend on that member's carousels (R307, R308). -/
def farRange (a : Word) (len : Nat) : Res Unit :=
  if len == 0 || (decide (0x800000 ≤ a.toNat) && decide (a.toNat < 0xC00000)) then .ok ()
  else trapIf (!inGroup a.toNat len) cExtentViolation a

/-- A collective word at issue (R303, R304, R307 to R309). -/
def effColl (i : Instr) (xt xs xm : BitVec 4) (t : Tags) (s : State) : Res State := do
  let vm ← useX s xm
  let vs ← useX s xs
  let vt ← useX s xt
  localReg vm
  localReg vs
  localReg vt
  let b ← blockAt s vm 64 64
  badWord s (s.collBad s.cur.core i b)
  trapIf (decide (chanOf b ≥ 14) && s.cjob.nest.prio != 7) cPrivilege s.raw
  alignedTo vs 16
  alignedTo vt 16
  let unit := match i with | .cring .. => 512 | _ => 128
  trapIf (memberBits i b % unit != 0) cAlignment vs
  rangeOk s false vs (memberBytes i b)
  if twoSided i then rangeOk s true vt (resultBytes i b) else farRange vt (countOf b)
  let chan := chanOf b % 16
  let two := twoSided i
  let c : Cmd := { s.command i t.ts t.scope vm vs vt with
    blk := b, total := resultBytes i b / 16, inst := s.cjob.channels.toList.getD chan 0 }
  let s ← submitLocal s true c t.tl
  if two then .ok (s.updJob fun j => { j with channels := j.channels.set! chan (c.inst + 1) }) else .ok s

/-- CREDUCE (R305, R306). -/
def execCreduce (fn : CredFn) (xt xs xm : BitVec 4) (t : Tags) (s : State) : Answer :=
  finish s (effColl (.creduce fn xt xs xm t) xt xs xm t s)

/-- CGATHER (R305). -/
def execCgather (xt xs xm : BitVec 4) (t : Tags) (s : State) : Answer :=
  finish s (effColl (.cgather xt xs xm t) xt xs xm t s)

/-- CBCAST (R305). -/
def execCbcast (xt xs xm : BitVec 4) (t : Tags) (s : State) : Answer :=
  finish s (effColl (.cbcast xt xs xm t) xt xs xm t s)

/-- CRING (R307). -/
def execCring (xt xs xm : BitVec 4) (t : Tags) (s : State) : Answer :=
  finish s (effColl (.cring xt xs xm t) xt xs xm t s)

/-- CMCAST (R308). -/
def execCmcast (xt xs xm : BitVec 4) (t : Tags) (s : State) : Answer :=
  finish s (effColl (.cmcast xt xs xm t) xt xs xm t s)

end Sys2Proof.Machine
end

