-- ==== Sys2Proof/Machine/KvSteps.lean ====
section
/-! DEFINITION. What KV commands and the Roustabout do on block tables, page descriptors and pools (21_kv_cache R342 to
R350, R356 to R366, R370; 09 R176). Each step gives the state after it or the cause with which the command ends, nothing
of that step changed. -/

namespace Sys2Proof.Machine

/-- A block-table entry from its fields (R344). -/
def mkEntry (st fmt valid : Nat) (shr : Bool) (slot : Nat) : Word :=
  BitVec.ofNat 64 (st * p2 62 + fmt * p2 58 + valid * p2 52 + (if shr then p2 51 else 0) + slot)

/-- SHR (R344). -/
def entShr (e : Word) : Bool := e.getLsbD 51

/-- Entry p of a table written. -/
def State.kvSetEntry (s : State) (me : KvBy) (part : BitVec 16) (va : Word) (p : Nat) (e : Word) : CRes State :=
  s.kvWrite me part (entryVa va p) (leBytes 8 e.toNat)

/-- NPAGE, NTOK and NEXTPOS of a header written. -/
def State.kvSetHeader (s : State) (me : KvBy) (part : BitVec 16) (t : KvTable) : CRes State := do
  let s ← s.kvWrite me part (t.va + 12) (leBytes 4 t.npage)
  s.kvWrite me part (t.va + 16) (leBytes 8 t.ntok ++ leBytes 8 t.nextpos)

/-- One reference less by a command: a poisoned count ends it (R349, R355). -/
def State.unref (s : State) (me : KvBy) (part : BitVec 16) (p : Pool) (i : Nat) : CRes State := do
  let _ ← s.refs me part p i
  s.dropRef me part p i

/-- FLAGS of a page descriptor (R345). -/
def State.kvFlags (s : State) (me : KvBy) (part : BitVec 16) (p : Pool) (i : Nat) : CRes Nat :=
  s.kvNat me part (p.descVa i + 4) 4

/-- 32-bit words as bytes. -/
def words4 (l : List Nat) : List Byte := l.flatMap (leBytes 4)

-- KVAPPEND (R358).

/-- What became of an entry of a sequence list: served, or refused, with the table full or the pool empty. -/
inductive Append where
  | served (s : State)
  | refused (full : Bool)

/-- k tokens put after the last of entry e of the page p (R358). -/
def State.kvExtend (s : State) (me : KvBy) (part : BitVec 16) (pool : Pool) (t : KvTable) (e : Word) (k : Nat) :
    CRes State := do
  let d := pool.descVa (entSlot e)
  let v := entValid e
  let s ← s.kvWrite me part (d + BitVec.ofNat 64 (0x140 + 4 * (v + 1))) (words4 ((List.range k).map fun i => t.nextpos + i))
  let s ← s.kvWrite me part (d + BitVec.ofNat 64 (0x40 + 4 * (v + 1))) (words4 (List.replicate k 0))
  let st := if entSt e == 1 && t.nextpos != 64 * (t.npage - 1) + v + 1 then 2 else entSt e
  s.kvSetEntry me part t.va (t.npage - 1) (mkEntry st (entFmt e) (v + k) (entShr e) (entSlot e))

/-- A popped slot as a new last page of `cnt` tokens from position `pos` (R346, R358). -/
def State.kvNewPage (s : State) (me : KvBy) (part : BitVec 16) (pool : Pool) (t : KvTable) (f cnt pos : Nat) :
    CRes State := do
  let (i, s) ← s.popSlot me part pool
  let fl ← s.kvFlags me part pool i
  let d := pool.descVa i
  let s ← s.kvWrite me part d
    (leBytes 4 1 ++ leBytes 4 ((fl / p2 16 + 1) % p2 16 * p2 16 + f) ++ leBytes 8 t.owner)
  let s ← s.kvWrite me part (d + 0x40) (words4 (List.replicate 64 0))
  let s ← s.kvWrite me part (d + 0x140) (words4 ((List.range 64).map fun k => if k < cnt then pos + k else 0))
  s.kvSetEntry me part t.va t.npage (mkEntry (if pos == 64 * t.npage then 1 else 2) f (cnt - 1) false i)

/-- One entry of a sequence list (R358): a tokens of format f. -/
def State.kvAppend (s : State) (me : KvBy) (part : BitVec 16) (va : Word) (a f : Nat) : CRes Append := do
  let t ← s.kvTable me part va
  let pool ← s.pool me part t.poolVa
  let last ← if t.npage == 0 then pure 0 else s.kvUse me part pool va (t.npage - 1)
  let one ← if t.npage != 0 && entSt last != 0 && entFmt last == f then s.refs me part pool (entSlot last) else pure 0
  let room := if one == 1 then 63 - entValid last else 0
  let need := decide (a > room)
  if need && t.npage == t.cap then .ok (.refused true)
  else if need && pool.free == 0 then .ok (.refused false)
  else
    let k := min a room
    let s ← if k == 0 then pure s else s.kvExtend me part pool t last k
    let s ← if need then s.kvNewPage me part pool t f (a - k) (t.nextpos + k) else pure s
    let s ← s.kvSetHeader me part
      { t with npage := if need then t.npage + 1 else t.npage, ntok := t.ntok + a, nextpos := t.nextpos + a }
    .ok (.served s)

-- KVREF and KVFREE (R360, R361).

/-- FIRST and COUNT of a KV block (R356). -/
def kvRange (b : List Byte) : Nat × Nat := (fieldAt b 0x10 4, fieldAt b 0x14 4)

/-- Valid tokens of an entry. -/
def entTokens (e : Word) : Nat := if entSt e == 0 then 0 else entValid e + 1

/-- KVREF (R360). -/
def State.kvRef (s : State) (me : KvBy) (part : BitVec 16) (b : List Byte) : CRes State := do
  let src := BitVec.ofNat 64 (fieldAt b 8 8)
  let dst := BitVec.ofNat 64 (fieldAt b 0 8)
  let (first, count) := kvRange b
  let ts ← s.kvTable me part src
  let tt ← s.kvTable me part dst
  let pool ← s.pool me part ts.poolVa
  endIf (decide (first + count > ts.npage) || decide (tt.npage + count > tt.cap)) cExtentViolation dst
  let (s, sum) ← (List.range count).foldl (fun (r : CRes (State × Nat)) i => do
    let (s, sum) ← r
    let e ← s.kvUse me part pool src (first + i)
    if entSt e == 0 then
      let s ← s.kvSetEntry me part dst (tt.npage + i) e
      .ok (s, sum)
    else
      let s ← s.addRef me part pool (entSlot e)
      let e := e ||| BitVec.twoPow 64 51
      let s ← s.kvSetEntry me part src (first + i) e
      let s ← s.kvSetEntry me part dst (tt.npage + i) e
      .ok (s, sum + entTokens e)) (.ok (s, 0))
  s.kvSetHeader me part
    { tt with npage := tt.npage + count, ntok := tt.ntok + sum, nextpos := max tt.nextpos ts.nextpos }

/-- NPAGE once entries have been freed: one more than the highest valid entry (R361). -/
def State.kvHighest (s : State) (me : KvBy) (part : BitVec 16) (va : Word) : Nat → CRes Nat
  | 0 => .ok 0
  | k + 1 => do
    let e ← s.kvEntry me part va k
    if entSt e != 0 then .ok (k + 1) else s.kvHighest me part va k

/-- KVFREE (R361). -/
def State.kvFree (s : State) (me : KvBy) (part : BitVec 16) (b : List Byte) : CRes State := do
  let va := BitVec.ofNat 64 (fieldAt b 0 8)
  let (first, count) := kvRange b
  let t ← s.kvTable me part va
  let pool ← s.pool me part t.poolVa
  endIf (decide (first + count > t.npage)) cExtentViolation va
  let (s, sum) ← (List.range count).foldl (fun (r : CRes (State × Nat)) i => do
    let (s, sum) ← r
    let e ← s.kvUse me part pool va (first + i)
    if entSt e == 0 then .ok (s, sum)
    else
      let s ← s.unref me part pool (entSlot e)
      let s ← s.kvSetEntry me part va (first + i) 0
      .ok (s, sum + entTokens e)) (.ok (s, 0))
  let npage ← s.kvHighest me part va t.npage
  s.kvSetHeader me part { t with npage := npage, ntok := t.ntok - sum }

-- KVSET (R362, R363).

/-- The local range of KVSET: image or descriptor copies of every page (R362, R363). -/
def kvsetLen (i : Instr) (pool : Pool) (count : Nat) : Nat :=
  match i with | .kvsetRep .. => count * p2 pool.lslot | _ => count * 1024

/-- What became of one page of KVSET: replaced or added, left, or the command stops there. -/
inductive KvPage where
  | acted (s : State)
  | skip
  | stop

/-- The masses of a page descriptor as a KVSET rep carries them over: without what has been added to them since it began (R362). -/
def State.kvCarried (s : State) (me : KvBy) (pa : Nat) (old : List Byte) : List Byte :=
  (List.range 64).flatMap fun i => match alGet (s.live me).words (pa + 0x40 + 4 * i) with
    | some w => w.map Prod.fst
    | none => (old.drop (0x40 + 4 * i)).take 4

/-- KVSET rep on page k of its range, whose image lies at `base` (R362). -/
def State.kvReplace (s : State) (me : KvBy) (part : BitVec 16) (c : Cmd) (base k : Nat) : CRes KvPage := do
  let va := BitVec.ofNat 64 (fieldAt c.blk 0 8)
  let p := (kvRange c.blk).1 + k
  let t ← s.kvTable me part va
  let pool ← s.pool me part t.poolVa
  let e ← s.kvUse me part pool va p
  if entSt e == 0 then .ok .skip
  else if pool.free == 0 then .ok .stop
  else
    let old ← s.kvClean me part (pool.descVa (entSlot e)) 1024
    let masses := s.kvCarried me (← s.kvAddr me part (pool.descVa (entSlot e)) false) old
    let tag := fieldAt c.blk 0x18 4
    let (i, s) ← s.popSlot me part pool
    let img := (s.cmdView me.core c).cellsAt (base + k * p2 pool.lslot) (p2 pool.lslot)
    let pa ← s.kvAddr me part (pool.slotVa i) true
    let s := (s.touch me part (pool.slotVa i)).markPage me part (pool.slotVa i)
    let s ← s.engineWrite part ((List.range img.length).zip img |>.map fun x => (pa + x.1, x.2))
    let fl := fieldAt old 4 4
    let s ← s.kvWrite me part (pool.descVa i)
      (leBytes 4 1 ++ leBytes 4 (fl / 16 * 16 + tag) ++ (old.drop 8).take 0x38 ++ masses ++ old.drop 0x140)
    let s ← s.kvSetEntry me part va p (mkEntry (entSt e) tag (entValid e) (entShr e) i)
    let s ← s.unref me part pool (entSlot e)
    .ok (.acted s)

/-- One word of KVSET mass added to the live word, an FP32 add at the word's home (R363; 09 R175, R176): a poisoned word of the
copy passes its poison on, a poisoned word at the home stays so (23 R378). A KVSET rep that has begun goes on with the word as it
stood (R362). -/
def State.kvAddWord (s : State) (me : KvBy) (part : BitVec 16) (pa at_ : Nat) : CRes State :=
  let cells := (s.cmdView me.core me.cmd).cellsAt at_ 4
  let old := s.homeBytes pa 4
  let new := add32 (leNat old) (leNat (cells.map Prod.fst))
  let po := cells.findSome? Prod.snd
  (s.modReps fun l => if (alGet l pa).isSome then l else l ++ [(pa, old.map fun x => (x, none))]).engineWrite part
    ((leBytes 4 new).zipIdx.map fun x => (pa + x.2, x.1, if po.isSome then po else s.homePo pa 4))

/-- KVSET mass on page k of its range, whose descriptor copy lies at `base` + 1,024k (R363): nothing for a page whose generation
has passed. -/
def State.kvAddMass (s : State) (me : KvBy) (part : BitVec 16) (b : List Byte) (base k : Nat) : CRes (Option State) := do
  let va := BitVec.ofNat 64 (fieldAt b 0 8)
  let t ← s.kvTable me part va
  let pool ← s.pool me part t.poolVa
  let e ← s.kvUse me part pool va ((kvRange b).1 + k)
  if entSt e == 0 then .ok none
  else
    let fl ← s.kvFlags me part pool (entSlot e)
    let at_ := base + 1024 * k
    let dva := pool.descVa (entSlot e) + 0x40
    let pa ← s.kvAddr me part dva true
    if fl / p2 16 != leNat ((s.cmdView me.core me.cmd).spad.read (at_ + 6) 2) then .ok none
    else
      let s := (s.touch me part dva).markPage me part dva
      let s ← (List.range 64).foldl (fun (r : CRes State) i => do
        let s ← r
        s.kvAddWord me part (pa + 4 * i) (at_ + 0x40 + 4 * i)) (.ok s)
      .ok (some s)

/-- KVSET mass (R350, R363): its one step on the table, with the pages whose words were added. -/
def State.kvAddMasses (s : State) (me : KvBy) (part : BitVec 16) (b : List Byte) (base : Nat) : CRes (State × Nat) :=
  (List.range (kvRange b).2).foldl (fun (r : CRes (State × Nat)) k => do
    let (s, cnt) ← r
    match ← s.kvAddMass me part b base k with
    | some t => .ok (t, cnt + 1)
    | none => .ok (s, cnt)) (.ok (s, 0))

-- ROUST (R364 to R366).

/-- A held token: its position, page, index and mass (R365). -/
abbrev Token := Nat × Nat × Nat × Nat

/-- What a ROUST reads when it begins: valid entries, tokens, reference counts (R365, R370). -/
def State.roustRead (s : State) (me : KvBy) (part : BitVec 16) (va : Word) :
    CRes (List (Nat × Word) × List Token × List (Nat × Nat)) := do
  let t ← s.kvTable me part va
  let pool ← s.pool me part t.poolVa
  (List.range t.npage).foldl (fun (r : CRes (List (Nat × Word) × List Token × List (Nat × Nat))) p => do
    let (es, ts, rs) ← r
    let e ← s.kvUse me part pool va p
    if entSt e == 0 then .ok (es, ts, rs)
    else
      let d := pool.descVa (entSlot e)
      let rc ← s.refs me part pool (entSlot e)
      let mass ← s.kvClean me part (d + 0x40) 256
      let remap ← s.kvClean me part (d + 0x140) 256
      let mine : List Token := (List.range (entValid e + 1)).map fun j => (fieldAt remap (4 * j) 4, p, j, fieldAt mass (4 * j) 4)
      .ok (es ++ [(p, e)], ts ++ mine, rs ++ [(p, rc)])) (.ok ([], [], []))

/-- What a ROUST will touch is pinned: its table, the pool descriptor, the descriptors and slots of its entries (05 R99). -/
def State.roustPins (s : State) (me : KvBy) (part : BitVec 16) (va : Word) (ents : List (Nat × Word)) : State :=
  match (do
    let t ← s.kvTable me part va
    let pool ← s.pool me part t.poolVa
    .ok (t, pool) : CRes (KvTable × Pool)) with
  | .error _ => s
  | .ok (t, pool) =>
    let s := (s.touchRun me part va.toNat (0x40 + 8 * t.npage)).touch me part t.poolVa
    ents.foldl (fun (s : State) e =>
      (s.touch me part (pool.descVa (entSlot e.2))).touch me part (pool.slotVa (entSlot e.2))) s

/-- The order of R365: mass descending, NaN below every number, −0 equal to +0, ties to the lower position. -/
def tokenBefore (a b : Token) : Bool :=
  let x := fvOf .fp32 a.2.2.2
  let y := fvOf .fp32 b.2.2.2
  if fvIsNan x && fvIsNan y then decide (a.1 ≤ b.1)
  else if fvIsNan x then false
  else if fvIsNan y then true
  else if fvLt y x then true
  else if fvLt x y then false
  else decide (a.1 ≤ b.1)

/-- The output list (R365): every protected token and the first of the rest, by position. -/
def keptTokens (b : List Byte) (nextpos : Nat) (ts : List Token) : List Token :=
  let budget := fieldAt b 8 4
  let recent := fieldAt b 0x0C 4
  let sink := fieldAt b 0x10 2
  let prot (t : Token) : Bool := decide (t.1 < sink) || decide (t.1 + recent ≥ nextpos)
  let p := ts.filter prot
  let rest := (ts.filter fun t => !prot t).insertionSort fun x y => tokenBefore x y = true
  (p ++ rest.take (budget - p.length)).insertionSort fun x y => x.1 ≤ y.1

/-- How an output page is placed (R366). -/
inductive Placing where
  | keep
  | inPlace
  | fresh
deriving DecidableEq, Repr

/-- The placement of output page k from the entries and counts read at the begin (R366, R370). -/
def placing (ents : List (Nat × Word)) (refs : List (Nat × Nat)) (k : Nat) (page : List Token) : Placing :=
  match alGet ents k with
  | none => .fresh
  | some e =>
    if (page.map fun t => (t.2.1, t.2.2.1)) == (List.range (entValid e + 1)).map fun j => (k, j) then .keep
    else if (alGet refs k).getD 0 == 1 then .inPlace else .fresh

/-- Slot ranges that hold token j: the rows of both parts and every head, and the MXFP4 scales of the token (R348). -/
def tokenSpans (pool : Pool) (tag j : Nat) : List (Nat × Nat) :=
  (List.range 2).flatMap fun part =>
    let f := partFmt tag part
    let n := f.width * pool.d / 8
    (List.range pool.heads).flatMap fun h =>
      let b := kvBlock pool.heads pool.d part h
      (b + n * j, n) :: (if f == .e2m1 then [(b + 32 * pool.d + pool.d / 32 * j, pool.d / 32)] else [])

/-- Bytes at their homes, each with the poison of its unit as it is carried. -/
def State.homeCells (s : State) (me : KvBy) (va : Word) (pa len : Nat) : List (Byte × Option PoU) :=
  (List.range len).map fun i =>
    let r := s.engineRead (dieOf me.core) me.sees (pa + i) 1
    (r.1.headD 0, r.2.map fun p => .carried (p.origin (va + BitVec.ofNat 64 i)))

/-- One rewritten output page: its rows, its descriptor and its entry (R366). -/
def State.roustPage (s : State) (src : State) (me : KvBy) (part : BitVec 16) (pool : Pool) (va : Word) (owner tag k : Nat)
    (ents : List (Nat × Word)) (slot : Nat) (gen : Nat) (page : List Token) (decay : Nat → Nat)
    (massOf : Token → Nat) : CRes State := do
  let dst ← s.kvAddr me part (pool.slotVa slot) true
  let moved ← ((List.range page.length).zip page).foldl (fun (r : CRes (List (Nat × Byte × Option PoU))) x => do
    let l ← r
    let e := (alGet ents x.2.2.1).getD 0
    let sva := pool.slotVa (entSlot e)
    let spa ← src.kvAddr me part sva false
    let bs := ((tokenSpans pool tag x.2.2.2.1).zip (tokenSpans pool tag x.1)).flatMap fun sp =>
      let cells := src.homeCells me (sva + BitVec.ofNat 64 sp.1.1) (spa + sp.1.1) sp.1.2
      (List.range cells.length).zip cells |>.map fun c => (dst + sp.2.1 + c.1, c.2)
    .ok (l ++ bs)) (.ok [])
  let s := (s.touch me part (pool.slotVa slot)).markPage me part (pool.slotVa slot)
  let s ← s.engineWrite part moved
  let d := pool.descVa slot
  let s ← s.kvWrite me part d (leBytes 4 1 ++ leBytes 4 ((gen + 1) % p2 16 * p2 16 + tag) ++ leBytes 8 owner)
  let s ← s.kvWrite me part (d + 0x40) (words4 ((List.range 64).map fun i => match page[i]? with
    | some t => decay (massOf t)
    | none => 0))
  let s ← s.kvWrite me part (d + 0x140) (words4 ((List.range 64).map fun i => match page[i]? with
    | some t => t.1
    | none => 0))
  s.kvSetEntry me part va k (mkEntry 2 tag (page.length - 1) false slot)

/-- The masses that KVSET rep commands keep follow their tokens through a ROUST, which multiplies them as it does the live ones:
each pair is where a mass lies now and where it lay in `src` (R362, R366). -/
def State.carryReps (s src : State) (moves : List (Nat × Nat)) (decay : Nat → Nat) : State :=
  { s with cores := Vector.ofFn fun n =>
      { s.cores[n] with sq := (s.cores[n]).sq.map fun (c : Cmd) =>
          if c.replacing then
            let old := (((src.cores[n]).sq.find? fun d => d.ord == c.ord).map Cmd.words).getD []
            { c with words := c.words ++ moves.filterMap fun m => (alGet old m.2).map fun w =>
                (m.1, (leBytes 4 (decay (leNat (w.map Prod.fst)))).map fun x => (x, none)) }
          else c } }

/-- ROUST applied (R365, R366): the state, STATUS and KEPT. -/
def State.roustApply (s : State) (me : KvBy) (c : Cmd) : CRes (State × Nat × Nat) := do
  let part := c.part
  let va := BitVec.ofNat 64 (fieldAt c.blk 0 8)
  let t ← s.kvTable me part va
  let pool ← s.pool me part t.poolVa
  let tags := (c.ents.map fun e => entFmt e.2).eraseDups
  if decide (tags.length > 1) || tags.contains 4 then .ok (s, 2, c.toks.length)
  else
    let tag := tags.headD 0
    let out := keptTokens c.blk t.nextpos c.toks
    let pages := groupsOf 64 out
    let plan := (List.range pages.length).map fun k => placing c.ents c.refs k (pages.getD k [])
    if pool.free < (plan.filter (· == .fresh)).length then .ok (s, 1, c.toks.length)
    else
      let slotOf (k : Nat) : Nat := entSlot ((alGet c.ents k).getD 0)
      let src := s
      let masses ← (c.ents.foldl (fun (r : CRes (List (Nat × List Byte))) e => do
        let l ← r
        let b ← src.kvClean me part (pool.descVa (entSlot e.2) + 0x40) 256
        .ok (l ++ [(e.1, b)])) (.ok []))
      let massOf (x : Token) : Nat := fieldAt ((alGet masses x.2.1).getD []) (4 * x.2.2.1) 4
      let gamma := fvOf .bf16 (fieldAt c.blk 0x12 2)
      let decay (m : Nat) : Nat := roundFV .fp32 .rne false (fvMul (fvOf .fp32 m) gamma)
      let gens ← ((List.range pages.length).foldl (fun (r : CRes (List (Nat × Nat))) k => do
        let l ← r
        if (alGet c.ents k).isSome then
          let f ← src.kvFlags me part pool (slotOf k)
          .ok (l ++ [(k, f / p2 16)])
        else .ok l) (.ok []))
      -- pops, in increasing page index
      let (s, fresh) ← ((List.range pages.length).foldl (fun (r : CRes (State × List (Nat × Nat))) k => do
        let (s, l) ← r
        if plan.getD k .keep == .fresh then
          let (i, s) ← s.popSlot me part pool
          .ok (s, l ++ [(k, i)])
        else .ok (s, l)) (.ok (s, [])))
      let s ← (List.range pages.length).foldl (fun (r : CRes State) k => do
        let s ← r
        let page := pages.getD k []
        match plan.getD k .keep with
        | .keep =>
          s.kvWrite me part (pool.descVa (slotOf k) + 0x40) (words4 (page.map fun x => decay (massOf x)))
        | .inPlace =>
          s.roustPage src me part pool va t.owner tag k c.ents (slotOf k) ((alGet gens k).getD 0) page decay massOf
        | .fresh =>
          let i := (alGet fresh k).getD 0
          let f ← s.kvFlags me part pool i
          s.roustPage src me part pool va t.owner tag k c.ents i ((alGet gens k).getD (f / p2 16)) page decay massOf)
        (.ok s)
      let massAt (slot j : Nat) : CRes Nat := do
        .ok ((← src.kvAddr me part (pool.descVa slot) true) + 0x40 + 4 * j)
      let moves ← (List.range pages.length).flatMapM fun k =>
        let slot := if plan.getD k .keep == .fresh then (alGet fresh k).getD 0 else slotOf k
        ((pages.getD k []).zipIdx).mapM fun x => do .ok (← massAt slot x.2, ← massAt (slotOf x.1.2.1) x.1.2.2.1)
      let s := s.carryReps src moves decay
      -- drops, in increasing page index, after the pops
      let s ← (List.range t.npage).foldl (fun (r : CRes State) k => do
        let s ← r
        let gone := decide (pages.length ≤ k)
        let s ← if (alGet c.ents k).isSome && (gone || plan.getD k .keep == .fresh) then s.unref me part pool (slotOf k)
          else pure s
        if gone then s.kvSetEntry me part va k 0 else pure s) (.ok s)
      let s ← s.kvSetHeader me part { t with npage := pages.length, ntok := out.length }
      .ok (s, 0, out.length)

-- Steps.

/-- One step of a KV command that has begun, on the tables that it is its turn to act on (R358 to R366): the state, and the command
as far as it has come. -/
def State.kvStep (s : State) (me : KvBy) (c : Cmd) : CRes (State × Cmd) := do
  let on : Cmd := { c with pos := c.pos + 1 }
  match c.op with
  | .kvappend .. =>
    let w := fieldAt c.blk (16 * c.pos + 8) 8
    match ← s.kvAppend me c.part (BitVec.ofNat 64 (fieldAt c.blk (16 * c.pos) 8)) (w % 256) (w / 256) with
    | .served t => .ok (t, on)
    | .refused full => .ok (s, { c with total := c.pos, refused := true, full := full })
  | .kvref .. => .ok (← s.kvRef me c.part c.blk, on)
  | .kvfree .. => .ok (← s.kvFree me c.part c.blk, on)
  | .kvsetMass .. =>
    let (t, k) ← s.kvAddMasses me c.part c.blk c.dst
    .ok (t, { on with cnt := c.cnt + k })
  | .kvsetRep .. =>
    match ← s.kvReplace me c.part c c.dst c.pos with
    | .acted t => .ok (t, { on with cnt := c.cnt + 1 })
    | .skip => .ok (s, on)
    | .stop => .ok (s, { c with total := c.pos })
  | .roust .. =>
    let (t, status, kept) ← s.roustApply me c
    .ok (t, { on with cnt := kept, refused := status == 1, full := status == 2 })
  | _ => .ok (s, on)

/-- What a KV command reads of its tables as it begins: the pool of a KVSET, whose range of pages lies in the table (R362, R363), the
tokens of a ROUST (R365). -/
def State.kvOpen (s : State) (me : KvBy) (c : Cmd) : CRes (Cmd × Nat) := do
  let va := BitVec.ofNat 64 (fieldAt c.blk 0 8)
  match c.op with
  | .kvsetRep .. | .kvsetMass .. =>
    let t ← s.kvTable me c.part va
    let pool ← s.pool me c.part t.poolVa
    let (first, count) := kvRange c.blk
    endIf (decide (first + count > t.npage)) cExtentViolation va
    .ok (c, kvsetLen c.op pool count)
  | .roust .. =>
    let (es, ts, rs) ← s.roustRead me c.part va
    .ok ({ c with ents := es, toks := ts, refs := rs }, 0)
  | _ => .ok (c, 0)

/-- The steps that a KV command has still to make, one after another. -/
def State.kvSteps (s : State) (me : KvBy) : Nat → Cmd → CRes State
  | 0, _ => .ok s
  | k + 1, c =>
    if c.pos ≥ c.total then .ok s
    else do
      let (t, d) ← s.kvStep me c
      t.kvSteps me k d

/-- A KV command run through at once, as one that is being submitted is to find the pages that it touches (05 R99). -/
def State.kvRun (s : State) (c : Cmd) (me : KvBy) : CRes Unit := do
  let (d, _) ← s.kvOpen me c
  let _ ← s.kvSteps me c.total d
  .ok ()

/-- Steps 4 to 6 of R278 for a KV command: every page that it is found to touch is translated and pinned, and D set for those that it
writes (05 R99, R100). An error that the command would meet in its steps does not stop its submission. -/
def submitTables (s : State) (store : Bool) (c : Cmd) (tl : Option (BitVec 3)) : Res State := do
  submitGate s
  placeGate s store
  let me : KvBy := { c.by s.cur.core with since := some s.cur.since }
  let (_, l) ← s.kvLook me c.part (s.kvRun c) (fun _ => .ok ()) lookLimit []
  acceptKv s store c tl l

end Sys2Proof.Machine
end

