-- ==== Sys2Proof/Machine/KvWords.lean ====
section
/-! DEFINITION. The KV words at issue (21_kv_cache R354 to R366). -/

namespace Sys2Proof.Machine

/-- A table header's VA, aligned to 64 (R343). -/
def tableVa (s : State) (b : List Byte) (o : Nat) : Res Nat := do
  let va := fieldAt b o 8
  badWord s (va % 64 != 0)
  .ok va

/-- KVAPPEND at issue (R357 to R359): the accepted command owes xt and p7 to its stream. -/
def execKvappend (xt xm xs : BitVec 4) (t : Tags) (s : State) : Answer :=
  finish s (do
    let a ← useX s xm
    let n ← useX s xs
    badWord s (n == 0 || decide (n.toNat > 4096))
    let b ← blockAt s a 16 (16 * n.toNat)
    let ent (i : Nat) : Nat := fieldAt b (16 * i + 8) 8
    badWord s ((List.range n.toNat).any fun i =>
      decide (ent i ≥ 4096) || ent i % 256 == 0 || decide (ent i % 256 > 64) || decide (ent i / 256 > 3))
    let _ ← (List.range n.toNat).mapM fun i => tableVa s b (16 * i)
    let c : Cmd := { s.command (.kvappend xt xm xs t) t.ts t.scope a n 0 with blk := b, total := n.toNat }
    let u ← submitTables s true c t.tl
    .ok (u.updJob fun j =>
      let j := (j.claimX s.cur.strm xt).claimP7 s.cur.strm
      let j : Job := { j with kvWait := j.kvWait ++ [⟨s.cur.strm, xt, c.ord, false, s.cjob.st == .trapped⟩] }
      if j.strict then { j with st := .frozen, freeze := j.freeze ++ [⟨.kvappend, s.cur.strm⟩] } else j))

/-- A KV block at issue: its fields are legal (R355, R356). -/
def kvBlockAt (s : State) (i : Instr) (a : Word) : Res (List Byte × Nat) := do
  let b ← blockAt s a 32 32
  let (p, _) ← ctlBlock s a.toNat 32
  let isRef := match i with | .kvref .. => true | _ => false
  let isRep := match i with | .kvsetRep .. => true | _ => false
  let count := fieldAt b 0x14 4
  let arg := fieldAt b 0x18 4
  badWord s (count == 0 || decide (count > 4096) || (!isRef && fieldAt b 8 8 != 0) || (!isRep && arg != 0) ||
    decide (arg > 5))
  .ok (b, p.addr)

/-- KVREF, KVFREE and KVSET at issue (R354 to R356). -/
def effKvset (i : Instr) (xm : BitVec 4) (xs : Option (BitVec 4)) (t : Tags) (units : List Byte → Nat) (s : State) :
    Res State := do
  let a ← useX s xm
  let x ← match xs with | some r => useX s r | none => pure (0 : Word)
  let (b, pa) ← kvBlockAt s i a
  localReg x
  let ta ← tableVa s b 0
  let _ ← match i with | .kvref .. => tableVa s b 8 | _ => pure ta
  let c : Cmd := { s.command i t.ts t.scope a x 0 with blk := b, src := pa, total := units b }
  submitTables s true c t.tl

/-- KVREF (R360): one step. -/
def execKvref (xm : BitVec 4) (t : Tags) (s : State) : Answer :=
  finish s (effKvset (.kvref xm t) xm none t (fun _ => 1) s)

/-- KVFREE (R361): one step. -/
def execKvfree (xm : BitVec 4) (t : Tags) (s : State) : Answer :=
  finish s (effKvset (.kvfree xm t) xm none t (fun _ => 1) s)

/-- KVSET rep (R362): a step for each page. -/
def execKvsetRep (xm xs : BitVec 4) (t : Tags) (s : State) : Answer :=
  finish s (effKvset (.kvsetRep xm xs t) xm (some xs) t (fun b => fieldAt b 0x14 4) s)

/-- KVSET mass (R363): one step. -/
def execKvsetMass (xm xs : BitVec 4) (t : Tags) (s : State) : Answer :=
  finish s (effKvset (.kvsetMass xm xs t) xm (some xs) t (fun _ => 1) s)

/-- ROUST at issue (R364): TLE = 0 is refused by the checks of R184. -/
def execRoust (xm : BitVec 4) (tl : BitVec 3) (ts : Option (BitVec 6)) (scope : Scope) (s : State) : Answer :=
  finish s (do
    let a ← useX s xm
    let b ← blockAt s a 32 32
    let (p, _) ← ctlBlock s a.toNat 32
    badWord s (fieldAt b 0x14 4 != 0)
    let _ ← tableVa s b 0
    let c : Cmd := { s.command (.roust xm tl ts scope) ts scope a 0 0 with blk := b, src := p.addr, total := 1 }
    submitTables s true c (some tl))

end Sys2Proof.Machine
end

