-- ==== Sys2Proof/Machine/Engine.lean ====
section
/-! DEFINITION. The engines of a core: how a command begins, lands its bytes, completes and ends with an error (17_copy R280
to R314; 21 R348 to R366; 05 R90, R102, R111, R112, R114; 07 R129, R130). -/

namespace Sys2Proof.Machine

-- What a collective computes (R305, R306).

/-- One element of CREDUCE SUM over the ranks (R306). -/
def reduceSum (f : Fmt) (l : List Nat) : Nat :=
  match l with
  | [] => 0
  | x :: xs =>
    if f == .i32 then (x :: xs).sum % p2 32
    else
      let acc := xs.foldl (fun a y => add32 a (toF32 f y)) (toF32 f x)
      if f == .fp32 then acc else roundFV f .rne false (fvOf .fp32 acc)

/-- One element of CREDUCE MAX over the ranks (R306; 09 R160, R161). -/
def reduceMax (f : Fmt) (l : List Nat) : Nat :=
  if f.isFloat && l.any fun x => fvIsNan (fvOf f x) then f.qnan
  else (l.drop 1).foldl (fun a y => if keyLt f a y then y else a) (l.headD 0)

/-- One row of CREDUCE MERGE: words m, l and O of every rank (R306; 09 R174). -/
def reduceMerge (rows : List (List Nat)) : List Nat :=
  let triple (r : List Nat) : Nat × Nat × List Nat := (r.headD 0, (r.drop 1).headD 0, r.drop 2)
  let m := (rows.drop 1).foldl (fun a r => mergeTriple a (triple r)) (triple (rows.headD []))
  m.1 :: m.2.1 :: m.2.2

/-- Bytes of one element or row of a reduction. -/
def reduceUnit (fn : CredFn) (b : List Byte) : Nat :=
  match fn with
  | .merge => 8 + 4 * fieldAt b 0x16 2
  | _ => (collFmt b).width / 8

/-- Element k of a reduction of the ranks' sources; bytes are poisoned as those of the first poisoned rank are (R281). -/
def reduceAt (fn : CredFn) (b : List Byte) (srcs : List (List (Byte × Option PoU))) (k : Nat) : List (Byte × Option PoU) :=
  let u := reduceUnit fn b
  let parts := srcs.map fun s => (s.drop (u * k)).take u
  let po := parts.findSome? fun p => p.findSome? Prod.snd
  let nums := parts.map fun p => p.map Prod.fst
  let out := match fn with
    | .sum => leBytes u (reduceSum (collFmt b) (nums.map leNat))
    | .max => leBytes u (reduceMax (collFmt b) (nums.map leNat))
    | .merge => words4 (reduceMerge (nums.map fun p => (groupsOf 4 p).map leNat))
  out.map fun x => (x, po)

/-- The result of a two-sided collective from the sources in rank order (R305). -/
def collResult (i : Instr) (b : List Byte) (srcs : List (List (Byte × Option PoU))) : List (Byte × Option PoU) :=
  match i with
  | .creduce fn _ _ _ _ =>
    (List.range (memberBytes i b / max 1 (reduceUnit fn b))).flatMap fun k => reduceAt fn b srcs k
  | .cgather .. => srcs.flatten
  | .cbcast .. => srcs.getD (fieldAt b 0x18 4) []
  | _ => []

-- Instances (R304, R309, R310).

/-- The kind of a two-sided collective: all members of an instance issue the same (R304). -/
def collKind : Instr → Nat
  | .creduce .sum _ _ _ _ => 1 | .creduce .max _ _ _ _ => 2 | .creduce .merge _ _ _ _ => 3
  | .cgather .. => 4 | .cbcast .. => 5 | _ => 0

/-- The command of a core in an instance of a channel. -/
def Core.collCmd (c : Core) (chan inst : Nat) : Option Cmd :=
  c.sq.find? fun d => twoSided d.op && chanOf d.blk == chan && d.inst == inst

/-- The members of a command's instance in this package. -/
def State.mates (s : State) (c : Cmd) : List CoreIx :=
  ((membersOf c.blk).filter fun m => m.1 == s.pkgnum.toNat).map Prod.snd

/-- Two members agree under R304. -/
def collAgree (c d : Cmd) : Bool := collKind c.op == collKind d.op && c.blk.take 0x28 == d.blk.take 0x28

/-- The cores whose queued command is of the same instance: it or this one names the other (R304). -/
def State.collPeers (s : State) (n : CoreIx) (c : Cmd) : List (CoreIx × Cmd) :=
  (List.finRange 128).filterMap fun m =>
    if m == n then none
    else ((s.core m).collCmd (chanOf c.blk) c.inst).bind fun d =>
      if d.part == c.part && ((s.mates c).contains m || (s.mates d).contains n) then some (m, d) else none

/-- A value that the spec leaves open (log entry 14). -/
def State.freeWord (s : State) : Word := BitVec.ofNat 64 (Config.freeNat s.free)

/-- What ends an instance (R310): a member out of service, however far it has come; before it has read its sources, a member of
another partition or a disagreement. -/
def State.collFault (s : State) (n : CoreIx) (c : Cmd) : Option (Cause × Word) :=
  if !twoSided c.op then none
  else
    match (s.mates c).find? fun m => !s.corePart m c.part with
    | some _ => if c.ready then none else some (cPageProtection, s.freeWord)
    | none =>
      match (s.mates c).find? fun m => !s.coreUp m with
      | some m => some (cDieFenced, BitVec.ofNat 64 m.val)
      | none => if !c.ready && (s.collPeers n c).any fun p => !collAgree c p.2 then some (cIllegalOperand, c.raw) else none

/-- An instance ends at every member (R310): those that have issued it end, those that have not will when they do. -/
def State.collEnd (s : State) (n : CoreIx) (c : Cmd) (cause : Cause) (info : Word) : State :=
  let peers := s.collPeers n c
  let all := (s.mates c ++ peers.flatMap fun p => s.mates p.2).eraseDups
  all.foldl (fun (t : State) m =>
    match (t.core m).collCmd (chanOf c.blk) c.inst with
    | some d => if d.part == c.part && d.fail.isNone then t.modCmd m true d.ord fun d => { d with fail := some cause, info := info } else t
    | none =>
      if t.corePart m c.part && (t.job m).channels.toList.getD (chanOf c.blk % 16) 0 ≤ c.inst then
        t.modCore m fun k => { k with collEnds := k.collEnds ++ [(chanOf c.blk, c.inst, cause)] }
      else t) s

/-- The source of a member in another package: bytes that are free values (log entry 14). -/
def farSource (k len : Nat) : List (Byte × Option PoU) := (List.range len).map fun i => (Config.peerByte i k, none)

/-- When every member of this package has begun the instance, each source is read and every member has the result
(R304, R305). -/
def State.collGather (s : State) (c : Cmd) : State :=
  let mine := s.mates c
  let cmds := mine.map fun m => (m, (s.core m).collCmd (chanOf c.blk) c.inst)
  if cmds.all fun e => e.2.any fun d => d.begun && d.fail.isNone && collAgree c d && d.part == c.part then
    let bytes := memberBytes c.op c.blk
    let src (m : Nat × CoreIx) (k : Nat) : List (Byte × Option PoU) :=
      if m.1 == s.pkgnum.toNat then
        match (s.core m.2).collCmd (chanOf c.blk) c.inst with
        | some d => s.srcCells m.2 d d.src bytes
        | none => []
      else farSource (s.free + k) bytes
    let members := membersOf c.blk
    let out := collResult c.op c.blk (((List.range members.length).zip members).map fun e => src e.2 e.1)
    let t := mine.foldl (fun (t : State) m =>
      match (t.core m).collCmd (chanOf c.blk) c.inst with
      | some d => t.modCmd m true d.ord fun d => { d with ready := true, data := out }
      | none => t) s
    { t with free := t.free + members.length }
  else s

-- Beginning.

/-- A stop while a command begins: it waits, or it ends with the cause (R112, R280, R281). -/
abbrev Begun (α : Type) := Res α

/-- A local range of core m resolved for an engine (05 R84, R110 to R112). -/
def Job.engineRange (j : Job) (a len : Nat) : Begun Loc :=
  match j.place a len with
  | .at l => .ok l
  | .carFault c => .error (.trap cCarouselFault (BitVec.ofNat 64 c))
  | .notReady => .error (.hold .carousel 0)
  | .bad st => .error st
  | .image _ _ | .outside => .error (.trap cExtentViolation (BitVec.ofNat 64 a))

/-- A source range of an engine: a turnstile image may be read (05 R84). -/
def Job.sourceRange (j : Job) (a len : Nat) : Begun Loc :=
  match j.place a len with
  | .image _ _ => .ok ⟨a, none, none⟩
  | _ => j.engineRange a len

/-- The slot that the command `ord` of core n resolves on a carousel's producer side: the slot and the address (06 R114). A slot
whose turnstile has failed ends a command that is held for it too (05 R112). -/
def Job.fillSlot (j : Job) (n : CoreIx) (ord car off len : Nat) : Begun (Nat × Nat) :=
  let c := j.car0.toList.getD car Carousel.zero
  let now := j.car.toList.getD car Carousel.zero
  let d := off / c.slotSize
  if !c.decl || c.count ≤ d || (off + len - 1) / c.slotSize != d then
    .error (.trap cCarouselFault (BitVec.ofNat 64 car))
  else
    let k := Carousel.filling { c with res := (c.res ++ now.res).eraseDups } n.val ord
    let slot := (c.head + k + d) % c.count
    match (j.ts.toList.getD (c.firstts + slot) Turnstile.zero).bad (c.firstts + slot) with
    | some st => .error st
    | none =>
      if c.level + k + d ≥ c.count then .error (.hold .carousel 0)
      else .ok (slot, c.base + slot * c.slotSize + off % c.slotSize)

/-- A destination range of the command `ord` of core n in a job: its address, and its slot on a producer side. -/
def Job.fillRange (j : Job) (n : CoreIx) (ord a len : Nat) : Begun (Nat × Option (Nat × Nat)) :=
  match producerSide a with
  | some (car, off) => do
    let (slot, addr) ← j.fillSlot n ord car off len
    .ok (addr, some (car, slot))
  | none => do
    let l ← j.engineRange a len
    .ok (l.addr, none)

/-- The job after the command `ord` of core n has resolved a slot (06 R114). -/
def Job.addFill (j : Job) (n : CoreIx) (ord : Nat) (slot : Option (Nat × Nat)) : Job :=
  match slot with
  | some (car, k) => j.modCar (BitVec.ofNat 2 car) fun c => { c with res := c.res ++ [(n.val, k, ord)] }
  | none => j

/-- The source of a command resolved; the tags of one in a carousel slot are looked at now (R290). -/
def beginSource (k : Core) (j : Job) (c : Cmd) : Begun Cmd :=
  match c.source with
  | some (a, len) =>
    if len == 0 then .ok c
    else do
      let l ← j.sourceRange a len
      match c.op with
      | .copyr .. => trapIf (l.cons.isSome && k.tagMoves l.addr len a (locator c.xs).loc) cAlignment c.xm
      | _ => pure ()
      .ok { c with src := l.addr, srcSlot := l.cons }
  | none => .ok c

/-- The destination of a command at its own core resolved. -/
def beginTarget (s : State) (n : CoreIx) (j : Job) (c : Cmd) : Begun (State × Cmd) :=
  match c.target with
  | some (a, len) =>
    if len == 0 then .ok (s, c)
    else do
      let (addr, slot) ← j.fillRange n c.ord a len
      .ok (s.modJobOf n c.seq c.iter fun j => j.addFill n c.ord slot, { c with dst := addr, slot := slot })
  | none => .ok (s, c)

/-- The destination of a COPYR, or the range of a KVSET, that R110 refuses ends it as one that fails any other check (R290; 21 R362,
R363). -/
def destStop {α : Type} (c : Cmd) (r : Begun α) : Begun α :=
  match r with
  | .error (.trap cause _) =>
    if cause != cCarouselFault then r
    else match c.op with
      | .copyr .. => .error (.trap cExtentViolation (BitVec.ofNat 64 (locator c.xs).loc))
      | .kvsetRep .. | .kvsetMass .. => .error (.trap cExtentViolation c.xs)
      | _ => r
  | r => r

/-- The destinations that a command names by core, in this package, resolved there: at its own core in its own job (R290, R307, R308;
06 R114; 18 R313). One that no
engine can reach is met when the command's first message does. -/
def beginFar (s : State) (n : CoreIx) (c : Cmd) : Begun (State × Cmd) :=
  (s.sendsTo n c).foldl (fun (r : Begun (State × Cmd)) d => do
    let (s, c) ← r
    let (pkg, m, a, len) := d
    if pkg != s.pkgnum.toNat || !s.coreUp m || !s.corePart m c.part || len == 0 then .ok (s, c)
    else
      let (addr, slot) ← destStop c ((if m == n then s.jobFor n c else s.job m).fillRange n c.ord a len)
      let c : Cmd := { c with
        rbase := c.rbase ++ [(m.val, addr)]
        rslots := match slot with | some (car, k) => c.rslots ++ [(m.val, car, k)] | none => c.rslots }
      .ok (if m == n then s.modJobOf n c.seq c.iter fun j => j.addFill n c.ord slot else s.modJob m fun j => j.addFill n c.ord slot, c))
    (.ok (s, c))

/-- Whether the successor of a CRING lies in another package (R307). -/
def State.ringFar (s : State) (n : CoreIx) (c : Cmd) : Bool := (s.sendsTo n c).any fun d => d.1 != s.pkgnum.toNat

/-- The command addresses another package: through a frame, a locator or a collective (25 R409). -/
def State.leaves (s : State) (n : CoreIx) (c : Cmd) : Bool :=
  let far (pa : Nat) : Bool := match s.place pa with | .peer _ _ => true | _ => false
  (c.frames.any fun f => far f.1) || ((s.sendsTo n c).any fun d => d.1 != s.pkgnum.toNat) ||
    (twoSided c.op && (membersOf c.blk).any fun m => m.1 != s.pkgnum.toNat)

/-- A KV command (R354). -/
def isKv : Instr → Bool
  | .kvappend .. | .kvref .. | .kvfree .. | .kvsetRep .. | .kvsetMass .. | .roust .. => true
  | _ => false

/-- The cause of a KV command's error as it is reported: ILLEGAL_OPERAND with the failing word (23 R371). -/
def kvStop (c : Cmd) (e : Cause × Word) : Stop := .trap e.1 (if e.1 == cIllegalOperand then c.raw else e.2)

/-- A KV step's cause while a command begins. -/
def kvBegun {α : Type} (c : Cmd) (r : CRes α) : Begun α :=
  match r with
  | .ok a => .ok a
  | .error e => .error (kvStop c e)

/-- The kind of ring that a CRING counts in: its channel and whether its hop leaves the package (18 R314). -/
def State.ringKind (s : State) (n : CoreIx) (c : Cmd) : Nat := 2 * chanOf c.blk + if s.ringFar n c then 1 else 0

/-- A CRING. -/
def isRing : Instr → Bool
  | .cring .. => true
  | _ => false

/-- CRING commands that count against the allowance of a command's kind: those in flight, and those that have completed in this
cycle (R307; 18 R314). -/
def State.ringsOpen (s : State) (n : CoreIx) (c : Cmd) : Nat :=
  ((s.core n).sq.filter fun d => d.begun && isRing d.op && s.ringKind n d == s.ringKind n c).length +
    (s.core n).ringFreed.count (s.ringKind n c)

/-- The earlier accesses of a command's stream, its loads among them, have been performed, its stores ordered as a release at its scope
needs, and with them those that it had acquired (07 R121, R122, R130, R135; R294). Those in the scratchpad were when it was submitted. -/
def State.released (s : State) (n : CoreIx) (j : Job) (c : Cmd) : Bool :=
  ((s.core n).storesOf c.strm j).all (fun p => decide (c.ord < p.ord) || relPoint c.scope p) &&
    (j.outs.all fun g => g.strm != c.strm || decide (c.ord < g.ord)) &&
    (coresOf (dieOf n)).all fun m => (s.core m).psb.all fun p => decide (c.acq ≤ p.ord) || p.rdup || relPoint c.scope p

-- The order of KV commands on a table (21 R350, R365).

/-- A ROUST. -/
def isRoust : Instr → Bool
  | .roust .. => true
  | _ => false

/-- A KV command may not act yet: a table of it has a ROUST in progress, the Roustabout that it needs is taken, or a command that
arrived earlier waits for one of them (R350, R365). -/
def State.kvBlocked (s : State) (n : CoreIx) (c : Cmd) : Bool :=
  let tables := s.kvTables c
  let ahead := s.kvWaits.takeWhile fun e => e != (n.val, c.ord)
  tables.any s.tableBusy || (isRoust c.op && (s.die (dieOf n)).roust.isSome) ||
    ahead.any fun e => (s.kvWaiting e).any fun d =>
      (s.kvTables d).any (fun t => tables.contains t) || (isRoust c.op && isRoust d.op && e.1 / 16 == n.val / 16)

/-- The command takes its place among those that wait. -/
def State.kvQueue (s : State) (n : CoreIx) (c : Cmd) : State :=
  if s.kvWaits.contains (n.val, c.ord) then s
  else { s with kvWaits := (s.kvWaits.filter fun e => (s.kvWaiting e).isSome) ++ [(n.val, c.ord)] }

/-- The command waits no longer. -/
def State.kvLeave (s : State) (n : CoreIx) (c : Cmd) : State :=
  { s with kvWaits := s.kvWaits.filter fun e => e != (n.val, c.ord) }

/-- The conditions that the command's own instruction names (R280), and what the command reads as it begins. -/
def beginOwn (s : State) (n : CoreIx) (j : Job) (c : Cmd) : Begun (State × Cmd) :=
  let k := s.core n
  match c.op with
  | .copy .st .. =>
    if c.map.swz == 0 then .ok (s, c)
    else match (tilesOf c.src c.map.bytes).find? fun t => k.tag t != BitVec.ofNat 4 c.map.swz with
      | some t => .error (.trap cSwizzleMismatch (BitVec.ofNat 64 (t * 4096)))
      | none => .ok (s, c)
  | .tsarrive .. | .wput .. | .wdrop .. => if s.released n j c then .ok (s, c) else .error (.hold .postBuf 0)
  | .cring .. =>
    if s.ringsOpen n c ≥ (if s.ringFar n c then 2 else 4) then .error (.hold .queueFull 0) else .ok (s, c)
  | .kvref .. | .kvfree .. => if s.kvBlocked n c then .error (.hold .queueFull 0) else .ok (s.kvLeave n c, c)
  | .kvsetRep .. | .kvsetMass .. =>
    if s.kvBlocked n c then .error (.hold .queueFull 0)
    else do
      let (d, len) ← kvBegun c (s.kvOpen (c.by n) c)
      let l ← destStop c (j.engineRange c.xs.toNat len)
      .ok (s.kvLeave n c, { d with dst := l.addr, srcSlot := l.cons })
  | .roust .. =>
    if s.kvBlocked n c then .error (.hold .queueFull 0)
    else do
      let (d, _) ← kvBegun c (s.kvOpen (c.by n) c)
      let s := s.kvLeave n c
      let va := BitVec.ofNat 64 (fieldAt c.blk 0 8)
      .ok ((s.roustPins (c.by n) c.part va d.ents).modDie (dieOf n) fun e => { e with roust := some (n.val, c.ord) },
        { d with dst := s.pinned c va.toNat })
  | _ => .ok (s, c)

/-- A command whose place in its queue lets it begin: every earlier one has begun, no QFILL is ahead of it, and for a KV
command no earlier one of them has steps to come (R130, R280, R291, R355). -/
def Core.nextToBegin (c : Core) (store : Bool) : Option Cmd :=
  let q := c.queue store
  match q.find? fun d => !d.begun with
  | none => none
  | some d =>
    let ahead := q.filter fun e => e.ord != d.ord && e.begun
    if ahead.any fun e => match e.op with | .qfill .. => true | _ => false then none
    else if isKv d.op && ahead.any fun e => isKv e.op && e.pos < e.total then none
    else some d

/-- COMMAND_BEGIN (R280): the command that stands first among those not begun begins, waits, or ends. -/
def State.beginCmd (s : State) (n : CoreIx) (store : Bool) : Option State :=
  match (s.core n).nextToBegin store with
  | none => none
  | some c =>
    if c.fail.isSome then none
    else
      let fail (cause : Cause) (info : Word) : Option State :=
        some (s.modCmd n store c.ord fun d => { d with fail := some cause, info := info })
      let ended := if twoSided c.op then (s.core n).collEnds.find? fun e => e.1 == chanOf c.blk && e.2.1 == c.inst else none
      if s.portup == 0 && s.leaves n c then
        fail cLinkDown (BitVec.ofNat 64 (0x80 + Config.freeNat s.free % 18))
      else match ended with
      | some e =>
        some ((s.modCmd n store c.ord fun d => { d with fail := some e.2.2, info := c.raw }).modCore n fun k =>
          { k with collEnds := k.collEnds.filter fun x => !(x.1 == e.1 && x.2.1 == e.2.1) })
      | none =>
        match (if twoSided c.op then s.collFault n c else none) with
        | some (cause, info) => some (s.collEnd n c cause info)
        | none =>
          match (s.core n).jobOf c.seq c.iter with
          | none => none
          | some j =>
            if j.saving.isSome then none
            else match (do
              let c ← beginSource (s.core n) j c
              let (s, c) ← beginTarget s n j c
              let (s, c) ← beginFar s n c
              beginOwn s n j c : Begun (State × Cmd)) with
            | .ok (t, d) =>
              let t := t.modCmd n store c.ord fun e => { d with begun := true, frames := e.frames }
              some (if twoSided c.op then t.collGather { d with begun := true } else t)
            | .error (.hold _ _) =>
              if isKv c.op && s.kvBlocked n c && !s.kvWaits.contains (n.val, c.ord) then some (s.kvQueue n c) else none
            | .error (.trap cause info) => fail cause info

-- Landing.

/-- Arrivals of k bytes of a command at core m (05 R102, R111; R284). -/
def State.arriveFar (s : State) (n m : CoreIx) (c : Cmd) (ts : BitVec 6) (k : Nat) : State :=
  match c.rslots.find? fun r => r.1 == m.val with
  | some (_, car, slot) =>
    if m == n then s.modJobOf n c.seq c.iter fun j => j.slotArrive car slot k else s.modJob m fun j => j.slotArrive car slot k
  | none =>
    if m == n then s.modJobOf n c.seq c.iter fun j => j.modTs ts fun x => x.addArr c.phase k
    else s.modJob m fun j => j.modTs ts fun x => x.addArr ((alGet (c.rphase.map fun p => (p.1, p.2)) m.val).getD false) k

/-- The command has passed k more of its units, having stamped the tiles given. -/
def State.advance (s : State) (n : CoreIx) (store : Bool) (c : Cmd) (tiles : List Nat) : State :=
  s.modCmd n store c.ord fun d => { d with pos := d.pos + 1, tagged := (d.tagged ++ tiles).eraseDups }

/-- Writes one after another; the first that must wait or fails decides. -/
def Wrote.andThen (w : Wrote) (f : State → Wrote) : Wrote :=
  match w with
  | .done s => f s
  | w => w

/-- The source words that a command has read and the units that it has covered, kept with it. -/
def State.keepRead (s : State) (n : CoreIx) (store : Bool) (c : Cmd) : State :=
  s.modCmd n store c.ord fun d => { d with words := c.words, cover := c.cover }

/-- An element of a command's box that no engine can reach through the aperture: a core out of service, or of another partition
(01 R32; 07 R143; R284). -/
def State.elemRefused (s : State) (c : Cmd) (m : TMap) (e : Nat) : Option (Cause × Word) :=
  (c.elemAt m e).bind fun x =>
    let pa := s.pinned c x.1
    match s.place pa with
    | .aper k _ =>
      if !s.coreUp k then some (cDieFenced, BitVec.ofNat 64 k.val)
      else if !s.corePart k c.part then some (cPageProtection, BitVec.ofNat 64 x.1)
      else none
    | _ => none

/-- A unit of an inbound COPY (R289). -/
def State.landCopyIn (s : State) (n : CoreIx) (c : Cmd) : Wrote :=
  let m := c.map
  let a := m.localAt c.dst (c.pos * m.unit)
  match (List.range m.perUnit).findSome? fun e => s.elemRefused c m (m.perUnit * c.pos + e) with
  | some (cause, info) => .bad cause info
  | none =>
    let (bs, c) := s.unitRead n c m c.pos
    let (d, whole) := c.covers 8 a bs
    let tiles := (tilesOf a bs.length).filter fun t => !c.tagged.contains t
    ((s.keepRead n false c).landOn n n false a bs (BitVec.ofNat 4 m.swz) tiles (whole.map (· / 8))).andThen fun s =>
      .done (((s.arriveOwn n c m.unit).keepRead n false d).advance n false c tiles)

/-- The byte of an element with the nibble that it holds replaced (R289); a nibble leaves the other half of its byte as it is
at its home. -/
def State.nibble (s : State) (n : CoreIx) (pa e : Nat) (hi : Bool) (b : Byte × Option PoU) : Byte × Option PoU :=
  let old := (s.physRead (dieOf n) (fun _ _ => false) pa 1).1.headD 0
  let nib : Byte := if e % 2 == 0 then b.1 &&& 0xF else b.1 >>> 4
  (if hi then old &&& 0xF ||| nib <<< 4 else old &&& 0xF0 ||| nib, b.2)

/-- One element of an outbound COPY written at its address; one outside is dropped (R289). -/
def State.elemWrite (s : State) (n : CoreIx) (c : Cmd) (m : TMap) (e : Nat) (bs : List (Byte × Option PoU)) : Wrote :=
  match c.elemAt m e with
  | none => .done s
  | some (va, f, hi, _) =>
    let pa := s.pinned c va
    let out := if f.width == 4 then bs.map (s.nibble n pa e hi) else bs
    let size := match s.place pa with | .aper _ _ => 8 | _ => 32
    let (d, whole) := if f.width == 4 && !hi then (c, []) else c.covers size pa out
    (s.physWrite n c.ord c.part s.incarn (!c.tagged.contains (pa / 4096)) (e + 1 == m.perUnit * c.total) pa out whole).andThen fun s => .done (s.keepRead n true d)

/-- The aperture tiles that a command's element stamps, under numbers beyond those of local tiles. -/
def State.elemTiles (s : State) (c : Cmd) (m : TMap) (e : Nat) : List Nat :=
  match c.elemAt m e with
  | some (va, _) =>
    match s.place (s.pinned c va) with
    | .aper _ _ => [s.pinned c va / 4096]
    | _ => []
  | none => []

/-- A unit of an outbound COPY (R289). -/
def State.landCopyOut (s : State) (n : CoreIx) (c : Cmd) : Wrote :=
  let m := c.map
  let es := (List.range m.perUnit).map (m.perUnit * c.pos + ·)
  match es.findSome? (s.elemRefused c m) with
  | some (cause, info) => .bad cause info
  | none =>
  let a := m.localAt c.src (c.pos * m.unit)
  let (w, c) := c.once (a / 4) fun _ => s.srcCells n c (a / 4 * 4) 4
  let bs := (w.drop (a % 4)).take m.unit
  let w := es.foldl (fun (w : Wrote) e => w.andThen fun s => s.elemWrite n c m e bs) (.done (s.keepRead n true c))
  w.andThen fun t => .done ((t.arriveOwn n c m.unit).advance n true c (es.flatMap (s.elemTiles c m)))

/-- Sixteen bytes of a command sent to core m of package `pkg` (R284, R290, R307, R308): they land there, or leave by the
fabric; `stamp` is their tag when they are the first in their tile. -/
def State.sendOne (s : State) (n : CoreIx) (c : Cmd) (pkg : Nat) (m : CoreIx) (a : Nat) (tag : BitVec 4)
    (bs : List (Byte × Option PoU)) : Wrote :=
  if pkg != s.pkgnum.toNat then
    let at_ := 0x6000000000 + m.val * 0x1000000 + a + 16 * c.pos
    let name : Word := BitVec.ofNat 64 (p2 43 + pkg * p2 32 + m.val * p2 24 + 0xC00000) +
      BitVec.ofNat 64 (16 * (c.ts.getD 0).toNat)
    let last := c.pos + 1 == c.total
    let say := FabricSay.bytes at_ (bs.map Prod.fst) c.ord last ::
      if c.ts.isSome then [FabricSay.arrive name bs.length c.ord last] else []
    .done { s with fabricOut := s.fabricOut ++ say.map fun x => ⟨pkg, s.incarn, c.part, x⟩ }
  else match alGet c.rbase m.val with
  | none => .done s
  | some base =>
    let d := base + 16 * c.pos
    let key := m.val * 2048 + 0x100000 + d / 4096
    (s.landOn n m (m != n) d bs tag (if c.tagged.contains key then [] else [d / 4096]) []).andThen fun s =>
      match c.ts with
      | some k => .done (s.arriveFar n m c k bs.length)
      | none =>
        if c.rslots.any fun r => r.1 == m.val then .done (s.arriveFar n m c 0 bs.length) else .done s

/-- A unit of a command at one of its destinations, unless it is there already. A member of CMCAST that refuses it gets no more;
the others still receive their bytes (R308). -/
def State.sendTo (s : State) (n : CoreIx) (c : Cmd) (d : Nat × CoreIx × Nat × Nat) (tag : BitVec 4) (bs : List (Byte × Option PoU)) :
    Wrote :=
  let mark := (d.1 * 128 + d.2.1.val, c.pos)
  if c.refs.contains mark then .done s
  else match s.sendOne n c d.1 d.2.1 d.2.2.1 tag bs with
  | .done t => .done (t.modCmd n true c.ord fun e => { e with refs := e.refs ++ [mark] })
  | .wait t => .wait t
  | .bad cause info =>
    match c.op with
    | .cmcast .. => .done (s.modCmd n true c.ord fun e => { e with
        rbase := e.rbase.filter fun b => b.1 != d.2.1.val
        fail := some (e.fail.getD cause)
        info := if e.fail.isSome then e.info else info })
    | _ => .bad cause info

/-- A unit of COPYR, CRING or CMCAST at each of its destinations; its bytes are read once (07 R129). -/
def State.landSend (s : State) (n : CoreIx) (c : Cmd) : Wrote :=
  let (bs, c) := c.once c.pos fun _ => s.srcCells n c (c.src + 16 * c.pos) 16
  let s := s.keepRead n true c
  let tag : BitVec 4 := match c.op with | .copyr .. => (s.core n).tag ((c.src + 16 * c.pos) / 4096) | _ => 0
  let ds := s.sendsTo n c
  -- every destination has its turn, whether or not another has to wait
  let (t, all) := ds.foldl (fun (r : State × Except (Option (Cause × Word)) Unit) d =>
    match r.1.sendTo n c d tag bs with
    | .done t => (t, r.2)
    | .wait t => (t, match r.2 with | .ok () => .error none | e => e)
    | .bad cause info => (r.1, .error (some (cause, info)))) (s, .ok ())
  match all with
  | .error none => .wait t
  | .error (some (cause, info)) => .bad cause info
  | .ok () =>
    let t := t.modCmd n true c.ord fun e => { e with refs := [], words := [] }
    .done (t.advance n true c (c.rbase.map fun r => r.1 * 2048 + 0x100000 + (r.2 + 16 * c.pos) / 4096))

/-- Every core of this package to which a command sends has had its first message (R284). -/
def State.reachedAll (s : State) (n : CoreIx) (c : Cmd) : Bool :=
  (s.sendsTo n c).all fun d => d.1 != s.pkgnum.toNat || d.2.1 == n || c.rphase.any fun p => p.1 == d.2.1.val

/-- Sixteen bytes of a collective's result land (R305); its tiles are stamped 0. -/
def State.landResult (s : State) (n : CoreIx) (c : Cmd) : Wrote :=
  let a := c.dst + 16 * c.pos
  let tiles := [a / 4096].filter fun t => !c.tagged.contains t
  (s.landOn n n true a ((c.data.drop (16 * c.pos)).take 16) 0 tiles []).andThen fun s =>
    .done ((s.arriveOwn n c 16).advance n true c tiles)

/-- TSARRIVE arrives all its bytes at once, when every earlier command of the queue has completed (R294). -/
def State.landTsarrive (s : State) (n : CoreIx) (c : Cmd) : Wrote :=
  let l := locator c.xm
  let s := if s.localName l then
      match locTs l.loc with
      | some k => s.arriveFar n l.core c k c.xs.toNat
      | none => s
    else { s with fabricOut := s.fabricOut ++ [⟨l.pkg, s.incarn, c.part, .arrive c.xm c.xs.toNat c.ord true⟩] }
  .done (s.advance n true c [])

/-- A step of a KV command on tables of which it is its turn (21 R350, R358 to R366). -/
def State.landKv (s : State) (n : CoreIx) (c : Cmd) : Wrote :=
  match s.kvStep (c.by n) c with
  | .ok (t, d) => .done (t.modCmd n true c.ord fun e => { d with frames := e.frames, words := e.words })
  | .error e => match kvStop c e with | .trap cause info => .bad cause info | .hold _ _ => .wait s

/-- A step of a KV command when its turn has come; until then it waits in the order of arrival (21 R350). -/
def State.landKvTurn (s : State) (n : CoreIx) (c : Cmd) : Wrote :=
  if !isRoust c.op && s.kvBlocked n c then .wait (s.kvQueue n c) else (s.kvLeave n c).landKv n c

/-- The next unit of a command lands. -/
def State.landUnit (s : State) (n : CoreIx) (store : Bool) (first : Bool) (c : Cmd) : Wrote :=
  match c.op with
  | .copy .ld .. => s.landCopyIn n c
  | .copy .st .. => s.landCopyOut n c
  | .copyr .. | .cring .. | .cmcast .. => if s.reachedAll n c then s.landSend n c else .wait s
  | .tsarrive .. => if first && s.reachedAll n c then s.landTsarrive n c else .wait s
  | .creduce .. | .cgather .. | .cbcast .. => if c.ready then s.landResult n c else .wait s
  | _ => if isKv c.op && store then s.landKvTurn n c else .wait s

/-- Up to k units land; a unit that fails ends the command (R281). -/
def State.landUnits (s : State) (n : CoreIx) (store : Bool) (ix : Nat) : Nat → State
  | 0 => s
  | k + 1 =>
    match ((s.core n).queue store)[ix]? with
    | none => s
    | some c =>
      if !c.begun || c.pos ≥ c.total || (c.fail.isSome && match c.op with | .cmcast .. => false | _ => true) then s
      else match s.landUnit n store (ix == 0) c with
      | .done t => t.landUnits n store ix k
      | .wait t => t
      | .bad cause info => s.modCmd n store c.ord fun d => { d with fail := some cause, info := info }

/-- REMOTE_ARRIVAL (R284): the first message of a command reaches the next of the cores it sends to, which records the
phase of the turnstile it names there, or ends the command. -/
def State.reach (s : State) (n : CoreIx) (store : Bool) (ix : Nat) : Option State :=
  match ((s.core n).queue store)[ix]? with
  | none => none
  | some c =>
    if !c.begun || c.total == 0 then none
    else
      match (s.sendsTo n c).find? fun d => d.1 == s.pkgnum.toNat && d.2.1 != n && !(c.rphase.any fun p => p.1 == d.2.1.val) with
      | none => none
      | some d =>
        let m := d.2.1
        let bad : Option (Cause × Word) :=
          if !s.corePart m c.part then some (cPageProtection, s.freeWord)
          else if !s.coreUp m then some (cDieFenced, BitVec.ofNat 64 m.val)
          else none
        let ts := match c.op with | .tsarrive .. => locTs d.2.2.1 | _ => c.ts
        let phase := match ts with | some k => ((s.job m).ts[k.toFin]).phase | none => false
        some (s.modCmd n store c.ord fun e =>
          { e with
            rphase := e.rphase ++ [(m.val, phase)]
            rbase := if bad.isSome then e.rbase.filter fun b => b.1 != m.val else e.rbase
            fail := if e.fail.isSome then e.fail else bad.map Prod.fst
            info := match bad with | some b => if e.fail.isSome then e.info else b.2 | none => e.info })

/-- The next entry of a QFILL is appended (R291). The entries of a job that is gone are lost. -/
def State.fillQueue (s : State) (n : CoreIx) (ix : Nat) : Option State :=
  match (s.core n).lq[ix]? with
  | none => none
  | some c =>
    match c.op with
    | .qfill t k _ _ _ =>
      if !c.begun || c.pos ≥ c.total || c.fail.isSome || c.tagged == [s.gcc + 1] then none
      else match (s.core n).jobOf c.seq c.iter with
      | none => some (s.modCmd n false c.ord fun d => { d with pos := d.total })
      | some j =>
        if j.qTaken t k ≥ 4 then none
        else
          let size := if t == Strm.v then 2048 else 8
          let a := c.src + c.pos * size
          let j' : Job :=
            if t == Strm.v then
              let tile : Tile := Vector.ofFn fun (r : Fin 16) =>
                let cells := s.srcCells n c (a + 128 * r.val) 128
                ⟨rowOfBytes (cells.map Prod.fst), (cells.findSome? Prod.snd).map fun p => p.origin (BitVec.ofNat 64 (a + 128 * r.val))⟩
              { j with vq := j.vq.set k.toFin (j.vq[k.toFin] ++ [⟨tile, s.gcc + 1⟩]) }
            else
              let cells := s.srcCells n c a 8
              let v : XVal := ⟨BitVec.ofNat 64 (leNat (cells.map Prod.fst)), (cells.findSome? Prod.snd).map fun p => p.origin (BitVec.ofNat 64 a)⟩
              j.append t k v (s.gcc + 1)
          let s := s.modJobOf n c.seq c.iter fun _ => j'
          let s := s.modCmd n false c.ord fun d => { d with pos := d.pos + 1, tagged := [s.gcc + 1] }
          some (s.arriveOwn n c size)
    | _ => none

-- Ends.

/-- What a KV command writes into its local block when it completes: STATUS and KEPT, or DONE (R356, R364). -/
def Cmd.report (c : Cmd) : Option (Nat × List Byte) :=
  match c.op with
  | .roust .. =>
    some (c.src + 0x18, leBytes 4 (if c.refused then 1 else if c.full then 2 else 0) ++ leBytes 4 c.cnt)
  | .kvref .. | .kvfree .. => some (c.src + 0x1C, leBytes 4 (kvRange c.blk).2)
  | .kvsetRep .. | .kvsetMass .. => some (c.src + 0x1C, leBytes 4 c.cnt)
  | _ => none

/-- The Roustabout of a die is free once the command that held it is gone (R365). -/
def State.roustFree (s : State) (n : CoreIx) (c : Cmd) : State :=
  s.modDie (dieOf n) fun d => if d.roust == some (n.val, c.ord) then { d with roust := none } else d

/-- The head of a queue completes (R280): what its instruction does besides. -/
def State.completes (s : State) (n : CoreIx) (store : Bool) (c : Cmd) : State :=
  let s := match c.ts with
    | some _ => if isKv c.op then s.arriveOwn n c 1 else s
    | none => s
  let s := if isRing c.op then s.modCore n fun k => { k with ringFreed := s.ringKind n c :: k.ringFreed } else s
  let s := (s.roustFree n c).completeCmd n store c
  match c.op with
  | .kvappend .. => s.modJobOf n c.seq c.iter fun j =>
      j.kvDone c (BitVec.ofNat 64 (c.pos + if c.full then p2 32 else 0)) c.refused
  | _ => s

/-- What a core's window commands have merged has not landed at some home (07 R129). -/
def State.mergesOut (s : State) (n : CoreIx) : Bool :=
  (List.finRange 128).any fun m => (s.core m).inbox.any fun l => l.merge && l.rank == rankEngine m.val n.val

/-- COMMAND_COMPLETE (R280): the command at the head of its queue, with all its effects made. -/
def State.completeHead (s : State) (n : CoreIx) (store : Bool) : Option State :=
  match ((s.core n).queue store).head? with
  | none => none
  | some c =>
    if !c.begun || c.pos < c.total || c.fail.isSome || (twoSided c.op && !c.ready) || s.mergesOut n then none
    else match c.report with
    | none => some (s.completes n store c)
    | some (a, bs) =>
      match s.landOn n n false a (bs.map fun b => (b, none)) 0 (tilesOf a bs.length) [] with
      | .done t => some (t.completes n store c)
      | .wait t => some t
      | .bad cause info => some (s.modCmd n store c.ord fun d => { d with fail := some cause, info := info })

/-- COMMAND_ERROR (R281, R310): a command that has failed, or whose instance has, ends. -/
def State.endCmd (s : State) (n : CoreIx) (store : Bool) (ix : Nat) : Option State :=
  match ((s.core n).queue store)[ix]? with
  | none => none
  | some c =>
    let found := if c.fail.isNone && twoSided c.op && c.begun then s.collFault n c else none
    let s := match found with | some (cause, info) => s.collEnd n c cause info | none => s
    match (match found with | some f => some f | none => c.fail.map fun x => (x, c.info)) with
    | none => none
    | some (cause, info) =>
      let waits := match c.op with
        | .cmcast .. => c.begun && (c.pos < c.total || !s.reachedAll n c)
        | _ => false
      if waits then none
      else
        let s := if cause == cPageProtection || cause == cLinkDown then { s with free := s.free + 1 } else s
        some ((s.roustFree n c).failCmd n store c cause info)

end Sys2Proof.Machine
end

