-- ==== Sys2Proof/Machine/Issue.lean ====
section
/-! DEFINITION. The issue of groups: fetch, slack, guards, the words one after another, and what a trap or a hold leaves
(03 R58 to R62; 11 R179 to R184; 17 R281; 23 R372, R373). The meaning of a word is handed in as `ex`. -/

namespace Sys2Proof.Machine

/-- The word being issued is this one. -/
def State.at (s : State) (n : CoreIx) (st : Strm) (gpc wpc next raw : Word) : State :=
  { s with cur := { s.cur with
      core := n, strm := st, gpc := gpc, wpc := wpc, next := next, raw := raw, out := .done } }

/-- A group begins on core n: no queue head seen yet, and what is in flight now is what is earlier than the group. -/
def State.fresh (s : State) (n : CoreIx) : State :=
  { s with cur := { s.cur with qheads := [], vheads := [], since := s.ord, traf0 := (s.job n).traffic.length } }

/-- The guard of a word: whether it takes effect (R183); a poisoned guard is consumed (R213, R376). -/
def guardOf (s : State) (w : IWord) : Res Bool := do
  let g ← rdP s w.pg
  match g.po with
  | some o => .error (.trap cPoisonConsumed o)
  | none => .ok (g.v != w.pn)

/-- One word runs: not at all when its guard is false. -/
def runWord (ex : Instr → State → Answer) (s : State) (w : IWord) : Answer :=
  match guardOf s w with
  | .ok true => ex w.op s
  | .ok false => .next { s with cur := { s.cur with out := .done } }
  | .error (.trap c info) => .next { s with cur := { s.cur with out := .trapped c info s.cur.wpc } }
  | .error (.hold h info) => .next { s with cur := { s.cur with out := .hold h info } }

/-- How a group fares. -/
inductive Fared where
  | issued (s : State)
  | hold (h : Hold) (info : Nat)
  | trap (c : Cause) (info pc resume : Word)
  | notDue
  | stop (a : Answer)

/-- The group has issued: its stream is held no longer. -/
def State.issuedBy (s : State) (n : CoreIx) (st : Strm) : State :=
  s.modJob n fun j => j.modStream st fun t => { t with held := none }

/-- The words of a group one after another. A group takes effect whole or not at all (R182). DESIGN CHOICE (log entry 69): a
command grouped with a wait that is not satisfied yet is not accepted until the wait is, even where the wait is for that very
command. -/
def runGroup (ex : Instr → State → Answer) (s : State) (n : CoreIx) (st : Strm) (pc next r1 r2 : Word) : Group → Fared
  | .bad second c info => .trap c info (if second then pc + 8 else pc) pc
  | .one w =>
    match runWord ex (s.at n st pc pc next r1) w with
    | .next t =>
      match t.cur.out with
      | .done => .issued (t.issuedBy n st)
      | .hold h info => .hold h info
      | .trapped c info wpc => .trap c info wpc (if c == cSoftware then next else pc)
    | a => .stop a
  | .two a b =>
    match runWord ex (s.at n st pc pc next r1) a with
    | .next t =>
      match t.cur.out with
      | .hold h info => .hold h info
      | .trapped c info wpc => .trap c info wpc (if c == cSoftware then next else pc)
      | .done =>
        match runWord ex (t.at n st pc (pc + 8) next r2) b with
        | .next u =>
          match u.cur.out with
          | .done => .issued (u.issuedBy n st)
          | .hold h info => .hold h info
          | .trapped c info wpc => .trap c info wpc (if c == cSoftware then next else pc)
        | a => .stop a
    | a => .stop a

/-- The earliest cycle of the stream's next group: a trap handler has one of its own (13 R231). -/
def Job.nextOf (j : Job) (st : Strm) : Nat := if j.st == .trapped then j.hNext else (j.stream st).nextAt

/-- The job after a stream has issued a group in this cycle: its program counter stands at the next group, which issues
one cycle later at the earliest (R58). -/
def Job.passed (j : Job) (st : Strm) (next : Word) : Job :=
  let j := j.modStream st fun t => { t with pc := next }
  if j.st == .trapped then { j with hNext := j.now + 1 } else j.modStream st fun t => { t with nextAt := j.now + 1 }

/-- The state after the stream has passed to the next group. -/
def State.passed (s : State) (n : CoreIx) (st : Strm) (next : Word) : State := s.modJob n fun j => j.passed st next

/-- A stream's next group: fetched, due by its slack, checked, and issued (R58, R62, R178 to R184). -/
def issueGroup (ex : Instr → State → Answer) (s : State) (n : CoreIx) (st : Strm) : Fared :=
  let j := s.job n
  let pc := (j.stream st).pc
  match s.fetchWord n pc with
  | .error (c, info) => .trap c info pc pc
  | .ok (r1, s) =>
    if j.now < j.nextOf st + (r1 >>> 54).toNat then .notDue
    else if stpOf r1 then
      runGroup ex ((s.passed n st (pc + 8)).fresh n) n st pc (pc + 8) r1 0 (checkOne st r1)
    else
      match s.fetchWord n (pc + 8) with
      | .error (c, info) => .trap c info pc pc
      | .ok (r2, s) =>
        runGroup ex ((s.passed n st (pc + 16)).fresh n) n st pc (pc + 16) r1 r2 (checkTwo j st r1 r2)

-- Traps of a cycle.

/-- The trap that a cycle delivers: a system cause first, then the stream first in S, V, M, C (23 R373). -/
def firstTrap (l : List TrapNote) : Option TrapNote :=
  let l := strms.flatMap fun st => l.filter fun t => t.strm == st
  match l.find? fun t => isSystem t.cause with
  | some t => some t
  | none => l.head?

/-- The trap that a job is to take as its cycle ends: in a handler, only its own; one of an operation in flight waits until the
job goes on. -/
def Job.dueTrap (j : Job) : Option TrapNote :=
  match j.st with
  | .trapped => firstTrap (j.traps.filter fun t => !t.flight)
  | .running | .frozen | .draining => firstTrap j.traps
  | _ => none

/-- A trap met by a group of core n (23 R373): the end of the cycle delivers one. -/
def State.note (s : State) (n : CoreIx) (t : TrapNote) : State := s.modJob n fun j => j.note t

/-- A trap delivered: after a TRAP the slack of the next group counts from it (13 R230); after that of an operation in flight
the stream goes on where it stands. -/
def State.trapAt (s : State) (n : CoreIx) (t : TrapNote) : State :=
  let pc := ((s.job n).stream t.strm).pc
  if t.flight then s.deliver n { t with resume := pc }
  else (if t.resume == pc then s else s.passed n t.strm t.resume).deliver n t

-- Errors of commands (17 R281).

/-- A stream whose groups go on: in a trap handler S alone (23 R374). -/
def Job.goesOn (j : Job) (st : Strm) : Bool :=
  (j.stream st).started && !(j.stream st).joined && (j.st == .running || j.st == .frozen || (j.st == .trapped && st == Strm.s))

/-- The oldest command error owed to a stream that goes on, in order of submission (23 R373). -/
def Job.owedNext (j : Job) : Option (Nat × Strm × Cause × Word × Word) :=
  (j.owed.insertionSort fun a b => a.1 ≤ b.1).find? fun o => j.goesOn o.2.1

/-- The trap of a command error: at a group boundary of its stream, with the word that submitted it (17 R281). -/
def Job.owedNote (j : Job) (o : Nat × Strm × Cause × Word × Word) : TrapNote :=
  ⟨o.2.1, o.2.2.1, o.2.2.2.1, o.2.2.2.2, (j.stream o.2.1).pc, false⟩

/-- A command error is owed no longer. -/
def Job.payOwed (j : Job) (o : Nat × Strm × Cause × Word × Word) : Job := { j with owed := j.owed.filter fun p => p.1 != o.1 }

/-- A command error becomes a trap of the present cycle. -/
def Job.noteOwed (j : Job) (o : Nat × Strm × Cause × Word × Word) : Job := (j.payOwed o).note (j.owedNote o)

-- The elastic issue.

/-- A group of the stream is to issue in this cycle: the stream goes on, and the elastic rules are those in force (R62, R374). -/
def State.mayIssue (s : State) (n : CoreIx) (st : Strm) : Bool :=
  let j := s.job n
  j.goesOn st && j.thawAt != s.gcc + 1 && j.saving.isNone && j.tret.isNone && j.stop.isNone &&
    ((j.st == .running && !j.nest.lockstep) || j.st == .trapped)

/-- The stream has had its turn in this cycle. -/
def State.tried (s : State) (n : CoreIx) (st : Strm) : Bool := ((s.job n).stream st).tried == s.gcc + 1

/-- A stream may issue: it has not tried in this cycle, and every stream before it in the order S, V, M, C has (03 R80; 05
R105; 17 R279). -/
def State.canIssue (s : State) (n : CoreIx) (st : Strm) : Bool :=
  s.mayIssue n st && !s.tried n st &&
    (strms.takeWhile fun u => u != st).all fun u => !s.mayIssue n u || s.tried n u

/-- The stream has its turn. -/
def State.try_ (s : State) (n : CoreIx) (st : Strm) : State :=
  s.modJob n fun j => j.modStream st fun t => { t with tried := s.gcc + 1 }

/-- The elastic issue of one stream: its group issues, stalls, or meets a trap (R62). An access of an earlier word that is due
and has to wait stalls the stream (05 R112). -/
def issueTurn (ex : Instr → State → Answer) (s : State) (n : CoreIx) (st : Strm) : Answer :=
  if !s.canIssue n st then .next s
  else
    let s := s.try_ n st
    let j := s.job n
    let hold (h : Hold) (info : Nat) : Answer :=
      .next (s.modJob n fun j => j.modStream st fun t => { t with held := some (h, info) })
    if (j.moves.any fun m => m.strm == st && j.waits (s.heldTile n) (s.core n) m) ||
        (st == .m && j.mops.any fun o => decide (o.due ≤ j.now) && o.massHeld (s.heldTile n) (s.core n)) then hold .carousel 0
    else match issueGroup ex s n st with
    | .trap c info pc resume => .next (s.note n ⟨st, c, info, pc, resume, false⟩)
    | .stop a => a
    | .issued t => .next t
    | .hold h info => hold h info
    | .notDue => .next s

-- A cycle of a lockstep job.

/-- What the groups of one cycle came to: the state so far, holds and traps. -/
structure Cyc where
  s : State
  holds : List Frz
  infos : List (Strm × Hold × Nat)
  traps : List TrapNote
  stop : Option Answer

/-- One stream's group of a cycle (R58). -/
def Cyc.add (ex : Instr → State → Answer) (n : CoreIx) (y : Cyc) (st : Strm) : Cyc :=
  let t := (y.s.job n).stream st
  if !t.started || t.joined || y.stop.isSome then y
  else match issueGroup ex y.s n st with
  | .issued s => { y with s := s }
  | .hold h info => { y with holds := y.holds ++ [⟨h, st⟩], infos := y.infos ++ [(st, h, info)] }
  | .trap c info pc resume => { y with traps := y.traps ++ [⟨st, c, info, pc, resume, false⟩] }
  | .notDue => y
  | .stop a => { y with stop := some a }

/-- The bank conflicts of a cycle: the accesses of earlier words and those charged in it are laid on one another in the order
M, V, S, C; the first of each stream that clashes is a trap of its word (R61). DEDUCED (log entry 26): in the cycle that issues
the later of the two words. -/
def clashes (old new : List Traf) : List Traf × List (Traf × Word) :=
  let ord : List Strm := [.m, .v, .s, .c]
  (ord.flatMap fun st => (old ++ new).filter fun t => t.strm == st).foldl (fun (r : List Traf × List (Traf × Word)) t =>
    if (old.contains t && new.all fun u => u.strm == t.strm) || !t.clash r.1 then (r.1 ++ [t], r.2)
    else (r.1, r.2 ++ [(t, t.spot r.1)])) ([], [])

/-- Freezing events that a job waits out with nothing to try again: they clear when their operation completes (R59). -/
def Hold.inFlight : Hold → Bool
  | .gload | .remote | .kvappend | .carousel => true
  | _ => false

/-- A lockstep job is to try the groups of this cycle: it goes on, has not tried yet, and nothing that it waits out is pending
(R58 to R60). -/
def State.lockMay (s : State) (n : CoreIx) : Bool :=
  let j := s.job n
  j.nest.lockstep && (j.st == .running || j.st == .frozen) && !j.cycDone && j.thawAt != s.gcc + 1 && j.saving.isNone &&
    j.stop.isNone && j.traps.isEmpty && !(j.st == .frozen && j.freeze.isEmpty) && !s.tried n .s &&
    !j.freeze.any fun f => f.kind.inFlight

/-- The groups of a job's streams have had their turn in this cycle: what follows the issue of a cycle may happen (17 R311). -/
def State.turnsDone (s : State) (n : CoreIx) : Bool :=
  !s.lockMay n && strms.all fun st => !s.mayIssue n st || s.tried n st

/-- They have, and none of them has met a trap: the events of R73 that come after traps may happen. -/
def State.groupsDone (s : State) (n : CoreIx) : Bool :=
  s.turnsDone n && (s.job n).traps.isEmpty && (s.job n).stop.isNone

/-- One cycle of a lockstep job: every group due issues, or the job freezes, or a trap annuls the cycle (R58 to R61, R372). An
error that a command owes is delivered at the group boundaries of a cycle that has no trap (R373). -/
def lockTurn (ex : Instr → State → Answer) (s : State) (n : CoreIx) : Answer :=
  if !s.lockMay n then .next s
  else
    let j := s.job n
    let base := strms.foldl (fun (t : State) st => t.try_ n st) (s.modJob n fun j => { j with st := .running, freeze := [] })
    let y := strms.foldl (Cyc.add ex n) ⟨base, [], [], [], none⟩
    match y.stop with
    | some a => a
    | none =>
      let j' := y.s.job n
      let bank := (clashes j.traffic (j'.traffic.drop j.traffic.length)).2
      let notes := y.traps ++ j'.traps ++ bank.map fun c => ⟨c.1.strm, cBankConflict, c.2, c.1.pc, (j.stream c.1.strm).pc, j.traffic.contains c.1⟩
      if !notes.isEmpty then
        .next (base.modJob n fun j => { j with
          traps := notes, traffic := j.traffic.filter fun t => !(bank.any fun c => c.1 == t) })
      else match j.owedNext with
      | some o => .next (base.modJob n fun j => j.noteOwed o)
      | none =>
        if y.holds.isEmpty then .next (y.s.modJob n fun j => { j with cycDone := true })
        else
          .next (base.modJob n fun j =>
            let j : Job := { j with st := .frozen, freeze := y.holds }
            y.infos.foldl (fun (j : Job) i => j.modStream i.1 fun t => { t with held := some (i.2.1, i.2.2) }) j)

end Sys2Proof.Machine
end

