-- ==== Sys2Proof/Machine/CoreEvents.lean ====
section
/-! DEFINITION. The events of a core: results written, answers of global accesses, commands begun, landed, completed and
ended, carousels, deferred traps (13 R211, R212, R221; 15 R274; 17 R278 to R297; 19 R326, R332; 05 R113). -/

namespace Sys2Proof.Machine

-- Results.

/-- The core with its two contexts taken for each other. -/
def State.flip (s : State) (n : CoreIx) : State := s.modCore n fun c => { c with runIx := !c.runIx }

/-- An event of the job of the running context, else of the job that the other one holds in DRAINING (01 R22). -/
def State.eitherCtx (s : State) (n : CoreIx) (f : State → Option State) : Option State :=
  match f s with
  | some t => some t
  | none => if (s.core n).other.st == .draining then (f (s.flip n)).map fun t => t.flip n else none

/-- The words of the job of core n have results in flight that job cycles move. -/
def State.jobRuns (s : State) (n : CoreIx) : Bool :=
  match (s.job n).st with
  | .running | .trapped | .draining => true
  | _ => false

/-- SCALAR_RESULT_WRITE (R211). -/
def execScalarResultWrite (n : CoreIx) (st : Strm) (s : State) : Answer :=
  happen s (s.eitherCtx n fun s => if s.jobRuns n then some (s.modJob n fun j => j.scalarDue st) else none)

/-- VECTOR_RESULT_WRITE (15 R274). -/
def execVectorResultWrite (n : CoreIx) (s : State) : Answer :=
  happen s (s.eitherCtx n fun s => if s.jobRuns n then some (s.modJob n Job.vectorDue) else none)

/-- MATRIX_WORD_COMPLETE (19 R326). -/
def execMatrixWordComplete (n : CoreIx) (s : State) : Answer :=
  happen s (s.eitherCtx n fun s =>
    if s.jobRuns n then
      let r := matrixDue (s.heldTile n) s.gcc (s.core n) (s.job n)
      some (s.setCore n (r.1.setJob r.2))
    else none)

/-- ASWAP_EXCHANGE (19 R332). -/
def execAswapExchange (n : CoreIx) (acc : BitVec 2) (s : State) : Answer :=
  happen s (s.eitherCtx n fun s =>
    if s.jobRuns n then some (s.modJob n fun j => j.swapDue fun a => a == acc) else none)

-- Global accesses.

/-- The answer of an access is known, and its result has not been written. -/
def GAcc.answered (g : GAcc) (n : CoreIx) (s : State) : Option (List Byte × Option Origin) :=
  match g.val with
  | some r => some r
  | none =>
    match g.kind with
    | .atomic .. | .nest => none
    | .spill => some ([], none)
    | _ => (s.loadNow n (s.job n) g).map g.answer

/-- Lines that a load waits for and that nobody has asked for. -/
def State.unasked (s : State) (n : CoreIx) (g : GAcc) : Bool :=
  let d := dieOf n
  !g.wide && g.val.isNone && (match g.kind with | .load .. | .vrow .. => true | _ => false) &&
    (linesOf g.pa g.len).any fun l => ((s.die d).find l).isNone && !s.filling d l && !s.homeDead (l * 256)

/-- The oldest access of a stream whose answer is known writes its registers (R212; 03 R59, R60); lines that a die lost
before they were read are asked for again. A job cycle that has issued ends first. -/
def State.loadDone (s : State) (n : CoreIx) (st : Strm) : Option State :=
  let mine := (s.job n).outs.filter fun g => g.strm == st
  if (s.job n).nest.lockstep && (s.job n).cycDone then none
  else match mine.findSome? fun g => (g.answered n s).map fun r => (g, r) with
  | some (g, r) => some (s.endAccess n g r)
  | none =>
    match mine.find? fun g => s.unasked n g with
    | some g => some ((linesOf g.pa g.len).foldl (fun (t : State) l => t.requestFill (dieOf n) l) s)
    | none => none

/-- GLOBAL_LOAD_COMPLETE (R212). -/
def execGlobalLoadComplete (n : CoreIx) (st : Strm) (s : State) : Answer :=
  happen s (s.eitherCtx n fun s => s.loadDone n st)

/-- The oldest atomic of a stream is performed at its home, after the stream's own earlier stores to the same bytes (07 R117,
R126), in its turn among the writes of a duplicated page (R139, R144) and after those of lower-numbered cores that come in the
cycle in which it does (14 R248); its result is on its way. -/
def State.atomicHome (s : State) (n : CoreIx) (st : Strm) : Option State :=
  let open_ := (s.job n).outs.filter fun g => g.strm == st && g.val.isNone && match g.kind with | .atomic .. => true | _ => false
  match open_.head? with
  | some g =>
    match g.kind with
    | .atomic aop dw b c =>
      if !(s.ownBefore n g).isEmpty || !s.homeFree n g.pa then none
      else
        let (t, now) := s.rdTurn g.pa (s.turnOf n g.ord g.pa (s.job n).nest.part (.atomic aop dw b c g.pa))
        match now with
        | none => if t.rdWrites.length == s.rdWrites.length then none else some { t with homeOrder := alSet t.homeOrder (g.pa / 256) n.val }
        | some w =>
          let (t, r) := t.atomicNow (t.job n) g aop dw b c w.ans
          some { t.modJob n fun j =>
            { j with outs := j.outs.map fun (h : GAcc) => if h.ord == g.ord then { h with val := some r } else h } with
            homeOrder := alSet t.homeOrder (g.pa / 256) n.val }
    | _ => none
  | none => none

/-- HOME_ATOMIC (07 R126). -/
def execHomeAtomic (n : CoreIx) (st : Strm) (s : State) : Answer :=
  happen s (s.eitherCtx n fun s => s.atomicHome n st)

-- Holds.

/-- A hold of a stream ends: its group may issue (R60, R62). -/
def Job.unhold (j : Job) (st : Strm) (k : Hold) : Job :=
  let left := j.freeze.filter fun f => !(f.kind == k && f.strm == st)
  { j.modStream st fun t => { t with held := none } with
    freeze := left
    st := if j.st == .frozen && left.isEmpty then .running else j.st }

/-- STAMPW_TARGET_REACHED (R221). -/
def execStampwTargetReached (n : CoreIx) (st : Strm) (s : State) : Answer :=
  happen s (
    match ((s.job n).stream st).held with
    | some (.stamp, t) => if t ≤ s.gcc then some (s.modJob n fun j => j.unhold st .stamp) else none
    | _ => none)

/-- HELD_SUBMISSION_ACCEPT (17 R278, R312): a place is free again, and the held word is accepted as it issues. -/
def execHeldSubmissionAccept (n : CoreIx) (st : Strm) (s : State) : Answer :=
  happen s (
    match ((s.job n).stream st).held with
    | some (.queueFull, _) => some (s.modJob n fun j => j.unhold st .queueFull)
    | _ => none)

/-- SUBMISSION_TRANSLATION_DONE (17 R279; 05 R99): the walk of a held word's page ends and the die keeps the translation; a
walk that fails is met again, as a system cause, when the word issues. -/
def execSubmissionTranslationDone (n : CoreIx) (st : Strm) (s : State) : Answer :=
  happen s (
    match ((s.job n).stream st).held with
    | some (.translation, page) =>
      let part := (s.job n).nest.part
      let va : Word := BitVec.ofNat 64 (page * pageSize)
      let s := s.modJob n fun j => j.unhold st .translation
      match s.walk part va false false false with
      | .ok x => some (s.modDie (dieOf n) fun e => e.tlbPut part va x)
      | .bad .. => some s
    | _ => none)

-- Commands.

/-- COMMAND_BEGIN (R280). -/
def execCommandBegin (n : CoreIx) (storeQ : Bool) (s : State) : Answer := happen s (s.beginCmd n storeQ)

/-- ENGINE_WRITE_LANDS (05 R102; 17 R280): up to k units of a command land. -/
def execEngineWriteLands (n : CoreIx) (storeQ : Bool) (ix k : Nat) (s : State) : Answer :=
  happen s (some (s.landUnits n storeQ ix k))

/-- QFILL_APPEND (R291): after the SENDs of its cycle (R311). -/
def execQfillAppend (n : CoreIx) (ix : Nat) (s : State) : Answer :=
  happen s (if s.turnsDone n then s.fillQueue n ix else none)

/-- REMOTE_ARRIVAL (R284). -/
def execRemoteArrival (n : CoreIx) (storeQ : Bool) (ix : Nat) (s : State) : Answer := happen s (s.reach n storeQ ix)

/-- COMMAND_COMPLETE (R280). -/
def execCommandComplete (n : CoreIx) (storeQ : Bool) (s : State) : Answer := happen s (s.completeHead n storeQ)

/-- COMMAND_ERROR (R281, R310). -/
def execCommandError (n : CoreIx) (storeQ : Bool) (ix : Nat) (s : State) : Answer := happen s (s.endCmd n storeQ ix)

/-- What the watchdog finds in a job: 0 the beacon, 1 the budget (03 R77; 23 R389). -/
def Job.watch (j : Job) : Option Nat :=
  if !(j.st == .running || j.st == .frozen || j.st == .trapped) then none
  else if j.nest.persist && decide (j.beacon ≥ j.nest.beaconUs.toNat * 21600) then some 0
  else if j.nest.budgetUs != 0 && decide (j.runtime ≥ j.nest.budgetUs.toNat * 21600) then some 1
  else none

/-- The group boundaries at which a cycle begins: no group has issued in it, no trap is pending, and the watchdog, which comes before
traps (03 R73), has found nothing. -/
def State.boundary (s : State) (n : CoreIx) : Bool :=
  let j := s.job n
  j.traps.isEmpty && j.stop.isNone && j.wdog.isNone && j.watch.isNone && !(j.nest.lockstep && j.cycDone) && (strms.all fun st => !s.tried n st) &&
    (j.st == .running || j.st == .trapped)

/-- DEFERRED_COMMAND_TRAP (R281; 23 R373): the oldest error owed is delivered at a group boundary of its stream. -/
def execDeferredCommandTrap (n : CoreIx) (st : Strm) (s : State) : Answer :=
  let j := s.job n
  happen s (
    match j.owedNext with
    | some o => if o.2.1 == st && s.boundary n then some ((s.modJob n fun j => j.payOwed o).trapAt n (j.owedNote o)) else none
    | none => none)

-- Carousels.

/-- CAROUSEL_HEAD_ADVANCE (05 R113). -/
def execCarouselHeadAdvance (n : CoreIx) (car : BitVec 2) (s : State) : Answer :=
  happen s (s.eitherCtx n fun s => ((s.job n).headAdvance car).map fun j => s.setJob n j)

/-- A consumer-side address that is not resolved yet leads to this slot (05 R110). -/
def Job.consumes (j : Job) (car slot a : Nat) : Bool :=
  match consumerSide a with
  | some (c, off) =>
    let k := j.car.toList.getD car Carousel.zero
    c == car && (k.tail + off / k.slotSize) % max 1 k.count == slot
  | none => false

/-- A command that has still to read the slot at TAIL (R297). -/
def Cmd.readsSlot (c : Cmd) (j : Job) (car slot : Nat) : Bool :=
  if c.begun then c.srcSlot == some (car, slot) && decide (c.pos < c.total) && !(twoSided c.op && c.ready)
  else match c.source with
  | some (a, len) => len != 0 && j.consumes car slot a
  | none => false

/-- Reads of the slot at TAIL by words and commands of an order below `ord`, issued before the release or in its cycle, are
outstanding (R297). -/
def State.slotInUse (s : State) (n : CoreIx) (car ord : Nat) : Bool :=
  let c := s.core n
  let j := c.job
  let slot := (j.car.toList.getD car Carousel.zero).tail
  (j.moves.any fun m => decide (m.ord < ord) && m.data.isNone && (m.reads == some (car, slot) || j.consumes car slot m.addr)) ||
    (j.mops.any fun o => decide (o.ord < ord) && o.slots.contains (car, slot) && !o.fin && !o.landed && decide (j.now < o.rdEnd)) ||
    (j.late.any fun l => decide (l.ord < ord) && l.cons == some (car, slot)) ||
    ((c.lq ++ c.sq).any fun d => decide (d.ord < ord) && d.seq == j.seq && d.iter == j.iter && d.readsSlot j car slot)

/-- CAROUSEL_RELEASE_EFFECT (R297; 05 R113): the oldest release takes effect once nothing earlier reads the slot. -/
def State.release (s : State) (n : CoreIx) (car : BitVec 2) : Option State :=
  let j := s.job n
  let c := j.car[car.toFin]
  match c.rel with
  | [] | none :: _ => none
  | some ord :: rest =>
    if s.slotInUse n car.toNat ord then none
    else
      let (c', post) := Carousel.release { c with rel := rest }
      let j := j.modCar car fun _ => c'
      some (s.setJob n (match post with
        | some k => j.modTs (BitVec.ofNat 6 k) fun t => t.addPost c.slotSize
        | none => j))

/-- CAROUSEL_RELEASE_EFFECT. -/
def execCarouselReleaseEffect (n : CoreIx) (car : BitVec 2) (s : State) : Answer :=
  happen s (s.eitherCtx n fun s => s.release n car)

end Sys2Proof.Machine
end

