-- ==== Sys2Proof/Machine/Coherence.lean ====
section
/-! DEFINITION. The events of the coherence protocol: posted stores, invalidations and fills of die caches, read-duplicated
pages, window requests and probes (07_ordering R123 to R147; 01 R17; 17 R299 to R301). -/

namespace Sys2Proof.Machine

-- Posted stores.

/-- The posted stores of all cores, each with its core. -/
def State.allStores (s : State) : List (CoreIx × PStore) :=
  (List.finRange 128).flatMap fun n => (s.core n).psb.map fun p => (n, p)

/-- An earlier store from the same die to the same home is still on its way (01 R17). -/
def State.behind (s : State) (n : CoreIx) (p : PStore) : Bool :=
  s.allStores.any fun e => dieOf e.1 == dieOf n && !e.2.atHome && decide (e.2.ord < p.ord) && s.homeIx e.2.pa == s.homeIx p.pa

/-- Dies that must acknowledge a store to a line: those recorded, of the writer's partition (R143), in service (R142);
the writer's own die keeps its copy unless the page is read-duplicated. -/
def State.asked (s : State) (n : CoreIx) (line : Nat) (own : Bool) : BitVec 8 :=
  let m := s.sharers line &&& s.matesOf (dieOf n) &&& s.shellsvc
  if own then m else setBit m (dieOf n).val false

/-- A posted store changed. -/
def State.modStore (s : State) (n : CoreIx) (ord : Nat) (f : PStore → PStore) : State :=
  s.modCore n fun c => { c with psb := c.psb.map fun (p : PStore) => if p.ord == ord then f p else p }

/-- Stores to a line that have arrived before one and are not ordered yet: each will be given a sequence first (R137). -/
def State.aheadOf (s : State) (n : CoreIx) (p : PStore) (line : Nat) : Nat :=
  (s.allStores.filter fun e => e.2.atHome && !(e.1 == n && e.2.ord == p.ord) && decide (e.2.arr < p.arr) &&
    (linesOf e.2.pa e.2.data.length).contains line).length

/-- Invalidations of a line for the dies of a mask leave its home, for a partition, and its directory entry keeps the dies of another
mask (R123, R136, R141). -/
def State.probe (s : State) (part : BitVec 16) (line : Nat) (told keep : BitVec 8) (q : BitVec 32) (ord : Nat) : State :=
  { s with
    invals := s.invals ++ ((List.finRange 8).filter fun d => told.getLsbD d.val).map fun d =>
      ⟨d, line, q, ord, s.homeInc (line * 256), part⟩
    dir := match alGet s.dir line with
      | some m => if m &&& keep == 0 then alDel s.dir line else alSet s.dir line (m &&& keep)
      | none => s.dir }

/-- The invalidations of a store leave its home (R123, R137): each with the sequence that the store will have. -/
def State.probeFor (s : State) (n : CoreIx) (p : PStore) (own : Bool) : State :=
  (linesOf p.pa p.data.length).foldl (fun (t : State) line =>
    let m := t.asked n line own
    let mine := if own then 0#8 else setBit 0#8 (dieOf n).val true
    let q := t.seqOf line + 1 + BitVec.ofNat 32 (t.aheadOf n p line)
    (t.probe (t.diePart (dieOf n)) line m (mine ||| ~~~(t.matesOf (dieOf n))) q p.ord).modStore n p.ord fun e => { e with wait := e.wait ||| m }) s

/-- STORE_AT_HOME (R123): a posted store reaches the home of its line, which discards it when it is fenced (23 R416) and else
sends invalidations to every other die that may hold a copy. A store to a read-duplicated page takes its place among the writes
of that page (R139, R144). -/
def State.storeHome (s : State) (n : CoreIx) (ix : Nat) : Option State :=
  match (s.core n).psb[ix]? with
  | none => none
  | some p =>
    if p.atHome || s.behind n p then none
    else if s.homeDead p.pa then some (s.orderStore n p)
    else
      let q : PStore := { p with atHome := true, arr := s.ord }
      let s : State := { s.modStore n p.ord fun _ => q with ord := s.ord + 1 }
      if p.rdup then
        some { s with rdWrites := s.rdWrites ++ [s.turnOf n p.ord p.pa (s.diePart (dieOf n)) .store] }
      else some (s.probeFor n q false)

/-- STORE_AT_HOME. -/
def execStoreAtHome (n : CoreIx) (ix : Nat) (s : State) : Answer := happen s (s.storeHome n ix)

/-- A store that arrived earlier at one of the lines of this one waits still: stores to a line are ordered as they arrive. -/
def State.earlierAtHome (s : State) (p : PStore) : Bool :=
  s.allStores.any fun e => e.2.atHome && decide (e.2.arr < p.arr) &&
    (linesOf e.2.pa e.2.data.length).any fun l => (linesOf p.pa p.data.length).contains l

/-- ACKNOWLEDGEMENT_AT_HOME (R123, R139): the home holds every acknowledgement of the store, which is ordered. The
acknowledgements of holders in other packages come with it. -/
def State.ackHome (s : State) (n : CoreIx) (ix : Nat) : Option State :=
  match (s.core n).psb[ix]? with
  | none => none
  | some p =>
    let started := !p.rdup || s.rdWrites.any fun w => w.core == n && w.ord == p.ord && w.started && w.wait.isEmpty
    if !p.atHome || p.wait != 0 || !started || s.earlierAtHome p then none
    else some (s.orderStore n p)

/-- ACKNOWLEDGEMENT_AT_HOME. -/
def execAcknowledgementAtHome (n : CoreIx) (ix : Nat) (s : State) : Answer := happen s (s.ackHome n ix)

-- Die caches.

/-- INVALIDATION_RECEIVED (R137): the messages of one home to one die arrive in the order sent (01 R17). -/
def State.invalReceived (s : State) (ix : Nat) : Option State :=
  match s.invals[ix]? with
  | none => none
  | some i =>
    if (s.invals.take ix).any fun e => e.die == i.die && s.homeIx (e.line * 256) == s.homeIx (i.line * 256) then none
    else some ({ s with invals := s.invals.eraseIdx ix }.invalArrives i)

/-- INVALIDATION_RECEIVED. -/
def execInvalidationReceived (ix : Nat) (s : State) : Answer := happen s (s.invalReceived ix)

/-- The loads of a job of core n that were waiting for the line that has just come, begun before order `lim`, are answered from it,
once (R145). -/
def State.satisfied (s : State) (n : CoreIx) (line lim : Nat) (j : Job) : Job :=
  { j with outs := j.outs.map fun (g : GAcc) =>
      let load := match g.kind with | .load .. | .vrow .. => true | _ => false
      if load && !g.wide && g.val.isNone && decide (g.ord < lim) && (linesOf g.pa g.len).contains line then
        { g with val := (s.loadNow n j g).map g.answer }
      else g }

/-- The loads of both contexts of a core. -/
def State.satisfy (s : State) (n : CoreIx) (line lim : Nat) : State :=
  s.modCore n fun c => { c with ctx0 := s.satisfied n line lim c.ctx0, ctx1 := s.satisfied n line lim c.ctx1 }

/-- Lines that a die cache holds: 64 MiB (01 R12). -/
def dieCacheLines : Nat := 262144

/-- A line comes into a die cache; a full one evicts a line, which one being a free value (R137; log entry 13). -/
def Die.install (d : Die) (k : Nat) (l : CLine) : Die :=
  let rest := d.lines.filter fun e => e.line != l.line
  { d with lines := l :: if rest.length < dieCacheLines then rest else rest.eraseIdx (k % rest.length) }

/-- A die's cache takes a fill; the acknowledgements that it remembered for the line are met. -/
def State.installFill (s : State) (f : Fill) : State :=
  let s := s.modDie f.die fun d =>
    { d.install (Config.freeNat s.free) ⟨f.line, f.data, f.po, f.seq⟩ with
      ackSeq := d.ackSeq.filter fun a => a.1 != f.line }
  { s with free := s.free + 1 }

/-- FILL_RECEIVED (R137, R145): a fill is installed, unless the die has acknowledged a newer invalidation of the line; then
it serves the loads that were waiting for it when the die acknowledged the oldest such, once, and is dropped: those begun since ask anew
(R117, R122). The fills of one home to one die arrive in the order sent (01 R17); one
of an older incarnation of the home is dropped (R141). -/
def State.fillCame (s : State) (ix : Nat) : Option State :=
  match s.fills[ix]? with
  | none => none
  | some f =>
    if !f.sent || (s.fills.take ix).any fun e => e.sent && e.die == f.die && s.homeIx (e.line * 256) == s.homeIx (f.line * 256) then
      none
    else
      let older := (s.die f.die).ackedPast f.line f.seq
      let s : State := { s with fills := s.fills.eraseIdx ix }
      if staleInc f.inc (s.homeInc (f.line * 256)) then some s
      else
        let s := s.installFill f
        match older with
        | some lim =>
          let s := (coresOf f.die).foldl (fun (t : State) n => t.satisfy n f.line lim) s
          some (s.modDie f.die fun d => { d with lines := d.lines.filter fun l => l.line != f.line })
        | none => some s

/-- FILL_RECEIVED. -/
def execFillReceived (ix : Nat) (s : State) : Answer := happen s (s.fillCame ix)

/-- DIE_CACHE_EVICTION (R137): a clean line leaves without notice; stores not yet ordered stay in the posted-store buffer. -/
def execDieCacheEviction (d : DieIx) (line : Nat) (s : State) : Answer :=
  happen s (if ((s.die d).find line).isSome then
    some (s.modDie d fun e => { e with lines := e.lines.filter fun l => l.line != line }) else none)

-- Read-duplicated pages.

/-- A write held at a page still has the store, the atomic or the command that makes it. -/
def State.writerThere (s : State) (w : RdWrite) : Bool :=
  let c := s.core w.core
  match w.kind with
  | .store => c.psb.any fun p => p.ord == w.ord
  | .atomic .. => (c.ctx0.outs ++ c.ctx1.outs).any fun g => g.ord == w.ord
  | .engine _ => (c.lq ++ c.sq).any fun d => d.ord == w.ord
  | .bytes .. | .farAtomic .. => true

/-- The addresses that a held write changes: the first, and how many bytes. -/
def State.writeSpan (s : State) (w : RdWrite) : Nat × Nat :=
  match w.kind with
  | .store => match (s.core w.core).psb.find? fun p => p.ord == w.ord with
    | some p => (p.pa, p.data.length)
    | none => (w.page * pageSize, 0)
  | .atomic _ dw _ _ pa | .farAtomic _ dw _ _ pa _ _ => (pa, if dw then 8 else 4)
  | .engine bs | .bytes bs _ => ((bs.map Prod.fst).headD (w.page * pageSize), bs.length)

/-- What a held write asks of the owner of the page that is duplicated here, at an offset of its window (R139). -/
def State.writeSay (s : State) (w : RdWrite) (off : Nat) : FabricSay :=
  match w.kind with
  | .store => .store off (((s.core w.core).psb.find? fun p => p.ord == w.ord).map PStore.data |>.getD []) w.ord
  | .atomic aop dw b c _ | .farAtomic aop dw b c _ _ _ => .atomic off aop dw b c w.ord
  | .engine bs | .bytes bs _ => .store off (bs.map fun b => b.2.1) w.ord

/-- The number of a line in the peer tier, by which other packages name it (01 R30). -/
def State.peerLine (s : State) (line : Nat) : Nat :=
  let a := line * 256
  (peerBase + s.pkgnum.toNat * p2 40 + if a < lpddrBase then a else 0x8000000000 + (a - lpddrBase)) / 256

/-- The round of a write begins (R139, R144): the packages that hold the page are told of its lines, or its owner of the write when
the page is a duplicate, and the dies of this package, of the writer's partition, that hold the lines. -/
def State.openRound (s : State) (page : Nat) (w : RdWrite) : State :=
  let (pa, len) := s.writeSpan w
  let lines := linesOf pa len
  let told : List (Nat × FabricSay) := match s.dupAt (page * pageSize) with
    | some d => [((d.peer - peerBase) / p2 40, s.writeSay w ((d.peer - peerBase) % p2 40 + (pa - d.frame)))]
    | none => ((alGet s.holders page).getD []).flatMap fun k => lines.map fun l => (k, .inval (s.peerLine l))
  let dies (t : State) (l : Nat) : BitVec 8 := t.sharers l &&& w.mask &&& t.shellsvc
  let s : State := { s with
    rdWrites := s.rdWrites.map fun (v : RdWrite) => if w.same v then
      { v with
        started := true, wait := told.map Prod.fst
        dies := match w.kind with | .store => 0 | _ => lines.foldl (fun m l => m ||| dies s l) 0 } else v
    fabricOut := s.fabricOut ++ told.map fun x => ⟨x.1, s.incarn, w.part, x.2⟩ }
  match w.kind with
  | .store => match (s.core w.core).psb.find? fun p => p.ord == w.ord with
    | some p => s.probeFor w.core p true
    | none => s
  | _ => lines.foldl (fun (t : State) l => t.probe w.part l (dies t l) (~~~w.mask) (t.seqOf l + 1) w.ord) s

/-- An atomic of another package performed at its home, and answered (07 R126, R139); a fenced home answers with poison (23 R416). -/
def State.farAtomicNow (s : State) (mask : BitVec 8) (part : BitVec 16) (aop : BitVec 4) (dw : Bool) (b c : Word) (pa pkg num : Nat)
    (ans : Option (List Byte × Bool)) : State :=
  let (t, old, po) := if s.homeDead pa then (s, [], some (PoU.raw cDieFenced)) else s.homeAtomic mask pa aop dw b c ans
  { t with fabricOut := t.fabricOut ++ [⟨pkg, t.incarn, part, .answer num old po.isSome⟩] }

/-- A write of the host or of another package whose round is over is ordered, and answered (R139); those of this package's cores are
made by what issued them. -/
def State.orderHeld (s : State) (w : RdWrite) : Option State :=
  let t : State := { s with rdWrites := s.rdWrites.filter fun v => !w.same v }
  match w.kind with
  | .bytes bs reply =>
    let t := t.orderAtHome w.mask bs
    some (match reply with
      | some (k, num) => { t with fabricOut := t.fabricOut ++ [⟨k, t.incarn, w.part, .ordered num⟩] }
      | none => t)
  | .farAtomic aop dw b c pa pkg num => some (t.farAtomicNow w.mask w.part aop dw b c pa pkg num w.ans)
  | _ => none

/-- RDUP_INVALIDATION_ROUND (R139, R144): with no round open on the page, that of the oldest write begins; a round that is over
orders the write of the host or of another package that it was for. A write whose writer is gone leaves. -/
def State.rdupRound (s : State) (page : Nat) : Option State :=
  match s.rdWrites.find? fun w => w.page == page with
  | none => none
  | some first =>
    let w := (s.rdWrites.find? fun w => w.page == page && w.started).getD first
    if !s.writerThere w then some { s with rdWrites := s.rdWrites.filter fun v => !w.same v }
    else if !w.started then some (s.openRound page w)
    else if w.over then s.orderHeld w
    else none

/-- RDUP_INVALIDATION_ROUND. -/
def execRdupInvalidationRound (page : Nat) (s : State) : Answer := happen s (s.rdupRound page)

-- Windows.

/-- A window command of a queue that acts next, with its place. -/
def Core.windowCmd (c : Core) (store : Bool) : Option Cmd :=
  (c.queue store).find? fun d => d.begun && decide (d.pos < d.total) && d.fail.isNone && match d.op with
    | .wget .. | .wown .. => !store
    | .wput .. | .wdrop .. | .wdecl .. => store
    | _ => false

/-- A command ends with an error (R281). -/
def State.spoil (s : State) (n : CoreIx) (store : Bool) (c : Cmd) (cause : Cause) (info : Word) : State :=
  s.modCmd n store c.ord fun d => { d with fail := some cause, info := info }

/-- One tile of a window command is settled: 4,096 arrivals (R300, R301). -/
def State.tileDone (s : State) (n : CoreIx) (store : Bool) (c : Cmd) : State :=
  (s.arriveOwn n c 4096).modCmd n store c.ord fun d => { d with pos := d.pos + 1 }

/-- Nothing lands in this cycle in a home tile or in a copy of it: its data are what they will be (07 R118). -/
def State.tileQuiet (s : State) (home : CoreIx) (tile : Nat) : Bool :=
  !(s.core home).landsIn tile && !(s.core home).merging tile && s.winQuiet home tile

/-- The next tile of a WGET or WOWN: settled without traffic, refused, or put before its home, which serves one request for
a tile at a time (R132, R133, R143, R147, R300). -/
def State.askTile (s : State) (n : CoreIx) (c : Cmd) (own : Bool) : Option State :=
  let l := locator c.xm
  let tile := c.xs.toNat / 4096 + c.pos
  let homeTile := l.loc / 4096 + c.pos
  let home := l.core
  let va : Word := c.xs + BitVec.ofNat 64 (4096 * c.pos)
  let held := (s.core n).copyAt tile
  if (s.core home).winReqs.any fun r => r.req == n && r.tile == tile then none
  else if !s.localName l || !s.corePart home c.part then some (s.spoil n false c cPageProtection s.freeWord)
  else if !s.coreUp home then some (s.spoil n false c cDieFenced (BitVec.ofNat 64 home.val))
  else if (held.any fun w => !(w.home == home && w.homeTile == homeTile)) ||
      held.isNone && decide ((s.core n).copies.length ≥ 512) then some (s.spoil n false c cExtentViolation va)
  else if held.any fun w => w.st == .e || w.st == .m || (!own && w.st != .i) then some (s.tileDone n false c)
  else if !(s.core home).inWindow homeTile then some (s.spoil n false c cExtentViolation va)
  else if (s.core home).winReqs.any fun r => r.homeTile == homeTile then none
  else
    let needs := s.winNeeds n home homeTile own
    if needs.isEmpty && s.tileQuiet home homeTile then
      some ((s.winSettle n home homeTile tile own).tileDone n false c)
    else
      let inc := (s.die (dieOf n)).incarn
      some (s.modCore home fun k => { k with winReqs := k.winReqs ++ [⟨n, homeTile, tile, own, needs, inc, c.part⟩] })

/-- The tiles of a window are undeclared (R299): their copies go to I, each once nothing lands in it; with the last merge in place
the window is gone. -/
def State.undeclare (s : State) (n : CoreIx) (w : BitVec 3) (c : Cmd) : Option State :=
  let old := (s.core n).win[w.toFin]
  let held := old.tiles.filter fun x => !(s.winHolders n x).isEmpty
  if (s.core n).winReqs.any fun r => old.tiles.contains r.homeTile then none
  else if held.isEmpty then
    if old.tiles.any (s.core n).merging then none
    else some ((s.modCore n fun k => { k with win := k.win.set w.toFin ⟨0, 0⟩ }).modCmd n true c.ord fun d => { d with pos := 1 })
  else match held.filter (s.winQuiet n) with
  | [] => none
  | ready => some (ready.foldl (fun (t : State) x => t.winRecall n x) s)

/-- The next step of a WPUT, WDROP or WDECL (R132, R299, R301); a copy in which a write lands gives it up in the next cycle. -/
def State.storeTile (s : State) (n : CoreIx) (c : Cmd) : Option State :=
  let tile := c.xs.toNat / 4096 + c.pos
  match c.op with
  | .wdecl w .. =>
    if c.xs == 0 then s.undeclare n w c
    else
      some ((s.modCore n fun k => { k with win := k.win.set w.toFin ⟨c.xm.toNat, c.xs.toNat⟩ }).modCmd n true c.ord fun d =>
        { d with pos := 1 })
  | op =>
    match (s.core n).copyAt tile with
    | none => some (s.spoil n true c cExtentViolation (BitVec.ofNat 64 (tile * 4096)))
    | some _ =>
      if (s.core n).landsIn tile then none
      else match op with
      | .wdrop .. => some ((s.winDrop n tile).tileDone n true c)
      | _ => some ((s.winPut n tile).tileDone n true c)

/-- WINDOW_REQUEST_AT_HOME (R133, R299 to R301): the next step of the window command of a core's load queue, else of its
store queue. -/
def State.windowRequest (s : State) (n : CoreIx) : Option State :=
  let first := match (s.core n).windowCmd false with
    | some c => s.askTile n c (match c.op with | .wown .. => true | _ => false)
    | none => none
  match first with
  | some t => some t
  | none =>
    match (s.core n).windowCmd true with
    | some c => s.storeTile n c
    | none => none

/-- WINDOW_REQUEST_AT_HOME. -/
def execWindowRequestAtHome (n : CoreIx) (s : State) : Answer := happen s (s.windowRequest n)

/-- WINDOW_PROBE_AT_HOLDER (R132, R133): the next holder answers a request in service at home core `n`; with the last
answer, and what it merged in place, the requester's tile is settled. A request of an older incarnation of the asking die is
dropped (R141). -/
def State.windowProbe (s : State) (n : CoreIx) (ix : Nat) : Option State :=
  match (s.core n).winReqs[ix]? with
  | none => none
  | some r =>
    let closed (s : State) : State := s.modCore n fun k => { k with winReqs := k.winReqs.filter fun q => q.homeTile != r.homeTile }
    if staleInc r.inc (s.die (dieOf r.req)).incarn then some (closed s)
    else match r.probes with
    | h :: rest =>
      if ((s.core h).copyOf n r.homeTile).any fun w => (s.core h).landsIn w.tile then none
      else some ((s.winProbe h n r.homeTile r.own).modCore n fun k =>
        { k with winReqs := k.winReqs.map fun (q : WinReq) => if q.homeTile == r.homeTile then { q with probes := rest } else q })
    | [] =>
      if !s.tileQuiet n r.homeTile then none
      else
        let s := (closed s).winSettle r.req n r.homeTile r.tile r.own
        match (s.core r.req).windowCmd false with
        | some c => if c.xs.toNat / 4096 + c.pos == r.tile then some (s.tileDone r.req false c) else some s
        | none => some s

/-- WINDOW_PROBE_AT_HOLDER. -/
def execWindowProbeAtHolder (n : CoreIx) (ix : Nat) (s : State) : Answer := happen s (s.windowProbe n ix)

/-- The tile that a stream waits to write at its home, with the stream. -/
def Job.homeHold (j : Job) : Option (Strm × Nat) :=
  strms.findSome? fun st => match (j.stream st).held with
    | some (.homeWrite, tile) => some (st, tile)
    | _ => none

/-- The tiles that accesses in flight, and masses, wait to write at their home. -/
def State.waitedTiles (s : State) (n : CoreIx) : List Nat :=
  let j := s.job n
  ((j.moves.filter fun m => m.data.isSome && decide (m.due ≤ j.now)).flatMap fun m =>
    match j.whereTo m m.len with
    | some a => (tilesOf a m.len).filter (s.heldTile n)
    | none => []) ++
  (j.mops.filter fun o => decide (o.due ≤ j.now) && o.massHeld (s.heldTile n) (s.core n)).flatMap fun o =>
    (tilesOf (o.base 3) 256).filter (s.heldTile n)

/-- HOME_WRITE_RELEASE (R134): the holders of a tile that a stream of its home core, or a row of it in flight, waits to write go
to I, merged first; once that has landed the write goes on, on top of it. -/
def State.homeRelease (s : State) (n : CoreIx) : Option State :=
  let hold := (s.job n).homeHold
  let tiles := (hold.toList.map Prod.snd ++ s.waitedTiles n).filter fun x => !(s.winHolders n x).isEmpty
  if !tiles.isEmpty then
    match tiles.find? (s.winQuiet n) with
    | some x => some (s.winRecall n x)
    | none => none
  else match hold with
  | some (st, tile) => if s.heldTile n tile then none else some (s.modJob n fun j => j.unhold st .homeWrite)
  | none => none

/-- HOME_WRITE_RELEASE. -/
def execHomeWriteRelease (n : CoreIx) (s : State) : Answer := happen s (s.homeRelease n)

-- Messages of other packages (R138 to R143; 25 R407; log entry 1).

/-- The die that an address leads to, if to one: that of its home, or of its core. -/
def State.homeDie (s : State) (pa : Nat) : Option DieIx :=
  match s.place pa with
  | .bonded d => some d
  | .aper c _ => some (dieOf c)
  | _ => none

/-- The duplicate here of a line that a peer package owns. -/
def State.dupOf (s : State) (line : Nat) : Option Dup :=
  s.dups.find? fun d => decide (d.peer ≤ line * 256) && decide (line * 256 < d.peer + pageSize)

/-- The die that a message addresses; what the RM die homes or takes is addressed to none. -/
def State.addressed (s : State) : FabricAsk → Option DieIx
  | .land core .. | .arrive core .. => some (dieOf core)
  | .write pa _ | .store pa .. | .atomic pa .. | .read pa .. => s.homeDie pa
  | .register page => s.homeDie (page * pageSize)
  | .ack line | .fetch line _ => s.homeDie (line * 256)
  | .inval line => (s.dupOf line).bind fun d => s.homeDie d.frame
  | .ordered ord | .answer ord _ _ => (s.rdWrites.find? fun w => w.ord == ord).bind fun w => s.homeDie (w.page * pageSize)
  | .submit .. => none

/-- A message is accepted when a valid entry with its partition ID contains the die that it addresses (25 R407). -/
def State.accepts (s : State) (m : FabricIn) : Bool :=
  match s.partOf m.part with
  | some p => (s.addressed m.ask).all fun d => p.dies.getLsbD d.val
  | none => false

/-- An answer to a message, with the partition for which it was asked (R141). -/
def State.reply (s : State) (m : FabricIn) (say : FabricSay) : State :=
  { s with fabricOut := s.fabricOut ++ [⟨m.pkg, s.incarn, m.part, say⟩] }

/-- An owner's invalidation of a line that is duplicated here (R140, R144): the line is fetched again on its next read, the die
caches of the partition that hold it are told (R143), and the owner has its acknowledgement when they all have answered, or at once
where a write to the page waits here or nothing is held. -/
def State.ownerInval (s : State) (m : FabricIn) (line : Nat) : State :=
  match s.dupOf line with
  | none => s.reply m (.ack line)
  | some d =>
    let off := line * 256 - d.peer
    let here := (d.frame + off) / 256
    let q := s.seqOf here + 1
    let told := s.sharers here &&& s.shellsvc &&& s.partDies m.part
    let s : State := { s with
      seqs := alSet s.seqs here q
      dups := s.dups.map fun (e : Dup) =>
        if e.frame == d.frame then
          { e with fresh := alSet e.fresh (off / 256) (e.gen + 1 + s.free), chg := e.chg.filter fun c => c.1 / 256 != off / 256 }
        else e
      free := s.free + 1 }
    let s := s.probe m.part here told (~~~(s.partDies m.part)) q s.ord
    if s.rdWrites.any fun w => w.page == d.frame / pageSize then { s.reply m (.ack line) with ord := s.ord + 1 }
    else
      { { s with holdRounds := s.holdRounds ++ [(s.ord, m.pkg, line, m.part)] }.roundOver s.ord with ord := s.ord + 1 }

/-- A writer in another package has its store ordered here, at once or in its turn (R139, R144), and is told. -/
def State.ownerStore (s : State) (m : FabricIn) (pa : Nat) (data : List Byte) (num : Nat) : State :=
  if s.takesTurns pa then s.orderInTurn (s.partDies m.part) m.part pa (cleanBytes pa data) (some (m.pkg, num))
  else (s.orderAtHome (s.partDies m.part) (cleanBytes pa data)).reply m (.ordered num)

/-- A writer in another package has its atomic performed here, at once or in its turn. -/
def State.ownerAtomic (s : State) (m : FabricIn) (pa : Nat) (aop : BitVec 4) (dw : Bool) (b c : Word) (num : Nat) : State :=
  if s.takesTurns pa then
    let w := s.turnOf 0 s.ord pa m.part (.farAtomic aop dw b c pa m.pkg num)
    { s with rdWrites := s.rdWrites ++ [w], ord := s.ord + 1 }
  else s.farAtomicNow (s.partDies m.part) m.part aop dw b c pa m.pkg num none

/-- What a copy of another package reads (R290): memory at its home, or the scratchpad of a core that engines reach; `none` where
nothing answers it. -/
def State.peerRead (s : State) (m : FabricIn) (pa n : Nat) : Option (List Byte × Bool) :=
  match s.place pa with
  | .bonded d => let r := s.homeRead d (fun _ _ => false) pa n; some (r.1, r.2.isSome)
  | .lpddr => let r := s.homeRead 0 (fun _ _ => false) pa n; some (r.1, r.2.isSome)
  | .aper c a =>
    if s.coreUp c && s.corePart c m.part then
      let r := (s.core c).read a n
      some (r.1, r.2.isSome)
    else none
  | _ => none

/-- The phase at which the first message of a command of another package found a turnstile: it is kept until the last (17 R284). -/
def State.farPhase (s : State) (m : FabricIn) (cmd : Nat) (core : CoreIx) (k : BitVec 6) (last : Bool) : State × Bool :=
  let mine (f : FarPhase) : Bool := f.pkg == m.pkg && f.cmd == cmd && f.core == core && f.ts == k
  let ph := match s.farPhases.find? mine with
    | some f => f.phase
    | none => ((s.job core).ts[k.toFin]).phase
  let rest := s.farPhases.filter fun f => !mine f
  ({ s with farPhases := if last then rest else rest ++ [⟨m.pkg, cmd, core, k, ph⟩] }, ph)

/-- Arrivals of a command of another package at a turnstile of the running job (R102, R284). -/
def State.farArrive (s : State) (m : FabricIn) (cmd : Nat) (core : CoreIx) (k : BitVec 6) (n : Nat) (last : Bool) : State :=
  let (s, ph) := s.farPhase m cmd core k last
  s.modJob core fun j => j.modTs k fun x => x.addArr ph n

/-- What an accepted message does; `false` when it has to be tried again in a later cycle (17 R284, R290, R294). -/
def State.fabricAct (s : State) (m : FabricIn) : State × Bool :=
  let own := s.pkgnum.toNat
  match m.ask with
  | .land core a data ts cmd last =>
    if !s.coreUp core then (s, true)
    else
      -- the bytes of another package come after those of every core of this one (R118)
      let writer : CoreIx := if core == 127 then 126 else 127
      let s := match ts with | some k => (s.farPhase m cmd core k false).1 | none => s
      match s.landOn writer core true a (data.map fun b => (b, none)) 0 (tilesOf a data.length) [] with
      | .done t => (match ts with | some k => t.farArrive m cmd core k data.length last | none => t, true)
      | .wait t => (t, false)
      | .bad .. => (s, true)
  | .write pa data =>
    let a := canon own pa
    (if s.isDram pa && !s.homeDead pa then s.orderInTurn (s.partDies m.part) m.part a (cleanBytes a data) none else s, true)
  | .arrive core k len cmd last => (if s.coreUp core then s.farArrive m cmd core k len last else s, true)
  | .register page =>
    ({ s with holders := alSet s.holders page (m.pkg :: ((alGet s.holders page).getD []).filter fun k => k != m.pkg) }, true)
  | .store pa data num => (if s.isDram pa && !s.homeDead pa then s.ownerStore m (canon own pa) data num else s, true)
  | .atomic pa aop dw b c num => (if s.isDram pa then s.ownerAtomic m (canon own pa) aop dw b c num else s, true)
  | .ack line =>
    let page := canon own (line * 256) / pageSize
    ({ s with rdWrites := s.rdWrites.map fun (w : RdWrite) =>
        if w.page == page && w.started then { w with wait := w.wait.erase m.pkg } else w }, true)
  | .inval line => (s.ownerInval m line, true)
  | .ordered num =>
    ({ s with rdWrites := s.rdWrites.map fun (w : RdWrite) => if w.ord == num then { w with wait := w.wait.erase m.pkg } else w }, true)
  | .answer num old po =>
    ({ s with rdWrites := s.rdWrites.map fun (w : RdWrite) =>
        if w.ord == num then { w with wait := w.wait.erase m.pkg, ans := some (old, po) } else w }, true)
  | .read pa n num =>
    (match s.peerRead m (canon own pa) n with
      | some (bs, po) => s.reply m (.data num bs po)
      | none => s.reply m .notHeld, true)
  | .fetch line num =>
    -- a read of a line whose page has a round open is held at the owner
    let a := canon own (line * 256)
    if s.rdWrites.any fun w => w.started && w.page == a / pageSize then (s, false)
    else (match s.peerRead m a 256 with
      | some (bs, po) => s.reply m (.data num bs po)
      | none => s.reply m .notHeld, true)
  | .submit va bytes =>
    ({ s with subs := s.subs ++ [⟨s.ord, none, none, some m.part, va, some bytes, false, some m.pkg⟩], ord := s.ord + 1 }, true)

/-- A message of another package comes (R141, R143; 25 R407): one of an older incarnation of its sender is dropped, one that no
valid entry covers is answered NOT_HELD; one that cannot act yet waits. -/
def State.fabricCame (s : State) (m : FabricIn) : State :=
  if (alGet s.fabricInc m.pkg).any fun r => staleInc m.inc r then s
  else
    let s := { s with fabricInc := alSet s.fabricInc m.pkg m.inc }
    if !s.accepts m then s.reply m .notHeld
    else
      let (t, done) := s.fabricAct m
      if done then t else { t with fabricIn := t.fabricIn ++ [m] }

/-- The messages that wait are tried again. -/
def State.fabricRetry (s : State) : State := s.fabricIn.foldl State.fabricCame { s with fabricIn := [] }

end Sys2Proof.Machine
end

