-- ==== Sys2Proof/Machine/Launch.lean ====
section
/-! DEFINITION. Launches before they run: nest records, their checks, variant tables, the numbering of iterations, the
choice of a job and of its core (03_execution R44 to R54, R64 to R70; 25 R398, R399). -/

namespace Sys2Proof.Machine

-- Reading a record.

/-- n bytes at a physical address as the RM reads them, at their homes, with the poison of the first poisoned unit; the bytes of a
page of another package are free values (log entry 14). -/
def State.rmRead (s : State) (pa n : Nat) : List Byte × Option PoU :=
  match s.place pa with
  | .bonded _ | .lpddr =>
    if s.homeDead pa then (List.replicate n 0, some (.raw cDieFenced))
    else (s.homeBytes (canon s.pkgnum.toNat pa) n, s.homePo (canon s.pkgnum.toNat pa) n)
  | .peer _ _ => ((List.range n).map fun i => Config.peerByte (pa + i) (s.gcc + s.ord), none)
  | .aper _ _ | .mgmt | .reserved => (List.replicate n 0, none)

/-- One byte at a virtual address of a partition; `none` when it cannot be read (R48): the aperture and the peer tier are for
engines, copies and duplicates (01 R25, R32). -/
def State.vaByte (s : State) (part : BitVec 16) (va : Nat) : Option Byte :=
  match s.walk part (BitVec.ofNat 64 va) true false false with
  | .bad .. => none
  | .ok x =>
    if s.fetchBad x.frame then none
    else match s.rmRead (x.frame + va % pageSize) 1 with
    | (b :: _, none) => some b
    | _ => none

/-- n bytes at a virtual address of a partition, all of them or none. -/
def State.vaBytes (s : State) (part : BitVec 16) (va n : Nat) : Option (List Byte) :=
  ((List.range n).map fun i => s.vaByte part (va + i)).foldr (fun b l => match b, l with
    | some b, some l => some (b :: l)
    | _, _ => none) (some [])

-- A record's fields (R44 to R46).

/-- An operand declaration (R46). -/
def declOf (b : List Byte) (e : Nat) : Decl :=
  let o := 0x80 + 32 * e
  let w : Word := BitVec.ofNat 64 (fieldAt b o 8)
  { base := w &&& 0x01FFFFFFFFFFFFC0, len := BitVec.ofNat 64 (fieldAt b (o + 8) 8), rd := w.getLsbD 0, w := w.getLsbD 1,
    pin := w.getLsbD 2, stride := Vector.ofFn fun d => BitVec.ofNat 32 (fieldAt b (o + 16 + 4 * d.val) 4) }

/-- The fields of a record at va (R44 to R46). -/
def nestOf (va : Word) (b : List Byte) : NestRec :=
  let f : Word := BitVec.ofNat 64 (fieldAt b 0 8)
  { va := va, part := (f >>> 32).setWidth 16, stages := (f >>> 24 &&& 0xFF).toNat,
    walk := Vector.ofFn fun k => (f >>> (16 + 2 * k.val)).setWidth 2, ndim := (f >>> 12 &&& 0xF).toNat,
    smask := (f >>> 8).setWidth 4, gang := f.getLsbD 6, persist := f.getLsbD 5, prio := (f >>> 2 &&& 7).toNat,
    lockstep := f &&& 3 == 1, bound := Vector.ofFn fun d => BitVec.ofNat 64 (fieldAt b (8 + 8 * d.val) 8),
    dies := BitVec.ofNat 8 (fieldAt b 0x28 1), maxcores := fieldAt b 0x29 1, gangmask := BitVec.ofNat 16 (fieldAt b 0x2A 2),
    entry := Vector.ofFn fun k => BitVec.ofNat 64 (fieldAt b (0x30 + 8 * k.val) 8), carve := BitVec.ofNat 32 (fieldAt b 0x50 4),
    ovfva := BitVec.ofNat 64 (fieldAt b 0x58 8), vartab := BitVec.ofNat 64 (fieldAt b 0x60 8),
    beaconUs := BitVec.ofNat 32 (fieldAt b 0x68 4), budgetUs := BitVec.ofNat 32 (fieldAt b 0x6C 4),
    donets := BitVec.ofNat 64 (fieldAt b 0x70 8), donecnt := BitVec.ofNat 32 (fieldAt b 0x78 4),
    tag := BitVec.ofNat 32 (fieldAt b 0x7C 4), decl := Vector.ofFn fun e => declOf b e.val }

/-- Dimension named by a WALK slot. -/
def NestRec.dim (r : NestRec) (k : Nat) : Nat := (r.walk.toList.getD k 0).toNat

/-- Bound of a dimension. -/
def NestRec.boundOf (r : NestRec) (d : Nat) : Nat := (r.bound.toList.getD d 0).toNat

/-- Iterations of a record (R51). -/
def NestRec.iterations (r : NestRec) : Nat := ((List.range r.ndim).map r.boundOf).foldl (· * ·) (max r.stages 1)

/-- Number of ones among the first n bits. -/
def ones (n m : Nat) : Nat := ((List.range n).filter fun i => m.testBit i).length

-- Checks (R48).

/-- Must-be-zero fields of a record outside its operands (R44, R45). -/
def recordMbz (b : List Byte) : Bool :=
  fieldAt b 0 8 / p2 48 != 0 || (fieldAt b 0 8).testBit 7 || fieldAt b 0x2C 4 != 0 || fieldAt b 0x54 4 != 0

/-- EBADNEST: what the record's bytes alone show. -/
def badBytes (va : Word) (b : List Byte) : Bool := va.toNat % 64 != 0 || recordMbz b || decide (fieldAt b 0 1 % 4 ≥ 2)

/-- EBADNEST: what its fields show. -/
def NestRec.bad (r : NestRec) : Bool :=
  let dims := (List.range r.ndim).map r.dim
  r.ndim == 0 || decide (r.ndim > 4) || r.smask == 0 ||
    dims.any (fun d => decide (r.ndim ≤ d)) || dims.eraseDups.length != r.ndim ||
    ((List.range 4).drop r.ndim).any (fun k => r.dim k != 0 || r.boundOf k != 0) ||
    decide (r.iterations > p2 48) || r.dies == 0 || decide (r.maxcores > 16) ||
    (List.range 4).any (fun k => r.smask.getLsbD k &&
      ((r.entry.toList.getD k 0) == 0 || (r.entry.toList.getD k 0).toNat % 8 != 0)) ||
    r.carve.toNat % 4096 != 0 || decide (r.carve.toNat > 0x100000) || r.ovfva.toNat % pageSize != 0 ||
    (r.persist && r.beaconUs == 0)

/-- EBADOPERAND (R46, R48). -/
def badOperands (b : List Byte) : Bool :=
  (List.range 16).any fun e =>
    let w := fieldAt b (0x80 + 32 * e) 8
    fieldAt b (0x88 + 32 * e) 8 != 0 && (w % 4 == 0 || w / p2 57 != 0 || w / 8 % 8 != 0)

/-- EPRIVILEGE (R48), for a submitter of partition `part`. -/
def NestRec.unprivileged (r : NestRec) (s : State) (part : BitVec 16) : Bool :=
  match s.partOf part with
  | some p => r.part != part || r.dies &&& ~~~p.dies != 0 || (r.prio == 7 && !p.priv)
  | none => true

/-- Dies with both domains in service (R41, R48). -/
def State.bothUp (s : State) : BitVec 8 := s.diesvc &&& s.shellsvc

/-- ENOVARIANT: a die of a gang, or a core that it names, is not in service (R68). -/
def NestRec.unplaced (r : NestRec) (s : State) : Bool :=
  r.dies &&& ~~~s.bothUp != 0 ||
    (List.finRange 128).any fun n =>
      r.dies.getLsbD (dieOf n).val && r.gangmask.getLsbD (n.val % 16) && !s.coresvc.getLsbD n.val

/-- EBADGANG (R48). -/
def NestRec.badGang (r : NestRec) : Bool :=
  !r.lockstep || r.gangmask == 0 || r.iterations != ones 8 r.dies.toNat * ones 16 r.gangmask.toNat

/-- The checks from EBADNEST to ENODIE in order; `none` when all pass. -/
def State.firstChecks (s : State) (part : BitVec 16) (b : List Byte) (r : NestRec) : Option Nat :=
  if badBytes r.va b || r.bad then some 1
  else if badOperands b then some 2
  else if r.unprivileged s part then some 3
  else if r.dies &&& s.bothUp == 0 then some 4
  else none

/-- The record with the first matching entry of its variant table in place of its own placement, or the code of its
refusal (R67, R68). -/
def State.variant (s : State) (part : BitVec 16) (r : NestRec) : Except Nat NestRec :=
  match s.vaBytes part r.vartab.toNat 16 with
  | none => .error 7
  | some hd =>
    let n := fieldAt hd 0 4
    if n == 0 || decide (n > 256) then .error 1
    else match s.vaBytes part (r.vartab.toNat + 16) (64 * n) with
    | none => .error 7
    | some es =>
      let entry (i : Nat) : List Byte := (es.drop (64 * i)).take 64
      if fieldAt hd 4 12 != 0 ||
          (List.range n).any (fun i => fieldAt (entry i) 9 1 != 0 || fieldAt (entry i) 12 4 != 0 || fieldAt (entry i) 48 16 != 0) then
        .error 1
      else match (List.range n).find? fun i => fieldAt (entry i) 0 8 == s.defectsig.toNat with
      | none => .error 5
      | some i =>
        let e := entry i
        .ok { r with
          dies := BitVec.ofNat 8 (fieldAt e 8 1), gangmask := BitVec.ofNat 16 (fieldAt e 10 2)
          entry := Vector.ofFn fun k => BitVec.ofNat 64 (fieldAt e (16 + 8 * k.val) 8) }

/-- A record checked (R48, R68): the placement to run, or the code of the first check that fails. -/
def State.check (s : State) (part : BitVec 16) (va : Word) (b : List Byte) : Except Nat NestRec :=
  let r := nestOf va b
  match s.firstChecks part b r with
  | some c => .error c
  | none =>
    if !r.gang then .ok r
    else
      let v : Except Nat NestRec :=
        if r.vartab == 0 then .ok r
        else match s.variant part r with
          | .error c => .error c
          | .ok v => match s.firstChecks part b v with | some c => .error c | none => .ok v
      match v with
      | .error c => .error c
      | .ok v => if v.unplaced s then .error 5 else if v.badGang then .error 6 else .ok v

-- Acceptance.

/-- A submission is answered: SUBSTAT and its message, the x register of the NEST, whose job may be DRAINING in the other
context, or a message to the package that sent it (25 R398; 13 R232; 01 R13). -/
def State.answerSub (s : State) (u : Submission) (val : Word) : State :=
  let s := match u.fn with
    | some (f, k) =>
      if u.quiet then s
      else
        let p := s.fns[f]
        { s with fns := s.fns.set f { p with substat := p.substat.set k val } }.msix f 0
    | none => s
  let s := match u.far with
    | some pkg => { s with fabricOut := s.fabricOut ++ [⟨pkg, s.incarn, u.part.getD 0, .submitted val⟩] }
    | none => s
  match u.core with
  | some c =>
    let take (j : Job) : Job := { j with outs := j.outs.map fun (g : GAcc) =>
      if g.ord == u.ord then { g with val := some (leBytes 8 val.toNat, none) } else g }
    if h : c < 128 then s.modCore ⟨c, h⟩ fun k => { k with ctx0 := take k.ctx0, ctx1 := take k.ctx1 } else s
  | none => s

/-- A refusal (R48; 23 R389): journalled with its code, and reported to the submitter. -/
def State.refuse (s : State) (u : Submission) (code : Nat) (tag : BitVec 32) : State :=
  let e : JEnt := ⟨2, 0xFFFF, 0, 0xFF, 0xFF, u.va, u.part.getD 0xFFFF, tag, leBytes 1 code⟩
  (s.journal e).answerSub u (0x8000000000000000 + BitVec.ofNat 64 code)

/-- An acceptance (R48 to R50): journalled, placed in the queues of its dies, and reported with its sequence. -/
def State.accept (s : State) (u : Submission) (r : NestRec) : State :=
  let dies := if r.gang then r.dies else r.dies &&& s.bothUp
  let seq := s.jrnlNext
  let total := r.iterations
  let st := if total == 0 then JState.done.code else JState.queued.code
  let s := s.journal (launchEntry 1 st 0 0xFF r (leBytes 1 dies.toNat ++ leBytes 1 r.prio ++ leBytes 8 total))
  let l : Launch := ⟨seq, { r with dies := dies }, dies, total, Vector.replicate 8 0, 0, s.wall, [], none, []⟩
  let s := if total == 0 then s else { s with launches := s.launches ++ [l] }
  s.answerSub u (BitVec.ofNat 64 seq)

/-- A partition whose submissions are taken (R398, R406). -/
def State.submits (s : State) (part : BitVec 16) : Bool :=
  match s.partOf part with
  | some p => !p.clearing
  | none => false

/-- A write of the submitter's partition that came before the submission waits for its turn in a read-duplicated page (25 R399; 07
R139). -/
def State.writesAhead (s : State) (u : Submission) : Bool :=
  s.rdWrites.any fun w => u.part == some w.part && decide (w.ord < u.ord) && match w.kind with | .bytes _ none => true | _ => false

/-- LAUNCH_ACCEPTANCE (R48): the oldest submission is checked, journalled and answered, once the writes that came before it have been
made (25 R399). -/
def State.takeSub (s : State) : Option State :=
  match s.subs with
  | [] => none
  | u :: rest =>
    if s.writesAhead u then none
    else
    let s : State := { s with subs := rest }
    let bytes := match u.bytes, u.part with
      | some b, _ => some b
      | none, some p => s.vaBytes p u.va.toNat 640
      | none, none => none
    let tag : BitVec 32 := match bytes with | some b => (nestOf u.va b).tag | none => 0
    match u.part with
    | none => some (s.refuse u 3 0)
    | some p =>
      if !s.submits p then some (s.refuse u 3 tag)
      else match bytes with
      | none => some (s.refuse u 7 0)
      | some b =>
        match s.check p u.va b with
        | .error c => some (s.refuse u c tag)
        | .ok r => some (s.accept u r)

/-- LAUNCH_ACCEPTANCE. -/
def execLaunchAcceptance (s : State) : Answer := happen s s.takeSub

-- Enumeration (R51, R52, R64).

/-- The indices and the stage of iteration L (R51). -/
def NestRec.indices (r : NestRec) (l : Nat) : Vector Word 4 × Nat :=
  let st := max r.stages 1
  let (_, idx) := ((List.range r.ndim).reverse).foldl (fun (a : Nat × Vector Word 4) k =>
    let d := r.dim k
    let n := max 1 (r.boundOf d)
    (a.1 / n, if h : d < 4 then a.2.set d (BitVec.ofNat 64 (a.1 % n)) else a.2)) (l / st, Vector.replicate 4 0)
  (idx, l % st)

/-- Rank of a die among those of a launch (R52). -/
def Launch.rank (l : Launch) (d : DieIx) : Nat := ones d.val l.dies.toNat

/-- Iterations that a die runs (R52). -/
def Launch.share (l : Launch) (d : DieIx) : Nat :=
  let m := ones 8 l.dies.toNat
  if l.dies.getLsbD d.val then (l.total + m - 1 - l.rank d) / m else 0

/-- The iteration that is the k-th of a die (R52). -/
def Launch.iter (l : Launch) (d : DieIx) (k : Nat) : Nat := l.rank d + ones 8 l.dies.toNat * k

/-- Cores that a gang names on its dies (R64). -/
def Launch.named (l : Launch) : List CoreIx :=
  (List.finRange 128).filter fun n => l.dies.getLsbD (dieOf n).val && l.nest.gangmask.getLsbD (n.val % 16)

/-- Iterations of a die not yet dispatched. -/
def Launch.left (l : Launch) (d : DieIx) : Nat :=
  if l.nest.gang then ((l.named.filter fun n => dieOf n == d && !l.gangDone.contains n.val)).length
  else l.share d - l.next[d]

-- Priority (R69, R70).

/-- Effective priority of base priority `prio` after waiting since wall time `since` (R69). -/
def State.effPrio (s : State) (prio since : Nat) : Nat :=
  if prio == 7 then 7 else min 6 (prio + (s.wall - since) / 21600 / max 1 s.ageint.toNat)

-- Contexts (R22, R53, R54).

/-- Both contexts of a core. -/
def Core.ctxs (c : Core) : List Job := [c.ctx0, c.ctx1]

/-- Jobs of a launch present on a die (R53). -/
def State.present (s : State) (d : DieIx) (seq : Nat) : Nat :=
  ((coresOf d).flatMap fun n => (s.core n).ctxs.filter fun j => j.st != .none && j.seq == seq).length

/-- A gang waits: its start gcc is not fixed or not reached (R64). DESIGN CHOICE (log entry 74): a gang that has been pre-empted
waits, and reserves its named cores, from the moment that a job of it is dispatched again. -/
def Launch.waits (l : Launch) (s : State) : Bool :=
  l.nest.gang && match l.gangAt with
    | none => !(s.parked.any fun p => p.job.seq == l.seq) ||
        s.cores.toList.any fun c => c.ctxs.any fun j => j.st == .dispatched && j.seq == l.seq
    | some g => decide (s.gcc < g)

/-- A waiting gang names the core (R54, R64). -/
def State.reservedBy (s : State) (n : CoreIx) : List Launch :=
  s.launches.filter fun l => l.waits s && l.named.any (· == n)

/-- A core can take a job at all: in service, a context empty, no job of it being saved. -/
def State.hasRoom (s : State) (n : CoreIx) : Bool := s.coreUp n && (s.core n).ctxs.any fun j => j.st == .none

/-- The core that a job goes to (R54): both contexts empty, else one; none that a gang waits for. -/
def State.coreFor (s : State) (d : DieIx) : Option CoreIx :=
  let free := (coresOf d).filter fun n => s.hasRoom n && (s.reservedBy n).isEmpty
  match free.find? fun n => (s.core n).ctxs.all fun j => j.st == .none with
  | some n => some n
  | none => free.head?

/-- What a Barker may take next (R53). -/
inductive Cand where
  | fresh (l : Launch)
  | again (p : Parked) (base : Nat)
deriving DecidableEq, Repr

/-- A saved job is waiting to be restored: no context holds it yet. -/
def State.unrestored (s : State) (p : Parked) : Bool :=
  !(coresOf p.die).any fun n => (s.core n).ctxs.any fun j => j.is p.job.seq p.job.iter

/-- The iteration of a gang that a core of its runs (R52, R64). -/
def Launch.iterAt (l : Launch) (n : CoreIx) : Nat := l.iter (dieOf n) (ones (n.val % 16) l.nest.gangmask.toNat)

/-- A gang has still to place its job on a core: a fresh one, or one that it has been pre-empted with and that is not restored. -/
def State.seeks (s : State) (l : Launch) (n : CoreIx) : Bool :=
  l.nest.gang && l.named.contains n &&
    (!l.gangDone.contains n.val || s.parked.any fun p => p.job.is l.seq (l.iterAt n) && s.unrestored p)

/-- A gang has placed some of its jobs and has others still to place. -/
def State.partly (s : State) (l : Launch) : Bool :=
  (s.cores.toList.any fun c => c.ctxs.any fun j => j.st == .dispatched && j.seq == l.seq) && l.named.any (s.seeks l)

/-- A gang may place a job now: it has begun to, every core that it seeks has room for it, or no gang that has begun to names a core
of its. DESIGN CHOICE (log entry 73): so that no two gangs keep each other from a core for ever (R64, R80). -/
def State.mayPlace (s : State) (l : Launch) : Bool :=
  s.partly l || ((l.named.filter (s.seeks l)).all s.hasRoom) ||
    !s.launches.any fun g => g.seq != l.seq && s.partly g && g.named.any l.named.contains

/-- Effective priority of a gang: of its PREEMPTED jobs while it has some (R53, R69). -/
def State.gangPrio (s : State) (l : Launch) : Nat :=
  match s.parked.find? fun p => p.job.seq == l.seq with
  | some p => s.effPrio l.nest.prio p.since
  | none => s.effPrio l.nest.prio l.atWall

/-- The gang whose job goes to a core first, of those that have one to place there and may. -/
def State.firstGang (s : State) (n : CoreIx) : Option Launch :=
  (s.launches.filter fun l => s.seeks l n && s.mayPlace l).foldl (fun (b : Option Launch) l => match b with
    | none => some l
    | some a =>
      let x := s.gangPrio a
      let y := s.gangPrio l
      if y > x || (y == x && l.seq < a.seq) then some l else some a) none

/-- A gang can place its job on a core: there is room, and it comes first. -/
def State.gangTakes (s : State) (l : Launch) (n : CoreIx) : Bool := s.hasRoom n && (s.firstGang n).any fun g => g.seq == l.seq

/-- The next core of a die at which a gang can place a fresh job. -/
def State.gangCore (s : State) (l : Launch) (d : DieIx) : Option CoreIx :=
  l.named.find? fun n => dieOf n == d && !l.gangDone.contains n.val && s.gangTakes l n

/-- The core to which a candidate would go: a gang's job to the core that it names, a saved one to that which it held (R64, R76). -/
def State.candCore (s : State) (d : DieIx) : Cand → Option CoreIx
  | .fresh l => if l.nest.gang then s.gangCore l d else s.coreFor d
  | .again p _ => if p.job.nest.gang then
      match s.launches.find? fun l => l.seq == p.job.seq with
      | some l => (l.named.find? fun n => dieOf n == d && l.iterAt n == p.job.iter).filter (s.gangTakes l)
      | none => none
    else s.coreFor d

/-- Effective priority, sequence, fresh or not, iteration: the order of R53. -/
def State.candKey (s : State) : Cand → Nat × Nat × Nat × Nat
  | .fresh l => (7 - s.effPrio l.nest.prio l.atWall, l.seq, 1, 0)
  | .again p base => (7 - s.effPrio base p.since, p.job.seq, 0, p.job.iter)

/-- Lexicographic order of four numbers. -/
def key4Lt (a b : Nat × Nat × Nat × Nat) : Bool :=
  if a.1 != b.1 then a.1 < b.1
  else if a.2.1 != b.2.1 then a.2.1 < b.2.1
  else if a.2.2.1 != b.2.2.1 then a.2.2.1 < b.2.2.1
  else a.2.2.2 < b.2.2.2

/-- The launch has MAXCORES of its jobs on the die (R53). -/
def State.crowded (s : State) (d : DieIx) (seq : Nat) (r : NestRec) : Bool :=
  !r.gang && decide (s.present d seq ≥ if r.maxcores == 0 then 16 else r.maxcores)

/-- The candidates of a die (R53; 03 R80). DESIGN CHOICE (log entry 73): one that no core can take now, since gangs that wait reserve
them, is passed over, and the next one is taken. -/
def State.cands (s : State) (d : DieIx) : List Cand :=
  let fresh := (s.launches.filter fun l => l.left d != 0 && !s.crowded d l.seq l.nest).map Cand.fresh
  let again := (s.parked.filter fun p => p.die == d && s.unrestored p && !s.crowded d p.job.seq p.job.nest).map fun p =>
    Cand.again p p.job.nest.prio
  (fresh ++ again).filter fun c => (s.candCore d c).isSome

/-- The candidate taken (R53). -/
def State.best (s : State) (d : DieIx) : Option Cand :=
  (s.cands d).foldl (fun (b : Option Cand) c => match b with
    | none => some c
    | some a => if key4Lt (s.candKey c) (s.candKey a) then some c else some a) none

-- Dispatch.

/-- A stream at T0 (R57). -/
def streamAt0 (r : NestRec) (idx : Vector Word 4) (stage : Nat) (k : Fin 4) : Stream :=
  let on := r.smask.getLsbD k.val
  { Stream.zero with
    started := on
    joined := !on
    pc := if on then r.entry[k] else 0
    x := if on then
        ((((Stream.zero.x.set 1 (XVal.clean idx[0])).set 2 (XVal.clean idx[1])).set 3 (XVal.clean idx[2])).set 4
          (XVal.clean idx[3])).set 5 (XVal.clean (BitVec.ofNat 64 stage))
      else Stream.zero.x }

/-- The job of iteration L of a launch, as it stands at T0 (R57), in DISPATCHED. -/
def State.newJob (s : State) (l : Launch) (n : CoreIx) (it : Nat) : Job :=
  let r := l.nest
  let (idx, stage) := r.indices it
  { Job.zero with
    st := .dispatched, seq := l.seq, iter := it, idx := idx, stage := BitVec.ofNat 64 stage, nest := r
    prio := s.effPrio r.prio l.atWall, incarn := (s.die (dieOf n)).incarn, pkgnum := s.pkgnum
    strm := Vector.ofFn fun k => streamAt0 r idx stage k }

/-- The context that a job takes, the running one or the other: context 0 of an empty core, else the one that is free (R54). The
turnstiles of the core stay those of its running context (18 R313). -/
def Core.spot (c : Core) : Core × Bool :=
  if c.job.st != .none then (c, false)
  else if c.other.st != .none then (c, true)
  else ({ c with ctx0 := { Job.zero with ts := c.job.ts }, ctx1 := Job.zero, runIx := false }, true)

/-- A job takes an empty context. A fresh one shows in CTX at once, a restored one when its entry has been journalled (24
R391). -/
def Core.place (c : Core) (j : Job) (fresh : Bool) : Core :=
  let (c, run) := c.spot
  let c := if fresh then { c with ctxShown := c.ctxShown.set (c.ctxIx run) none } else c.hide run
  if run then c.setJob { j with ts := c.job.ts } else c.setOther j

/-- JOB_DISPATCH (R52 to R54, R72): the candidate of highest effective priority gets a core; the next iteration of a launch
is dispatched, a saved job is journalled as restored. DESIGN CHOICE (log entry 86): a restored job keeps the priority of its first
dispatch where victims are chosen (R75), though it was selected again at the one it had aged to. -/
def State.dispatch (s : State) (d : DieIx) : Option State :=
  match s.best d with
  | none => none
  | some c =>
    match s.candCore d c with
    | none => none
    | some n =>
      match c with
      | .fresh l =>
        let k := if l.nest.gang then ones (n.val % 16) l.nest.gangmask.toNat else l.next[d]
        let j := s.newJob l n (l.iter d k)
        let s := s.modCore n fun c => c.place j true
        some { s with launches := s.launches.map fun (m : Launch) =>
          if m.seq == l.seq then { m with next := m.next.set d (m.next[d] + 1), gangDone := if l.nest.gang then n.val :: m.gangDone else m.gangDone }
          else m }
      | .again p _ =>
        let j : Job := { p.job with st := .dispatched, xlated := false, faultPage := none }
        let s := s.modCore n fun c => c.place j false
        some (s.journal (j.entry 9 .dispatched 0 n (leBytes 1 p.slot)))

/-- JOB_DISPATCH. -/
def execJobDispatch (d : DieIx) (s : State) : Answer := happen s (s.dispatch d)

end Sys2Proof.Machine
end

