-- ==== Sys2Proof/Machine/Jobs.lean ====
section
/-! DEFINITION. Jobs from dispatch to their end: translation and pins, start, gangs, pre-emption and restoring, the
watchdog, completion (03_execution R55 to R57, R64, R72 to R77; 07 R138; 13 R229; 23 R382 to R385). -/

namespace Sys2Proof.Machine

-- Dispatched contexts.

/-- A context of a core: the running one or the other. -/
def Core.ctx (c : Core) (run : Bool) : Job := if run then c.job else c.other

/-- A context replaced. -/
def Core.setCtx (c : Core) (run : Bool) (j : Job) : Core := if run then c.setJob j else c.setOther j

/-- A context changed. -/
def State.modCtx (s : State) (n : CoreIx) (run : Bool) (f : Job → Job) : State :=
  s.modCore n fun c => c.setCtx run (f (c.ctx run))

/-- The saved state that a dispatched job comes from (R72). -/
def State.savedOf (s : State) (j : Job) : Option Parked := s.parked.find? fun p => p.job.is j.seq j.iter

/-- A job of a context is FENCED (R77, R379); a saved job that was being restored falls back on its saved state. -/
def State.fenceCtx (s : State) (n : CoreIx) (run : Bool) (cause : Cause) (info : Word) : State :=
  let j := (s.core n).ctx run
  match (if j.st == .dispatched then s.savedOf j else none) with
  | some p =>
    let s := s.modDie (dieOf n) fun d => d.unpin j.pins
    let s := s.modCore n fun c => (c.hide run).setCtx run (j.emptied run)
    s.fenceParked p n (some n) cause info
  | none => s.fenceJob n run cause none none info

-- Translation (R47, R55).

/-- The window of a declaration for the job's indices (R47). -/
def windowBase (r : NestRec) (idx : Vector Word 4) (d : Decl) : Nat :=
  d.base.toNat + ((List.range r.ndim).map fun k =>
    (idx.toList.getD k 0).toNat * (d.stride.toList.getD k 0).toNat * 64).sum

/-- A translation of one page for an extent. -/
structure PageX where
  page : Nat
  x : Xlat
  w : Bool
  pin : Bool
deriving DecidableEq, Repr

/-- The pages of a range translated for an extent (R55, R97). -/
def State.extPages (s : State) (part : BitVec 16) (base len : Nat) (rd w pin : Bool) : Except (Cause × Word) (List PageX) :=
  if base + len > p2 57 then .error (cPageProtection, BitVec.ofNat 64 base)
  else (pagesOf base len).foldl (fun (r : Except (Cause × Word) (List PageX)) p => do
    let l ← r
    match s.walk part (BitVec.ofNat 64 (max base (p * pageSize))) rd w true with
    | .ok x => .ok (l ++ [⟨p, x, w, pin⟩])
    | .bad c info => .error (c, info)) (.ok [])

/-- The extents e0 to e15 of a job, then its overflow page (R47, R55). -/
def State.jobPages (s : State) (j : Job) : Except (Cause × Word) (List (List PageX) × List PageX) := do
  let r := j.nest
  let exts ← r.decl.toList.foldl (fun (a : Except (Cause × Word) (List (List PageX))) d => do
    let l ← a
    if d.len == 0 then .ok (l ++ [[]])
    else
      let ps ← s.extPages r.part (windowBase r j.idx d) d.len.toNat d.rd d.w d.pin
      .ok (l ++ [ps])) (.ok [])
  let ovf ← if r.ovfva == 0 then .ok [] else s.extPages r.part r.ovfva.toNat pageSize true true false
  .ok (exts, ovf)

/-- The frame that an extent of a partition's job uses for a page: the page's own, or the local duplicate of a read-duplicated
one, which the owner is told of when it is placed (07 R138). -/
def State.frameOf (s : State) (part : BitVec 16) (x : Xlat) : Nat × State :=
  let f := canon s.pkgnum.toNat x.frame
  match s.place f with
  | .peer pkg off =>
    match s.dups.find? fun d => d.peer == f with
    | some d => (d.frame, s)
    | none =>
      let frame := lpddrBase + Config.dupFrame s.dups.length % 0x80000 * pageSize
      (frame, { s with
        dups := s.dups ++ [⟨f, frame, s.free, [], []⟩], free := s.free + 1
        fabricOut := s.fabricOut ++ [⟨pkg, s.incarn, part, .register (off / pageSize)⟩] })
  | _ => (f, s)

/-- Frames of a list of pages in order, each page with its frame and whether it is read-duplicated. -/
def State.framesOf (s : State) (part : BitVec 16) (ps : List PageX) : List (Nat × Nat × Bool) × State :=
  ps.foldl (fun (a : List (Nat × Nat × Bool) × State) p =>
    let (f, t) := a.2.frameOf part p.x
    (a.1 ++ [(p.page, f, p.x.rdup)], t)) ([], s)

/-- The pins of a job (R55, R56): its distinct frames; those of a PIN declaration are held for the launch, once on a die. -/
def State.takePins (s : State) (d : DieIx) (seq : Nat) (frames pinned : List Nat) : Option (State × List Nat) :=
  let held := match s.launches.find? fun l => l.seq == seq with
    | some l => l.pins
    | none => []
  let keep := pinned.filter fun f => !held.contains (d.val, f)
  let mine := frames.filter fun f => !pinned.contains f
  match (s.die d).pin (mine ++ keep) with
  | none => none
  | some die =>
    let s := s.modDie d fun _ => die
    some ({ s with launches := s.launches.map fun (l : Launch) =>
      if l.seq == seq then { l with pins := l.pins ++ keep.map fun f => (d.val, f) } else l }, mine)

/-- A page that is not present is asked for; the job stays DISPATCHED (R55; 25 R402). -/
def State.missPage (s : State) (n : CoreIx) (run : Bool) (part : BitVec 16) (page : Nat) : State :=
  if s.pageGone part then s.fenceCtx n run cPageNotPresent (BitVec.ofNat 64 (page * pageSize))
  else (s.modCtx n run fun j => { j with faultPage := some page }).faultRequest part page

/-- A fault request for the page stands in the queue of a partition. -/
def State.requested (s : State) (part : BitVec 16) (page : Nat) : Bool :=
  match s.partOf part with
  | some p => p.faults.contains page
  | none => true

/-- The translation of a dispatched job (R55). -/
def State.translateCtx (s : State) (n : CoreIx) (run : Bool) : Option State :=
  let j := (s.core n).ctx run
  let part := j.nest.part
  match s.jobPages j with
  | .error (c, info) =>
    if c == cPageNotPresent then some (s.missPage n run part (info.toNat / pageSize))
    else some (s.fenceCtx n run c info)
  | .ok (exts, ovf) =>
    let all := exts.flatten ++ ovf
    let entries := ((all.filter PageX.w).map fun p => p.x.entry).eraseDups
    let (lists, s) := exts.foldl (fun (a : List (List (Nat × Nat × Bool)) × State) ps =>
      let (fs, t) := a.2.framesOf part ps
      (a.1 ++ [fs], t)) ([], s)
    let (ovfFrames, s) := s.framesOf part ovf
    let frames := ((lists.flatten ++ ovfFrames).map fun f => f.2.1).eraseDups
    let pinned := (((lists.zip exts).filter fun e => e.2.any PageX.pin).flatMap fun e => e.1.map fun f => f.2.1).eraseDups
    if frames.length > 1024 then some (s.fenceCtx n run cPinExhausted (BitVec.ofNat 64 frames.length))
    else match s.takePins (dieOf n) j.seq frames pinned with
    | none => none
    | some (t, mine) =>
      let t := entries.foldl (fun (t : State) e => t.setDirty part e) t
      some (t.modCtx n run fun j =>
        { j with
          xlated := true, pins := mine, faultPage := none, ovf := ovfFrames
          ext := Vector.ofFn fun e =>
            let d := j.nest.decl[e]
            if d.len == 0 then Ext.zero
            else ⟨BitVec.ofNat 64 (windowBase j.nest j.idx d), d.len, d.rd, d.w, lists.getD e.val []⟩ })

/-- A job that waits for its translation and not for the host. -/
def Job.untranslated (j : Job) : Bool := j.st == .dispatched && !j.xlated && j.faultPage.isNone

/-- DISPATCH_TRANSLATION (R55): the job of the running context first. -/
def execDispatchTranslation (n : CoreIx) (s : State) : Answer :=
  happen s (
    if (s.core n).job.untranslated then s.translateCtx n true
    else if (s.core n).other.untranslated then s.translateCtx n false
    else none)

-- Start (R57, R22, R72, R76).

/-- A command on windows (17 R299 to R301). -/
def isWindow : Instr → Bool
  | .wdecl .. | .wget .. | .wput .. | .wown .. | .wdrop .. => true
  | _ => false

/-- No command on windows stands in the queues, no window is declared and no copy is bound. -/
def Core.bare (c : Core) : Bool := c.torn && !(c.lq ++ c.sq).any fun d => isWindow d.op

/-- A gang has its start gcc (R64). -/
def State.fixed (s : State) (j : Job) : Bool := s.launches.any fun l => l.seq == j.seq && l.gangAt.isSome

/-- The job of a context may start: dispatched and translated, with nothing in the other context that would have to run beside it. DESIGN
CHOICE (log entry 21): the context of a DRAINING job is free for the staged one once its windows and copies are gone. DESIGN CHOICE
(log entry 87): so is that of a job which is only DISPATCHED, unless it is of a gang whose start gcc is fixed. -/
def State.canStart (s : State) (n : CoreIx) (run : Bool) : Bool :=
  let c := s.core n
  let j := c.ctx run
  let o := c.ctx (!run)
  j.st == .dispatched && j.xlated && match o.st with
    | .none => true
    | .dispatched => !s.fixed o || s.fixed j
    | .draining => c.bare
    | _ => false

/-- The context that starts next on a core, of those whose jobs are of no gang. -/
def State.starter (s : State) (n : CoreIx) : Option Bool :=
  [true, false].find? fun run => s.canStart n run && !((s.core n).ctx run).nest.gang

/-- A SUSPENDED job restarts exactly (R375): in TRAPPED when it was suspended there. -/
def State.wake (s : State) (n : CoreIx) : State :=
  let j := s.job n
  let s := (s.hide n true).modJob n fun j =>
    { j with st := if j.wasTrapped then .trapped else .running, wasTrapped := false, faultPage := none, thawAt := s.gcc + 1 }
  s.journal (j.entry 7 .running 0 n [])

/-- Firmware looks again at the page of a SUSPENDED job (R375; 25 R402): the job goes on if the page is there, else the page
is asked for once more. -/
def State.lookAgain (s : State) (n : CoreIx) : State :=
  let j := s.job n
  match j.st, j.faultPage with
  | .suspended, some p =>
    match s.walk j.nest.part (BitVec.ofNat 64 (p * pageSize)) false false false with
    | .bad c _ =>
      if c != cPageNotPresent then s.wake n
      else if s.pageGone j.nest.part then s.fenceJob n true cPageNotPresent none (some (j.trapstrm, j.trappc)) j.trapinfo
      else s.faultRequest j.nest.part p
    | .ok _ => s.wake n
  | _, _ => s

/-- A saved job resumes where it stopped, with its scratchpad and the commands that had not begun (R72, R76, R385). -/
def State.resume (s : State) (n : CoreIx) (p : Parked) : State :=
  let s : State := { s with parked := s.parked.filter fun q => !q.job.is p.job.seq p.job.iter }
  let s := s.modDie p.die fun d => { d with slots := d.slots.set p.slot .free }
  s.modCore n fun c =>
    let j := c.job
    let back : Job := { p.job with ext := j.ext, ovf := j.ovf, pins := j.pins, xlated := true, thawAt := 0 }
    ({ c with spad := p.img.bytes, spadPo := p.img.po, tags := p.img.tags, lq := c.lq ++ p.cmdsL, sq := c.sq ++ p.cmdsS
              landing := [], collEnds := [] } : Core).setJob back

/-- The job of a context starts in this cycle: T0, which erases what reached the turnstiles before (18 R313), or the point where
it was saved (R57, R72). The change is not journalled: CTX shows it at once (24 R391). -/
def State.startCtx (s : State) (n : CoreIx) (run : Bool) : State :=
  let s := if run then s else s.modCore n fun c => { c with runIx := !c.runIx }
  match s.savedOf (s.job n) with
  | some p =>
    let s := (s.resume n p).modCore n fun c => c.reveal true
    match (s.job n).faultPage with
    | some q => if s.requested (s.job n).nest.part q then s else s.lookAgain n
    | none => s
  | none =>
    (s.modJob n fun j => { j with
      st := .running, t0 := s.gcc, beacon := 0, ts := Vector.replicate 64 Turnstile.zero }).modCore n fun c =>
        { c.reveal true with collEnds := [] }

/-- JOB_START (R57). The jobs of a gang start together (R64). -/
def execJobStart (n : CoreIx) (s : State) : Answer :=
  happen s ((s.starter n).map fun run => s.startCtx n run)

/-- The jobs of a gang that are not DONE or FENCED: where each is, whether it can start. -/
def State.gangReady (s : State) (l : Launch) : List (CoreIx × Bool × Bool) :=
  (List.finRange 128).flatMap fun n =>
    [true, false].filterMap fun run =>
      let j := (s.core n).ctx run
      if j.seq == l.seq && j.st == .dispatched then some (n, run, s.canStart n run) else none

/-- A gang's jobs that must start: each not ended has its context, and each can start (R64, R76). -/
def State.gangCan (s : State) (l : Launch) : Bool :=
  let r := s.gangReady l
  r.length + l.ended == l.total && !r.isEmpty && r.all fun e => e.2.2

/-- GANG_START (R64): once every job of the gang is translated in a free context the RM fixes a gcc at least 4,096 cycles
ahead, a value that the spec leaves open (log entry 14); at that value all of them start. -/
def State.gang (s : State) (seq : Nat) : Option State :=
  match s.launches.find? fun l => l.seq == seq with
  | none => none
  | some l =>
    if !l.nest.gang || !s.gangCan l then none
    else match l.gangAt with
    | none =>
      let g := s.gcc + 4096 + Config.freeNat s.free
      some { s with
        free := s.free + 1
        launches := s.launches.map fun (m : Launch) => if m.seq == seq then { m with gangAt := some g } else m }
    | some g =>
      if s.gcc < g then none
      else some ((s.gangReady l).foldl (fun (t : State) e => t.startCtx e.1 e.2.1) s)

/-- GANG_START. -/
def execGangStart (seq : Nat) (s : State) : Answer := happen s (s.gang seq)

-- Pre-emption (R75, R76; 13 R229).

/-- A job that pre-emption may reach (R72). -/
def Job.alive (j : Job) : Bool :=
  match j.st with
  | .running | .frozen | .trapped | .suspended => true
  | _ => false

/-- Launches of a die that wait with an iteration and may have it dispatched (R75). -/
def State.waiters (s : State) (d : DieIx) : List Launch :=
  s.launches.filter fun l => l.left d != 0 && !s.crowded d l.seq l.nest

/-- The victim of a request (R75): lowest priority, started last, higher sequence, higher core. DESIGN CHOICE (log entry 72): a
restored job counts as started at its first T0, not when it was restored. -/
def State.victim (s : State) (d : DieIx) (above : Nat) : Option CoreIx :=
  let js := (coresOf d).filter fun n => (s.job n).alive && decide ((s.job n).prio < above) && (s.job n).saving.isNone
  js.foldl (fun (b : Option CoreIx) n => match b with
    | none => some n
    | some m =>
      let a := s.job m
      let j := s.job n
      if key4Lt (a.prio, j.t0, j.seq, 0) (j.prio, a.t0, a.seq, 0) then some m
      else if key4Lt (j.prio, a.t0, a.seq, 0) (a.prio, j.t0, j.seq, 0) then some n
      else if m.val < n.val then some n else some m) none

/-- The state with a request on a job, and on every job of its gang (R75, R76). -/
def State.request (s : State) (n : CoreIx) (q : PreReq) : State :=
  let j := s.job n
  if j.nest.gang then
    (List.finRange 128).foldl (fun (t : State) m =>
      if (t.job m).alive && (t.job m).seq == j.seq then t.modJob m fun k => { k with preq := some q } else t) s
  else s.modJob n fun k => { k with preq := some q }

/-- PREEMPTION_REQUEST (R75): no context of the die is free, and a waiting launch stands above a running job. One request
stands for a launch at a time, and one on a job: a request at level 7 takes the place of a lower one. -/
def State.preempt (s : State) (d : DieIx) : Option State :=
  if (coresOf d).any fun n => s.hasRoom n then none
  else
    let ws := (s.waiters d).filter fun l => !(coresOf d).any fun n => ((s.job n).preq.any fun q => q.seq == l.seq)
    let best := ws.foldl (fun (b : Option Launch) l => match b with
      | none => some l
      | some a => if key4Lt (s.candKey (.fresh l)) (s.candKey (.fresh a)) then some l else some a) none
    match best with
    | none => none
    | some l =>
      let p := s.effPrio l.nest.prio l.atWall
      match s.victim d p with
      | none => none
      | some n =>
        if (s.job n).preq.any fun q => q.lvl7 || p != 7 then none else some (s.request n ⟨l.seq, p == 7, s.wall⟩)

/-- PREEMPTION_REQUEST. -/
def execPreemptionRequest (d : DieIx) (s : State) : Answer := happen s (s.preempt d)

/-- A request at level 7 whose grace has passed (R70, R75). -/
def State.overdue (s : State) (j : Job) : Bool :=
  match j.preq with
  | some q => q.lvl7 && decide (s.wall - q.since ≥ max 1 s.grace.toNat * 21600)
  | none => false

/-- A command belongs to the job. -/
def Cmd.of (c : Cmd) (j : Job) : Bool := c.seq == j.seq && c.iter == j.iter

/-- A command that has begun and that a job which issues nothing more might never complete: a QFILL with more entries than its
queue has places, a two-sided collective that other members have still to begin (17 R291, R304). -/
def Cmd.stuckIn (c : Cmd) (j : Job) : Bool :=
  c.of j && c.begun && c.fail.isNone && match c.op with
    | .qfill t k _ _ _ => decide (4 < c.total - c.pos + j.qTaken t k)
    | i => twoSided i && !c.ready

/-- A job that can be stopped by force in this cycle: it lives and is not being saved, its groups have had their turn and no trap
is due (R73), every operation in flight can complete, and so can every command that has begun (R76). DESIGN CHOICE (log entry 23):
which group boundary it is stopped at. -/
def State.stoppable (s : State) (n : CoreIx) : Bool :=
  let j := s.job n
  let c := s.core n
  j.alive && j.saving.isNone && j.wdog.isNone && s.groupsDone n && !((c.lq ++ c.sq).any fun d => d.stuckIn j) && !((s.drain n).job n).inFlight

/-- One job stopped at a group boundary for a forced save (R76): its operations in flight complete. -/
def State.stopForced (s : State) (n : CoreIx) : State :=
  match (s.die (dieOf n)).freeSlot with
  | some k => (s.drain n).takeSlot n ⟨k, true, 0, 2048⟩
  | none => s

/-- FORCED_PREEMPTION (R75, R76, R385): a gang stops whole. -/
def State.forced (s : State) (n : CoreIx) : Option State :=
  let j := s.job n
  if !s.overdue j || !s.stoppable n then none
  else
    let all : List CoreIx := if j.nest.gang then (List.finRange 128).filter fun m => (s.job m).alive && (s.job m).seq == j.seq else [n]
    let slots (d : DieIx) : Bool :=
      decide ((all.filter fun m => dieOf m == d).length ≤ ((s.die d).slots.filter fun u => u == .free).length)
    if !(all.all s.stoppable) || !(List.finRange 8).all slots then none
    else
      let s := all.foldl State.stopForced s
      some (if j.nest.gang then
          { s with launches := s.launches.map fun (l : Launch) => if l.seq == j.seq then { l with gangAt := none } else l }
        else s)

/-- FORCED_PREEMPTION. -/
def execForcedPreemption (n : CoreIx) (s : State) : Answer := happen s (s.forced n)

/-- The state of a job whose operations are over is in its save slot, and its context is free (R76, R383 to R385; 13 R229). -/
def State.saved (s : State) (n : CoreIx) (sv : Saving) : State :=
  let c := (s.core n).commit
  let j := c.job
  let keep (t : Nat) : Bool := decide (sv.first ≤ t) && decide (t < sv.first + sv.count)
  let img := c.image.only keep
  let l := c.lq.filter fun d => d.of j
  let q := c.sq.filter fun d => d.of j
  let tag (t : Nat) : BitVec 4 := if keep t then c.tag t else 0
  let s := s.writeSlot (dieOf n) sv.slot
    (s.slotImage n j j.st (l ++ q) ((List.range 2048).map fun t => sv.forced || keep t) tag) img
  let s := s.modDie (dieOf n) fun d => d.unpin j.pins
  let p : Parked := ⟨dieOf n, sv.slot, { j with saving := none, preq := none, pins := [] }, img, l, q, s.wall⟩
  let s : State := { s with parked := s.parked ++ [p] }
  let s := s.modCore n fun c =>
    ({ c.hide true with lq := c.lq.filter (fun d => !d.of j), sq := c.sq.filter fun d => !d.of j } : Core).setJob (j.emptied true)
  s.journal (j.entry 8 .preempted 0 n (leBytes 1 sv.slot ++ [if sv.forced then 1 else 0]))

/-- PREEMPTION_SAVE_DONE (R76; 13 R229): the operations in flight and the commands that have begun have completed and the job's
stores are ordered; the windows and copies of the job leave the core with it (log entry 21), and its state is saved. -/
def State.saveDone (s : State) (n : CoreIx) : Option State :=
  let c := s.core n
  let j := c.job
  match j.saving with
  | none => none
  | some sv =>
    if j.cycDone || !j.traps.isEmpty || j.stop.isSome || j.wdog.isSome || ((c.lq ++ c.sq).any fun d => d.of j && d.begun) ||
        (c.psb.any fun p => p.seq == j.seq && p.iter == j.iter) || !j.outs.isEmpty then none
    else
      let s := s.drain n
      if (s.job n).inFlight then none
      else some (if (s.core n).torn then s.saved n sv else s.tearWindows n)

/-- PREEMPTION_SAVE_DONE. -/
def execPreemptionSaveDone (n : CoreIx) (s : State) : Answer := happen s (s.saveDone n)

-- The watchdog (R77).

/-- WATCHDOG (R77): what it finds ends the job as the cycle does, after the fencings of that cycle and before its traps (R73). -/
def execWatchdog (n : CoreIx) (s : State) : Answer :=
  happen s ((s.job n).watch.map fun k => s.modJob n fun j => { j with wdog := some k })

-- The end (R56, R72, R74; 17 R284).

/-- Everything a draining job has begun is over (R72; 17 R302). -/
def State.drained (s : State) (n : CoreIx) (j : Job) : Bool :=
  let c := s.core n
  j.st == .draining && !((c.lq ++ c.sq).any fun d => d.of j) && !(c.psb.any fun p => p.seq == j.seq && p.iter == j.iter) &&
    j.outs.isEmpty && j.moves.isEmpty && j.late.isEmpty && j.ops.isEmpty && j.mops.isEmpty && (strms.all fun st => (j.stream st).pend.isEmpty)

/-- The arrival of a finished job on its completion turnstile (R74; 17 R284), and the code its DONE entry records. -/
def State.arriveDone (s : State) (j : Job) : State × Byte :=
  let w := j.nest.donets
  let n := j.nest.donecnt.toNat
  if w == 0 || n == 0 then (s, 0)
  else
    let l := locator w
    match locTs l.loc with
    | none => (s, 0x11)
    | some k =>
      if !s.localName l then
        ({ s with fabricOut := s.fabricOut ++ [⟨l.pkg, s.incarn, j.nest.part, .arrive w n s.ord true⟩], ord := s.ord + 1 }, 0)
      else if !s.coreUp l.core || !s.corePart l.core j.nest.part then (s, 0)
      else (s.modJob l.core fun m => m.modTs k fun t => t.addArr t.phase n, 0)

/-- JOB_DONE (R74): the arrival, the pins, the completion entry. -/
def State.jobDone (s : State) (n : CoreIx) (run : Bool) : State :=
  let j := (s.core n).ctx run
  let (s, code) := s.arriveDone j
  let s := s.modDie (dieOf n) fun d => d.unpin j.pins
  let s := s.modCore n fun c => (c.hide run).setCtx run ((c.ctx run).emptied run)
  let s := s.journal (j.entry 3 .done 0 n ([code, 0, 0, 0] ++ leBytes 4 (usOf j.runtime)))
  s.launchEnd j.seq 1

/-- JOB_DONE: a DRAINING job's windows are torn down once its commands on them have ended (17 R302; log entry 21), and it is DONE
when that and everything else of it is over. -/
def execJobDone (n : CoreIx) (s : State) : Answer :=
  happen s (
    let c := s.core n
    if c.job.st == .draining && !c.torn && !(c.lq ++ c.sq).any fun d => isWindow d.op then some (s.tearWindows n)
    else if s.drained n c.job && c.bare then some (s.jobDone n true)
    else if s.drained n c.other then some (s.jobDone n false)
    else none)

end Sys2Proof.Machine
end

