-- ==== Sys2Proof/Machine/MlDsa.lean ====
section
/-! DEFINITION. ML-DSA-87 (FIPS 204), its keys, signing and verification, and the SHAKE functions it uses (FIPS 202), which 25 R412
names. DESIGN CHOICE (log entry 77): pure ML-DSA with an empty context string; each stream of SHAKE is taken up to a length that its
sampling passes with negligible probability. -/

namespace Sys2Proof.Machine

-- SHAKE (FIPS 202).

/-- A message padded to a multiple of `rate` bytes, with SHAKE's suffix. -/
def shakePad (rate : Nat) (m : List Byte) : List Byte :=
  let k := rate - m.length % rate
  if k == 1 then m ++ [0x9F] else m ++ [0x1F] ++ List.replicate (k - 2) 0 ++ [0x80]

/-- Keccak-f[1600]. -/
def keccakF (a : List Word) : List Word := keccakRc.foldl keccakRound a

/-- A block absorbed into the state. -/
def absorb (a : List Word) (blk : List Byte) : List Word :=
  let lanes := groupsOf 8 blk
  keccakF ((List.range 25).map fun i => a.getD i 0 ^^^ BitVec.ofNat 64 (leNat (lanes.getD i [])))

/-- Blocks squeezed from a state. -/
def squeeze (rate : Nat) : Nat → List Word → List Byte
  | 0, _ => []
  | n + 1, a => ((a.take (rate / 8)).flatMap fun w => leBytes 8 w.toNat) ++ squeeze rate n (keccakF a)

/-- n bytes of a SHAKE function of the given rate. -/
def shake (rate n : Nat) (m : List Byte) : List Byte :=
  (squeeze rate ((n + rate - 1) / rate) ((groupsOf rate (shakePad rate m)).foldl absorb (List.replicate 25 0))).take n

/-- n bytes of SHAKE128. -/
def shake128 (n : Nat) (m : List Byte) : List Byte := shake 168 n m

/-- n bytes of SHAKE256, the function H of FIPS 204. -/
def shake256 (n : Nat) (m : List Byte) : List Byte := shake 136 n m

-- Parameters of ML-DSA-87, and polynomials.

/-- The modulus q. -/
def dsaQ : Nat := 8380417

/-- γ1. -/
def dsaGamma1 : Nat := 524288

/-- γ2. -/
def dsaGamma2 : Nat := 261888

/-- A polynomial of degree below 256, or its NTT: 256 coefficients modulo q. -/
abbrev Poly := List Nat

/-- Powers of ζ = 1753, whose order is 512. -/
def dsaZetas : Array Nat := ((List.range 511).foldl (fun (a : List Nat × Nat) _ =>
  let z := a.2 * 1753 % dsaQ
  (z :: a.1, z)) ([1], 1)).1.reverse.toArray

/-- ζ to a power. -/
def dsaZeta (e : Nat) : Nat := dsaZetas.getD (e % 512) 0

/-- The eight bits of i in the opposite order. -/
def bitRev8 (i : Nat) : Nat := ((List.range 8).map fun k => if i.testBit k then 2 ^ (7 - k) else 0).sum

/-- The exponents of the 256 points at which the NTT evaluates. -/
def nttExp (i : Nat) : Nat := 2 * bitRev8 i + 1

/-- The NTT: the values of a polynomial at those points. -/
def ntt (p : Poly) : Poly :=
  (List.range 256).map fun i =>
    let z := dsaZeta (nttExp i)
    p.foldr (fun c acc => (acc * z + c) % dsaQ) 0

/-- The inverse NTT; 8347681 is the inverse of 256. -/
def nttInv (p : Poly) : Poly :=
  (List.range 256).map fun j =>
    (p.zipIdx.foldl (fun acc e => (acc + e.1 * dsaZeta (512 * 256 - nttExp e.2 * j)) % dsaQ) 0) * 8347681 % dsaQ

/-- Sum, coefficient by coefficient. -/
def polyAdd (a b : Poly) : Poly := (a.zip b).map fun e => (e.1 + e.2) % dsaQ

/-- Product of two NTTs. -/
def polyMul (a b : Poly) : Poly := (a.zip b).map fun e => e.1 * e.2 % dsaQ

/-- Difference. -/
def polySub (a b : Poly) : Poly := (a.zip b).map fun e => (e.1 + dsaQ - e.2) % dsaQ

-- Sampling.

/-- Coefficients from a stream, three bytes each: those below q (CoeffFromThreeBytes). -/
def rejCoeffs (l : List Byte) : List Nat :=
  (groupsOf 3 l).filterMap fun t =>
    let z := leNat t % 2 ^ 23
    if z < dsaQ then some z else none

/-- RejNTTPoly. -/
def rejNttPoly (seed : List Byte) : Poly := (rejCoeffs (shake128 3024 seed)).take 256

/-- The entry of the matrix in row r and column c (ExpandA). -/
def expandA (rho : List Byte) (r c : Nat) : Poly := rejNttPoly (rho ++ leBytes 1 c ++ leBytes 1 r)

/-- The first byte of a stream that is at most i, and what follows it. -/
def sampleAt (i : Nat) : List Byte → Nat × List Byte
  | [] => (0, [])
  | b :: l => if b.toNat ≤ i then (b.toNat, l) else sampleAt i l

/-- SampleInBall: sixty coefficients are 1 or −1. -/
def sampleInBall (seed : List Byte) : Poly :=
  let st := shake256 1088 seed
  let signs := leNat (st.take 8)
  ((List.range 60).foldl (fun (a : Poly × List Byte) k =>
    let i := 196 + k
    let (j, l) := sampleAt i a.2
    let c := a.1.set i (a.1.getD j 0)
    (c.set j (if signs.testBit k then dsaQ - 1 else 1), l)) (List.replicate 256 0, st.drop 8)).1

-- Encodings.

/-- 256 numbers of w bits each. -/
def unpackBits (w : Nat) (l : List Byte) : List Nat :=
  let n := leNat l
  (List.range 256).map fun i => n / 2 ^ (w * i) % 2 ^ w

/-- Numbers of four bits each, two to a byte. -/
def packNibbles (l : List Nat) : List Byte := (groupsOf 2 l).map fun e => BitVec.ofNat 8 (e.headD 0 + 16 * (e.drop 1).headD 0)

/-- Indices of one polynomial of a hint rise. -/
def rising (l : List Nat) : Bool := (l.zip (l.drop 1)).all fun e => decide (e.1 < e.2)

/-- HintBitUnpack: for each of the eight polynomials the indices of its ones. -/
def hintUnpack (y : List Nat) : Option (List (List Nat)) :=
  let ends := y.drop 75
  let bounds := (0 :: ends).zip ends
  let parts := bounds.map fun b => (y.take b.2).drop b.1
  let last := ends.getLast?.getD 0
  if bounds.all (fun b => decide (b.1 ≤ b.2) && decide (b.2 ≤ 75)) && parts.all rising && ((y.take 75).drop last).all (· == 0) then
    some parts
  else none

/-- Decompose: the high part of a coefficient, and the low part, in (−γ2, γ2] but for the last interval. -/
def decompose (r : Nat) : Nat × Int :=
  let m := r % (2 * dsaGamma2)
  let low : Int := if m > dsaGamma2 then (m : Int) - 2 * dsaGamma2 else m
  let hi := if m > dsaGamma2 then r / (2 * dsaGamma2) + 1 else r / (2 * dsaGamma2)
  if hi * (2 * dsaGamma2) == dsaQ - 1 then (0, low - 1) else (hi, low)

/-- UseHint: the high part of a coefficient, moved by its hint. -/
def useHint (h : Bool) (r : Nat) : Nat :=
  let (hi, low) := decompose r
  if !h then hi else if low > 0 then (hi + 1) % 16 else (hi + 15) % 16

/-- The rows of the matrix (ExpandA) applied to a vector of NTTs. -/
def dsaRows (rho : List Byte) (v : List Poly) : List Poly :=
  (List.range 8).map fun r =>
    v.zipIdx.foldl (fun acc e => polyAdd acc (polyMul (expandA rho r e.2) e.1)) (List.replicate 256 0)

/-- What is signed of a message under a public key: the digest μ, for an empty context string. -/
def dsaMu (pk msg : List Byte) : List Byte := shake256 64 (shake256 64 pk ++ [0, 0] ++ msg)

/-- ML-DSA-87 verification of a signature on a message under a public key (FIPS 204, ML-DSA.Verify). -/
def mlDsaVerify (pk msg sig : List Byte) : Bool :=
  let rho := pk.take 32
  let t1 := (groupsOf 320 (pk.drop 32)).map fun b => (unpackBits 10 b).map fun v => v * 8192 % dsaQ
  let ct := sig.take 64
  let raw := (groupsOf 640 ((sig.drop 64).take 4480)).map (unpackBits 20)
  let z := raw.map fun p => p.map fun v => (dsaGamma1 + dsaQ - v) % dsaQ
  -- every coefficient γ1 − v lies within γ1 − 120 of zero
  let small := raw.all fun p => p.all fun v => decide (120 < v) && decide (v + 120 < 2 * dsaGamma1)
  match hintUnpack ((sig.drop 4544).map BitVec.toNat) with
  | none => false
  | some h =>
    let c := ntt (sampleInBall ct)
    let w1 := (dsaRows rho (z.map ntt)).zipIdx.flatMap fun az =>
      let w := nttInv (polySub az.1 (polyMul c (ntt (t1.getD az.2 []))))
      packNibbles (w.zipIdx.map fun e => useHint ((h.getD az.2 []).contains e.2) e.1)
    decide (pk.length = 2592) && decide (sig.length = 4627) && small && shake256 64 (dsaMu pk msg ++ w1) == ct

-- Keys and signing.

/-- Numbers of w bits each, packed into bytes. -/
def packBits (w : Nat) (l : List Nat) : List Byte := leBytes (l.length * w / 8) (l.foldr (fun v acc => acc * 2 ^ w + v) 0)

/-- A coefficient as a number of either sign. -/
def centred (r : Nat) : Int := if r > dsaQ / 2 then (r : Int) - dsaQ else r

/-- Every coefficient of every polynomial lies below b in magnitude. -/
def within (b : Nat) (v : List Poly) : Bool := v.all fun p => p.all fun r => decide ((centred r).natAbs < b)

/-- RejBoundedPoly: coefficients within 2 of zero. -/
def rejBounded (seed : List Byte) : Poly :=
  ((shake256 816 seed).flatMap fun b => [b.toNat % 16, b.toNat / 16].filterMap fun v =>
    if v < 15 then some ((dsaQ + 2 - v % 5) % dsaQ) else none).take 256

/-- The parts of a key that ML-DSA.KeyGen makes from a seed: ρ, K, the vectors s1 and s2, and t. -/
def dsaSecret (xi : List Byte) : List Byte × List Byte × List Poly × List Poly × List Poly :=
  let h := shake256 128 (xi ++ [8, 7])
  let rho := h.take 32
  let s (r : Nat) : Poly := rejBounded ((h.drop 32).take 64 ++ leBytes 2 r)
  let s1 := (List.range 7).map s
  let s2 := (List.range 8).map fun r => s (r + 7)
  (rho, h.drop 96, s1, s2, ((dsaRows rho (s1.map ntt)).zip s2).map fun e => polyAdd (nttInv e.1) e.2)

/-- Power2Round: the parts of a coefficient of t that are public and secret. -/
def power2Round (r : Nat) : Nat × Int :=
  let m := r % 8192
  if m > 4096 then (r / 8192 + 1, (m : Int) - 8192) else (r / 8192, m)

/-- The public key that belongs to a seed (ML-DSA.KeyGen). -/
def mlDsaPublic (xi : List Byte) : List Byte :=
  let (rho, _, _, _, t) := dsaSecret xi
  rho ++ t.flatMap fun p => packBits 10 (p.map fun r => (power2Round r).1)

/-- HintBitPack. -/
def hintPack (h : List (List Nat)) : List Byte :=
  let ones := h.flatten
  let ends := (h.foldl (fun (a : List Nat × Nat) l => (a.1 ++ [a.2 + l.length], a.2 + l.length)) ([], 0)).1
  (ones ++ List.replicate (75 - ones.length) 0 ++ ends).map (BitVec.ofNat 8)

/-- One round of signing: the signature, unless the round is rejected. -/
def dsaRound (xi mu mask : List Byte) (kappa : Nat) : Option (List Byte) :=
  let (rho, _, s1, s2, t) := dsaSecret xi
  let t0 := t.map fun p => p.map fun r => ((power2Round r).2 % (dsaQ : Int)).toNat
  let y := (List.range 7).map fun r =>
    (unpackBits 20 (shake256 640 (mask ++ leBytes 2 (kappa + r)))).map fun v => (dsaGamma1 + dsaQ - v) % dsaQ
  let w := (dsaRows rho (y.map ntt)).map nttInv
  let ct := shake256 64 (mu ++ w.flatMap fun p => packNibbles (p.map fun r => (decompose r).1))
  let c := ntt (sampleInBall ct)
  let times (v : List Poly) : List Poly := v.map fun p => nttInv (polyMul c (ntt p))
  let z := (y.zip (times s1)).map fun e => polyAdd e.1 e.2
  let r := (w.zip (times s2)).map fun e => polySub e.1 e.2
  let low := r.all fun p => p.all fun v => decide ((decompose v).2.natAbs < dsaGamma2 - 120)
  let ct0 := times t0
  let hints := (r.zip ct0).map fun e =>
    ((e.1.zip e.2).zipIdx.filter fun v => (decompose v.1.1).1 != (decompose ((v.1.1 + v.1.2) % dsaQ)).1).map Prod.snd
  if within (dsaGamma1 - 120) z && low && within dsaGamma2 ct0 && decide (hints.flatten.length ≤ 75) then
    some (ct ++ (z.flatMap fun p => packBits 20 (p.map fun v => (dsaGamma1 + dsaQ - v) % dsaQ)) ++ hintPack hints)
  else none

/-- ML-DSA-87 signature of a message under the key of a seed, with the random bytes that hedge it (ML-DSA.Sign). DESIGN CHOICE (log
entry 77): after 814 rejected rounds, the bound that FIPS 204 allows, there is none. -/
def mlDsaSign (xi rnd msg : List Byte) : Option (List Byte) :=
  let mu := dsaMu (mlDsaPublic xi) msg
  let mask := shake256 64 ((dsaSecret xi).2.1 ++ rnd ++ mu)
  (List.range 814).findSome? fun k => dsaRound xi mu mask (7 * k)

/-- A list cut or filled with zeros to n bytes. -/
def fit (n : Nat) (l : List Byte) : List Byte := (l ++ List.replicate n 0).take n

/-- IDKEY, the device identity public key (25 R395, R412): that of the private key fused at manufacture. -/
def idKey : List Byte := fit 2592 (mlDsaPublic (fit 32 Config.idSeed))

/-- The signature by the device identity key over a digest (25 R412). The random bytes that FIPS 204 lets a signer use are free, and so
is the signature after 814 rejected rounds. -/
def deviceSign (digest : List Byte) : List Byte :=
  fit 4627 ((mlDsaSign (fit 32 Config.idSeed) (fit 32 (Config.signRnd digest)) digest).getD (Config.signStuck digest))

end Sys2Proof.Machine
end

