-- ==== Sys2Proof/Machine/Fault.lean ====
section
/-! DEFINITION. Fencing, failures of links and memory, resets and bring-up (01_package R16 to R20, R33 to R43; 03 R82;
07 R142, R146; 23 R378 to R381, R392, R416; 25 R409, R411 to R415). -/

namespace Sys2Proof.Machine

-- Fencing (R379, R392).

/-- An entry of a fencing (R388, R389). -/
def State.dieFence (s : State) (d : DieIx) (core level : Nat) : State :=
  s.journal (bareEntry 0xA cDieFenced d.val core ([BitVec.ofNat 8 level, 0] ++ leBytes 4 (s.die d).incarn.toNat))

/-- The core whose leaving fences a gang (R82). DESIGN CHOICE (log entry 75): of several that leave at once, the lowest-numbered
one that the gang names. -/
def Launch.departed (l : Launch) (gone : CoreIx → Bool) : Option CoreIx := if l.nest.gang then l.named.find? gone else none

/-- trapinfo of a job that a fencing ends: the departed core for a job of a gang, what R371 gives for the others; none for
a job that stays. `gone` are the cores that leave; `info` is the fencing's own. -/
def fenceInfo (gangs : List (Nat × CoreIx)) (gone : Bool) (info : Word) (j : Job) : Option Word :=
  match alGet gangs j.seq with
  | some c => some (BitVec.ofNat 64 c.val)
  | none => if gone then some info else none

/-- The jobs of core contexts that a fencing ends, in increasing core and context (R392). -/
def State.fenceContexts (s : State) (gangs : List (Nat × CoreIx)) (gone : CoreIx → Bool) (info : Word) : State :=
  (List.finRange 128).foldl (fun (t : State) n =>
    [false, true].foldl (fun (t : State) second =>
      let run := (t.core n).runIx == second
      let j := (t.core n).ctx run
      if j.st == .none then t
      else match fenceInfo gangs (gone n) info j with
      | some w => t.fenceCtx n run cDieFenced w
      | none => t) t) s

/-- The PREEMPTED jobs that a fencing ends, in increasing acceptance sequence and ITER (R392). -/
def State.fenceSaved (s : State) (gangs : List (Nat × CoreIx)) (d : Option DieIx) (info : Word) : State :=
  let l := s.parked.insertionSort fun a b => decide (a.job.seq < b.job.seq ∨ (a.job.seq = b.job.seq ∧ a.job.iter ≤ b.job.iter))
  l.foldl (fun (t : State) p =>
    match fenceInfo gangs (d == some p.die) info p.job with
    | some w => t.fenceParked p ⟨16 * p.die.val, by omega⟩ none cDieFenced w
    | none => t) s

/-- Iterations that will not run are dropped: one entry for the launch (R82, R379, R389). -/
def State.dropLaunch (s : State) (l : Launch) (die cnt : Nat) : State :=
  if cnt == 0 then s
  else (s.journal (launchEntry 0xB 0xFFFF cDieFenced die l.nest ([0, 0] ++ leBytes 8 cnt))).launchEnd l.seq cnt

/-- The launches that lose iterations, in increasing acceptance sequence (R392). -/
def State.dropLeft (s : State) (gangs : List (Nat × CoreIx)) (d : Option DieIx) : State :=
  s.launches.foldl (fun (t : State) l =>
    if (alGet gangs l.seq).isSome then
      let cnt := ((List.finRange 8).map l.left).sum
      let t : State := { t with launches := t.launches.map fun (m : Launch) =>
        if m.seq == l.seq then { m with gangDone := l.named.map Fin.val } else m }
      t.dropLaunch l 0xFF cnt
    else match d with
    | none => t
    | some d =>
      let t : State := { t with launches := t.launches.map fun (m : Launch) =>
        if m.seq == l.seq then { m with next := m.next.set d (m.share d) } else m }
      t.dropLaunch l d.val (l.left d)) s

/-- A fencing after its DIEFENCE entry (R379, R82, R392): jobs, saved jobs, iterations, window holdings (07 R142). -/
def State.fenceAll (s : State) (gone : CoreIx → Bool) (d : Option DieIx) (info : Word) : State :=
  let gangs := s.launches.filterMap fun l => (l.departed gone).map fun c => (l.seq, c)
  let s := s.fenceContexts gangs gone info
  let s := s.fenceSaved gangs d info
  let s := s.dropLeft gangs d
  ((List.finRange 128).filter gone).foldl (fun (t : State) n => t.winFence n) s

/-- Cores leave service (01 R42, R43; 03 R65). -/
def State.clearCores (s : State) (gone : CoreIx → Bool) : State :=
  let m := (List.finRange 128).foldl (fun (m : BitVec 128) n => if gone n then setBit m n.val false else m) s.coresvc
  { s with coresvc := m, defectsig := defectSig m }

/-- CORE_FENCE (R379). -/
def State.fenceCore (s : State) (n : CoreIx) : Option State :=
  if s.boot != .ready || !s.coresvc.getLsbD n.val then none
  else
    let s := s.clearCores fun m => m == n
    let s := s.dieFence (dieOf n) (n.val % 16) 0
    some (s.fenceAll (fun m => m == n) none (BitVec.ofNat 64 n.val))

/-- CORE_FENCE. -/
def execCoreFence (n : CoreIx) (s : State) : Answer := happen s (s.fenceCore n)

/-- What the fencing of a cores domain does after its entry (R379). -/
def State.fenceCores (s : State) (d : DieIx) (level : Nat) : State :=
  let gone (n : CoreIx) : Bool := dieOf n == d
  let s := { s with diesvc := setBit s.diesvc d.val false }.clearCores gone
  let s := s.dieFence d 0xFF level
  s.fenceAll gone (some d) (BitVec.ofNat 64 (d.val + 0x100))

/-- CORES_DOMAIN_FENCE (R379). -/
def State.fenceDomain (s : State) (d : DieIx) : Option State :=
  if s.boot != .ready || !s.diesvc.getLsbD d.val then none else some (s.fenceCores d 1)

/-- CORES_DOMAIN_FENCE. -/
def execCoresDomainFence (d : DieIx) (s : State) : Answer := happen s (s.fenceDomain d)

/-- Posted stores in the order in which they are to be ordered at their homes: those received as they arrived, the others after
them as they were issued. -/
def State.inArrival (s : State) (l : List (CoreIx × PStore)) : List (CoreIx × PStore) :=
  l.insertionSort fun a b => (if a.2.atHome then a.2.arr else s.ord + a.2.ord) ≤ (if b.2.atHome then b.2.arr else s.ord + b.2.ord)

/-- The stores in the buffers of a die whose shell is fenced: those that their home has received are ordered, the others are
lost (R416). -/
def State.settleStores (s : State) (d : DieIx) : State :=
  let s := (s.inArrival (s.allStores.filter fun e => dieOf e.1 == d && e.2.atHome)).foldl (fun (t : State) e => t.orderNow e.1 e.2) s
  (coresOf d).foldl (fun (t : State) n =>
    let lost := (t.core n).psb.map PStore.ord
    { t.modCore n fun c => { c with psb := [] } with
      invals := t.invals.filter fun i => !lost.contains i.ord
      rdWrites := t.rdWrites.filter fun w => !lost.contains w.ord }) s

/-- The stores of other dies that wait at a home which is fenced are discarded (R416). -/
def State.discardStores (s : State) : State :=
  (s.allStores.filter fun e => e.2.atHome && s.homeDead e.2.pa).foldl (fun (t : State) e => t.orderStore e.1 e.2) s

/-- The die leaves every sharer set; acknowledgements that it owes count as given (07 R142). Fills that its homes have not
sent are answered with poison instead (01 R35). -/
def State.forgetDie (s : State) (d : DieIx) : State :=
  let s : State := { s with
    dir := s.dir.map fun (e : Nat × BitVec 8) => (e.1, setBit e.2 d.val false)
    regions := s.regions.map fun (e : Nat × BitVec 8) => (e.1, setBit e.2 d.val false)
    invals := s.invals.filter fun i => i.die != d
    rdWrites := s.rdWrites.map fun (w : RdWrite) => { w with dies := setBit w.dies d.val false }
    fills := s.fills.filter fun f => f.die != d && (f.sent || !s.homeDead (f.line * 256))
    cores := s.cores.map fun (c : Core) =>
      { c with psb := c.psb.map fun (p : PStore) => { p with wait := setBit p.wait d.val false } } }
  let s := s.holdRounds.foldl (fun (t : State) r => t.roundOver r.1) s
  (s.modDie d fun e => { e with lines := [], ackSeq := [] }).releaseFills

/-- MEMORY_SHELL_FENCE (R379, R416; 07 R142): the cores domain is fenced with the shell. -/
def State.fenceShell (s : State) (d : DieIx) : Option State :=
  if !s.shellsvc.getLsbD d.val then none
  else
    let s := s.settleStores d
    let s : State := { s with shellsvc := setBit s.shellsvc d.val false }
    some ((s.fenceCores d 2).discardStores.forgetDie d)

/-- MEMORY_SHELL_FENCE. -/
def execMemoryShellFence (d : DieIx) (s : State) : Answer :=
  happen s (if s.boot == .ready then s.fenceShell d else none)

/-- The agents of a memory shell and of its die's cores in their reset states, under a new incarnation (01 R34, R36; R381). What the
CTX registers show in this cycle they show until it ends (24 R391). -/
def State.resetDie (s : State) (d : DieIx) (inc : BitVec 32) : State :=
  let s := s.modDie d fun e => { Die.zero with incarn := inc, slots := List.replicate e.slots.length .free }
  let s := (coresOf d).foldl (fun (t : State) n =>
    let shown := (t.core n).ctxShown
    (t.winFence n).setCore n { Core.zero with ctxShown := shown }) s
  { s with
    kvWaits := s.kvWaits.filter fun e => e.1 / 16 != d.val
    farPhases := s.farPhases.filter fun e => dieOf e.core != d }

/-- SHELL_READMIT (R381; 01 R34, R36; 07 R141): the shell is reset, and its die's cores domain with it; it comes back empty and
poisoned, under a new incarnation, and no die holds a line of it any more. The cores domain stays out of service. -/
def State.readmit (s : State) (d : DieIx) : Option State :=
  if s.boot != .ready || s.shellsvc.getLsbD d.val then none
  else
    let lo := d.val * bondedSize
    let out (a : Nat) : Bool := decide (a < lo) || decide (lo + bondedSize ≤ a)
    let inc := (s.die d).incarn + 1
    let s : State := { s with
      mem := s.mem.filter fun c => out c.1
      memPo := s.memPo.filter fun e => out (e.1 * 32)
      dir := s.dir.filter fun e => out (e.1 * 256)
      regions := s.regions.filter fun e => out (e.1 * 16384)
      seqs := s.seqs.filter fun e => out (e.1 * 256)
      fills := s.fills.filter fun f => out (f.line * 256)
      invals := s.invals.filter fun i => out (i.line * 256)
      dies := s.dies.map fun (e : Die) => { e with
        lines := e.lines.filter fun l => out (l.line * 256), ackSeq := e.ackSeq.filter fun a => out (a.1 * 256) }
      shellsvc := setBit s.shellsvc d.val true }
    let s := s.resetDie d inc
    some (s.journal (bareEntry 0xE 0 d.val 0xFF ([2, 0] ++ leBytes 4 inc.toNat)))

/-- SHELL_READMIT. -/
def execShellReadmit (d : DieIx) (s : State) : Answer := happen s (s.readmit d)

/-- FIRMWARE_FAILURE (R381; 25 R413): the package stops; only a package reset recovers it. -/
def execFirmwareFailure (s : State) : Answer :=
  happen s (if s.boot == .load || s.boot == .ready then some { s with boot := .halt } else none)

/-- FRAME_HANDOVER (07 R146): the lines of a frame leave every die cache and the directory, what is still to be written
back first. -/
def execFrameHandover (frame : Nat) (s : State) : Answer :=
  let base := canon s.pkgnum.toNat (frame * pageSize)
  let inside (line : Nat) : Bool := decide (base ≤ line * 256) && decide (line * 256 < base + pageSize)
  happen s (
    if s.boot != .ready then none
    else
      let s := (s.inArrival (s.allStores.filter fun e => (linesOf e.2.pa e.2.data.length).any inside)).foldl
        (fun (t : State) e => t.orderNow e.1 e.2) s
      some { s with
        dies := s.dies.map fun (d : Die) => { d with lines := d.lines.filter fun l => !inside l.line }
        fills := s.fills.filter fun f => !inside f.line
        dir := s.dir.filter fun e => !inside e.1
        regions := s.regions.filter fun e => !inside (e.1 * 64) })

/-- An error in the state of a core outside its job (R375): the job has a system cause, is SUSPENDED, and firmware fences it and the
core. DESIGN CHOICE (log entry 76): the trap is that of the S stream, and its trapinfo a free address. -/
def State.coreError (s : State) (n : CoreIx) : Option State :=
  let j := s.job n
  let s' := match j.st with
    | .running | .frozen | .trapped =>
      let info := BitVec.ofNat 64 (Config.freeNat s.free % p2 52)
      let t : TrapNote := ⟨.s, cEcc, info, (j.stream .s).pc, (j.stream .s).pc, false⟩
      let u : State := { s.deliver n t with free := s.free + 1 }
      if (u.job n).stop.isSome then u.suspend n t else u
    | _ => s
  s'.fenceCore n

/-- UNCORRECTABLE_ECC_ERROR (R375, R378; 05 R86): the unit is poisoned, or the core fenced. -/
def execUncorrectableEccError (place : EccPlace) (s : State) : Answer :=
  happen s (match place with
    | .global pa => if s.isDram pa then some { s with memPo := alSet s.memPo (canon s.pkgnum.toNat pa / 32) (some (.raw cEcc)) } else none
    | .scratch n a =>
      if a < 0x800000 then some (s.modCore n fun c => { c with spadPo := alSet c.spadPo (a / 8) (.raw cEcc) }) else none
    | .core n => s.coreError n)

-- Links (01 R16 to R20; 23 R380; 25 R409).

/-- The boundaries that a message from die a to die b crosses, going up or down. -/
def pathOf (a b : Nat) (up : Bool) : List Nat :=
  if up then (List.range ((b + 8 - a) % 8)).map fun i => (a + i) % 8
  else (List.range ((a + 8 - b) % 8)).map fun i => (a + 15 - i) % 8

/-- The path taken (01 R17, R19): the shorter way, the increasing one of two equal ones, unless a failed boundary lies on
it. -/
def State.route (s : State) (a b : Nat) : List Nat :=
  let up := pathOf a b true
  let down := pathOf a b false
  let ok (p : List Nat) : Bool := p.all fun k => s.ringup.getLsbD k
  if up.length ≤ down.length then (if ok up || !ok down then up else down) else if ok down || !ok up then down else up

/-- Dies of this package, other than its own, that a command exchanges messages with. -/
def State.cmdDies (s : State) (c : Cmd) (n : CoreIx) : List Nat :=
  let home (pa : Nat) : List Nat := match s.place pa with
    | .bonded d => [d.val]
    | .aper m _ => [(dieOf m).val]
    | _ => []
  let members := if twoSided c.op then (s.mates c).map fun m => (dieOf m).val else []
  let sends := ((s.sendsTo n c).filter fun d => d.1 == s.pkgnum.toNat).map fun d => (dieOf d.2.1).val
  let win := match c.op with
    | .wget .. | .wown .. => [(dieOf (locator c.xm).core).val]
    | .wput .. | .wdrop .. => ((List.range c.total).filterMap fun i => (s.core n).copyAt (c.xs.toNat / 4096 + i)).map fun w => (dieOf w.home).val
    | _ => []
  ((c.frames.flatMap fun f => home f.1) ++ sends ++ members ++ win).eraseDups

/-- Commands that may have had messages in flight on a link that fails end with LINK_DOWN; which of them had is a free
value (01 R19; 25 R409; log entry 14). -/
def State.linkLost (s : State) (hit : CoreIx → Cmd → Bool) (info : Word) : State :=
  (List.finRange 128).foldl (fun (t : State) n =>
    [false, true].foldl (fun (t : State) store =>
      ((t.core n).queue store).foldl (fun (t : State) c =>
        if c.begun && c.pos < c.total && c.fail.isNone && hit n c then
          let t' : State := { t with free := t.free + 1 }
          if Config.freeNat t.free % 2 == 0 then t'.modCmd n store c.ord fun d => { d with fail := some cLinkDown, info := info }
          else t'
        else t) t) t) s

/-- Dies that a die reaches over boundaries in service, going up and down. -/
def State.arc (s : State) (d : Nat) : List Nat :=
  let go (up : Bool) : List Nat := (List.range 8).filterMap fun k =>
    let e := if up then (d + k) % 8 else (d + 8 - k) % 8
    if (pathOf d e up).all fun b => s.ringup.getLsbD b then some e else none
  (go true ++ go false).eraseDups

/-- The boundaries that messages between two dies cross, there and back (01 R17). -/
def State.between (s : State) (a b : Nat) : List Nat := s.route a b ++ s.route b a

/-- BOUNDARY_FAILURE (01 R19; R380): a second failed boundary splits the ring, and the shells of the arc with fewer dies are fenced.
DESIGN CHOICE (log entry 85): a later one that splits what is left does the same with the parts on its two sides. -/
def State.boundaryDown (s : State) (b : Fin 8) : Option State :=
  if s.boot != .ready || !s.ringup.getLsbD b.val then none
  else
    let s := s.linkLost (fun n c => (s.cmdDies c n).any fun d => (s.between (dieOf n).val d).contains b.val) (BitVec.ofNat 64 b.val)
    let s := { s with ringup := setBit s.ringup b.val false }.journal (bareEntry 0xC cLinkDown 0xFF 0xFF [BitVec.ofNat 8 b.val])
    let here := s.arc b.val
    let there := s.arc ((b.val + 1) % 8)
    if here.contains ((b.val + 1) % 8) then some s
    else
      let lose := if here.length > there.length || (here.length == there.length && here.contains 0) then there else here
      some ((List.finRange 8).foldl (fun (t : State) d => if lose.contains d.val then (t.fenceShell d).getD t else t) s)

/-- BOUNDARY_FAILURE. -/
def execBoundaryFailure (b : Fin 8) (s : State) : Answer := happen s (s.boundaryDown b)

/-- SPOKE_FAILURE (01 R20; R379): the die's cores domain is fenced. -/
def execSpokeFailure (d : DieIx) (s : State) : Answer := happen s (s.fenceDomain d)

/-- FABRIC_PORT_DOWN (25 R409): traffic moves to the other ports; with the last one, what addresses another package ends. -/
def State.portDown (s : State) (p : Fin 18) : Option State :=
  if s.boot != .ready || !s.portup.getLsbD p.val then none
  else
    let info : Word := BitVec.ofNat 64 (0x80 + p.val)
    let s := s.linkLost (fun n c => s.leaves n c) info
    let s := { s with portup := setBit s.portup p.val false }.journal (bareEntry 0xC cLinkDown 0xFF 0xFF [BitVec.ofNat 8 (0x80 + p.val)])
    if s.portup != 0 then some s
    else some ((List.finRange 128).foldl (fun (t : State) n =>
      [false, true].foldl (fun (t : State) store =>
        ((t.core n).queue store).foldl (fun (t : State) c =>
          if c.begun && c.pos < c.total && c.fail.isNone && t.leaves n c then
            t.modCmd n store c.ord fun d => { d with fail := some cLinkDown, info := info }
          else t) t) t) s)

/-- FABRIC_PORT_DOWN. -/
def execFabricPortDown (p : Fin 18) (s : State) : Answer := happen s (s.portDown p)

/-- PORT_TRAINED (25 R409; 01 R41): firmware finishes training enabled ports and sets the package number. -/
def execPortTrained (ports : BitVec 18) (s : State) : Answer :=
  happen s (
    if s.boot == .ready && s.fabDone && ports &&& s.porten != 0 then
      some { s with portup := s.portup ||| (ports &&& s.porten), pkgnum := s.fabPkg }
    else none)

-- Resets, boot, power (01 R33 to R37; 25 R411 to R415).

/-- The package reset (R414 step 1): all state but flash takes its reset value. Counters that only number events go on. -/
def State.packageReset (s : State) : State := { State.reset with flash := s.flash, ord := s.ord, free := s.free }

/-- PACKAGE_RESET (R414; 01 R34, R39). Power is there again after it. -/
def execPackageReset (s : State) : Answer := happen s (some s.packageReset)

/-- Body length of an image (R412). -/
def imageBody (img : List Byte) : Nat := fieldAt img 8 8

/-- The image passes the checks of R412. -/
def imagePasses (img : List Byte) : Bool :=
  let n := imageBody img
  let key := (img.drop 0x10).take 2592
  fieldAt img 0 4 == 0x4B514657 && decide (1 ≤ n) && decide (n ≤ 0xFFFE000) && decide (0x2000 + n ≤ img.length) &&
    sha3 key == Config.fusedKeyDigest && decide (Config.fusedMinSvn ≤ fieldAt img 4 4) &&
    mlDsaVerify key (sha3 (img.take 16 ++ (img.drop 0x2000).take n)) ((img.drop 0xA30).take 4627)

/-- An image is taken as the running firmware (R412). -/
def State.loadImage (s : State) (img : List Byte) : State :=
  { s with boot := .load, fwDigest := sha3 ((img.drop 0x2000).take (imageBody img)), fwSvn := BitVec.ofNat 32 (fieldAt img 4 4) }

/-- One more failed check (R413). -/
def State.failImage (s : State) : State :=
  { s with boot := .wait, fails := if s.fails == 0xFF then 0xFF else s.fails + 1 }

/-- FLASH_IMAGE_CHECK (R412, R414 step 2). -/
def execFlashImageCheck (s : State) : Answer :=
  happen s (if s.boot == .check then some (if imagePasses s.flash then s.loadImage s.flash else s.failImage) else none)

/-- What firmware fixes at bring-up lies where R382 and R386 put it. -/
def bringUpOk (c : BringUpCfg) : Bool :=
  let j := c.jrnlBase.toNat * 4096
  let len := 64 * p2 c.logn.toNat
  decide (12 ≤ c.logn.toNat) && decide (c.logn.toNat ≤ 30) && j % len == 0 && decide (lpddrBase ≤ j) &&
    decide (j + len ≤ lpddrBase + 0x10000000000) &&
    (List.finRange 8).all fun d =>
      let b := (c.saveBase[d]).toNat * pageSize
      (c.saveSlots[d]).toNat == 0 ||
        (decide (d.val * bondedSize ≤ b) && decide (b + (c.saveSlots[d]).toNat * slotSize ≤ (d.val + 1) * bondedSize))

/-- BRING_UP (R414 steps 3 to 6; 26 R415): LPDDR reads zero, the journal begins, shells and cores that fail are out of
service, the other shells read as poisoned, the rest takes its reset value. -/
def State.bringUp (s : State) (c : BringUpCfg) : Option State :=
  if s.boot != .load || !bringUpOk c then none
  else
    let s : State := { s with
      mem := [], memPo := [], jrnlBase := c.jrnlBase, logn := c.logn, jrnlNext := 1
      saveBase := c.saveBase, saveSlots := c.saveSlots, pmode := 2
      dies := Vector.ofFn fun d => { s.dies[d] with slots := List.replicate (c.saveSlots[d]).toNat .free } }
    let s := (List.finRange 8).foldl (fun (t : State) d =>
      if c.shellFail.getLsbD d.val then
        let t : State := { t with shellsvc := setBit t.shellsvc d.val false, diesvc := setBit t.diesvc d.val false }
        t.dieFence d 0xFF 2
      else t) s
    some { s.clearCores (fun n => c.coreFail.getLsbD n.val || !s.diesvc.getLsbD (dieOf n).val) with boot := .ready }

/-- BRING_UP. -/
def execBringUp (c : BringUpCfg) (s : State) : Answer := happen s (s.bringUp c)

/-- The recovery image of a length, in the first bytes of LPDDR, if it passes (R413, R415). -/
def State.recovery (s : State) (n : Word) : Option (List Byte) :=
  if n.toNat < 0x2001 || 0x10000000 < n.toNat then none
  else
    let img := s.homeBytes lpddrBase n.toNat
    if imagePasses img then some img else none

/-- What is in flash after the power goes: while the ROM writes it, which it does once an image has passed, an image that fails the
next check (R413, R415). Whether it was writing yet is a free value (log entry 14). -/
def State.flashAfter (s : State) : List Byte :=
  match s.recLen.bind s.recovery with
  | some _ => if Config.freeNat s.free % 2 == 0 then s.flash else []
  | none => s.flash

/-- Power goes: all state is lost but flash (01 R37). -/
def State.noPower (s : State) : State := { State.reset with power := false, flash := s.flashAfter, ord := s.ord, free := s.free + 1 }

/-- POWER_LOSS (01 R37). -/
def execPowerLoss (s : State) : Answer := happen s (some s.noPower)

/-- OVER_TEMPERATURE_TRIP (25 R411): power is removed. -/
def execOverTemperatureTrip (s : State) : Answer := happen s (some s.noPower)

end Sys2Proof.Machine
end

