-- ==== Sys2Proof/Machine/Regs.lean ====
section
/-! DEFINITION. The management registers and the function pages as the host reads them (01 R41, R42; 03 R66, R70; 23 R382,
R386, R390, R391; 25 R394, R395, R401 to R413). -/

namespace Sys2Proof.Machine

/-- PKGINFO (01 R41). -/
def State.pkginfo (s : State) : Word :=
  (0 : BitVec 16) ++ s.diesvc ++ s.shellsvc ++ (0 : BitVec 2) ++ s.pmode ++ (0 : BitVec 4) ++ (0x01 : BitVec 8) ++
    (0 : BitVec 5) ++ s.pkgnum

/-- BOOTSTAT (25 R413). -/
def State.bootstat (s : State) : Word :=
  let st : BitVec 3 := match s.boot with
    | .check => 0 | .wait => 1 | .load => 2 | .ready => 3 | .halt => 4
  (0 : BitVec 48) ++ s.fails ++ (0 : BitVec 5) ++ st

/-- SCHEDCFG (03 R70). -/
def State.schedcfg (s : State) : Word := s.grace ++ s.ageint

/-- PWRCTL (25 R410). -/
def State.pwrctl (s : State) : Word := (0 : BitVec 61) ++ BitVec.ofBool s.pend.isSome ++ s.preq

/-- FABCFG (25 R409). -/
def State.fabcfg (s : State) : Word := (0 : BitVec 14) ++ s.porten ++ (0 : BitVec 21) ++ s.fabPkg

/-- LINKSTAT (25 R409). -/
def State.linkstat (s : State) : Word := (0 : BitVec 38) ++ s.portup ++ s.ringup

/-- JRNLCFG (23 R386). -/
def State.jrnlcfg (s : State) : Word := (0 : BitVec 12) ++ s.jrnlBase ++ (0 : BitVec 6) ++ s.logn

/-- SAVECFGd (23 R382). -/
def State.savecfg (s : State) (d : DieIx) : Word :=
  (0 : BitVec 12) ++ s.saveBase[d] ++ (0 : BitVec 13) ++ s.saveSlots[d]

/-- PARTCFGk (25 R405). -/
def Partition.cfg (p : Partition) : Word :=
  BitVec.ofBool p.valid ++ BitVec.ofBool p.priv ++ (0 : BitVec 6) ++ p.owner ++ (0 : BitVec 8) ++ p.dies ++
    (0 : BitVec 16) ++ p.id

/-- PTROOTk (25 R405). -/
def Partition.ptroot (p : Partition) : Word := (0 : BitVec 12) ++ p.root ++ (0 : BitVec 12)

/-- A context as CTX shows it in this cycle (24 R391): what it showed before, once a journalled change has been made, but for a job
that has since become FROZEN or DRAINING, which no entry tells. -/
def ctxNow (shown : Option (BitVec 4 × BitVec 48 × Word)) (j : Job) : BitVec 4 × BitVec 48 × Word :=
  match j.st with
  | .frozen | .draining => ctxOf j
  | _ => shown.getD (ctxOf j)

/-- The doubleword at offset o of CTXn.k (23 R390). -/
def State.ctxWord (s : State) (n : CoreIx) (second : Bool) (hi : Bool) : Word :=
  let c := s.core n
  let e := if second then ctxNow c.ctxShown[1] c.ctx1 else ctxNow c.ctxShown[0] c.ctx0
  if hi then e.1 ++ (0 : BitVec 12) ++ e.2.1 else e.2.2

/-- The doubleword at offset o of the management registers (25 R394). Offsets that no rule names read zero. -/
def State.mgmtRead (s : State) (o : Nat) : Word :=
  if o == 0x00 then s.pkginfo
  else if o == 0x08 then s.coresvc.setWidth 64
  else if o == 0x10 then (s.coresvc >>> 64).setWidth 64
  else if o == 0x18 then s.defectsig
  else if o == 0x20 then s.schedcfg
  else if o == 0x28 then s.pwrctl
  else if o == 0x30 then s.bootstat
  else if o == 0x38 then s.fabcfg
  else if o == 0x40 then s.jrnlcfg
  else if o == 0x48 then BitVec.ofNat 64 s.jrnlNext
  else if o == 0x50 then s.linkstat
  else if 0x100 ≤ o ∧ o < 0x140 then s.savecfg ⟨(o - 0x100) / 8 % 8, Nat.mod_lt _ (by decide)⟩
  else if 0x200 ≤ o ∧ o < 0x280 then
    let p := s.parts[(o - 0x200) / 16 % 8]'(Nat.mod_lt _ (by decide))
    if o % 16 < 8 then p.cfg else p.ptroot
  else if 0x10000 ≤ o ∧ o < 0x11000 then
    s.ctxWord ⟨(o - 0x10000) / 32 % 128, Nat.mod_lt _ (by decide)⟩ (decide (o % 32 ≥ 16)) (decide (o % 16 ≥ 8))
  else 0

/-- A read of BAR4 (25 R394, R414): until READY only BOOTSTAT responds. -/
def State.bar4Read (s : State) (o : Nat) : Word :=
  if s.boot == .ready || o == 0x30 then s.mgmtRead o else BitVec.allOnes 64

/-- The index of the partition entry that a function owns (25 R405). -/
def State.fnSlot (s : State) (f : Fin 65) : Option (Fin 8) :=
  (List.finRange 8).find? fun k => (s.parts[k]).valid && (s.parts[k]).owner.toNat == f.val

/-- The partition of a function (25 R395, R405). -/
def State.fnPart (s : State) (f : Fin 65) : Option Partition := (s.fnSlot f).map fun k => s.parts[k]

/-- FNCFG (25 R395). -/
def State.fncfg (s : State) (f : Fin 65) : Word :=
  let slot : BitVec 4 := match s.fnSlot f with
    | some k => 8 + BitVec.ofNat 4 k.val
    | none => 0
  (0 : BitVec 55) ++ BitVec.ofBool (s.fns[f]).winerr ++ (0 : BitVec 4) ++ slot

/-- FAULTVA (25 R402). -/
def State.faultva (s : State) (f : Fin 65) : Word :=
  match (s.fnPart f).bind fun p => p.faults.head? with
  | some page => BitVec.ofNat 64 (page * pageSize + 1)
  | none => 0

/-- PTESTAT (25 R404). -/
def State.ptestat (s : State) : Word :=
  (0 : BitVec 61) ++ BitVec.ofBool s.pteBad ++ BitVec.ofBool s.pteHeld ++ BitVec.ofBool s.pteBusy.isSome

/-- Eight bytes of a list, from offset o; bytes past its end read zero. -/
def wordAt (l : List Byte) (o : Nat) : Word := BitVec.ofNat 64 (leNat ((l.drop o).take 8))

/-- The doubleword at offset o of a function's page (25 R395, R403, R404). -/
def State.fnRead (s : State) (f : Fin 65) (o : Nat) : Word :=
  let p := s.fns[f]
  let pf := f == 0
  if o < 0x100 then (if o % 16 == 8 then p.substat.toList.getD (o / 16) 0 else 0)
  else if o == 0x100 then s.fncfg f
  else if o == 0x108 then p.dwbase
  else if o == 0x110 then p.invva
  else if o == 0x120 then (if p.inv.isSome then 1 else 0)
  else if o == 0x128 then s.faultva f
  else if o == 0x148 then (if pf && s.phys then 1 else 0)
  else if o == 0x150 then (if pf then (0 : BitVec 12) ++ s.pteAddr ++ (0 : BitVec 3) else 0)
  else if o == 0x158 then (if pf then s.pteData else 0)
  else if o == 0x168 then (if pf then s.ptestat else 0)
  else if o == 0x248 then (0 : BitVec 62) ++ p.attstat
  else if 0x1000 ≤ o ∧ o < 0x3000 then wordAt p.attrep (o - 0x1000)
  else if 0x3000 ≤ o ∧ o < 0x3A20 then wordAt idKey (o - 0x3000)
  else 0

/-- A read of BAR0 (25 R394, R395, R414): until READY it reads all ones, but for RECLEN in WAIT, which is write-only and reads zero. -/
def State.bar0Read (s : State) (f : Fin 65) (o : Nat) : Word :=
  if s.boot == .ready then s.fnRead f o
  else if s.boot == .wait && f == 0 && o == 0x140 then 0
  else BitVec.allOnes 64

end Sys2Proof.Machine
end

