-- ==== Sys2Proof/Machine/HostEvents.lean ====
section
/-! DEFINITION. What the host does to the package and what answers it: functions, submissions, the data window,
translations, fault requests, table updates, partitions, the fabric, power, firmware (25_outside R393 to R415). -/

namespace Sys2Proof.Machine

/-- A function page changed. -/
def State.modFn (s : State) (f : Fin 65) (g : FnPage → FnPage) : State := { s with fns := s.fns.set f (g s.fns[f]) }

/-- The function is there and the package answers it (R414). -/
def State.answers (s : State) (f : Fin 65) : Bool := s.boot == .ready && (s.fns[f]).present

-- Functions (R393, R397).

/-- Cached translations of a partition for a range of pages dropped in every die (R401). -/
def State.dropXlat (s : State) (part : BitVec 16) (hit : Nat → Bool) : State :=
  { s with dies := s.dies.map fun (d : Die) => { d with tlb := d.tlb.filter fun e => !(e.part == part && hit e.page) } }

/-- The invalidation of a function's partition over [va, va + len), widened to pages; length 0 takes all of it (R401). -/
def State.invalidateVas (s : State) (f : Fin 65) (va len : Word) : State :=
  match s.fnPart f with
  | none => s
  | some p => s.dropXlat p.id fun page =>
      len == 0 || (decide (va.toNat / pageSize ≤ page) && decide (page * pageSize < va.toNat + len.toNat))

/-- A function page returns to its reset values; its pending submissions go on unseen, and an invalidation under way is made
(R397). -/
def State.resetPage (s : State) (f : Fin 65) (present : Bool) : State :=
  let s := match (s.fns[f]).inv with
    | some (va, len) => s.invalidateVas f va len
    | none => s
  let s : State := { s with subs := s.subs.map fun (u : Submission) => match u.fn with
    | some (g, _) => if g == f then { u with quiet := true } else u
    | none => u }
  let s := s.modFn f fun _ => { FnPage.zero with present := present }
  if f == 0 then { s with phys := false, pteAddr := 0, pteData := 0, pteBad := false, pteHeld := false, pteBusy := none } else s

/-- A job that waits for a page is fenced: the host cannot resolve it (R375, R402). -/
def State.fenceWaiting (s : State) (n : CoreIx) (part : BitVec 16) (page : Nat) : State :=
  [true, false].foldl (fun (t : State) run =>
    let j := (t.core n).ctx run
    if j.nest.part != part || j.faultPage != some page then t
    else match j.st with
    | .suspended => t.fenceJob n run cPageNotPresent none (some (j.trapstrm, j.trappc)) j.trapinfo
    | .dispatched => t.fenceCtx n run cPageNotPresent (BitVec.ofNat 64 (page * pageSize))
    | _ => t) s

/-- All jobs that wait for a page of a partition are fenced. -/
def State.unresolvable (s : State) (part : BitVec 16) (page : Nat) : State :=
  (List.finRange 128).foldl (fun (t : State) n => t.fenceWaiting n part page) s

/-- The fault requests of a partition whose function is gone, and those still to come, are answered as unresolvable (R397). -/
def State.refusePages (s : State) (k : Fin 8) : State :=
  let p := s.parts[k]
  let s : State := { s with parts := s.parts.set k { p with faults := [] } }
  (List.finRange 128).foldl (fun (t : State) n =>
    [(t.core n).job, (t.core n).other].foldl (fun (t : State) j => match j.faultPage with
      | some page => t.fenceWaiting n p.id page
      | none => t) t) s

/-- A VF goes (R397): its page, the partition entries that name it, their fault requests. -/
def State.removeFn (s : State) (f : Fin 65) : State :=
  if !(s.fns[f]).present then s
  else
    (List.finRange 8).foldl (fun (t : State) (k : Fin 8) =>
      let p := t.parts[k]
      if p.valid && p.owner.toNat == f.val then
        ({ t with parts := t.parts.set k { p with clearing := true, gone := true } } : State).refusePages k
      else t) (s.resetPage f false)

/-- The VFs above n go. -/
def State.keepVfs (s : State) (n : Nat) : State :=
  ((List.finRange 65).filter fun f => decide (n < f.val)).foldl State.removeFn s

/-- FUNCTION_LEVEL_RESET (R397): of the PF it clears VF Enable too. -/
def execFunctionLevelReset (f : Fin 65) (s : State) : Answer :=
  happen s (
    if !(s.fns[f]).present then none
    else
      let s := if f == 0 then s.keepVfs 0 else s
      some (s.resetPage f true))

/-- VF_REMOVAL (R397): the VF count falls to n, or VF Enable is cleared (n = 0). -/
def execVfRemoval (n : Fin 65) (s : State) : Answer := happen s (some (s.keepVfs n.val))

/-- VF_ENABLE (R393): the VF count rises to n; the new VFs appear with their pages at reset values. -/
def execVfEnable (n : Fin 65) (s : State) : Answer :=
  happen s (
    if s.boot != .ready then none
    else some { s with fns := Vector.ofFn fun f =>
      if !(s.fns[f]).present && f.val ≤ n.val then { FnPage.zero with present := true } else s.fns[f] })

/-- MSIX_VECTOR_UNMASK (R396, R414): a message held pending is sent. -/
def execMsixVectorUnmask (f : Fin 65) (v : Fin 4) (s : State) : Answer :=
  happen s (
    if !s.answers f then none
    else
      let was := (s.fns[f]).pend[v]
      let s := s.modFn f fun p => { p with mask := p.mask.set v false, pend := p.pend.set v false }
      some (if was then s.msix f v else s))

-- Submission (R398).

/-- SUBSTAT of a slot whose check is under way. -/
def subPending : Word := 0x4000000000000000

/-- SUBMISSION_DOORBELL (R398, R399): the submission takes its place before the RM. -/
def execSubmissionDoorbell (f : Fin 65) (k : Fin 16) (va : Word) (s : State) : Answer :=
  happen s (
    if !s.answers f || (s.fns[f]).substat[k] == subPending then none
    else
      let part := (s.fnPart f).map Partition.id
      let s := s.modFn f fun p => { p with substat := p.substat.set k subPending }
      some { s with subs := s.subs ++ [⟨s.ord, some (f, k), none, part, va, none, false, none⟩], ord := s.ord + 1 })

-- The data window (R400, R403, R413).

/-- The die whose translation cache the accesses of a partition's function go through. DESIGN CHOICE (log entry 78): the
lowest-numbered die of the partition. -/
def Partition.windowDie (p : Partition) : DieIx := ((List.finRange 8).find? fun d => p.dies.getLsbD d.val).getD 0

/-- How one byte of a data-window access ends: at a physical address, or not at all, with what the die's translation cache then
holds. Its walk is for no extent (05 R97). DESIGN CHOICE (log entry 78): what no host access reaches by 01 R25 and R32, the apertures
and the memory of other packages that is not read-duplicated, it is refused as a walk that fails. -/
def State.windowByte (s : State) (f : Fin 65) (a : Nat) (w : Bool) : Option (Nat × Option Nat × State) :=
  if f == 0 && s.phys then (if s.isDram a then some (canon s.pkgnum.toNat a, none, s) else none)
  else match s.fnPart f with
  | none => none
  | some p =>
    let va : Word := BitVec.ofNat 64 a
    match s.lookup p.windowDie p.id va (!w) w false with
    | .ok x =>
      let frame := canon s.pkgnum.toNat x.frame
      if s.frameBad frame true x.rdup then none
      else
        let home := match s.dups.find? fun d => d.peer == frame with
          | some d => d.frame
          | none => frame
        some (home + a % pageSize, if w then some x.entry else none, s.modDie p.windowDie fun d => d.tlbPut p.id va x)
    | .bad .. => none

/-- The bytes of a data-window access, all of them or none. -/
def State.windowBytes (s : State) (f : Fin 65) (off : BitVec 36) (n : Nat) (w : Bool) : Option (List (Nat × Option Nat) × State) :=
  let base := (s.fns[f]).dwbase.toNat + off.toNat
  (List.range n).foldl (fun (r : Option (List (Nat × Option Nat) × State)) i => r.bind fun r =>
    (r.2.windowByte f (base + i) w).map fun b => (r.1 ++ [(b.1, b.2.1)], b.2.2)) (some ([], s))

/-- WINERR is set, with its message (R396, R400). -/
def State.winError (s : State) (f : Fin 65) : State :=
  let was := (s.fns[f]).winerr
  let s := s.modFn f fun p => { p with winerr := true }
  if was then s else s.msix f 3

/-- An answer to a data-window read. -/
def State.answerRead (s : State) (f : Fin 65) (v : Word) (ep : Bool) : State :=
  { s with pcieOut := s.pcieOut ++ [.readData f.val v ep] }

/-- All ones of a size. -/
def onesOf (sz : Sz) : Word := BitVec.ofNat 64 (p2 (8 * szBytes sz) - 1)

/-- DATA_WINDOW_READ (R400, R403, R413, R414). -/
def State.windowRead (s : State) (f : Fin 65) (off : BitVec 36) (sz : Sz) : Option State :=
  let n := szBytes sz
  if !(s.fns[f]).present then none
  else if s.boot == .wait && f == 0 then
    if off.toNat + n ≤ 0x10000000 then some (s.answerRead f (BitVec.ofNat 64 (leNat (s.homeBytes (lpddrBase + off.toNat) n))) false)
    else some (s.answerRead f (onesOf sz) false)
  else if s.boot != .ready then some (s.answerRead f (onesOf sz) false)
  else match s.windowBytes f off n false with
  | none => some ((s.winError f).answerRead f (onesOf sz) false)
  | some (l, s) =>
    let one (a : Nat) : Byte × Bool := match s.rmRead a 1 with
      | (b :: _, po) => (b, po.isSome)
      | _ => (0, false)
    let bs := l.map fun e => one e.1
    some (s.answerRead f (BitVec.ofNat 64 (leNat (bs.map Prod.fst))) (bs.any Prod.snd))

/-- DATA_WINDOW_READ. -/
def execDataWindowRead (f : Fin 65) (off : BitVec 36) (sz : Sz) (s : State) : Answer := happen s (s.windowRead f off sz)

/-- The partition that a data-window access of a function is for, and the dies that it may probe: physical accesses belong to no
partition (R403; 07 R143). -/
def State.windowPart (s : State) (f : Fin 65) : BitVec 16 × BitVec 8 :=
  match s.fnPart f with
  | some p => (p.id, if f == 0 && s.phys then 0xFF else p.dies)
  | none => (0, if f == 0 && s.phys then 0xFF else 0)

/-- Bytes of a data-window write at their homes, page by page: in a page that another package owns they go to it (07 R139). -/
def State.windowPut (s : State) (part : BitVec 16) (mask : BitVec 8) (put : List (Nat × Byte × Option PoU)) : State :=
  (put.map fun b => b.1 / pageSize).eraseDups.foldl (fun (t : State) page =>
    let bs := put.filter fun b => b.1 / pageSize == page
    match t.place (page * pageSize) with
    | .peer pkg _ =>
      { t with
        fabricOut := t.fabricOut ++ bs.map fun b => ⟨pkg, t.incarn, part, .store ((b.1 - peerBase) % p2 40) [b.2.1] t.ord⟩
        ord := t.ord + 1 }
    | _ => t.orderInTurn mask part (page * pageSize) bs none) s

/-- DATA_WINDOW_WRITE (R400, R403, R413 to R415; 23 R416): the bytes of one write of the host, ordered at their homes; D is set as a copy
destination's is, and units covered whole are clean (23 R378). -/
def State.windowWrite (s : State) (f : Fin 65) (off : BitVec 36) (bytes : List Byte) : Option State :=
  let n := bytes.length
  if !(s.fns[f]).present then none
  else if s.boot == .wait && f == 0 then
    if s.recLen.isNone && decide (off.toNat + n ≤ 0x10000000) then
      some (s.homePut (cleanBytes (lpddrBase + off.toNat) bytes))
    else none
  else if s.boot != .ready then none
  else match s.windowBytes f off n true with
  | none => some (s.winError f)
  | some (l, s) =>
    let (part, mask) := s.windowPart f
    let s := (l.filterMap Prod.snd).eraseDups.foldl (fun (t : State) e => t.setDirty part e) s
    let put := (l.zip bytes).filterMap fun e => if s.homeDead e.1.1 then none else some (e.1.1, e.2, (none : Option PoU))
    some (s.windowPut part mask put)

/-- DATA_WINDOW_WRITE: `sz` bytes, those of `val`. -/
def execDataWindowWrite (f : Fin 65) (off : BitVec 36) (sz val : Nat) (s : State) : Answer :=
  happen s (s.windowWrite f off (leBytes sz val))

-- Translations and fault requests (R401, R402).

/-- INVLEN_WRITE (R401). -/
def execInvlenWrite (f : Fin 65) (len : Word) (s : State) : Answer :=
  happen s (if s.answers f && (s.fns[f]).inv.isNone then
    some (s.modFn f fun p => { p with inv := some (p.invva, len) }) else none)

/-- INVALIDATION_DONE (R401, R396). -/
def execInvalidationDone (f : Fin 65) (s : State) : Answer :=
  happen s (match (s.fns[f]).inv with
    | some (va, len) => some (((s.invalidateVas f va len).modFn f fun p => { p with inv := none }).msix f 1)
    | none => none)

/-- Fault requests that found no place are posted (R402). -/
def State.repost (s : State) (part : BitVec 16) : State :=
  (List.finRange 128).foldl (fun (t : State) n =>
    [true, false].foldl (fun (t : State) run =>
      let j := (t.core n).ctx run
      match j.st, j.faultPage with
      | .suspended, some p => if j.nest.part == part then t.faultRequest part p else t
      | .dispatched, some p => if j.nest.part == part then t.faultRequest part p else t
      | _, _ => t) t) s

/-- Jobs that wait for a page are tried again (R402): the suspended ones are walked for, the dispatched ones translated
anew. -/
def State.resolved (s : State) (part : BitVec 16) (page : Nat) : State :=
  (List.finRange 128).foldl (fun (t : State) n =>
    let t := if (t.job n).nest.part == part && (t.job n).faultPage == some page then t.lookAgain n else t
    [true, false].foldl (fun (t : State) run =>
      let j := (t.core n).ctx run
      if j.st == .dispatched && j.nest.part == part && j.faultPage == some page then
        t.modCtx n run fun j => { j with faultPage := none } else t) t) s

/-- FAULTACK (R402, R375): the answer to the oldest fault request. -/
def State.faultAck (s : State) (f : Fin 65) (v : Word) : Option State :=
  if !s.answers f then none
  else match s.fnSlot f with
  | none => none
  | some k =>
    let p := s.parts[k]
    match p.faults with
    | [] => none
    | page :: rest =>
      let ans := (v &&& 3).toNat
      if (v >>> 21 &&& 0xFFFFFFFFF).toNat != page || !(ans == 1 || ans == 2) then none
      else
        let s : State := { s with parts := s.parts.set k { p with faults := rest } }
        let s := if rest.isEmpty then s else s.msixPart p.id 2
        let s := if ans == 1 then s.resolved p.id page else s.unresolvable p.id page
        some (s.repost p.id)

/-- FAULTACK. -/
def execFaultack (f : Fin 65) (v : Word) (s : State) : Answer := happen s (s.faultAck f v)

-- Table updates (R404).

/-- The entry address of an update (R404). -/
def State.pteAt (s : State) : Nat := s.pteAddr.toNat * 8

/-- The frame of a level-0 entry is pinned on some die, under its own address or as a duplicate (05 R98; 07 R138). -/
def State.framePinned (s : State) (frame : Nat) : Bool :=
  let f := canon s.pkgnum.toNat frame
  let fs := f :: ((s.dups.filter fun d => d.peer == f).map Dup.frame)
  s.dies.toList.any fun d => fs.any fun x => d.pinCount x != 0

/-- The update must wait (R404, R100): a pinned frame in force, and a change to V, RD, W, RDUP or FRAME, or D cleared. -/
def State.pteWaits (s : State) : Bool :=
  let a := canon s.pkgnum.toNat s.pteAt
  let old : Word := BitVec.ofNat 64 (leNat (s.homeBytes a 8))
  let keep : Word := 0x000FFFFFFFE00027
  s.pteBusy == some 0 && old.getLsbD 0 && s.framePinned (old &&& 0x000FFFFFFFE00000).toNat &&
    ((old ^^^ s.pteData) &&& keep != 0 || (old.getLsbD 3 && !s.pteData.getLsbD 3))

/-- The update is over (R404, R396). -/
def State.pteEnd (s : State) : State := { s with pteBusy := none, pteHeld := false }.msix 0 1

/-- The entry is written in one step at its home (R404). The write is the RM's, of no partition (07 R143). -/
def State.pteWrite (s : State) : State :=
  let a := canon s.pkgnum.toNat s.pteAt
  let s := if s.homeDead a then s else s.orderAtHome 0xFF (cleanBytes a (leBytes 8 s.pteData.toNat))
  s.pteEnd

/-- PTEGO_WRITE (R404): an update is refused, held, or made at once. -/
def execPtegoWrite (v : Word) (s : State) : Answer :=
  happen s (
    if s.boot != .ready || s.pteBusy.isSome then none
    else
      let s : State := { s with pteBusy := some (v.setWidth 2), pteBad := false, pteHeld := false }
      if !s.isDram s.pteAt then some { s with pteBad := true }.pteEnd
      else if s.pteWaits then some { s with pteHeld := true }
      else some s.pteWrite)

/-- PTE_UPDATE_DONE (R404): a held update is made once the frame's pins are released. -/
def execPteUpdateDone (s : State) : Answer :=
  happen s (if s.pteHeld && !s.pteWaits then some s.pteWrite else none)

-- Attestation and recovery (R412, R413, R415).

/-- ATTGO_WRITE (R412). -/
def execAttgoWrite (f : Fin 65) (s : State) : Answer :=
  happen s (if s.answers f && (s.fns[f]).attstat != 1 then some (s.modFn f fun p => { p with attstat := 1 }) else none)

/-- Bytes 0x000 to 0x0FF of a report (R412). -/
def State.attHead (s : State) (f : Fin 65) : List Byte :=
  let cfg : Word := match s.fnPart f with | some p => p.cfg | none => 0
  let pad (n : Nat) (l : List Byte) : List Byte := (l ++ List.replicate n 0).take n
  leBytes 8 1 ++ leBytes 8 s.pkginfo.toNat ++ leBytes 8 s.defectsig.toNat ++ leBytes 8 cfg.toNat ++ pad 32 (leBytes 2 f.val) ++
    pad 64 (s.fns[f]).attnonce ++ pad 64 s.fwDigest ++ pad 64 (leBytes 4 s.fwSvn.toNat)

/-- ATTESTATION_READY (R412, R396). -/
def execAttestationReady (f : Fin 65) (s : State) : Answer :=
  happen s (
    if (s.fns[f]).attstat == 1 then
      let head := s.attHead f
      some ((s.modFn f fun p => { p with attrep := head ++ deviceSign (sha3 head), attstat := 2 }).msix f 1)
    else none)

/-- RECLEN_WRITE (R413, R415). -/
def execReclenWrite (n : Word) (s : State) : Answer :=
  happen s (if s.boot == .wait && s.recLen.isNone then some { s with recLen := some n } else none)

/-- RECOVERY_CHECK_DONE (R413, R415): a good image replaces the one in flash and is loaded. -/
def execRecoveryCheckDone (s : State) : Answer :=
  happen s (match s.boot, s.recLen with
    | .wait, some n =>
      let s : State := { s with recLen := none }
      some (match s.recovery n with
        | some img => { s with flash := img }.loadImage img
        | none => s.failImage)
    | _, _ => none)

-- Partitions (R405, R406).

/-- A write that sets VALID is taken (R406). -/
def State.partOk (s : State) (k : Fin 8) (p : Partition) : Bool :=
  let others := ((List.finRange 8).filter fun i => i != k).map fun i => s.parts[i]
  p.dies != 0 && p.root != 0 && others.all fun q =>
    !q.valid || (q.dies &&& p.dies == 0 && q.id != p.id && (p.owner == 0xFF || q.owner != p.owner))

/-- PARTITION_ENTRY_WRITE (R406; 01 R6): a write to PARTCFGk. -/
def State.partWrite (s : State) (k : Fin 8) (v : Word) : Option State :=
  let p := s.parts[k]
  if s.boot != .ready then none
  else if p.valid then
    if v.getLsbD 63 then none else some { s with parts := s.parts.set k { p with clearing := true } }
  else
    let q : Partition := { p with
      valid := v.getLsbD 63, priv := v.getLsbD 62, owner := (v >>> 48).setWidth 8, dies := (v >>> 32).setWidth 8
      id := v.setWidth 16, clearing := false, faults := [], gone := false }
    if q.valid && !s.partOk k q then none
    else
      let s : State := { s with parts := s.parts.set k q }
      some s

/-- PARTITION_ENTRY_WRITE. -/
def execPartitionEntryWrite (k : Fin 8) (v : Word) (s : State) : Answer := happen s (s.partWrite k v)

/-- PARTITION_CLEAR_DONE (R406): nothing of the partition is left, and VALID reads 0. -/
def execPartitionClearDone (k : Fin 8) (s : State) : Answer :=
  let p := s.parts[k]
  happen s (
    if p.valid && p.clearing && p.faults.isEmpty && !(s.launches.any fun l => l.nest.part == p.id) then
      some { s with parts := s.parts.set k { p with valid := false, clearing := false, gone := false } }
    else none)

-- The fabric and power (R409 to R411).

/-- FABRIC_CONFIG_WRITE (R409): the first write after READY. -/
def execFabricConfigWrite (v : Word) (s : State) : Answer :=
  happen s (if s.boot == .ready && !s.fabDone then
    some { s with porten := (v >>> 32).setWidth 18, fabPkg := v.setWidth 11, fabDone := true } else none)

/-- Core cycles in a µs (01 R38). -/
def cyclesPerUs (mode : BitVec 2) : Nat := if mode == 0 then 2700 else if mode == 1 then 2400 else 1800

/-- A change of mode is fixed at a gcc 50 µs or less ahead, a value that the spec leaves open (log entry 14), and journalled
(R411; 01 R40). -/
def State.fixMode (s : State) : State :=
  if s.preq == s.pmode || s.pend.isSome then s
  else
    let g := s.gcc + 1 + Config.freeNat s.free % (50 * cyclesPerUs s.pmode)
    let s : State := { s with pend := some (g, s.preq), free := s.free + 1 }
    s.journal (bareEntry 0xD 0 0xFF 0xFF ([BitVec.ofNat 8 s.preq.toNat, 0] ++ leBytes 8 g))

/-- PWRCTL_WRITE (R410, R411). -/
def execPwrctlWrite (v : Word) (s : State) : Answer :=
  happen s (
    if s.boot != .ready || v &&& 3 == 3 then none else some { s with preq := v.setWidth 2 }.fixMode)

/-- The change of mode whose gcc has come (R411; 01 R40). -/
def State.modeNow (s : State) : Option State :=
  match s.pend with
  | some (g, m) => if g ≤ s.gcc then some { s with pmode := m, pend := none }.fixMode else none
  | none => none

/-- MODE_CHANGE (R411; 01 R40): the cycle at whose start the change takes effect makes it, when none is given earlier in it. -/
def execModeChange (s : State) : Answer := happen s s.modeNow

-- Registers with no behaviour of their own (01 R6; 25 R395, R403 to R405; 03 R70).

/-- A write to the function page (R395, R400, R403, R404, R412). -/
def State.fnWrite (s : State) (f : Fin 65) (o : Nat) (v : Word) : Option State :=
  let pf := f == 0
  if o == 0x100 then (if v.getLsbD 8 then some (s.modFn f fun p => { p with winerr := false }) else none)
  else if o == 0x108 then some (s.modFn f fun p => { p with dwbase := v &&& 0xFFFFFFF000000000 })
  else if o == 0x110 then some (s.modFn f fun p => { p with invva := v })
  else if o == 0x148 then (if pf then some { s with phys := v.getLsbD 0 } else none)
  else if o == 0x150 then (if pf && s.pteBusy.isNone then some { s with pteAddr := (v >>> 3).setWidth 49 } else none)
  else if o == 0x158 then (if pf && s.pteBusy.isNone then some { s with pteData := v } else none)
  else if 0x200 ≤ o ∧ o < 0x240 ∧ o % 8 = 0 then
    if (s.fns[f]).attstat == 1 then none
    else some (s.modFn f fun p =>
      { p with attnonce := p.attnonce.take (o - 0x200) ++ leBytes 8 v.toNat ++ p.attnonce.drop (o - 0x200 + 8) })
  else none

/-- A write to the management registers (03 R70; 25 R405, R406). -/
def State.mgmtWrite (s : State) (o : Nat) (v : Word) : Option State :=
  if o == 0x20 then some { s with grace := (v >>> 32).setWidth 32, ageint := v.setWidth 32 }
  else if 0x200 ≤ o ∧ o < 0x280 ∧ o % 16 = 8 then
    let k : Fin 8 := ⟨(o - 0x200) / 16 % 8, Nat.mod_lt _ (by decide)⟩
    let p := s.parts[k]
    if p.valid then none else some { s with parts := s.parts.set k { p with root := (v >>> 12).setWidth 40 } }
  else none

/-- REGISTER_WRITE (01 R6): the access codes of each register decide what of the value is taken. -/
def execRegisterWrite (f : Fin 65) (bar4 : Bool) (off : BitVec 32) (v : Word) (s : State) : Answer :=
  happen s (
    if !s.answers f then none
    else if bar4 then (if f == 0 then s.mgmtWrite off.toNat v else none)
    else s.fnWrite f off.toNat v)

end Sys2Proof.Machine
end

