-- ==== Sys2Proof/Machine/Scalar.lean ====
section
/-! DEFINITION. Integer arithmetic, comparisons and predicates of class 00 (13_control_scalar R211, R233 to R240; poison
23 R377). -/

namespace Sys2Proof.Machine

/-- A word of two register sources: its result after latency l, poisoned by the first poisoned source (R377). -/
def scalar2 (s : State) (xd xa xb : BitVec 4) (l : Nat) (f : Word → Word → Word) : Res State := do
  let a ← rdX s xa
  let b ← rdX s xb
  .ok (wrX s xd ⟨f a.v b.v, firstPo [a.po, b.po]⟩ l)

/-- A word of one register source. -/
def scalar1 (s : State) (xd xa : BitVec 4) (f : Word → Word) : Res State := do
  let a ← rdX s xa
  .ok (wrX s xd ⟨f a.v, a.po⟩ 1)

/-- A predicate word of two predicates (R239). -/
def pred2 (s : State) (pd pa pb : BitVec 3) (f : Bool → Bool → Bool) : Res State := do
  let a ← rdP s pa
  let b ← rdP s pb
  .ok (wrP s pd ⟨f a.v b.v, firstPo [a.po, b.po]⟩ 1)

/-- An immediate of 29 bits sign-extended (R187). -/
def imm29 (i : BitVec 29) : Word := i.signExtend 64

/-- ADD (R233): wrapping sum. -/
def execAdd (xd xa xb : BitVec 4) (s : State) : Answer :=
  finish s (scalar2 s xd xa xb 1 fun a b => a + b)

/-- SUB (R233): wrapping difference. -/
def execSub (xd xa xb : BitVec 4) (s : State) : Answer :=
  finish s (scalar2 s xd xa xb 1 fun a b => a - b)

/-- AND (R233): bitwise and. -/
def execAnd (xd xa xb : BitVec 4) (s : State) : Answer :=
  finish s (scalar2 s xd xa xb 1 fun a b => a &&& b)

/-- OR (R233): bitwise or. -/
def execOr (xd xa xb : BitVec 4) (s : State) : Answer :=
  finish s (scalar2 s xd xa xb 1 fun a b => a ||| b)

/-- XOR (R233): bitwise exclusive or. -/
def execXor (xd xa xb : BitVec 4) (s : State) : Answer :=
  finish s (scalar2 s xd xa xb 1 fun a b => a ^^^ b)

/-- SHL (R233): shift left, zero fill. -/
def execShl (xd xa xb : BitVec 4) (s : State) : Answer :=
  finish s (scalar2 s xd xa xb 1 fun a b => a <<< (b &&& 63).toNat)

/-- SHR (R233): shift right, zero fill. -/
def execShr (xd xa xb : BitVec 4) (s : State) : Answer :=
  finish s (scalar2 s xd xa xb 1 fun a b => a >>> (b &&& 63).toNat)

/-- SRA (R233): shift right, sign fill. -/
def execSra (xd xa xb : BitVec 4) (s : State) : Answer :=
  finish s (scalar2 s xd xa xb 1 fun a b => a.sshiftRight (b &&& 63).toNat)

/-- MIN (R233): signed minimum. -/
def execMin (xd xa xb : BitVec 4) (s : State) : Answer :=
  finish s (scalar2 s xd xa xb 1 fun a b => min64 a b)

/-- MAX (R233): signed maximum. -/
def execMax (xd xa xb : BitVec 4) (s : State) : Answer :=
  finish s (scalar2 s xd xa xb 1 fun a b => max64 a b)

/-- MINU (R233): unsigned minimum. -/
def execMinu (xd xa xb : BitVec 4) (s : State) : Answer :=
  finish s (scalar2 s xd xa xb 1 fun a b => minu64 a b)

/-- MAXU (R233): unsigned maximum. -/
def execMaxu (xd xa xb : BitVec 4) (s : State) : Answer :=
  finish s (scalar2 s xd xa xb 1 fun a b => maxu64 a b)

/-- ADDI (R234). -/
def execAddi (xd xa : BitVec 4) (imm : BitVec 29) (s : State) : Answer :=
  finish s (scalar1 s xd xa fun a => a + imm29 imm)

/-- ANDI (R234). -/
def execAndi (xd xa : BitVec 4) (imm : BitVec 29) (s : State) : Answer :=
  finish s (scalar1 s xd xa fun a => a &&& imm29 imm)

/-- ORI (R234). -/
def execOri (xd xa : BitVec 4) (imm : BitVec 29) (s : State) : Answer :=
  finish s (scalar1 s xd xa fun a => a ||| imm29 imm)

/-- XORI (R234). -/
def execXori (xd xa : BitVec 4) (imm : BitVec 29) (s : State) : Answer :=
  finish s (scalar1 s xd xa fun a => a ^^^ imm29 imm)

/-- SHLI (R234). -/
def execShli (xd xa : BitVec 4) (sh : BitVec 6) (s : State) : Answer :=
  finish s (scalar1 s xd xa fun a => a <<< sh.toNat)

/-- SHRI (R234). -/
def execShri (xd xa : BitVec 4) (sh : BitVec 6) (s : State) : Answer :=
  finish s (scalar1 s xd xa fun a => a >>> sh.toNat)

/-- SRAI (R234). -/
def execSrai (xd xa : BitVec 4) (sh : BitVec 6) (s : State) : Answer :=
  finish s (scalar1 s xd xa fun a => a.sshiftRight sh.toNat)

/-- LI (R235): the sign-extended 37-bit immediate. -/
def execLi (xd : BitVec 4) (imm : BitVec 37) (s : State) : Answer :=
  finish s (.ok (wrX s xd (XVal.clean (imm.signExtend 64)) 1))

/-- LIH (R235): bits [63:37] replaced, bits [36:0] kept. -/
def execLih (xd : BitVec 4) (imm : BitVec 27) (s : State) : Answer :=
  finish s (scalar1 s xd xd fun a => imm ++ a.extractLsb' 0 37)

/-- MUL (R236), latency 4 (R211). -/
def execMul (xd xa xb : BitVec 4) (s : State) : Answer :=
  finish s (scalar2 s xd xa xb 4 fun a b => a * b)

/-- MULH (R236), latency 4 (R211). -/
def execMulh (xd xa xb : BitVec 4) (s : State) : Answer :=
  finish s (scalar2 s xd xa xb 4 fun a b => mulh64 a b)

/-- MULHU (R236), latency 4 (R211). -/
def execMulhu (xd xa xb : BitVec 4) (s : State) : Answer :=
  finish s (scalar2 s xd xa xb 4 fun a b => mulhu64 a b)

/-- DIV (R236), latency 24 (R211). -/
def execDiv (xd xa xb : BitVec 4) (s : State) : Answer :=
  finish s (scalar2 s xd xa xb 24 fun a b => div64 a b)

/-- DIVU (R236), latency 24 (R211). -/
def execDivu (xd xa xb : BitVec 4) (s : State) : Answer :=
  finish s (scalar2 s xd xa xb 24 fun a b => divu64 a b)

/-- REM (R236), latency 24 (R211). -/
def execRem (xd xa xb : BitVec 4) (s : State) : Answer :=
  finish s (scalar2 s xd xa xb 24 fun a b => rem64 a b)

/-- REMU (R236), latency 24 (R211). -/
def execRemu (xd xa xb : BitVec 4) (s : State) : Answer :=
  finish s (scalar2 s xd xa xb 24 fun a b => remu64 a b)

/-- CLZ (R237). -/
def execClz (xd xa : BitVec 4) (s : State) : Answer :=
  finish s (scalar1 s xd xa fun a => clz64 a)

/-- CTZ (R237). -/
def execCtz (xd xa : BitVec 4) (s : State) : Answer :=
  finish s (scalar1 s xd xa fun a => ctz64 a)

/-- POPC (R237). -/
def execPopc (xd xa : BitVec 4) (s : State) : Answer :=
  finish s (scalar1 s xd xa fun a => popc64 a)

/-- BFX (R237). -/
def execBfx (xd xa : BitVec 4) (pos : BitVec 6) (width : BitVec 7) (s : State) : Answer :=
  finish s (scalar1 s xd xa fun a => bfx64 a pos width)

/-- BFI (R237) reads xd as well; xa comes first in the order of R377. -/
def execBfi (xd xa : BitVec 4) (pos : BitVec 6) (width : BitVec 7) (s : State) : Answer :=
  finish s (scalar2 s xd xa xd 1 fun a d => bfi64 d a pos width)

/-- CMP (R238). -/
def execCmp (cond : Cond) (pd : BitVec 3) (xa xb : BitVec 4) (s : State) : Answer :=
  finish s (do
    let a ← rdX s xa
    let b ← rdX s xb
    .ok (wrP s pd ⟨condHolds cond a.v b.v, firstPo [a.po, b.po]⟩ 1))

/-- CMPI (R238). -/
def execCmpi (cond : Cond) (pd : BitVec 3) (xa : BitVec 4) (imm : BitVec 25) (s : State) : Answer :=
  finish s (do
    let a ← rdX s xa
    .ok (wrP s pd ⟨condHolds cond a.v (imm.signExtend 64), a.po⟩ 1))

/-- PAND (R239). -/
def execPand (pd pa pb : BitVec 3) (s : State) : Answer := finish s (pred2 s pd pa pb fun a b => a && b)

/-- POR (R239). -/
def execPor (pd pa pb : BitVec 3) (s : State) : Answer := finish s (pred2 s pd pa pb fun a b => a || b)

/-- PXOR (R239). -/
def execPxor (pd pa pb : BitVec 3) (s : State) : Answer := finish s (pred2 s pd pa pb fun a b => a != b)

/-- PNOT (R239). -/
def execPnot (pd pa : BitVec 3) (s : State) : Answer := finish s (pred2 s pd pa pa fun a _ => !a)

/-- SEL (R240): its sources in the order xa, xb, predicate (R377). -/
def execSel (xd : BitVec 4) (pk : BitVec 3) (xa xb : BitVec 4) (s : State) : Answer :=
  finish s (do
    let a ← rdX s xa
    let b ← rdX s xb
    let p ← rdP s pk
    .ok (wrX s xd ⟨if p.v then a.v else b.v, firstPo [a.po, b.po, p.po]⟩ 1))

end Sys2Proof.Machine
end

