-- ==== Sys2Proof/Machine/Dispatch.lean ====
section
/-! DEFINITION. The one match from an instruction or event to its meaning. -/

namespace Sys2Proof.Machine

/-- What an instruction word, or an event, does. -/
def exec (i : Instr) (s : State) : Host.Outcome State Fault Refusal :=
  match i with
  | .nop => Sys2Proof.Machine.execNop s
  | .br off => Sys2Proof.Machine.execBr off s
  | .brc cond xa xb off => Sys2Proof.Machine.execBrc cond xa xb off s
  | .jmpx xd xa => Sys2Proof.Machine.execJmpx xd xa s
  | .call off => Sys2Proof.Machine.execCall off s
  | .ret => Sys2Proof.Machine.execRet s
  | .loop xd imm => Sys2Proof.Machine.execLoop xd imm s
  | .loopv xd imm => Sys2Proof.Machine.execLoopv xd imm s
  | .lbreak cond xa xb off => Sys2Proof.Machine.execLbreak cond xa xb off s
  | .join => Sys2Proof.Machine.execJoin s
  | .waitt tl xa imm => Sys2Proof.Machine.execWaitt tl xa imm s
  | .waits ts xa inv => Sys2Proof.Machine.execWaits ts xa inv s
  | .send t k xa => Sys2Proof.Machine.execSend t k xa s
  | .srd xd r => Sys2Proof.Machine.execSrd xd r s
  | .swr r xa => Sys2Proof.Machine.execSwr r xa s
  | .fence ord scope => Sys2Proof.Machine.execFence ord scope s
  | .beacon => Sys2Proof.Machine.execBeacon s
  | .yield xa xb => Sys2Proof.Machine.execYield xa xb s
  | .stampw xd xa => Sys2Proof.Machine.execStampw xd xa s
  | .trap xa imm => Sys2Proof.Machine.execTrap xa imm s
  | .tret xa => Sys2Proof.Machine.execTret xa s
  | .nest xd xa => Sys2Proof.Machine.execNest xd xa s
  | .add xd xa xb => Sys2Proof.Machine.execAdd xd xa xb s
  | .sub xd xa xb => Sys2Proof.Machine.execSub xd xa xb s
  | .and xd xa xb => Sys2Proof.Machine.execAnd xd xa xb s
  | .or xd xa xb => Sys2Proof.Machine.execOr xd xa xb s
  | .xor xd xa xb => Sys2Proof.Machine.execXor xd xa xb s
  | .shl xd xa xb => Sys2Proof.Machine.execShl xd xa xb s
  | .shr xd xa xb => Sys2Proof.Machine.execShr xd xa xb s
  | .sra xd xa xb => Sys2Proof.Machine.execSra xd xa xb s
  | .min xd xa xb => Sys2Proof.Machine.execMin xd xa xb s
  | .max xd xa xb => Sys2Proof.Machine.execMax xd xa xb s
  | .minu xd xa xb => Sys2Proof.Machine.execMinu xd xa xb s
  | .maxu xd xa xb => Sys2Proof.Machine.execMaxu xd xa xb s
  | .addi xd xa imm => Sys2Proof.Machine.execAddi xd xa imm s
  | .andi xd xa imm => Sys2Proof.Machine.execAndi xd xa imm s
  | .ori xd xa imm => Sys2Proof.Machine.execOri xd xa imm s
  | .xori xd xa imm => Sys2Proof.Machine.execXori xd xa imm s
  | .shli xd xa sh => Sys2Proof.Machine.execShli xd xa sh s
  | .shri xd xa sh => Sys2Proof.Machine.execShri xd xa sh s
  | .srai xd xa sh => Sys2Proof.Machine.execSrai xd xa sh s
  | .li xd imm => Sys2Proof.Machine.execLi xd imm s
  | .lih xd imm => Sys2Proof.Machine.execLih xd imm s
  | .mul xd xa xb => Sys2Proof.Machine.execMul xd xa xb s
  | .mulh xd xa xb => Sys2Proof.Machine.execMulh xd xa xb s
  | .mulhu xd xa xb => Sys2Proof.Machine.execMulhu xd xa xb s
  | .div xd xa xb => Sys2Proof.Machine.execDiv xd xa xb s
  | .divu xd xa xb => Sys2Proof.Machine.execDivu xd xa xb s
  | .rem xd xa xb => Sys2Proof.Machine.execRem xd xa xb s
  | .remu xd xa xb => Sys2Proof.Machine.execRemu xd xa xb s
  | .clz xd xa => Sys2Proof.Machine.execClz xd xa s
  | .ctz xd xa => Sys2Proof.Machine.execCtz xd xa s
  | .popc xd xa => Sys2Proof.Machine.execPopc xd xa s
  | .bfx xd xa pos width => Sys2Proof.Machine.execBfx xd xa pos width s
  | .bfi xd xa pos width => Sys2Proof.Machine.execBfi xd xa pos width s
  | .cmp cond pd xa xb => Sys2Proof.Machine.execCmp cond pd xa xb s
  | .cmpi cond pd xa imm => Sys2Proof.Machine.execCmpi cond pd xa imm s
  | .pand pd pa pb => Sys2Proof.Machine.execPand pd pa pb s
  | .por pd pa pb => Sys2Proof.Machine.execPor pd pa pb s
  | .pxor pd pa pb => Sys2Proof.Machine.execPxor pd pa pb s
  | .pnot pd pa => Sys2Proof.Machine.execPnot pd pa s
  | .sel xd pk xa xb => Sys2Proof.Machine.execSel xd pk xa xb s
  | .ld xd xa sel sz sx off => Sys2Proof.Machine.execLd xd xa sel sz sx off s
  | .st xd xa sel sz off => Sys2Proof.Machine.execSt xd xa sel sz off s
  | .lda xd xa sel sz sx scope off => Sys2Proof.Machine.execLda xd xa sel sz sx scope off s
  | .stl xd xa sel sz scope off => Sys2Proof.Machine.execStl xd xa sel sz scope off s
  | .atadd xd xa xb sel dw ord scope => Sys2Proof.Machine.execAtadd xd xa xb sel dw ord scope s
  | .atmin xd xa xb sel dw ord scope => Sys2Proof.Machine.execAtmin xd xa xb sel dw ord scope s
  | .atmax xd xa xb sel dw ord scope => Sys2Proof.Machine.execAtmax xd xa xb sel dw ord scope s
  | .atand xd xa xb sel dw ord scope => Sys2Proof.Machine.execAtand xd xa xb sel dw ord scope s
  | .ator xd xa xb sel dw ord scope => Sys2Proof.Machine.execAtor xd xa xb sel dw ord scope s
  | .atxor xd xa xb sel dw ord scope => Sys2Proof.Machine.execAtxor xd xa xb sel dw ord scope s
  | .atxchg xd xa xb sel dw ord scope => Sys2Proof.Machine.execAtxchg xd xa xb sel dw ord scope s
  | .atcas xd xa xb xc sel dw ord scope => Sys2Proof.Machine.execAtcas xd xa xb xc sel dw ord scope s
  | .atincb xd xa xc sel dw ord scope => Sys2Proof.Machine.execAtincb xd xa xc sel dw ord scope s
  | .atfadd xd xa xb sel ord scope => Sys2Proof.Machine.execAtfadd xd xa xb sel ord scope s
  | .vshape ef rowsM1 => Sys2Proof.Machine.execVshape ef rowsM1 s
  | .vld vd sel xa xc => Sys2Proof.Machine.execVld vd sel xa xc s
  | .vst vs sel xa xc => Sys2Proof.Machine.execVst vs sel xa xc s
  | .vadd vd va vb brb f => Sys2Proof.Machine.execVadd vd va vb brb f s
  | .vsub vd va vb brb f => Sys2Proof.Machine.execVsub vd va vb brb f s
  | .vmul vd va vb brb f => Sys2Proof.Machine.execVmul vd va vb brb f s
  | .vmin vd va vb brb f => Sys2Proof.Machine.execVmin vd va vb brb f s
  | .vmax vd va vb brb f => Sys2Proof.Machine.execVmax vd va vb brb f s
  | .vabs vd va f => Sys2Proof.Machine.execVabs vd va f s
  | .vneg vd va f => Sys2Proof.Machine.execVneg vd va f s
  | .vfma vd va vb vc brb f => Sys2Proof.Machine.execVfma vd va vb vc brb f s
  | .vfms vd va vb vc brb f => Sys2Proof.Machine.execVfms vd va vb vc brb f s
  | .vfnma vd va vb vc brb f => Sys2Proof.Machine.execVfnma vd va vb vc brb f s
  | .vand vd va vb brb ef => Sys2Proof.Machine.execVand vd va vb brb ef s
  | .vor vd va vb brb ef => Sys2Proof.Machine.execVor vd va vb brb ef s
  | .vxor vd va vb brb ef => Sys2Proof.Machine.execVxor vd va vb brb ef s
  | .vnot vd va ef => Sys2Proof.Machine.execVnot vd va ef s
  | .vshl vd va vb brb ef => Sys2Proof.Machine.execVshl vd va vb brb ef s
  | .vshr vd va vb brb ef => Sys2Proof.Machine.execVshr vd va vb brb ef s
  | .vsra vd va vb brb ef => Sys2Proof.Machine.execVsra vd va vb brb ef s
  | .vcmp cond vd va vb brb ef => Sys2Proof.Machine.execVcmp cond vd va vb brb ef s
  | .vsel vd va vb vc brb ef => Sys2Proof.Machine.execVsel vd va vb vc brb ef s
  | .vmov vd va => Sys2Proof.Machine.execVmov vd va s
  | .vbcast vd va m ef => Sys2Proof.Machine.execVbcast vd va m ef s
  | .vexp2 vd va f => Sys2Proof.Machine.execVexp2 vd va f s
  | .vexp vd va f => Sys2Proof.Machine.execVexp vd va f s
  | .vlog2 vd va f => Sys2Proof.Machine.execVlog2 vd va f s
  | .vrcp vd va f => Sys2Proof.Machine.execVrcp vd va f s
  | .vrsq vd va f => Sys2Proof.Machine.execVrsq vd va f s
  | .vsqrt vd va f => Sys2Proof.Machine.execVsqrt vd va f s
  | .vtanh vd va f => Sys2Proof.Machine.execVtanh vd va f s
  | .vsigm vd va f => Sys2Proof.Machine.execVsigm vd va f s
  | .vsilu vd va f => Sys2Proof.Machine.execVsilu vd va f s
  | .vcvt vd va f p => Sys2Proof.Machine.execVcvt vd va f p s
  | .vpack vd va vb f => Sys2Proof.Machine.execVpack vd va vb f s
  | .vunpack vd va f h => Sys2Proof.Machine.execVunpack vd va f h s
  | .vredr fn vd va f => Sys2Proof.Machine.execVredr fn vd va f s
  | .vredc fn vd va f => Sys2Proof.Machine.execVredc fn vd va f s
  | .vtrans vd va ef => Sys2Proof.Machine.execVtrans vd va ef s
  | .vperm vd va vb brb ef => Sys2Proof.Machine.execVperm vd va vb brb ef s
  | .vsort vd va desc idx whole ef => Sys2Proof.Machine.execVsort vd va desc idx whole ef s
  | .vscan vd va excl whole f => Sys2Proof.Machine.execVscan vd va excl whole f s
  | .viota vd xa ef sat => Sys2Proof.Machine.execViota vd xa ef sat s
  | .vbucket vd va vb sM1 ef => Sys2Proof.Machine.execVbucket vd va vb sM1 ef s
  | .vhist vd va acc ef => Sys2Proof.Machine.execVhist vd va acc ef s
  | .vmxscale vd va ef rm => Sys2Proof.Machine.execVmxscale vd va ef rm s
  | .vchscale vd va vb mode ef => Sys2Proof.Machine.execVchscale vd va vb mode ef s
  | .vextr vd va vb ef => Sys2Proof.Machine.execVextr vd va vb ef s
  | .vins vd va vb ef => Sys2Proof.Machine.execVins vd va vb ef s
  | .mma ad xa xb xs fa fb swz ovw neg tl => Sys2Proof.Machine.execMma ad xa xb xs fa fb swz ovw neg tl s
  | .mmat ad xa xb xs fa fb swz ovw neg tl => Sys2Proof.Machine.execMmat ad xa xb xs fa fb swz ovw neg tl s
  | .aswap ad => Sys2Proof.Machine.execAswap ad s
  | .azero ad tl => Sys2Proof.Machine.execAzero ad tl s
  | .ald ad xa xs fa swz tl => Sys2Proof.Machine.execAld ad xa xs fa swz tl s
  | .ast ad xa xs fa rm sat tl => Sys2Proof.Machine.execAst ad xa xs fa rm sat tl s
  | .avec ad xa q tl => Sys2Proof.Machine.execAvec ad xa q tl s
  | .attn ad xa xb xs fa fb swz tl => Sys2Proof.Machine.execAttn ad xa xb xs fa fb swz tl s
  | .attnf ad xa xs fa tl => Sys2Proof.Machine.execAttnf ad xa xs fa tl s
  | .amass ad xa xb fa fb swz tl => Sys2Proof.Machine.execAmass ad xa xb fa fb swz tl s
  | .arstat ad xa xs tl => Sys2Proof.Machine.execArstat ad xa xs tl s
  | .alstat ad xa xs swz tl => Sys2Proof.Machine.execAlstat ad xa xs swz tl s
  | .abusy xa => Sys2Proof.Machine.execAbusy xa s
  | .copy dir xt xm xs t => Sys2Proof.Machine.execCopy dir xt xm xs t s
  | .copyr xs xm xt t => Sys2Proof.Machine.execCopyr xs xm xt t s
  | .qfill tgt k xm xt t => Sys2Proof.Machine.execQfill tgt k xm xt t s
  | .tsinit ts => Sys2Proof.Machine.execTsinit ts s
  | .tspost ts xs => Sys2Proof.Machine.execTspost ts xs s
  | .tsarrive xm xs tl scope => Sys2Proof.Machine.execTsarrive xm xs tl scope s
  | .tsquery xt ts => Sys2Proof.Machine.execTsquery xt ts s
  | .tlquery xt tl f => Sys2Proof.Machine.execTlquery xt tl f s
  | .cdecl xm => Sys2Proof.Machine.execCdecl xm s
  | .crel c => Sys2Proof.Machine.execCrel c s
  | .cstat xt c f => Sys2Proof.Machine.execCstat xt c f s
  | .wdecl w xm xs tl scope => Sys2Proof.Machine.execWdecl w xm xs tl scope s
  | .wget xs xm xt t => Sys2Proof.Machine.execWget xs xm xt t s
  | .wown xs xm xt t => Sys2Proof.Machine.execWown xs xm xt t s
  | .wput xs xt t => Sys2Proof.Machine.execWput xs xt t s
  | .wdrop xs xt t => Sys2Proof.Machine.execWdrop xs xt t s
  | .creduce fn xt xs xm t => Sys2Proof.Machine.execCreduce fn xt xs xm t s
  | .cgather xt xs xm t => Sys2Proof.Machine.execCgather xt xs xm t s
  | .cbcast xt xs xm t => Sys2Proof.Machine.execCbcast xt xs xm t s
  | .cring xt xs xm t => Sys2Proof.Machine.execCring xt xs xm t s
  | .cmcast xt xs xm t => Sys2Proof.Machine.execCmcast xt xs xm t s
  | .kvappend xt xm xs t => Sys2Proof.Machine.execKvappend xt xm xs t s
  | .kvref xm t => Sys2Proof.Machine.execKvref xm t s
  | .kvsetRep xm xs t => Sys2Proof.Machine.execKvsetRep xm xs t s
  | .kvsetMass xm xs t => Sys2Proof.Machine.execKvsetMass xm xs t s
  | .kvfree xm t => Sys2Proof.Machine.execKvfree xm t s
  | .roust xm tl ts scope => Sys2Proof.Machine.execRoust xm tl ts scope s
  | .scalarResultWrite core st => Sys2Proof.Machine.execScalarResultWrite core st s
  | .vectorResultWrite core => Sys2Proof.Machine.execVectorResultWrite core s
  | .matrixWordComplete core => Sys2Proof.Machine.execMatrixWordComplete core s
  | .aswapExchange core acc => Sys2Proof.Machine.execAswapExchange core acc s
  | .globalLoadComplete core st => Sys2Proof.Machine.execGlobalLoadComplete core st s
  | .stampwTargetReached core st => Sys2Proof.Machine.execStampwTargetReached core st s
  | .heldSubmissionAccept core st => Sys2Proof.Machine.execHeldSubmissionAccept core st s
  | .commandBegin core storeQ => Sys2Proof.Machine.execCommandBegin core storeQ s
  | .engineWriteLands core storeQ ix n => Sys2Proof.Machine.execEngineWriteLands core storeQ ix n s
  | .carouselHeadAdvance core car => Sys2Proof.Machine.execCarouselHeadAdvance core car s
  | .carouselReleaseEffect core car => Sys2Proof.Machine.execCarouselReleaseEffect core car s
  | .qfillAppend core ix => Sys2Proof.Machine.execQfillAppend core ix s
  | .remoteArrival core storeQ ix => Sys2Proof.Machine.execRemoteArrival core storeQ ix s
  | .commandComplete core storeQ => Sys2Proof.Machine.execCommandComplete core storeQ s
  | .commandError core storeQ ix => Sys2Proof.Machine.execCommandError core storeQ ix s
  | .deferredCommandTrap core st => Sys2Proof.Machine.execDeferredCommandTrap core st s
  | .storeAtHome core ix => Sys2Proof.Machine.execStoreAtHome core ix s
  | .acknowledgementAtHome core ix => Sys2Proof.Machine.execAcknowledgementAtHome core ix s
  | .homeAtomic core st => Sys2Proof.Machine.execHomeAtomic core st s
  | .invalidationReceived ix => Sys2Proof.Machine.execInvalidationReceived ix s
  | .fillReceived ix => Sys2Proof.Machine.execFillReceived ix s
  | .dieCacheEviction die line => Sys2Proof.Machine.execDieCacheEviction die line s
  | .rdupInvalidationRound page => Sys2Proof.Machine.execRdupInvalidationRound page s
  | .windowRequestAtHome core => Sys2Proof.Machine.execWindowRequestAtHome core s
  | .windowProbeAtHolder core ix => Sys2Proof.Machine.execWindowProbeAtHolder core ix s
  | .homeWriteRelease core => Sys2Proof.Machine.execHomeWriteRelease core s
  | .launchAcceptance => Sys2Proof.Machine.execLaunchAcceptance s
  | .jobDispatch die => Sys2Proof.Machine.execJobDispatch die s
  | .dispatchTranslation core => Sys2Proof.Machine.execDispatchTranslation core s
  | .jobStart core => Sys2Proof.Machine.execJobStart core s
  | .gangStart seq => Sys2Proof.Machine.execGangStart seq s
  | .preemptionRequest die => Sys2Proof.Machine.execPreemptionRequest die s
  | .forcedPreemption core => Sys2Proof.Machine.execForcedPreemption core s
  | .preemptionSaveDone core => Sys2Proof.Machine.execPreemptionSaveDone core s
  | .watchdog core => Sys2Proof.Machine.execWatchdog core s
  | .jobDone core => Sys2Proof.Machine.execJobDone core s
  | .coreFence core => Sys2Proof.Machine.execCoreFence core s
  | .coresDomainFence die => Sys2Proof.Machine.execCoresDomainFence die s
  | .memoryShellFence die => Sys2Proof.Machine.execMemoryShellFence die s
  | .shellReadmit die => Sys2Proof.Machine.execShellReadmit die s
  | .firmwareFailure => Sys2Proof.Machine.execFirmwareFailure s
  | .frameHandover frame => Sys2Proof.Machine.execFrameHandover frame s
  | .uncorrectableEccError place => Sys2Proof.Machine.execUncorrectableEccError place s
  | .boundaryFailure b => Sys2Proof.Machine.execBoundaryFailure b s
  | .spokeFailure die => Sys2Proof.Machine.execSpokeFailure die s
  | .fabricPortDown port => Sys2Proof.Machine.execFabricPortDown port s
  | .portTrained ports => Sys2Proof.Machine.execPortTrained ports s
  | .packageReset => Sys2Proof.Machine.execPackageReset s
  | .flashImageCheck => Sys2Proof.Machine.execFlashImageCheck s
  | .bringUp cfg => Sys2Proof.Machine.execBringUp cfg s
  | .powerLoss => Sys2Proof.Machine.execPowerLoss s
  | .overTemperatureTrip => Sys2Proof.Machine.execOverTemperatureTrip s
  | .functionLevelReset fn => Sys2Proof.Machine.execFunctionLevelReset fn s
  | .vfRemoval n => Sys2Proof.Machine.execVfRemoval n s
  | .submissionDoorbell fn k va => Sys2Proof.Machine.execSubmissionDoorbell fn k va s
  | .dataWindowRead fn off sz => Sys2Proof.Machine.execDataWindowRead fn off sz s
  | .dataWindowWrite fn off sz val => Sys2Proof.Machine.execDataWindowWrite fn off sz val s
  | .invlenWrite fn len => Sys2Proof.Machine.execInvlenWrite fn len s
  | .invalidationDone fn => Sys2Proof.Machine.execInvalidationDone fn s
  | .faultack fn val => Sys2Proof.Machine.execFaultack fn val s
  | .ptegoWrite val => Sys2Proof.Machine.execPtegoWrite val s
  | .pteUpdateDone => Sys2Proof.Machine.execPteUpdateDone s
  | .attgoWrite fn => Sys2Proof.Machine.execAttgoWrite fn s
  | .attestationReady fn => Sys2Proof.Machine.execAttestationReady fn s
  | .reclenWrite n => Sys2Proof.Machine.execReclenWrite n s
  | .recoveryCheckDone => Sys2Proof.Machine.execRecoveryCheckDone s
  | .partitionEntryWrite k val => Sys2Proof.Machine.execPartitionEntryWrite k val s
  | .partitionClearDone k => Sys2Proof.Machine.execPartitionClearDone k s
  | .fabricConfigWrite val => Sys2Proof.Machine.execFabricConfigWrite val s
  | .pwrctlWrite val => Sys2Proof.Machine.execPwrctlWrite val s
  | .modeChange => Sys2Proof.Machine.execModeChange s
  | .registerWrite fn bar4 off val => Sys2Proof.Machine.execRegisterWrite fn bar4 off val s
  | .unassignedOpcode opc ops => Sys2Proof.Machine.execUnassignedOpcode opc ops s
  | .submissionTranslationDone core st => Sys2Proof.Machine.execSubmissionTranslationDone core st s
  | .vfEnable n => Sys2Proof.Machine.execVfEnable n s
  | .msixVectorUnmask fn vec => Sys2Proof.Machine.execMsixVectorUnmask fn vec s

end Sys2Proof.Machine
end

