-- ==== Sys2Proof/Machine/Sched.lean ====
section
/-! DEFINITION. Turns: the end of a core cycle, the order in which the agents of the package act when no other is given,
and what one turn does (01 R22, R38, R39; 03 R57 to R60, R77; 05 R103, R104, R113; 07 R118; log entry 2). -/

namespace Sys2Proof.Machine

-- The end of a cycle: carousels.

/-- The releases of the job's carousels that can take effect (17 R297); those of this cycle wait for what it has issued. -/
def State.releases (s : State) (n : CoreIx) : State :=
  let s := s.modJob n fun j => { j with car := j.car.map fun (c : Carousel) => { c with rel := c.rel.map fun r => some (r.getD s.ord) } }
  (List.finRange 4).foldl (fun (s : State) c =>
    (List.range ((s.job n).car[c]).rel.length).foldl (fun (s : State) _ => (s.release n (BitVec.ofFin c)).getD s) s) s

-- The end of a cycle: clocks.

/-- Units of wall time in a core cycle (01 R38; log entry 5): 21,600 to the µs. -/
def wallUnits (mode : BitVec 2) : Nat := if mode == 0 then 8 else if mode == 1 then 9 else 12

/-- The cycle is a job cycle (03 R58, R60), or one of a draining job: no trap waits for what is in flight, and the groups of a
lockstep job have issued. -/
def Job.advances (j : Job) : Bool :=
  j.st == .draining || (j.stop.isNone && if j.nest.lockstep then j.cycDone else j.st == .running)

/-- What later reads take as the start of a cycle: timelines, carousels, special registers, places freed in the queues (R106,
R111, R223, R225). -/
def Job.snapshot (j : Job) : Job :=
  { j with
    tl0 := j.tl, car0 := j.car, vpopped := Vector.replicate 4 0
    sr0 := #v[(0 : BitVec 52) ++ j.vsEf ++ (0 : BitVec 3) ++ j.vsRows, j.vrb,
      (0 : BitVec 51) ++ j.ringS ++ (0 : BitVec 3) ++ j.ringB, j.trapvec]
    strm := j.strm.map fun (t : Stream) => { t with popped := Vector.replicate 4 0 } }

/-- A freezing event that ends leaves the job RUNNING when it was the last (03 R60). -/
def Job.thaw (j : Job) (gone : Hold → Bool) : Job :=
  let left := j.freeze.filter fun f => !gone f.kind
  { j with freeze := left, st := if j.st == .frozen && left.isEmpty then .running else j.st }

/-- Marks and traffic that no later check can meet. -/
def Job.forget (j : Job) : Job :=
  { j with
    marks := j.marks.filter fun m => m.h || decide (j.jc < m.due + 2)
    traffic := j.traffic.filter fun t => decide ((if t.h then j.hclk else j.jc) < t.due + t.len) }

/-- The clocks of a job pass to the next cycle (03 R58, R77; 13 R231); `cycDone` says that this one was a job cycle. -/
def Job.clock (j : Job) (units : Nat) : Job :=
  let lives := j.st == .running || j.st == .frozen || j.st == .trapped
  let j : Job := { j with
    jc := if j.cycDone then j.jc + 1 else j.jc
    hclk := if j.st == .trapped then j.hclk + 1 else j.hclk
    beacon := if lives then j.beacon + units else j.beacon
    runtime := if lives then j.runtime + units else j.runtime
    cycDone := false }
  ((j.snapshot).thaw (· == .remote)).forget

-- What is in flight.

/-- The stream of an access that is due and has to wait, or of masses that do (05 R112; 07 R134; 15 R257). -/
def Job.stalls (held : Nat → Bool) (c : Core) (j : Job) : Option Strm :=
  ((j.moves.find? fun m => j.waits held c m).map Move.strm).or
    (if j.mops.any fun o => decide (o.due ≤ j.now) && o.massHeld held c then some .m else none)

/-- What is in flight as the next cycle of a job begins: after a job cycle the results that are due can be read, and the accesses
that are due are opened; a lockstep job freezes while one of them has to wait (03 R60; 05 R112; 15 R257). -/
def Job.open_ (held : Nat → Bool) (c : Core) (j : Job) (advanced : Bool) : Job :=
  match j.st with
  | .trapped => strms.foldl Job.scalarDue j
  | .running | .frozen | .draining =>
    let j := (if advanced then j.begin_ else j).openMoves held c
    if !j.nest.lockstep || j.st == .draining then j
    else match j.stalls held c with
    | none => j.thaw (· == .carousel)
    | some st =>
      if j.freeze.any fun f => f.kind == .carousel then { j with st := .frozen }
      else { j with st := .frozen, freeze := j.freeze ++ [⟨.carousel, st⟩] }
  | _ => j

/-- What the operations in flight of both contexts of a core do in the cycle that ends, where it is a cycle of their jobs. -/
def State.works (s : State) (n : CoreIx) : State :=
  let held := s.heldTile n
  let c := s.core n
  let c := if c.job.advances then
      let (c, j) := work held s.gcc c c.job
      c.setJob { j with cycDone := true }
    else c
  let c := if c.other.advances then
      let (c, j) := work held s.gcc c c.other
      c.setOther { j with cycDone := true }
    else c
  s.setCore n c

/-- The trap that the job of a core takes as its cycle ends: one that it has met, else, where it issues under the elastic rules, the
oldest error owed to one of its streams (17 R281; 23 R373). -/
def State.trapNow (s : State) (n : CoreIx) : State :=
  let j := s.job n
  match j.dueTrap with
  | some t => s.trapAt n t
  | none =>
    if j.strict || j.stop.isSome || !j.traps.isEmpty then s
    else match j.owedNext with
    | some o => (s.modJob n fun j => j.payOwed o).trapAt n (j.owedNote o)
    | none => s

/-- What a cycle of core n comes to after its groups, in the order of R73: the watchdog, whose time may pass with this cycle or have
been noted in it, then the traps. -/
def State.settle (s : State) (n : CoreIx) : State :=
  let j := s.job n
  let s := match j.wdog.or j.watch with
    | some k => if j.alive then s.fenceJob n true cWatchdog (some k) none 0 else s.modJob n fun j => { j with wdog := none }
    | none => s
  let s := ((s.works n).stopDue n).trapNow n
  if (s.core n).other.traps.isEmpty then s else ((s.flip n).trapNow n).flip n

/-- Bytes that wait for a frozen cycle of the job land in the cycle that begins, which is one (03 R59). -/
def Core.openInbox (c : Core) : Core :=
  if c.inbox.isEmpty then c
  else match c.job.openRemote with
  | some j => { c with landing := c.landing ++ c.inbox, inbox := [] }.setJob j
  | none => c

/-- Nothing on the core changes with time. -/
def Core.still (c : Core) : Bool :=
  c.ctx0.st == .none && c.ctx1.st == .none && c.landing.isEmpty && c.inbox.isEmpty && c.lqFreed == 0 && c.sqFreed == 0 &&
    c.ringFreed.isEmpty && c.ctxShown.toList.all Option.isNone && !c.job.ts.toList.any Turnstile.hit

/-- What happened together in a core's cycle takes effect, and its clocks pass to the next. -/
def Core.endCycle (c : Core) (units : Nat) : Core :=
  let c : Core := { c with ctx0 := c.ctx0.tsCycle.tretDue, ctx1 := c.ctx1.tsCycle.tretDue }
  let c := c.commit
  { c with
    ctx0 := c.ctx0.clock units, ctx1 := c.ctx1.clock units, lqFreed := 0, sqFreed := 0, ringFreed := []
    ctxShown := Vector.replicate 2 none }

/-- The end of the cycle of core n, and what is in flight as the next begins. -/
def State.endCore (s : State) (n : CoreIx) : State :=
  if (s.core n).still then s
  else
    let s := s.releases n
    let s := if (s.core n).other.st == .draining then ((s.flip n).releases n).flip n else s
    let a := (s.job n).cycDone
    let b := (s.core n).other.cycDone
    let s := s.modCore n fun c => c.endCycle (wallUnits s.pmode)
    let held := s.heldTile n
    s.modCore n fun c =>
      let c := c.setJob (c.job.open_ held c a)
      (c.setOther (c.other.open_ held c b)).openInbox

/-- The events that end a cycle of the cores, in the order of R73: fencings and traps of each, forced pre-emptions (01 R39). -/
def State.endCores (s : State) : State :=
  let all := (List.finRange 128).filter fun n => !(s.core n).still
  let s := all.foldl State.settle s
  let s := all.foldl (fun (t : State) n => if (t.job n).preq.isSome then (t.forced n).getD t else t) s
  all.foldl State.endCore s

/-- The cycle ends: what happened in it together takes effect, and gcc advances; a change of mode whose gcc comes takes effect, and
messages of other packages that wait are tried again (01 R39, R40). Outside READY no core runs. -/
def State.endTick (s : State) : State :=
  let up := s.boot == .ready
  let s := if up then s.endCores else s
  let s : State := { s with gcc := s.gcc + 1, wall := s.wall + wallUnits s.pmode, homeOrder := [] }
  let s := (s.modeNow).getD s
  if up then s.fabricRetry else s

/-- Answers one after another. -/
def andThen (a : Answer) (f : State → Answer) : Answer :=
  match a with
  | .next s => f s
  | a => a

/-- The groups of a core that have not had their turn in this cycle (03 R58, R62, R80). -/
def coreTurns (ex : Instr → State → Answer) (s : State) (n : CoreIx) : Answer :=
  match (s.job n).st with
  | .running | .frozen | .trapped =>
    strms.foldl (fun (a : Answer) st => andThen a fun s => issueTurn ex s n st) (lockTurn ex s n)
  | _ => .next s

/-- The end of a cycle: every group that has not had its turn has it first. -/
def tick (ex : Instr → State → Answer) (s : State) : Answer :=
  if s.boot != .ready then .next s.endTick
  else andThen ((List.finRange 128).foldl (fun (a : Answer) n => andThen a fun s => coreTurns ex s n) (.next s)) fun s => .next s.endTick

-- The order of agents when none is given (log entry 2).

/-- What firmware fixes when no bring-up is given (log entry 2): a ring of 4,096 entries in LPDDR, sixteen slots at the end of
each die's memory. -/
def defaultBringUp : BringUpCfg :=
  { jrnlBase := 0x10000000, logn := 12, saveBase := Vector.ofFn fun d => BitVec.ofNat 31 (d.val * 24576 + 24504)
    saveSlots := Vector.replicate 8 16, shellFail := 0, coreFail := 0 }

/-- Boot (25 R414). -/
def planBoot (s : State) : List Instr :=
  match s.boot with
  | .check => [.flashImageCheck]
  | .wait => if s.recLen.isSome then [.recoveryCheckDone] else []
  | .load => [.bringUp defaultBringUp]
  | _ => []

/-- The RM, firmware and the functions. -/
def planPackage (s : State) : List Instr :=
  (if s.subs.isEmpty then [] else [Instr.launchAcceptance]) ++
    (if s.launches.isEmpty && s.parked.isEmpty then []
      else (List.finRange 8).flatMap fun d => if s.diesvc.getLsbD d.val then [Instr.jobDispatch d, Instr.preemptionRequest d] else []) ++
    (s.launches.filter fun l => l.nest.gang).map (fun l => Instr.gangStart l.seq) ++
    ((List.finRange 65).filter fun f => (s.fns[f]).inv.isSome).map Instr.invalidationDone ++
    ((List.finRange 65).filter fun f => (s.fns[f]).attstat == 1).map Instr.attestationReady ++
    (if s.pteHeld then [Instr.pteUpdateDone] else []) ++
    ((List.finRange 8).filter fun k => (s.parts[k]).clearing).map Instr.partitionClearDone ++
    (if s.pend.isSome then [Instr.modeChange] else [])

/-- The steps of a queue's commands: errors and steps from the youngest to the oldest, then the head's end. -/
def planQueue (s : State) (n : CoreIx) (store : Bool) : List Instr :=
  let q := (s.core n).queue store
  if q.isEmpty then []
  else
    let ixs := (List.range q.length).reverse
    ixs.map (fun i => Instr.commandError n store i) ++ [Instr.commandBegin n store] ++
      ixs.reverse.flatMap (fun i =>
        (List.replicate 8 (Instr.remoteArrival n store i)).take (if store then 8 else 0) ++ [Instr.engineWriteLands n store i 8]) ++
      [Instr.commandComplete n store]

/-- The events of one core. -/
def planCore (s : State) (n : CoreIx) : List Instr :=
  let c := s.core n
  let j := c.job
  let streams := strms.flatMap fun st =>
    (match (j.stream st).held with
      | some (.stamp, _) => [Instr.stampwTargetReached n st]
      | some (.queueFull, _) => [Instr.heldSubmissionAccept n st]
      | some (.translation, _) => [Instr.submissionTranslationDone n st]
      | _ => []) ++
    if j.outs.isEmpty && c.other.outs.isEmpty then [] else [Instr.homeAtomic n st, Instr.globalLoadComplete n st]
  let psb := (List.range c.psb.length).map (fun i => Instr.storeAtHome n i) ++
    (List.range c.psb.length).reverse.map fun i => Instr.acknowledgementAtHome n i
  planQueue s n false ++ planQueue s n true ++ psb ++
    (if (c.windowCmd false).isSome || (c.windowCmd true).isSome then [Instr.windowRequestAtHome n] else []) ++
    ((List.range c.winReqs.length).reverse.map fun i => Instr.windowProbeAtHolder n i) ++
    (if j.homeHold.isSome || !(s.waitedTiles n).isEmpty then [Instr.homeWriteRelease n] else []) ++
    if c.ctx0.st == .none && c.ctx1.st == .none then []
    else
      streams ++ [Instr.watchdog n] ++
        (if j.saving.isSome then [Instr.preemptionSaveDone n] else []) ++
        [Instr.jobDone n, Instr.jobDone n, Instr.dispatchTranslation n, Instr.jobStart n]

/-- The coherence messages on their way. -/
def planCoherence (s : State) : List Instr :=
  ((s.rdWrites.map RdWrite.page).eraseDups.map Instr.rdupInvalidationRound) ++
    List.replicate s.invals.length (Instr.invalidationReceived 0) ++
    ((s.fills.zipIdx.filter fun f => f.1.sent).zipIdx.map fun f => Instr.fillReceived (f.1.2 - f.2))

/-- The events of one core that follow the groups of a cycle (17 R311). -/
def planLate (s : State) (n : CoreIx) : List Instr := (List.range (s.core n).lq.length).map fun i => Instr.qfillAppend n i

/-- The groups of a core. -/
def planIssue (s : State) (n : CoreIx) : List Turn :=
  let j := s.job n
  match j.st with
  | .none => []
  | .trapped => [.issue n .s]
  | _ => if j.nest.lockstep then [.cycle n] else [.issue n .s, .issue n .v, .issue n .m, .issue n .c]

/-- The turns of one cycle when no others are given: events, groups, the events that follow them, the end of the cycle. -/
def plan (s : State) : List Turn :=
  if s.boot == .ready then
    (planPackage s ++ planCoherence s ++ (List.finRange 128).flatMap (planCore s)).map .event ++
      (List.finRange 128).flatMap (planIssue s) ++ ((List.finRange 128).flatMap (planLate s)).map .event ++ [.tick]
  else (planBoot s).map .event ++ [.tick]

-- One turn.

/-- An event in which nothing outside the package takes part: it happens while firmware runs (25 R413, R414). -/
def ofPackage : Instr → Bool
  | .scalarResultWrite .. | .vectorResultWrite .. | .matrixWordComplete .. | .aswapExchange .. | .globalLoadComplete ..
  | .stampwTargetReached .. | .heldSubmissionAccept .. | .commandBegin .. | .engineWriteLands .. | .carouselHeadAdvance ..
  | .carouselReleaseEffect .. | .qfillAppend .. | .remoteArrival .. | .commandComplete .. | .commandError ..
  | .deferredCommandTrap .. | .storeAtHome .. | .acknowledgementAtHome .. | .homeAtomic .. | .invalidationReceived ..
  | .fillReceived .. | .dieCacheEviction .. | .rdupInvalidationRound .. | .windowRequestAtHome .. | .windowProbeAtHolder ..
  | .homeWriteRelease .. | .launchAcceptance | .jobDispatch .. | .dispatchTranslation .. | .jobStart .. | .gangStart ..
  | .preemptionRequest .. | .forcedPreemption .. | .preemptionSaveDone .. | .watchdog .. | .jobDone .. | .invalidationDone ..
  | .pteUpdateDone | .attestationReady .. | .partitionClearDone .. | .modeChange | .submissionTranslationDone .. => true
  | _ => false

/-- An instruction word, which only the issue of its group runs. -/
def isWord (i : Instr) : Bool :=
  WellFormed i || (encodeOp i).1 != 0xFF || match i with | .unassignedOpcode _ _ => true | _ => false

/-- What one turn does; `ex` is the meaning of the instructions and events. -/
def takeTurn (ex : Instr → State → Answer) (t : Turn) (s : State) : Answer :=
  match t with
  | .issue n st => if s.boot == .ready then issueTurn ex s n st else .next s
  | .cycle n => if s.boot == .ready then lockTurn ex s n else .next s
  | .event e => if isWord e || (ofPackage e && s.boot != .ready) then .next s else ex e s
  | .fabric m => .next (if s.boot == .ready then s.fabricCame m else s)
  | .tick => tick ex s

/-- The turn that comes next, and the state without it: the first given, else the first of the plan. -/
def State.nextTurn (s : State) : Turn × State :=
  match s.turns with
  | t :: ts => (t, { s with turns := ts })
  | [] =>
    match plan s with
    | t :: ts => (t, { s with turns := ts })
    | [] => (.tick, s)

-- A program placed from outside (log entry 2).

/-- The stream in which a word may stand (11 R185). -/
def streamFor (w : Word) : Strm :=
  match (w >>> 51).toNat % 4 with
  | 1 => .v
  | 2 => .m
  | _ => .s

/-- Where a placed word lies: the second page of a partition 0, on the first frame of LPDDR. -/
def placedVa : Word := 0x200000

/-- A running elastic job with all four streams started, the stream given at the placed word; the others have had their turn in
the cycle `now`. -/
def placedJob (st : Strm) (now : Nat) : Job :=
  { Job.zero with
    st := .running, nest := { NestRec.zero with smask := 0xF, ndim := 1, stages := 1 }
    strm := Vector.ofFn fun k =>
      if k == sIx st then { Stream.zero with started := true, pc := placedVa }
      else { Stream.zero with started := true, tried := now + 1 } }

/-- The state in which the next turn issues the word whose bits are w on core 0, followed by a NOP that ends the group when
the word does not: as after a launch. -/
def State.placeWord (s : State) (_nbits w : Nat) : State :=
  let word : Word := BitVec.ofNat 64 w
  let st := streamFor word
  let s : State := { s with
    power := true, boot := .ready, turns := [.issue 0 st]
    mem := s.mem.write lpddrBase (leBytes 8 word.toNat ++ leBytes 8 0x0020000000000000)
    memPo := s.memPo.filter fun e => e.1 != lpddrBase / 32
    dups := s.dups.filter fun d => d.frame != lpddrBase }
  let s := s.modDie 0 fun d =>
    { d with lines := [], tlb := ⟨0, 1, lpddrBase, 0, true, false, false⟩ :: d.tlb.filter fun e => !(e.part == 0 && e.page == 1) }
  s.setCore 0 { Core.zero with ctx0 := placedJob st s.gcc }

/-- The package has no power, and the turn does not bring it back (01 R37). -/
def State.dark (s : State) (t : Turn) : Bool := !s.power && t != .event .packageReset

end Sys2Proof.Machine
end

