-- ==== Sys2Proof/Machine/Step.lean ====
section
/-! DEFINITION. One step: the next turn; and the state in which the next step runs a given instruction word. -/

namespace Sys2Proof.Machine

/-- One step (log entry 2): the next turn is taken; without power nothing but the package reset happens (01 R37). -/
def step (s : State) : Host.Outcome State Fault Refusal :=
  if s.dark s.nextTurn.1 then .fault .noPower else takeTurn exec s.nextTurn.1 s.nextTurn.2

/-- The state in which the very next step fetches and runs the instruction whose bits are w (log entry 2). -/
def State.withFetchWord (s : State) (nbits w : Nat) : State := s.placeWord nbits w

end Sys2Proof.Machine
end

