-- ==== Sys2Proof/Safety.lean ====
section
/-! DEFINITION. What counts as a safe run, and the form that every reachable memory has. -/

namespace Sys2Proof.Machine

/-- The memories of a core are in canonical form. -/
def Core.memWf (c : Core) : Bool := c.spad.wf

/-- Every memory of the package is in canonical form: global memory, scratchpads, saved scratchpads. -/
def State.memWf (s : State) : Bool :=
  s.mem.wf && s.cores.toList.all Core.memWf && s.parked.all fun p => p.img.bytes.wf

/-- A run of n steps that meets no fault and no refusal. -/
def SafeRun (n : Nat) (s : State) : Prop := ∃ t, Host.Core.run Sys2Proof.core n s = .next t

end Sys2Proof.Machine
end

