-- ==== Sys2Proof/Certificates/Slice0/Obligations.lean ====
section
/-! DEFINITION. The statements of this row: what the instructions, the events and the machine do, in terms of the rules of
spec/. `Sys2Proof.Claims` holds the words the statements are written in. -/

set_option autoImplicit false

namespace Sys2Proof.Claims

open Sys2Proof.Machine

-- The words the statements use.

/-- No class-10 word that holds a number of timeline k at or below n is known as incomplete in this job cycle (R339). -/
abbrev NoHolder (s : State) (k : BitVec 3) (n : Nat) : Prop :=
  s.cjob.strict = true → ∀ o ∈ s.cjob.mops, ∀ m, o.tl = some (k, m) → m ≤ n → o.due < s.cjob.jc

/-- A value that SWR takes for a register (R227). -/
def swrTakes : WReg → Word → Prop
  | .vshape, v => v.toNat < 4096 ∧ v.toNat / 32 % 8 = 0 ∧ 1 ≤ v.toNat % 32 ∧ v.toNat % 32 ≤ 16 ∧ v.toNat / 256 ≤ 12
  | .vrb, _ => True
  | .vring, v => v.toNat < 8192 ∧ v.toNat / 32 % 8 = 0 ∧ 1 ≤ v.toNat / 256 ∧ v.toNat / 256 ≤ 16 ∧
      v.toNat % 32 + v.toNat / 256 ≤ 32
  | .trapvec, v => v.toNat % 8 = 0

/-- The job with the register that SWR names holding a value (R225). -/
def swrGives (r : WReg) (v : Word) (j : Job) : Job :=
  match r with
  | .vshape => { j with vsEf := BitVec.ofNat 4 (v.toNat / 256), vsRows := BitVec.ofNat 5 (v.toNat % 32) }
  | .vrb => { j with vrb := v }
  | .vring => { j with ringS := BitVec.ofNat 5 (v.toNat / 256), ringB := BitVec.ofNat 5 (v.toNat % 32) }
  | .trapvec => { j with trapvec := v }

/-- The end of a word that has had its effect. -/
def ended (s : State) : State := { s with cur := { s.cur with out := .done } }

/-- No result for x register r of the issuing stream is still to come (R211, R212). -/
abbrev SettledX (s : State) (r : BitVec 4) : Prop :=
  r = 0 ∨ (s.cjob.busy (.xreg s.cur.strm r) = none ∧
    (s.cjob.outs.any fun g => g.writesX s.cur.strm r) = false ∧
    (s.cjob.kvWait.any fun k => k.strm == s.cur.strm && k.reg == r) = false)

/-- No result for predicate r of the issuing stream is still to come (R211, R212). -/
abbrev SettledP (s : State) (r : BitVec 3) : Prop :=
  r = 0 ∨ (s.cjob.busy (.preg s.cur.strm r) = none ∧
    (r == 7 && s.cjob.outs.any fun g => g.writesP s.cur.strm) = false ∧
    (r == 7 && s.cjob.kvWait.any fun k => k.strm == s.cur.strm && !k.noP) = false)

/-- X[r] of the issuing stream; x0 reads 0 (R191). -/
def xv (s : State) (r : BitVec 4) : XVal := if r = 0 then ⟨0, none⟩ else s.cstrm.x[r.toFin]

/-- p[r] of the issuing stream; p0 reads true (R183). -/
def pv (s : State) (r : BitVec 3) : PVal := if r = 0 then ⟨true, none⟩ else s.cstrm.p[r.toFin]

/-- X[r] can be read now and holds v, with no poison. -/
abbrev HasX (s : State) (r : BitVec 4) (v : Word) : Prop := SettledX s r ∧ xv s r = ⟨v, none⟩

/-- What the issuing stream wrote before its group is visible to its core in state u: its atomics have been performed, its
stores to read-duplicated pages ordered, and its rows and masses have landed, in lockstep mode ahead of their cycles (R119; log
entry 62). -/
abbrev Written (s u : State) : Prop :=
  (∀ g ∈ s.earlier, g.writes = false) ∧ (∀ p ∈ s.posted, p.rdup = false) ∧ performed id s = .ok u

/-- The issuing stream has no vector row, no matrix word and no delayed access on its way into or out of the scratchpad. -/
abbrev Free (s : State) : Prop :=
  (∀ m ∈ s.cjob.moves, m.strm ≠ s.cur.strm) ∧ (∀ l ∈ s.cjob.late, l.strm ≠ s.cur.strm) ∧ (s.cur.strm = .m → s.cjob.mops = [])

/-- The head of queue k that the issuing stream sees is v (R181, R193, R223): the one that its group has seen already, else an entry
that can be popped in this cycle. -/
def HeadIs (s : State) (k : BitVec 2) (v : XVal) : Prop :=
  alGet s.cur.qheads k.toNat = some v ∨
    alGet s.cur.qheads k.toNat = none ∧ ∃ e l, s.cstrm.q[k.toFin] = e :: l ∧ e.avail ≤ s.gcc ∧ v = e.val

/-- It sees none: the queue is empty, or its head cannot be popped yet. -/
def NoHead (s : State) (k : BitVec 2) : Prop :=
  alGet s.cur.qheads k.toNat = none ∧ ∀ e l, s.cstrm.q[k.toFin] = e :: l → s.gcc < e.avail

/-- The word is held, with nothing done. -/
def holding (s : State) (h : Hold) : State := { s with cur := { s.cur with out := .hold h 0 } }

/-- The first poison among the sources, in their order (R377). -/
def poisonOf : List (Option Origin) → Option Origin
  | [] => none
  | some o :: _ => some o
  | none :: l => poisonOf l

/-- A scalar word of two register sources: xd, xa, xb, its latency (R211) and X[xd] as R233 and R236 give it. -/
structure Two where
  d : BitVec 4
  a : BitVec 4
  b : BitVec 4
  l : Nat
  f : Word → Word → Word

/-- The tables of R233 and R236. -/
def twoOf : Instr → Option Two
  | .add d a b => some ⟨d, a, b, 1, fun x y => BitVec.ofNat 64 (x.toNat + y.toNat)⟩
  | .sub d a b => some ⟨d, a, b, 1, fun x y => BitVec.ofInt 64 (x.toInt - y.toInt)⟩
  | .and d a b => some ⟨d, a, b, 1, fun x y => BitVec.ofNat 64 (x.toNat &&& y.toNat)⟩
  | .or d a b => some ⟨d, a, b, 1, fun x y => BitVec.ofNat 64 (x.toNat ||| y.toNat)⟩
  | .xor d a b => some ⟨d, a, b, 1, fun x y => BitVec.ofNat 64 (x.toNat ^^^ y.toNat)⟩
  | .shl d a b => some ⟨d, a, b, 1, fun x y => BitVec.ofNat 64 (x.toNat * 2 ^ (y.toNat % 64))⟩
  | .shr d a b => some ⟨d, a, b, 1, fun x y => BitVec.ofNat 64 (x.toNat / 2 ^ (y.toNat % 64))⟩
  | .sra d a b => some ⟨d, a, b, 1, fun x y => BitVec.ofInt 64 (x.toInt / 2 ^ (y.toNat % 64))⟩
  | .min d a b => some ⟨d, a, b, 1, fun x y => if x.toInt ≤ y.toInt then x else y⟩
  | .max d a b => some ⟨d, a, b, 1, fun x y => if x.toInt ≤ y.toInt then y else x⟩
  | .minu d a b => some ⟨d, a, b, 1, fun x y => if x.toNat ≤ y.toNat then x else y⟩
  | .maxu d a b => some ⟨d, a, b, 1, fun x y => if x.toNat ≤ y.toNat then y else x⟩
  | .mul d a b => some ⟨d, a, b, 4, fun x y => BitVec.ofNat 64 (x.toNat * y.toNat)⟩
  | .mulh d a b => some ⟨d, a, b, 4, fun x y => BitVec.ofInt 64 (x.toInt * y.toInt / 2 ^ 64)⟩
  | .mulhu d a b => some ⟨d, a, b, 4, fun x y => BitVec.ofNat 64 (x.toNat * y.toNat / 2 ^ 64)⟩
  | .div d a b => some ⟨d, a, b, 24, fun x y => if y = 0 then BitVec.ofInt 64 (-1) else BitVec.ofInt 64 (x.toInt.tdiv y.toInt)⟩
  | .divu d a b => some ⟨d, a, b, 24, fun x y => if y = 0 then 0xFFFFFFFFFFFFFFFF else BitVec.ofNat 64 (x.toNat / y.toNat)⟩
  | .rem d a b => some ⟨d, a, b, 24, fun x y => if y = 0 then x else BitVec.ofInt 64 (x.toInt.tmod y.toInt)⟩
  | .remu d a b => some ⟨d, a, b, 24, fun x y => if y = 0 then x else BitVec.ofNat 64 (x.toNat % y.toNat)⟩
  | _ => none

/-- A scalar word of one register source: xd, the source, and X[xd] as R234, R235 and R237 give it. -/
structure One where
  d : BitVec 4
  a : BitVec 4
  f : Word → Word

/-- The tables of R234, R235 and R237; LIH reads its own destination. -/
def oneOf : Instr → Option One
  | .addi d a i => some ⟨d, a, fun x => x + i.signExtend 64⟩
  | .andi d a i => some ⟨d, a, fun x => x &&& i.signExtend 64⟩
  | .ori d a i => some ⟨d, a, fun x => x ||| i.signExtend 64⟩
  | .xori d a i => some ⟨d, a, fun x => x ^^^ i.signExtend 64⟩
  | .shli d a k => some ⟨d, a, fun x => BitVec.ofNat 64 (x.toNat * 2 ^ k.toNat)⟩
  | .shri d a k => some ⟨d, a, fun x => BitVec.ofNat 64 (x.toNat / 2 ^ k.toNat)⟩
  | .srai d a k => some ⟨d, a, fun x => BitVec.ofInt 64 (x.toInt / 2 ^ k.toNat)⟩
  | .lih d i => some ⟨d, d, fun x => BitVec.ofNat 64 (i.toNat * 2 ^ 37 + x.toNat % 2 ^ 37)⟩
  | .clz d a => some ⟨d, a, fun x => BitVec.ofNat 64 ((List.range 64).takeWhile fun k => !x.getLsbD (63 - k)).length⟩
  | .ctz d a => some ⟨d, a, fun x => BitVec.ofNat 64 ((List.range 64).takeWhile fun k => !x.getLsbD k).length⟩
  | .popc d a => some ⟨d, a, fun x => BitVec.ofNat 64 ((List.range 64).countP fun k => x.getLsbD k)⟩
  | .bfx d a p w => some ⟨d, a, fun x => BitVec.ofNat 64 (x.toNat / 2 ^ p.toNat % 2 ^ w.toNat)⟩
  | _ => none

/-- A word of the predicate file of two predicates. -/
def plogOf : Instr → Option (BitVec 3 × BitVec 3 × BitVec 3 × (Bool → Bool → Bool))
  | .pand d a b => some (d, a, b, fun x y => x && y)
  | .por d a b => some (d, a, b, fun x y => x || y)
  | .pxor d a b => some (d, a, b, fun x y => xor x y)
  | _ => none

/-- The comparison of R190 on values read signed and unsigned. -/
def condIs (c : Cond) (a b : Word) : Bool :=
  match c with
  | .eq => decide (a.toNat = b.toNat)
  | .ne => decide (a.toNat ≠ b.toNat)
  | .lt => decide (a.toInt < b.toInt)
  | .ge => decide (b.toInt ≤ a.toInt)
  | .ltu => decide (a.toNat < b.toNat)
  | .geu => decide (b.toNat ≤ a.toNat)
  | .always => true

/-- The state in which the issuing stream goes on at an address. -/
def goesTo (s : State) (a : Word) : State := s.updStrm fun t => { t with pc := a }

end Sys2Proof.Claims

open Sys2Proof Sys2Proof.Machine Sys2Proof.Claims

-- Scalar words.

/-- R233, R236: each ALU and MULDIV word completes, and xd is given the value of the table after the word's latency. R234,
R235, R237: each one-source word, LI and BFI complete with the value of the tables after one cycle. -/
def Obligations.AluResults : Prop :=
  (∀ (i : Instr) (s : State) (w : Two), twoOf i = some w → SettledX s w.a → SettledX s w.b →
     exec i s = .next (ended (wrX s w.d ⟨w.f (xv s w.a).v (xv s w.b).v, poisonOf [(xv s w.a).po, (xv s w.b).po]⟩ w.l))) ∧
  ((∀ (i : Instr) (s : State) (w : One), twoOf i = none → oneOf i = some w → SettledX s w.a →
     exec i s = .next (ended (wrX s w.d ⟨w.f (xv s w.a).v, (xv s w.a).po⟩ 1))) ∧
   (∀ (s : State) (d : BitVec 4) (i : BitVec 37),
     exec (.li d i) s = .next (ended (wrX s d ⟨i.signExtend 64, none⟩ 1))) ∧
   (∀ (s : State) (d a : BitVec 4) (p : BitVec 6) (w : BitVec 7), w ≠ 0 → p.toNat + w.toNat ≤ 64 →
     SettledX s a → SettledX s d → ∃ v : Word,
       exec (.bfi d a p w) s = .next (ended (wrX s d ⟨v, poisonOf [(xv s a).po, (xv s d).po]⟩ 1)) ∧
       ∀ k, k < 64 → v.getLsbD k =
         if p.toNat ≤ k ∧ k < p.toNat + w.toNat then (xv s a).v.getLsbD (k - p.toNat) else (xv s d).v.getLsbD k))

/-- R238 to R240: comparisons, predicate logic and SEL complete with the value of their rules after one cycle. -/
def Obligations.PredicateResult : Prop :=
  (∀ (s : State) (c : Cond) (d : BitVec 3) (a b : BitVec 4), SettledX s a → SettledX s b →
    exec (.cmp c d a b) s = .next (ended (wrP s d ⟨condIs c (xv s a).v (xv s b).v,
      poisonOf [(xv s a).po, (xv s b).po]⟩ 1))) ∧
  (∀ (s : State) (c : Cond) (d : BitVec 3) (a : BitVec 4) (i : BitVec 25), SettledX s a →
    exec (.cmpi c d a i) s = .next (ended (wrP s d ⟨condIs c (xv s a).v (i.signExtend 64), (xv s a).po⟩ 1))) ∧
  (∀ (i : Instr) (s : State) (d a b : BitVec 3) (f : Bool → Bool → Bool), plogOf i = some (d, a, b, f) →
    SettledP s a → SettledP s b →
    exec i s = .next (ended (wrP s d ⟨f (pv s a).v (pv s b).v, poisonOf [(pv s a).po, (pv s b).po]⟩ 1))) ∧
  (∀ (s : State) (d a : BitVec 3), SettledP s a →
    exec (.pnot d a) s = .next (ended (wrP s d ⟨!(pv s a).v, (pv s a).po⟩ 1))) ∧
  (∀ (s : State) (d : BitVec 4) (k : BitVec 3) (a b : BitVec 4), SettledX s a → SettledX s b → SettledP s k →
    exec (.sel d k a b) s = .next (ended (wrX s d ⟨if (pv s k).v then (xv s a).v else (xv s b).v,
      poisonOf [(xv s a).po, (xv s b).po, (pv s k).po]⟩ 1)))

/-- R191, R211: a result for x register r of a stream can be read from the cycle its latency gives, when the register holds it and
no other register of the stream is touched by it; before that a lockstep job meets SCHEDULE_MISS and an elastic one stalls. x0
discards the result and reads 0. That this holds whatever older result for the register is in flight, the younger word prevailing,
is log entry 7 (DEDUCED). -/
def Obligations.RegisterWriteLatency : Prop :=
  ∀ (s : State) (r : BitVec 4) (v : XVal) (l : Nat),
    (r = 0 → wrX s r v l = s ∧ rdX s r = .ok ⟨0, none⟩) ∧
    (r ≠ 0 → 0 < l →
      (s.cjob.strict = true → rdX (wrX s r v l) r = .error (.trap cScheduleMiss s.cur.wpc)) ∧
      (s.cjob.strict = false → rdX (wrX s r v l) r = .error (.hold .latency 0)) ∧
      (∀ now, s.cjob.now + l ≤ now → (((wrX s r v l).cstrm.drain now).x[r.toFin]) = v) ∧
      (∀ now (q : BitVec 4), q ≠ r →
        (((wrX s r v l).cstrm.drain now).x[q.toFin]) = ((s.cstrm.drain now).x[q.toFin])))

-- Control words.

/-- R215, R216: control transfers complete at the address of the rule. R217: LOOP and LOOPV count down and go back while the
count is above 1; in the V stream LOOPV advances vrb. -/
def Obligations.ControlTransfers : Prop :=
  ((∀ (s : State) (off : BitVec 29), s.cur.wpc &&& 7 = 0 →
     exec (.br off) s = .next (ended (goesTo s (s.cur.wpc + 8 * off.signExtend 64)))) ∧
   (∀ (s : State) (c : Cond) (xa xb : BitVec 4) (off : BitVec 29) (a b : Word), s.cur.wpc &&& 7 = 0 →
     HasX s xa a → HasX s xb b →
     exec (.brc c xa xb off) s = .next (ended (if condIs c a b then goesTo s (s.cur.wpc + 8 * off.signExtend 64) else s)) ∧
     exec (.lbreak c xa xb off) s = .next (ended (if condIs c a b then goesTo s (s.cur.wpc + 8 * off.signExtend 64) else s))) ∧
   (∀ (s : State) (off : BitVec 29), s.cur.wpc &&& 7 = 0 →
     exec (.call off) s = .next (ended (goesTo (wrX s 15 ⟨s.cur.next, none⟩ 1) (s.cur.wpc + 8 * off.signExtend 64)))) ∧
   (∀ (s : State) (xd xa : BitVec 4) (a : Word), HasX s xa a → a &&& 7 = 0 →
     exec (.jmpx xd xa) s = .next (ended (goesTo (wrX s xd ⟨s.cur.next, none⟩ 1) a))) ∧
   (∀ (s : State) (a : Word), HasX s 15 a → a &&& 7 = 0 → exec .ret s = .next (ended (goesTo s a)))) ∧
  (∀ (s : State) (xd : BitVec 4) (imm : BitVec 29) (c : Word), s.cur.wpc &&& 7 = 0 → HasX s xd c →
     (c.toNat ≤ 1 →
       exec (.loop xd imm) s = .next (ended (wrX s xd ⟨0, none⟩ 1)) ∧
       exec (.loopv xd imm) s = .next (ended (wrX s xd ⟨0, none⟩ 1))) ∧
     (1 < c.toNat →
       exec (.loop xd imm) s = .next (ended (goesTo (wrX s xd ⟨c - 1, none⟩ 1) (s.cur.wpc + 8 * imm.signExtend 64))) ∧
       (s.cur.strm ≠ .v → exec (.loopv xd imm) s =
         .next (ended (goesTo (wrX s xd ⟨c - 1, none⟩ 1) (s.cur.wpc + 8 * imm.signExtend 64)))) ∧
       (s.cur.strm = .v → exec (.loopv xd imm) s =
         .next (ended ((goesTo (wrX s xd ⟨c - 1, none⟩ 1) (s.cur.wpc + 8 * imm.signExtend 64)).updJob
           fun j => { j with vrb := j.vrb + 1 })))))

-- Waits, queues, special registers, system words.

/-- R106, R219; R104, R220; R221: a wait that is satisfied completes at once, and STAMPW gives the gcc of its cycle. R104, R219 to
R221: a wait that is not satisfied does not issue: nothing of the state changes but the note that the word is held. R104, R107,
R219, R220: a wait for a number never issued, for a failed one, or on a turnstile that is POISONED or in OVERRUN is a precise trap.
R339: in a lockstep job so is a wait for a number that a class-10 word of the job still holds. That WAITT checks ISSUED as it stands
and compares DONE and FAILNUM as they stood at the start of the cycle is log entry 28 (DEDUCED). -/
def Obligations.WaitWords : Prop :=
  ((∀ (s : State) (k : BitVec 3) (xa : BitVec 4) (imm : BitVec 29) (a : Word), HasX s xa a →
     (a + imm.signExtend 64).toNat ≤ (s.cjob.tl[k.toFin]).issued →
     (a + imm.signExtend 64).toNat ≤ (s.cjob.tl0[k.toFin]).done →
     ((s.cjob.tl0[k.toFin]).failnum = 0 ∨ (a + imm.signExtend 64).toNat < (s.cjob.tl0[k.toFin]).failnum) →
     NoHolder s k (a + imm.signExtend 64).toNat →
     exec (.waitt k xa imm) s = .next (ended s.acquires)) ∧
   (∀ (s : State) (k : BitVec 6) (xa : BitVec 4) (inv : Bool) (a : Word), HasX s xa a →
     ((s.cjob.ts[k.toFin]).st = .idle ∨ (s.cjob.ts[k.toFin]).st = .armed) →
     (s.cjob.ts[k.toFin]).phase = !xor (a.getLsbD 0) inv →
     exec (.waits k xa inv) s = .next (ended s.acquires)) ∧
   (∀ (s : State) (xd xa : BitVec 4) (a : Word), HasX s xa a → a.toNat ≤ s.gcc →
     exec (.stampw xd xa) s = .next (ended (wrX s xd ⟨BitVec.ofNat 64 s.gcc, none⟩ 1)))) ∧
  ((∀ (s : State) (k : BitVec 3) (xa : BitVec 4) (imm : BitVec 29) (a : Word), HasX s xa a →
     (a + imm.signExtend 64).toNat ≤ (s.cjob.tl[k.toFin]).issued →
     (s.cjob.tl0[k.toFin]).done < (a + imm.signExtend 64).toNat → (s.cjob.tl0[k.toFin]).failnum = 0 →
     NoHolder s k (a + imm.signExtend 64).toNat →
     exec (.waitt k xa imm) s = .next { s with cur := { s.cur with out := .hold .waiting 0 } }) ∧
   (∀ (s : State) (k : BitVec 6) (xa : BitVec 4) (inv : Bool) (a : Word), HasX s xa a → s.cstrm.held = none →
     ((s.cjob.ts[k.toFin]).st = .idle ∨ (s.cjob.ts[k.toFin]).st = .armed) →
     (s.cjob.ts[k.toFin]).phase = xor (a.getLsbD 0) inv →
     ∃ info, exec (.waits k xa inv) s = .next { s with cur := { s.cur with out := .hold .waiting info } }) ∧
   (∀ (s : State) (xd xa : BitVec 4) (a : Word), HasX s xa a → s.gcc < a.toNat →
     exec (.stampw xd xa) s = .next { s with cur := { s.cur with out := .hold .stamp a.toNat } })) ∧
  ((∀ (s : State) (k : BitVec 3) (xa : BitVec 4) (imm : BitVec 29) (a : Word), HasX s xa a →
     (s.cjob.tl[k.toFin]).issued < (a + imm.signExtend 64).toNat →
     ∃ info, exec (.waitt k xa imm) s = .next (s.takeTrap cTimelineError info)) ∧
   (∀ (s : State) (k : BitVec 3) (xa : BitVec 4) (imm : BitVec 29) (a : Word), HasX s xa a →
     (a + imm.signExtend 64).toNat ≤ (s.cjob.tl[k.toFin]).issued → (s.cjob.tl0[k.toFin]).failnum ≠ 0 →
     (s.cjob.tl0[k.toFin]).failnum ≤ (a + imm.signExtend 64).toNat →
     ∃ info, exec (.waitt k xa imm) s = .next (s.takeTrap cTimelineError info)) ∧
   (∀ (s : State) (k : BitVec 3) (xa : BitVec 4) (imm : BitVec 29) (a : Word), HasX s xa a → s.cjob.strict = true →
     (a + imm.signExtend 64).toNat ≤ (s.cjob.tl[k.toFin]).issued → (s.cjob.tl0[k.toFin]).failnum = 0 →
     ¬ NoHolder s k (a + imm.signExtend 64).toNat →
     ∃ o ∈ s.cjob.mops, exec (.waitt k xa imm) s = .next (s.takeTrap cScheduleMiss o.pc)) ∧
   (∀ (s : State) (k : BitVec 6) (xa : BitVec 4) (inv : Bool) (a : Word), HasX s xa a → s.cstrm.held = none →
     ((s.cjob.ts[k.toFin]).st = .poisoned → ∃ info, exec (.waits k xa inv) s = .next (s.takeTrap cTurnstilePoisoned info)) ∧
     ((s.cjob.ts[k.toFin]).st = .overrun → ∃ info, exec (.waits k xa inv) s = .next (s.takeTrap cTurnstileOverrun info))))

/-- R222, R223: SEND appends to a queue that has a place, for pops from the next cycle on; to the V stream it appends a tile
whose row 0 holds the value and whose other rows are zero. A full queue is QUEUE_OVERFLOW in a lockstep job and a stall in
an elastic one; a stream outside SMASK is ILLEGAL_OPERAND. Until what its stream wrote before is visible, SEND waits: that
reading of R119 is log entry 62. R224, R181, R193: SRD of a queue pops or copies its head, the one that the other word of the group
has seen or else the entry that can be popped in this cycle, and acquires what its sender wrote (R119); with no such entry it is
QUEUE_UNDERFLOW in a lockstep job and stalls in an elastic one. -/
def Obligations.QueueWords : Prop :=
  (∀ (s : State) (t : Strm) (k : BitVec 2) (xa : BitVec 4) (v : Word), HasX s xa v →
     (s.cjob.inMask t = false → exec (.send t k xa) s = .next (s.takeTrap cIllegalOperand s.cur.raw)) ∧
     (s.cjob.inMask t = true → ((∃ g ∈ s.earlier, g.writes = true) ∨ (∃ p ∈ s.posted, p.rdup = true) ∨
         (s.cjob.strict = false ∧ s.cjob.onTheWay s.cur.strm s.cur.since id = true)) →
       ∃ h, exec (.send t k xa) s = .next (holding s h)) ∧
     (∀ u, s.cjob.inMask t = true → Written s u → t ≠ .v →
       (((u.cjob.stream t).q[k.toFin]).length + (u.cjob.stream t).popped[k.toFin] < 4 →
         exec (.send t k xa) s = .next (ended (u.updJob fun j => j.modStream t fun x =>
           { x with q := x.q.set k.toFin (x.q[k.toFin] ++ [⟨⟨v, none⟩, u.gcc + 1⟩]) }))) ∧
       (4 ≤ ((u.cjob.stream t).q[k.toFin]).length + (u.cjob.stream t).popped[k.toFin] →
         (u.cjob.strict = true → ∃ info, exec (.send t k xa) s = .next (s.takeTrap cQueueOverflow info)) ∧
         (u.cjob.strict = false → exec (.send t k xa) s = .next (holding s .stream)))) ∧
     (∀ u, s.cjob.inMask .v = true → Written s u →
       (u.cjob.vq[k.toFin]).length + u.cjob.vpopped[k.toFin] + u.cjob.vqRes[k.toFin] < 4 →
       ∃ tile : Tile, (∀ r : Fin 16, tile[r] = if r.val = 0 then ⟨v.setWidth 1024, none⟩ else ⟨0, none⟩) ∧
         exec (.send .v k xa) s = .next (ended (u.updJob fun j =>
           { j with vq := j.vq.set k.toFin (j.vq[k.toFin] ++ [⟨tile, u.gcc + 1⟩]) }))) ∧
     (∀ u, s.cjob.inMask .v = true → Written s u →
       4 ≤ (u.cjob.vq[k.toFin]).length + u.cjob.vpopped[k.toFin] + u.cjob.vqRes[k.toFin] →
       (u.cjob.strict = true → ∃ info, exec (.send .v k xa) s = .next (s.takeTrap cQueueOverflow info)) ∧
       (u.cjob.strict = false → exec (.send .v k xa) s = .next (holding s .stream))) ∧
     (Free s → (∀ g ∈ s.earlier, g.writes = false) → (∀ p ∈ s.posted, p.rdup = false) → Written s s)) ∧
  (∀ (s : State) (xd : BitVec 4) (k : BitVec 2) (v : XVal), HeadIs s k v →
     let seen : State := ({ s with cur := { s.cur with qheads := alSet s.cur.qheads k.toNat v } } : State).acquires
     exec (.srd xd (.qpeek k)) s = .next (ended (wrX seen xd v 1)) ∧
     exec (.srd xd (.qpop k)) s = .next (ended (wrX (seen.updStrm fun u =>
       { u with q := u.q.set k.toFin (u.q[k.toFin]).tail, popped := u.popped.set k.toFin (u.popped[k.toFin] + 1) }) xd v 1))) ∧
  (∀ (s : State) (xd : BitVec 4) (k : BitVec 2) (r : SReg), NoHead s k → r = .qpop k ∨ r = .qpeek k →
     (s.cjob.strict = true → ∃ info, exec (.srd xd r) s = .next (s.takeTrap cQueueUnderflow info)) ∧
     (s.cjob.strict = false → exec (.srd xd r) s = .next (holding s .stream)))

/-- R225, R226: SRD of every other special register completes with the value of the table of R226: the issuing stream reads
the registers that it alone may write as they stand, others as they stood at the start of the cycle. R225, R227: SWR writes
its register, and a value that R227 refuses is ILLEGAL_OPERAND with nothing written. R194, R184: a group of one word that writes a
register of the V stream from another stream, or trapvec from another stream than S, or that reads a queue of the S, M and C streams in
the V stream, is ILLEGAL_OPERAND when it is checked. -/
def Obligations.SpecialRegisters : Prop :=
  (∀ (s : State) (xd : BitVec 4),
     let j := s.cjob
     let gives (r : SReg) (v : Word) : Prop := exec (.srd xd r) s = .next (ended (wrX s xd ⟨v, none⟩ 1))
     gives .mode (BitVec.ofNat 64 (256 * j.nest.smask.toNat + (if j.nest.gang then 64 else 0) +
       (if j.nest.persist then 32 else 0) + (if j.nest.lockstep then 1 else 0))) ∧
     gives .jobid (BitVec.ofNat 64 j.iter) ∧
     gives .coord (BitVec.ofNat 64 (256 * j.pkgnum.toNat + s.cur.core.val)) ∧
     gives .stage j.stage ∧ gives .gcc (BitVec.ofNat 64 s.gcc) ∧
     (s.cur.strm = .v → gives .vshape (BitVec.ofNat 64 (256 * j.vsEf.toNat + j.vsRows.toNat)) ∧ gives .vrb j.vrb ∧
       gives .vring (BitVec.ofNat 64 (256 * j.ringS.toNat + j.ringB.toNat))) ∧
     (s.cur.strm ≠ .v → gives .vshape j.sr0[0] ∧ gives .vrb j.sr0[1] ∧ gives .vring j.sr0[2]) ∧
     (s.cur.strm = .s → gives .trapvec j.trapvec) ∧ (s.cur.strm ≠ .s → gives .trapvec j.sr0[3]) ∧
     gives .trapcause (BitVec.ofNat 64 j.trapcause.toNat) ∧ gives .trappc j.trappc ∧
     gives .trapstream (match j.trapstrm with | .s => 0 | .v => 1 | .m => 2 | .c => 3) ∧ gives .trapinfo j.trapinfo ∧
     gives .beaconint (BitVec.ofNat 64 j.nest.beaconUs.toNat) ∧ gives .ovp j.nest.ovfva ∧
     gives .spillbase (0x800000 - BitVec.ofNat 64 j.nest.carve.toNat) ∧ gives .prio (BitVec.ofNat 64 j.prio) ∧
     gives .partition (BitVec.ofNat 64 j.nest.part.toNat) ∧ gives .incarnation (BitVec.ofNat 64 j.incarn.toNat)) ∧
  (∀ (s : State) (r : WReg) (xa : BitVec 4) (v : Word), HasX s xa v → swrTakes r v →
     exec (.swr r xa) s = .next (ended (s.updJob (swrGives r v)))) ∧
  (∀ (s : State) (r : WReg) (xa : BitVec 4) (v : Word), HasX s xa v → ¬ swrTakes r v →
     exec (.swr r xa) s = .next (s.takeTrap cIllegalOperand s.cur.raw)) ∧
  (∀ (st : Strm) (raw : Word) (w : IWord), decode raw = .ok w → streamOk st raw = true →
     ((∃ r xa, w.op = .swr r xa ∧ (r = .trapvec ∧ st ≠ .s ∨ r ≠ .trapvec ∧ st ≠ .v)) ∨
       (st = .v ∧ ∃ xd k, w.op = .srd xd (.qpop k) ∨ w.op = .srd xd (.qpeek k))) →
     checkOne st raw = .bad false cIllegalOperand raw)

/-- R215, R244, R228, R218, R229, R231, R232, R196: the words that end, fence, offer, return and launch complete. R121, R127: a
fence waits until the accesses of its stream before it, those of its own group apart (log entry 63), have been performed, and a
release until their stores have reached the point of its scope. R231: a TRET that comes before the last result of its handler is
kept until that result is written. That a TRET ends the hold of the cycle after its own is log entry 34 (DESIGN CHOICE), and what a
fence of an elastic job waits for among rows and masses log entry 62 (DEDUCED); that a YIELD while a save is under way reuses its
slot is log entry 68. -/
def Obligations.SystemWords : Prop :=
  (∀ s : State, exec .nop s = .next (ended s)) ∧
  (∀ (s : State) (sc : Scope), exec (.fence .rlx sc) s = .next (ended s)) ∧
  (∀ (s : State) (o : MOrd) (sc : Scope), o ≠ .rlx →
     (let t := if o = .rel then s else s.acquires
      s.earlier = [] → Free s → (o = .acq ∨ (∀ p ∈ s.posted, relPoint sc p = true) ∧ t.acquired sc = false) →
        exec (.fence o sc) s = .next (ended t)) ∧
     (s.earlier ≠ [] → exec (.fence o sc) s = .next (holding s .order)) ∧
     (s.earlier = [] → Free s → o ≠ .acq → (∃ p ∈ s.posted, relPoint sc p = false) →
       exec (.fence o sc) s = .next (holding s .postBuf)) ∧
     (s.cjob.strict = false → (∃ m ∈ s.cjob.moves, m.strm = s.cur.strm ∧ m.ord < s.cur.since ∧ (o = .acq → m.data = none)) →
       exec (.fence o sc) s = .next (holding s .order))) ∧
  (∀ s : State, exec .beacon s =
    .next (ended (s.updJob fun j => if j.nest.persist then { j with beacon := 0 } else j))) ∧
  (∀ s : State, s.cjob.st ≠ .trapped →
    let t := s.updStrm fun u => { u with joined := true }
    ((∃ st, (t.cjob.stream st).started = true ∧ (t.cjob.stream st).joined = false) → exec .join s = .next (ended t)) ∧
    ((∀ st, (t.cjob.stream st).started = true → (t.cjob.stream st).joined = true) →
      exec .join s = .next (ended (t.updJob fun j => { j with st := .draining })))) ∧
  (∀ (s : State) (xa xb : BitVec 4) (a b : Word), HasX s xa a → HasX s xb b → b = 0 ∨ a.toNat + b.toNat ≤ 0x800000 →
    (s.cjob.preq = none ∨ s.cjob.nest.gang = true ∨
        s.cjob.saving = none ∧ (s.die (dieOf s.cur.core)).slots.contains .free = false →
      exec (.yield xa xb) s = .next (ended s)) ∧
    (∀ q k, s.cjob.preq = some q → s.cjob.nest.gang = false →
      (match s.cjob.saving with
        | some sv => some sv.slot
        | none => (s.die (dieOf s.cur.core)).slots.findIdx? (· == .free)) = some k →
      ∃ first count, exec (.yield xa xb) s = .next (ended (s.takeSlot s.cur.core ⟨k, false, first, count⟩)) ∧
        ∀ tile, (first ≤ tile ∧ tile < first + count ↔ b ≠ 0 ∧ a.toNat < 4096 * (tile + 1) ∧ 4096 * tile < a.toNat + b.toNat))) ∧
  (∀ (s : State) (xa : BitVec 4) (a : Word), s.cjob.st = .trapped → HasX s xa a → (xa = 0 ∨ a.toNat % 8 = 0) →
    let target := if xa = 0 then s.cjob.trapResume else a
    (s.cjob.handlerBusy = true → exec (.tret xa) s = .next (ended (s.updJob fun j => { j with tret := some target }))) ∧
    ((s.cjob.stream .s).pend = [] → s.cjob.outs = [] → s.cjob.kvWait = [] → s.cjob.late = [] →
      exec (.tret xa) s = .next (ended (s.updJob fun j => { j.trapReturn target with thawAt := s.gcc + 1 })))) ∧
  (∀ (j : Job) (a : Word), j.tret = some a → j.st = .trapped →
     j.tretDue = if (j.stream .s).pend = [] ∧ (∀ g ∈ j.outs, g.strm ≠ .s) ∧ (∀ k ∈ j.kvWait, k.strm = .s → k.h = false) ∧
         ∀ l ∈ j.late, l.strm ≠ .s
       then j.trapReturn a else j) ∧
  (∀ (s t : State) (xd xa : BitVec 4) (va : Word) (l : List Nat), HasX s xa va → s.cjob.outs = [] → s.here.psb = [] → Free s →
    recordPlaces s va = .ok (l, t) → (recordBytes t va l).2 = none →
    ∃ u, exec (.nest xd xa) s = .next u ∧ u.cur.out = .done ∧
      u.subs = t.subs ++ [⟨t.ord, none, some t.cur.core.val, some t.cjob.nest.part, va, some (recordBytes t va l).1, false, none⟩])

/-- R8, R184, R195, R230: an unassigned opcode and TRAP take their exceptions: ILLEGAL_OPCODE with the word, SOFTWARE with
X[xa] and the immediate. R178, R213, R218, R231: transfers to a misaligned address, words that consume poison, a JOIN in a
handler and a TRET outside one are precise traps. -/
def Obligations.PreciseTraps : Prop :=
  ((∀ (s : State) (opc : BitVec 8) (ops : BitVec 41),
     exec (.unassignedOpcode opc ops) s = .next (s.takeTrap cIllegalOpcode s.cur.raw)) ∧
   (∀ (s : State) (xa : BitVec 4) (imm : BitVec 29) (a : Word), HasX s xa a →
     exec (.trap xa imm) s = .next (s.takeTrap cSoftware (a + imm.signExtend 64)))) ∧
  ((∀ (s : State) (xd xa : BitVec 4) (a : Word), HasX s xa a → a &&& 7 ≠ 0 →
     exec (.jmpx xd xa) s = .next (s.takeTrap cAlignment a)) ∧
   (∀ (s : State) (a : Word), HasX s 15 a → a &&& 7 ≠ 0 → exec .ret s = .next (s.takeTrap cAlignment a)) ∧
   (∀ (i : Instr) (s : State) (xa : BitVec 4) (o : Origin),
     ((∃ xd, i = .jmpx xd xa) ∨ (∃ im, i = .trap xa im) ∨ (∃ t k, i = .send t k xa) ∨ (∃ r, i = .swr r xa) ∨ (∃ xd, i = .stampw xd xa) ∨
       (∃ xd, i = .nest xd xa) ∨ (∃ k im, i = .waitt k xa im) ∨ (∃ k v, i = .waits k xa v) ∨ (∃ im, i = .loop xa im) ∨
       (∃ im, i = .loopv xa im) ∨ (∃ c xb off, i = .brc c xa xb off) ∨ (∃ c xb off, i = .lbreak c xa xb off) ∨
       (∃ xb, i = .yield xa xb) ∨ (i = .ret ∧ xa = 15)) →
     SettledX s xa → (xv s xa).po = some o → exec i s = .next (s.takeTrap cPoisonConsumed o)) ∧
   (∀ s : State, s.cjob.st = .trapped → exec .join s = .next (s.takeTrap cIllegalOpcode s.cur.raw)) ∧
   (∀ (s : State) (xa : BitVec 4), s.cjob.st ≠ .trapped → exec (.tret xa) s = .next (s.takeTrap cIllegalOpcode s.cur.raw)))

/-- R372, R374: a user-class trap of a job that has a handler: what was in flight has completed, the trap registers hold the
cause, the address of the word, its stream and the detail, the job is TRAPPED, and S goes on at trapvec, once nothing is in
flight any more, while the point where it stopped is kept. R72, R374: a user-class trap of a job that has no handler, or that is in its handler already, ends
the job: its context is cleared. R231: the return from a handler: the job runs again, the trapping stream goes on where
delivery stopped it or at X[xa], S where it was stopped, the others stay where they are; the trap registers keep their
values. -/
def Obligations.TrapEntryAndReturn : Prop :=
  (∀ (s : State) (c : Cause) (info : Word),
     let n := s.cur.core
     let d := s.job n
     isSystem c = false → d.st ≠ .trapped → d.trapvec ≠ 0 → d.inMask .s = true → (d.stream .s).joined = false →
     let resume := if c = cSoftware then s.cur.next else s.cur.gpc
     let j := (s.takeTrap c info).job n
     j.st = .trapped ∧ j.trapcause = c ∧ j.trappc = s.cur.wpc ∧ j.trapstrm = s.cur.strm ∧ j.trapinfo = info ∧
     j.trapResume = resume ∧ j.retStrm = s.cur.strm ∧ (j.stream .s).pc = d.trapvec ∧ j.trapvec = d.trapvec ∧
     (s.cur.strm ≠ .s → j.sResume = (d.stream .s).pc ∧ (j.stream s.cur.strm).pc = resume) ∧
     (∀ st, st ≠ .s → st ≠ s.cur.strm → (j.stream st).pc = (d.stream st).pc) ∧
     (j.inFlight = true → ∀ st, (s.takeTrap c info).mayIssue n st = false)) ∧
  (∀ (s : State) (c : Cause) (info : Word),
     let d := s.job s.cur.core
     isSystem c = false → d.trapvec = 0 ∨ d.st = .trapped → d.st ≠ .none →
     ((s.takeTrap c info).job s.cur.core).st = .none) ∧
  (∀ (j : Job) (a : Word),
     let r := j.trapReturn a
     r.st = .running ∧ (r.stream j.retStrm).pc = a ∧ (j.retStrm ≠ .s → (r.stream .s).pc = j.sResume) ∧
     (∀ st, st ≠ .s → st ≠ j.retStrm → r.stream st = j.stream st) ∧
     r.trapcause = j.trapcause ∧ r.trappc = j.trappc ∧ r.trapstrm = j.trapstrm ∧ r.trapinfo = j.trapinfo ∧
     r.trapvec = j.trapvec)

namespace Sys2Proof.Claims

open Sys2Proof.Machine

/-- A load word (R242, R243): its registers, SEL, size, SX, whether it is an acquire, its scope and its offset. -/
structure LoadW where
  d : BitVec 4
  a : BitVec 4
  sel : Sel
  sz : Sz
  sx : Bool
  acq : Bool
  scope : Scope
  off : Word

/-- The load words. -/
def loadOf : Instr → Option LoadW
  | .ld d a m z x o => some ⟨d, a, m, z, x, false, .core, o.signExtend 64⟩
  | .lda d a m z x sc o => some ⟨d, a, m, z, x, true, sc, o.signExtend 64⟩
  | _ => none

/-- A store word (R242, R243): the data register, the address register, SEL, size, offset, and the scope of a release. -/
structure StoreW where
  d : BitVec 4
  a : BitVec 4
  sel : Sel
  sz : Sz
  off : Word
  rel : Option Scope

/-- The store words. -/
def storeOf : Instr → Option StoreW
  | .st d a m z o => some ⟨d, a, m, z, o.signExtend 64, none⟩
  | .stl d a m z sc o => some ⟨d, a, m, z, o.signExtend 64, some sc⟩
  | _ => none

/-- An atomic word (R245): its registers, SEL, AOP, its width in bits, ORD and SCOPE; `c` is x0 where R245 leaves it out. -/
structure AtomW where
  d : BitVec 4
  a : BitVec 4
  b : BitVec 4
  c : BitVec 4
  sel : Sel
  aop : BitVec 4
  dw : Bool
  ord : MOrd
  scope : Scope

/-- The atomic words of R245. -/
def atomOf : Instr → Option AtomW
  | .atadd d a b m w o sc => some ⟨d, a, b, 0, m, 0, w, o, sc⟩
  | .atmin d a b m w o sc => some ⟨d, a, b, 0, m, 1, w, o, sc⟩
  | .atmax d a b m w o sc => some ⟨d, a, b, 0, m, 2, w, o, sc⟩
  | .atand d a b m w o sc => some ⟨d, a, b, 0, m, 3, w, o, sc⟩
  | .ator d a b m w o sc => some ⟨d, a, b, 0, m, 4, w, o, sc⟩
  | .atxor d a b m w o sc => some ⟨d, a, b, 0, m, 5, w, o, sc⟩
  | .atxchg d a b m w o sc => some ⟨d, a, b, 0, m, 6, w, o, sc⟩
  | .atcas d a b c m w o sc => some ⟨d, a, b, c, m, 7, w, o, sc⟩
  | .atincb d a c m w o sc => some ⟨d, a, 0, c, m, 8, w, o, sc⟩
  | .atfadd d a b m o sc => some ⟨d, a, b, 0, m, 9, false, o, sc⟩
  | _ => none

/-- Bytes of a size code (R242). -/
def widthOf : Sz → Nat
  | .b => 1 | .h => 2 | .w => 4 | .d => 8

/-- Little-endian bytes as a number (R2). -/
def little : List Byte → Nat
  | [] => 0
  | b :: l => b.toNat + 256 * little l

/-- Bytes extended to 64 bits, with their sign or with zeros (R242). -/
def extended (sx : Bool) (l : List Byte) : Word :=
  if sx then BitVec.ofInt 64 (Int.bmod (little l) (256 ^ l.length)) else BitVec.ofNat 64 (little l)

/-- The new value of an atomic from old, b and c, of w bits each (R245). -/
def newOf (aop : BitVec 4) (w old b c : Nat) : Nat :=
  let sg (x : Nat) : Int := Int.bmod x (2 ^ w)
  match aop.toNat with
  | 0 => (old + b) % 2 ^ w
  | 1 => if sg old ≤ sg b then old else b
  | 2 => if sg old < sg b then b else old
  | 3 => old &&& b
  | 4 => old ||| b
  | 5 => old ^^^ b
  | 6 => b
  | 7 => if old = c then b else old
  | 8 => if old < c then old + 1 else old
  | _ => add32 old b

/-- The release of an atomic, if its ORD makes it one (R121). -/
def AtomW.rel (w : AtomW) : Option Scope := if w.ord = .rel ∨ w.ord = .acqrel then some w.scope else none

/-- Where n bytes at effective address e with no extent selected lie in the scratchpad: at the local address itself, in the
spill space of the job, or in the slot of a carousel window; `prod` is the slot that a write there arrives on (R84, R110,
R241). -/
def LocalAt (s : State) (e : Word) (n x : Nat) (prod : Option (Nat × Nat)) : Prop :=
  let carve := s.cjob.nest.carve.toNat
  let o := e.toNat - (2 ^ 64 - 2 ^ 24)
  (e.toNat < 0x800000 ∧ x = e.toNat ∧ prod = none) ∨
  (2 ^ 64 - 2 ^ 24 ≤ e.toNat ∧ o + n ≤ carve ∧ carve ≤ 0x100000 ∧ x = 0x800000 - carve + o ∧ prod = none) ∨
  (0x800000 ≤ e.toNat ∧ e.toNat < 0xC00000 ∧ ∃ cons, s.cjob.place e.toNat n = .at ⟨x, prod, cons⟩)

/-- n aligned bytes at effective address e lie at scratchpad address x. -/
abbrev InScratch (s : State) (sel : Sel) (e : Word) (n x : Nat) (prod : Option (Nat × Nat)) : Prop :=
  sel = .loc ∧ e.toNat % n = 0 ∧ LocalAt s e n x prod

/-- No tile of n bytes at x is a window copy in I (R132). -/
abbrev Readable (s : State) (x n : Nat) : Prop := ∀ t ∈ tilesOf x n, ∀ w, s.here.copyAt t = some w → w.st ≠ .i

/-- Every tile of n bytes at x is ordinary scratchpad or a window copy in E or M, and none is a window tile that another core
holds or that is being merged (R132, R134). -/
abbrev Writable (s : State) (x n : Nat) : Prop :=
  ∀ t ∈ tilesOf x n, (∀ w, s.here.copyAt t = some w → w.st = .e ∨ w.st = .m) ∧
    (s.here.inWindow t = false ∨ s.here.merging t = false ∧ s.winHolders s.cur.core t = [])

/-- A write of n bytes arrives on the slot that it was resolved to, if any (R111). -/
def arrived (s : State) (prod : Option (Nat × Nat)) (n : Nat) : State :=
  match prod with
  | none => s
  | some (c, k) => s.updJob fun j =>
      j.modTs (BitVec.ofNat 6 ((j.car.toList.getD c Carousel.zero).firstts + k)) fun t => t.addArr t.phase n

/-- The stores that the issuing stream posted before its group, and those that it had acquired before, have reached the point of a
release (R122, R127). -/
abbrev CanRelease (s : State) (rel : Option Scope) : Prop :=
  ∀ sc, rel = some sc → (∀ p ∈ s.posted, relPoint sc p = true) ∧ s.acquired sc = false

/-- n bytes at offset e lie in an extent that allows the access: their VA, where they lie, and whether their page is
read-duplicated (R92, R93). -/
def InExtent (s : State) (sel : Sel) (e : Word) (n : Nat) (rd w : Bool) (va : Word) (pa : Nat) (rdup : Bool) : Prop :=
  ∃ k x p, sel = .ext k ∧ x = s.cjob.ext[k.toFin] ∧ x.len ≠ 0 ∧ 0 ≤ e.toInt ∧ e.toNat + n ≤ x.len.toNat ∧
    e.toNat % n = 0 ∧ (rd = true → x.rd = true) ∧ (w = true → x.w = true) ∧
    va = (x.base + e) &&& 0x01FFFFFFFFFFFFFF ∧
    (x.frames.find? fun f => f.1 == va.toNat / 0x200000) = some (va.toNat / 0x200000, p, rdup) ∧
    pa = canon s.pkgnum.toNat (p + va.toNat % 0x200000)

/-- n bytes at effective address e lie in the overflow page of the job (R241): their VA, where they lie, and whether the page is
read-duplicated. -/
def InOverflow (s : State) (sel : Sel) (e : Word) (n : Nat) (va : Word) (pa : Nat) (rdup : Bool) : Prop :=
  let r := s.cjob.nest
  let o := e.toNat - (2 ^ 64 - 2 ^ 24)
  ∃ p, sel = .loc ∧ r.ovfva ≠ 0 ∧ 2 ^ 64 - 2 ^ 24 ≤ e.toNat ∧ r.carve.toNat ≤ o ∧ o + n ≤ r.carve.toNat + 0x200000 ∧
    e.toNat % n = 0 ∧ va = (r.ovfva + BitVec.ofNat 64 (o - r.carve.toNat)) &&& 0x01FFFFFFFFFFFFFF ∧
    (s.cjob.ovf.find? fun f => f.1 == va.toNat / 0x200000) = some (va.toNat / 0x200000, p, rdup) ∧
    pa = canon s.pkgnum.toNat (p + va.toNat % 0x200000)

/-- n bytes at effective address e lie in global memory: in an extent that allows the access, or in the overflow page. -/
abbrev InGlobal (s : State) (sel : Sel) (e : Word) (n : Nat) (rd w : Bool) (va : Word) (pa : Nat) (rdup : Bool) : Prop :=
  InExtent s sel e n rd w va pa rdup ∨ InOverflow s sel e n va pa rdup

/-- n aligned bytes at effective address e lie nowhere (R84, R241): reserved local addresses, addresses that are neither local
nor spill, and spill offsets past the spill space or across its end. -/
abbrev Nowhere (s : State) (sel : Sel) (e : Word) (n : Nat) : Prop :=
  let r := s.cjob.nest
  let o := e.toNat - (2 ^ 64 - 2 ^ 24)
  sel = .loc ∧ e.toNat % n = 0 ∧ (0xC00400 ≤ e.toNat ∧ e.toNat < 2 ^ 64 - 2 ^ 24 ∨
    2 ^ 64 - 2 ^ 24 ≤ e.toNat ∧ (r.carve.toNat + (if r.ovfva = 0 then 0 else 0x200000) < o + n ∨
      o < r.carve.toNat ∧ r.carve.toNat < o + n))

/-- n bytes at offset off of a carousel window that R110 refuses. -/
abbrev CarBad (c : Carousel) (off n : Nat) : Prop :=
  let o := if off < 0x80000 then off else off - 0x80000
  c.decl = false ∨ c.count ≤ o / c.slotSize ∨ (o + n - 1) / c.slotSize ≠ o / c.slotSize

/-- No access of the issuing stream is outstanding. -/
abbrev Quiet (s : State) : Prop := (s.cjob.outs.any fun g => g.strm == s.cur.strm) = false

/-- A scratchpad access of this cycle does not stall: the rules are the strict ones, or no bank is named twice (R61,
R62). -/
abbrev NoStall (s : State) (a n : Nat) : Prop :=
  let t := trafOf s.cjob s.cur.strm s.cur.wpc s.cjob.now [a] n
  s.cjob.strict = true ∨ t.clash s.cjob.traffic = false ∧ t.clash (s.cjob.traffic.take s.cur.traf0) = false

/-- The state with the scratchpad traffic of one scalar access noted (R61). -/
def charged (s : State) (a n : Nat) : State :=
  s.updJob fun j => { j with traffic := j.traffic ++ [trafOf s.cjob s.cur.strm s.cur.wpc s.cjob.now [a] n] }

/-- A word that is an acquire orders its stream after what its die can see (R121, R122). -/
def acquiring (acq : Bool) (s : State) : State := if acq then s.acquires else s

end Sys2Proof.Claims

-- Loads, stores, atomics.

/-- R242, R243, R84, R86, R110, R241: LD and LDA of a local address, of spill space and of a carousel slot complete; X[xd] receives
the bytes there, zero-extended or sign-extended, after the latency of a local load, or poison where a word of them is poisoned. So
does a load of a turnstile image (R101). R117: a load finds there what its stream wrote before it, rows that have still to land and
a write of this cycle included. R242, R243, R123, R212: LD and LDA of an extent or of the overflow page complete: the access is
outstanding with its VA, its place, its length and its order, an earlier result for xd is given up, and a lockstep job freezes until
the answer comes. That an earlier result for xd is given up is log entry 7 (DEDUCED), and that a scratchpad load that no bank delays
reads in its issue cycle log entry 25 (DEDUCED). -/
def Obligations.LoadWords : Prop :=
  (∀ (i : Instr) (s : State) (w : LoadW) (a : Word) (x : Nat) (prod : Option (Nat × Nat)), loadOf i = some w → HasX s w.a a →
     let n := widthOf w.sz
     InScratch s w.sel (a + w.off) n x prod → Readable s x n → Quiet s → NoStall s x n → ∀ own : Core, ownAt s x n = .ok own →
     (own.poison x n = none →
       exec i s = .next (ended (wrX (acquiring w.acq (charged s x n)) w.d ⟨extended w.sx (own.spad.read x n), none⟩ 4))) ∧
     (∀ p, own.poison x n = some p →
       ∃ v, exec i s = .next (ended (wrX (acquiring w.acq (charged s x n)) w.d ⟨v, some (p.origin (BitVec.ofNat 64 x))⟩ 4)))) ∧
  (∀ (i : Instr) (s : State) (w : LoadW) (a : Word) (k : BitVec 6) (o : Nat), loadOf i = some w → HasX s w.a a → Quiet s →
     let n := widthOf w.sz
     w.sel = .loc → (a + w.off).toNat = 0xC00000 + 16 * k.toNat + o → o + n ≤ 16 → o % n = 0 →
     let t := s.cjob.ts[k.toFin]
     exec i s = .next (ended (wrX s w.d ⟨extended w.sx ((List.range n).map fun b =>
       BitVec.ofNat 8 ((t.image.toNat + t.cause.toNat * 2 ^ 64) / 256 ^ (o + b))), none⟩ 4))) ∧
  (∀ (s : State) (x n : Nat), Free s →
     ((∀ l ∈ s.here.landing, l.rank ≠ rankOf s.cur.strm) → ownAt s x n = .ok s.here) ∧
     (∀ l, s.here.landing = [l] → l.rank = rankOf s.cur.strm → l.ord < s.cur.since → s.here.spad.wf = true →
       ∃ own, ownAt s x n = .ok own ∧ ∀ a b po, l.bytes.getLast? = some (a, b, po) → own.spad.get a = b)) ∧
  (∀ (i : Instr) (s : State) (w : LoadW) (a va : Word) (pa : Nat) (rdup : Bool), loadOf i = some w → HasX s w.a a →
     InGlobal s w.sel (a + w.off) (widthOf w.sz) true false va pa rdup → Quiet s →
     ∃ t, exec i s = .next t ∧ t.cur.out = .done ∧
       t.cjob.outs = (s.cjob.claimX s.cur.strm w.d).outs ++
         [⟨s.cur.strm, .load w.sz w.sx, (0 : BitVec 1) ++ w.d, va, pa, widthOf w.sz, w.acq, true, w.scope, s.ord, none⟩] ∧
       (s.cjob.strict = true → t.cjob.st = .frozen ∧ t.cjob.freeze = s.cjob.freeze ++ [⟨.gload, s.cur.strm⟩]) ∧
       (s.cjob.strict = false → t.cjob.st = s.cjob.st))

/-- R242, R243, R90, R118, R110, R111: ST and STL to a local address, to spill space and to a carousel slot complete: the low bytes
of X[xd] land there in this cycle, stamping tag 0, and arrive on the slot's turnstile; a window copy that they lie in becomes M
(R132). R242, R243, R123, R127, R416: ST and STL to an extent complete with a free entry: the bytes stand in the posted-store
buffer with their place; a store whose home is fenced is discarded. R212, R241: so does one to the overflow page, which freezes a
lockstep job. -/
def Obligations.StoreWords : Prop :=
  (∀ (i : Instr) (s : State) (w : StoreW) (a v : Word) (x : Nat) (prod : Option (Nat × Nat)), storeOf i = some w →
     HasX s w.a a → HasX s w.d v →
     let n := widthOf w.sz
     InScratch s w.sel (a + w.off) n x prod → Writable s x n → Quiet s → Free s → CanRelease s w.rel → NoStall s x n →
     ∃ l : Land, exec i s = .next (ended { (arrived (charged s x n) prod n).modCore s.cur.core fun c =>
         { c.winWrite x n with landing := c.landing ++ [l] } with ord := s.ord + 1 }) ∧
       l.tag = 0 ∧ l.tiles = tilesOf x n ∧
       l.bytes = (List.range n).map fun k => (x + k, BitVec.ofNat 8 (v.toNat / 256 ^ k), none)) ∧
  (∀ (c : Core) (a n : Nat) (w : WinCopy), c.copies = [w] → w.tile ∈ tilesOf a n → 0 < n → w.st = .e ∨ w.st = .m →
     ∃ dirty, (c.winWrite a n).copies = [{ w with st := .m, dirty := dirty }] ∧
       ∀ k, k < 1024 → (k ∈ dirty ↔ k ∈ w.dirty ∨ a / 4 ≤ 1024 * w.tile + k ∧ 4 * (1024 * w.tile + k) < a + n)) ∧
  (∀ (i : Instr) (s : State) (w : StoreW) (a v va : Word) (pa : Nat) (rdup : Bool), storeOf i = some w → HasX s w.a a →
     HasX s w.d v → InExtent s w.sel (a + w.off) (widthOf w.sz) false true va pa rdup → Quiet s → Free s → CanRelease s w.rel →
     s.here.psbUsed < 16 →
     (s.homeDead pa = true → exec i s = .next (ended s)) ∧
     (s.homeDead pa = false → ∃ p : PStore,
       exec i s = .next (ended { s.modCore s.cur.core fun c => { c with psb := c.psb ++ [p] } with ord := s.ord + 1 }) ∧
       p.pa = pa ∧ p.strm = s.cur.strm ∧ p.seq = s.cjob.seq ∧ p.iter = s.cjob.iter ∧ p.rdup = rdup ∧ p.atHome = false ∧
       p.data = (List.range (widthOf w.sz)).map fun k => BitVec.ofNat 8 (v.toNat / 256 ^ k))) ∧
  (∀ (i : Instr) (s : State) (w : StoreW) (a v va : Word) (pa : Nat) (rdup : Bool), storeOf i = some w → HasX s w.a a →
     HasX s w.d v → InOverflow s w.sel (a + w.off) (widthOf w.sz) va pa rdup → Quiet s → Free s → CanRelease s w.rel →
     s.here.psbUsed < 16 → ∃ t, exec i s = .next t ∧ t.cur.out = .done ∧
       (s.homeDead pa = true → t.here.psb = s.here.psb) ∧
       (s.homeDead pa = false → ∃ p : PStore, t.here.psb = s.here.psb ++ [p] ∧ p.pa = pa ∧ p.rdup = rdup ∧
         p.data = (List.range (widthOf w.sz)).map fun k => BitVec.ofNat 8 (v.toNat / 256 ^ k)) ∧
       (s.cjob.strict = false → t.cjob = s.cjob) ∧
       (s.cjob.strict = true → t.cjob.st = .frozen ∧ ∃ g, t.cjob.outs = s.cjob.outs ++ [g] ∧ g.kind = .spill ∧ g.pa = pa))

/-- R245, R246, R126: an atomic on a local address, on spill space and on a carousel slot completes in one step: the new value of
the table lands there, xd receives the old one zero-extended, and ATINCB gives p7. R245, R246, R212: an atomic on an extent that
allows reads and writes, or on the overflow page, completes: it is outstanding with its operands until the home of its line
performs it, and a lockstep job freezes. -/
def Obligations.AtomicWords : Prop :=
  (∀ (i : Instr) (s : State) (w : AtomW) (e b c : Word) (x : Nat) (prod : Option (Nat × Nat)), atomOf i = some w →
     HasX s w.a e → HasX s w.b b → HasX s w.c c →
     let n := if w.dw then 8 else 4
     InScratch s w.sel e n x prod → Writable s x n → Quiet s → Free s → CanRelease s w.rel → NoStall s x n →
     s.here.poison x n = none → s.here.landing = [] →
     let old := little (s.here.spad.read x n)
     let new := newOf w.aop (8 * n) old (b.toNat % 256 ^ n) (c.toNat % 256 ^ n)
     ∃ l : Land, l.tag = 0 ∧ l.tiles = tilesOf x n ∧
       l.bytes = ((List.range n).map fun k => (x + k, BitVec.ofNat 8 (new / 256 ^ k), none)) ∧
       let t := wrX { (arrived (acquiring (w.ord == .acq || w.ord == .acqrel) (charged s x n)) prod n).modCore s.cur.core fun k => { k.winWrite x n with landing := [l] } with
           ord := s.ord + 1 } w.d ⟨BitVec.ofNat 64 old, none⟩ 6
       exec i s = .next (ended (if w.aop = 8 then wrP t 7 ⟨decide (c.toNat % 256 ^ n ≤ old), none⟩ 6 else t))) ∧
  (∀ (i : Instr) (s : State) (w : AtomW) (e b c va : Word) (pa : Nat) (rdup : Bool), atomOf i = some w → HasX s w.a e →
     HasX s w.b b → HasX s w.c c → InGlobal s w.sel e (if w.dw then 8 else 4) true true va pa rdup → Quiet s → Free s →
     CanRelease s w.rel →
     ∃ t g, exec i s = .next t ∧ t.cur.out = .done ∧ t.cjob.outs.getLast? = some g ∧
       t.cjob.outs.length = s.cjob.outs.length + 1 ∧
       g.strm = s.cur.strm ∧ g.kind = .atomic w.aop w.dw b c ∧ g.reg = (0 : BitVec 1) ++ w.d ∧ g.va = va ∧ g.pa = pa ∧
       g.len = (if w.dw then 8 else 4) ∧ g.val = none ∧ g.acq = (w.ord == .acq || w.ord == .acqrel) ∧
       (s.cjob.strict = true → t.cjob.st = .frozen))

/-- R84, R92, R241, R213: a misaligned load, store or atomic is ALIGNMENT, with the effective address; a store or atomic that leaves
its extent, or that its extent does not allow, is EXTENT_VIOLATION, and a load there returns poison; so are an access to addresses
that are nowhere, a store or atomic to a turnstile image, one to a window copy in S, O or I, and a load of one in I (R132). R110: a
carousel window refuses every access in the same way. A poisoned address or data register of a store or atomic is POISON_CONSUMED.
That ALIGNMENT reports the effective address through an extent too, and that an access that is nowhere reports it, is log entry 25
(DEDUCED); that the registers of a store and an atomic are consumed before these checks is log entry 82 (DESIGN CHOICE). -/
def Obligations.MemoryTraps : Prop :=
  (∀ (i : Instr) (s : State) (w : LoadW) (a : Word), loadOf i = some w → HasX s w.a a → Quiet s →
    (a + w.off).toNat % widthOf w.sz ≠ 0 → exec i s = .next (s.takeTrap cAlignment (a + w.off))) ∧
  (∀ (i : Instr) (s : State) (w : StoreW) (a v : Word), storeOf i = some w → HasX s w.a a → HasX s w.d v → Quiet s →
    (a + w.off).toNat % widthOf w.sz ≠ 0 → exec i s = .next (s.takeTrap cAlignment (a + w.off))) ∧
  (∀ (i : Instr) (s : State) (w : AtomW) (e b c : Word), atomOf i = some w → HasX s w.a e → HasX s w.b b → HasX s w.c c →
    Quiet s → e.toNat % (if w.dw then 8 else 4) ≠ 0 → exec i s = .next (s.takeTrap cAlignment e)) ∧
  (∀ (i : Instr) (s : State) (w : StoreW) (a v : Word) (k : BitVec 4), storeOf i = some w → HasX s w.a a → HasX s w.d v →
    Quiet s → w.sel = .ext k → (a + w.off).toNat % widthOf w.sz = 0 →
    ((s.cjob.ext[k.toFin]).len = 0 ∨ (a + w.off).toInt < 0 ∨ (s.cjob.ext[k.toFin]).len.toNat < (a + w.off).toNat + widthOf w.sz ∨
      (s.cjob.ext[k.toFin]).w = false) →
    ∃ info, exec i s = .next (s.takeTrap cExtentViolation info)) ∧
  (∀ (i : Instr) (s : State) (w : LoadW) (a : Word) (k : BitVec 4), loadOf i = some w → HasX s w.a a → Quiet s →
    w.sel = .ext k → (a + w.off).toNat % widthOf w.sz = 0 →
    ((s.cjob.ext[k.toFin]).len = 0 ∨ (a + w.off).toInt < 0 ∨ (s.cjob.ext[k.toFin]).len.toNat < (a + w.off).toNat + widthOf w.sz ∨
      (s.cjob.ext[k.toFin]).rd = false) →
    ∃ v o, exec i s = .next (ended (wrX s w.d ⟨v, some o⟩ 4)) ∧ o >>> 57 = 0x11) ∧
  (∀ (i : Instr) (s : State) (w : LoadW) (a : Word), loadOf i = some w → HasX s w.a a → Quiet s →
    (Nowhere s w.sel (a + w.off) (widthOf w.sz) →
      ∃ v o, exec i s = .next (ended (wrX s w.d ⟨v, some o⟩ 4)) ∧ o >>> 57 = 0x11) ∧
    (∀ x prod, InScratch s w.sel (a + w.off) (widthOf w.sz) x prod → ¬ Readable s x (widthOf w.sz) →
      ∃ v o, exec i s = .next (ended (wrX s w.d ⟨v, some o⟩ 4)) ∧ o >>> 57 = 0x11) ∧
    (∀ (c : Fin 4) (off : Nat), w.sel = .loc → off < 0x100000 → (a + w.off).toNat = 0x800000 + 0x100000 * c.val + off →
      (a + w.off).toNat % widthOf w.sz = 0 → CarBad s.cjob.car0[c] off (widthOf w.sz) →
      exec i s = .next (s.takeTrap cCarouselFault (BitVec.ofNat 64 c.val)))) ∧
  (∀ (i : Instr) (s : State) (w : StoreW) (a v : Word), storeOf i = some w → HasX s w.a a → HasX s w.d v → Quiet s →
    let e := a + w.off
    let n := widthOf w.sz
    (Nowhere s w.sel e n ∨ w.sel = .loc ∧ e.toNat % n = 0 ∧ 0xC00000 ≤ e.toNat ∧ e.toNat < 0xC00400 →
      exec i s = .next (s.takeTrap cExtentViolation e)) ∧
    (∀ x prod t c, InScratch s w.sel e n x prod → t ∈ tilesOf x n → s.here.copyAt t = some c → c.st = .s ∨ c.st = .o ∨ c.st = .i →
      exec i s = .next (s.takeTrap cExtentViolation (BitVec.ofNat 64 x))) ∧
    (∀ (c : Fin 4) (off : Nat), w.sel = .loc → off < 0x100000 → e.toNat = 0x800000 + 0x100000 * c.val + off → e.toNat % n = 0 →
      CarBad s.cjob.car0[c] off n → exec i s = .next (s.takeTrap cCarouselFault (BitVec.ofNat 64 c.val)))) ∧
  (∀ (i : Instr) (s : State) (w : AtomW) (e b c : Word), atomOf i = some w → HasX s w.a e → HasX s w.b b → HasX s w.c c → Quiet s →
    let n := if w.dw then 8 else 4
    (Nowhere s w.sel e n ∨ w.sel = .loc ∧ e.toNat % n = 0 ∧ 0xC00000 ≤ e.toNat ∧ e.toNat < 0xC00400 →
      exec i s = .next (s.takeTrap cExtentViolation e)) ∧
    (∀ x prod t k, InScratch s w.sel e n x prod → t ∈ tilesOf x n → s.here.copyAt t = some k → k.st = .s ∨ k.st = .o ∨ k.st = .i →
      exec i s = .next (s.takeTrap cExtentViolation (BitVec.ofNat 64 x))) ∧
    (∀ (k : Fin 4) (off : Nat), w.sel = .loc → off < 0x100000 → e.toNat = 0x800000 + 0x100000 * k.val + off → e.toNat % n = 0 →
      CarBad s.cjob.car0[k] off n → exec i s = .next (s.takeTrap cCarouselFault (BitVec.ofNat 64 k.val)))) ∧
  (∀ (i : Instr) (s : State) (w : StoreW) (o : Origin), storeOf i = some w → SettledX s w.a → (xv s w.a).po = some o →
    exec i s = .next (s.takeTrap cPoisonConsumed o)) ∧
  (∀ (i : Instr) (s : State) (w : StoreW) (a : Word) (o : Origin), storeOf i = some w → HasX s w.a a → SettledX s w.d →
    (xv s w.d).po = some o → exec i s = .next (s.takeTrap cPoisonConsumed o)) ∧
  (∀ (i : Instr) (s : State) (w : AtomW) (o : Origin), atomOf i = some w → SettledX s w.a → (xv s w.a).po = some o →
    exec i s = .next (s.takeTrap cPoisonConsumed o)) ∧
  (∀ (i : Instr) (s : State) (w : AtomW) (e : Word) (o : Origin), atomOf i = some w → HasX s w.a e →
    (SettledX s w.b ∧ (xv s w.b).po = some o ∨ (∃ b, HasX s w.b b) ∧ SettledX s w.c ∧ (xv s w.c).po = some o) →
    exec i s = .next (s.takeTrap cPoisonConsumed o))

namespace Sys2Proof.Claims

open Sys2Proof.Machine

/-- A vector source can be read now and is this tile (R192, R251, R253): a register whose result is there, the head of a
queue that can be popped, or copies of the low bits of an x register. -/
def ReadsV (s : State) (w : Nat) (v : VSrc) (t : Tile) : Prop :=
  let reg (r : BitVec 5) : Prop :=
    s.cjob.busy (.vreg r) = none ∧ (s.cjob.ops.any fun o => o.vd == r) = false ∧ t = s.cjob.v[r.toNat]
  let head (q : BitVec 2) : Prop :=
    s.cur.vheads = [] ∧ ∃ e l, s.cjob.vq[q.toFin] = e :: l ∧ e.avail ≤ s.gcc ∧ t = e.tile
  match v with
  | .reg r => reg r
  | .rot k => reg (s.cjob.rot k)
  | .pop q | .peek q => head q
  | .splat x =>
    let r : BitVec 4 := (0 : BitVec 1) ++ x
    SettledX s r ∧ t = Vector.replicate 16 ⟨rowOf w fun _ => (xv s r).v.toNat % 2 ^ w, (xv s r).po⟩

/-- The arithmetic pipe is free, and no earlier word writes vd later than cycle L from now (R253). -/
abbrev CanIssueV (s : State) (vd : BitVec 5) (l : Nat) : Prop :=
  s.cjob.busy .vpipe = none ∧
  (∀ m ∈ s.cjob.marks, m.rsc = .vreg vd → (m.h = true ↔ s.cjob.st = .trapped) → m.due ≤ s.cjob.now + l) ∧
  (s.cjob.outs.any fun g => g.writesV vd) = false ∧ (∀ o ∈ s.cjob.ops, o.vd = vd → s.cjob.now < o.due)

/-- The state once a word of the arithmetic pipe has issued: the queues that its sources pop have lost their heads, its
rows are written to vd after L cycles, the pipe is occupied for O cycles (R253). -/
def issuedV (s : State) (vd : BitVec 5) (o l : Nat) (srcs : List VSrc) (rows : List (Nat × VRow)) : State :=
  let t := (takeSrcs s srcs).updJob fun j =>
    ({ j with ops := j.ops ++ [(⟨s.ord, vd, rows, j.now + l⟩ : VecOp)] }.mark .vpipe o s.cur.wpc).mark (.vreg vd) l s.cur.wpc
  { t with ord := s.ord + 1 }

/-- ⌈a / b⌉. -/
def upTo (a b : Nat) : Nat := a / b + if a % b = 0 then 0 else 1

/-- O for elements of w bits (R252). -/
def occW (rows w : Nat) : Nat := if 16 ≤ w then upTo rows 4 else upTo rows 2

/-- A word that computes element by element (R258 to R261, R268, R269, R272): vd, its sources, each with whether row 0 is
read in every row, the width, O, L, and element (r, k) from the elements (r, k) of the sources. -/
structure Lanes where
  d : VDst
  srcs : List (VSrc × Bool)
  w : Nat
  o : Nat
  l : Nat
  f : List Nat → Nat

/-- A word of one source. -/
def lane1 (d : VDst) (a : VSrc) (w o more : Nat) (f : Nat → Nat) : Lanes :=
  ⟨d, [(a, false)], w, o, o + more, fun l => match l with | [x] => f x | _ => 0⟩

/-- A word of two sources; the flag is BRB. -/
def lane2 (d : VDst) (a b : VSrc) (brb : Bool) (w o more : Nat) (f : Nat → Nat → Nat) : Lanes :=
  ⟨d, [(a, false), (b, brb)], w, o, o + more, fun l => match l with | [x, y] => f x y | _ => 0⟩

/-- A word of three sources. -/
def lane3 (d : VDst) (a b c : VSrc) (brb : Bool) (w o more : Nat) (f : Nat → Nat → Nat → Nat) : Lanes :=
  ⟨d, [(a, false), (b, brb), (c, false)], w, o, o + more, fun l => match l with | [x, y, z] => f x y z | _ => 0⟩

/-- An element as the two's complement or unsigned integer, or the exact operation of R258 rounded or fitted. -/
def fitted (f : VFmt) (int : Int) (flt : FV) : Nat :=
  if f.ef.isInt then fitInt f.ef f.sat int else roundFV f.ef f.rm f.sat flt

/-- The element-wise words, for n active rows. -/
def lanesOf (n : Nat) : Instr → Option Lanes
  | .vadd d a b m f => some (lane2 d a b m f.ef.width (occW n f.ef.width) 3 fun x y =>
      fitted f (intOf f.ef x + intOf f.ef y) (fvAdd f.rm (fvOf f.ef x) (fvOf f.ef y)))
  | .vsub d a b m f => some (lane2 d a b m f.ef.width (occW n f.ef.width) 3 fun x y =>
      fitted f (intOf f.ef x - intOf f.ef y) (fvAdd f.rm (fvOf f.ef x) (fvNeg (fvOf f.ef y))))
  | .vmul d a b m f => some (lane2 d a b m f.ef.width (occW n f.ef.width) 3 fun x y =>
      fitted f (intOf f.ef x * intOf f.ef y) (fvMul (fvOf f.ef x) (fvOf f.ef y)))
  | .vmin d a b m f => some (lane2 d a b m f.ef.width (occW n f.ef.width) 3 fun x y =>
      fitted f (min (intOf f.ef x) (intOf f.ef y)) (fvMin (fvOf f.ef x) (fvOf f.ef y)))
  | .vmax d a b m f => some (lane2 d a b m f.ef.width (occW n f.ef.width) 3 fun x y =>
      fitted f (max (intOf f.ef x) (intOf f.ef y)) (fvMax (fvOf f.ef x) (fvOf f.ef y)))
  | .vabs d a f => some (lane1 d a f.ef.width (occW n f.ef.width) 3 fun x =>
      fitted f (intOf f.ef x).natAbs (fvAbs (fvOf f.ef x)))
  | .vneg d a f => some (lane1 d a f.ef.width (occW n f.ef.width) 3 fun x =>
      fitted f (-intOf f.ef x) (fvNeg (fvOf f.ef x)))
  | .vfma d a b c m f => some (lane3 d a b c m f.ef.width (occW n f.ef.width) 5 fun x y z =>
      fitted f (intOf f.ef x * intOf f.ef y + intOf f.ef z) (fvAdd f.rm (fvMul (fvOf f.ef x) (fvOf f.ef y)) (fvOf f.ef z)))
  | .vfms d a b c m f => some (lane3 d a b c m f.ef.width (occW n f.ef.width) 5 fun x y z =>
      fitted f (intOf f.ef x * intOf f.ef y - intOf f.ef z)
        (fvAdd f.rm (fvMul (fvOf f.ef x) (fvOf f.ef y)) (fvNeg (fvOf f.ef z))))
  | .vfnma d a b c m f => some (lane3 d a b c m f.ef.width (occW n f.ef.width) 5 fun x y z =>
      fitted f (-(intOf f.ef x * intOf f.ef y) + intOf f.ef z)
        (fvAdd f.rm (fvNeg (fvMul (fvOf f.ef x) (fvOf f.ef y))) (fvOf f.ef z)))
  | .vand d a b m e => some (lane2 d a b m e.width (occW n e.width) 3 fun x y => x &&& y)
  | .vor d a b m e => some (lane2 d a b m e.width (occW n e.width) 3 fun x y => x ||| y)
  | .vxor d a b m e => some (lane2 d a b m e.width (occW n e.width) 3 fun x y => x ^^^ y)
  | .vnot d a e => some (lane1 d a e.width (occW n e.width) 3 fun x => 2 ^ e.width - 1 - x)
  | .vshl d a b m e => some (lane2 d a b m e.width (occW n e.width) 3 fun x y =>
      if e.width ≤ y then 0 else x * 2 ^ y % 2 ^ e.width)
  | .vshr d a b m e => some (lane2 d a b m e.width (occW n e.width) 3 fun x y =>
      if e.width ≤ y then 0 else x / 2 ^ y)
  | .vsra d a b m e => some (lane2 d a b m e.width (occW n e.width) 3 fun x y =>
      ((if 2 ^ (e.width - 1) ≤ x then (x : Int) - 2 ^ e.width else (x : Int)) / 2 ^ (min y e.width) % 2 ^ e.width).toNat)
  | .vcmp c d a b m e => some (lane2 d a b m e.width (occW n e.width) 3 fun x y =>
      if vcond c e x y then 2 ^ e.width - 1 else 0)
  | .vsel d a b c m e => some (lane3 d a b c m e.width (occW n e.width) 3 fun x y z => if z = 0 then y else x)
  | .vexp2 d a f => some (lane1 d a f.ef.width (upTo (n * (1024 / f.ef.width)) 32) 12 (sfu .exp2 f))
  | .vexp d a f => some (lane1 d a f.ef.width (upTo (n * (1024 / f.ef.width)) 32) 12 (sfu .exp f))
  | .vlog2 d a f => some (lane1 d a f.ef.width (upTo (n * (1024 / f.ef.width)) 32) 12 (sfu .log2 f))
  | .vrcp d a f => some (lane1 d a f.ef.width (upTo (n * (1024 / f.ef.width)) 32) 12 (sfu .rcp f))
  | .vrsq d a f => some (lane1 d a f.ef.width (upTo (n * (1024 / f.ef.width)) 32) 12 (sfu .rsq f))
  | .vsqrt d a f => some (lane1 d a f.ef.width (upTo (n * (1024 / f.ef.width)) 32) 12 (sfu .sqrt f))
  | .vtanh d a f => some (lane1 d a f.ef.width (upTo (n * (1024 / f.ef.width)) 32) 12 (sfu .tanh f))
  | .vsigm d a f => some (lane1 d a f.ef.width (upTo (n * (1024 / f.ef.width)) 32) 12 (sfu .sigm f))
  | .vsilu d a f => some (lane1 d a f.ef.width (upTo (n * (1024 / f.ef.width)) 32) 12 (sfu .silu f))
  | _ => none

/-- The rows of an element-wise word from its sources: each element by the function, a row poisoned with the first of its
sources that is poisoned (R254, R377). -/
def laneRows (n : Nat) (x : Lanes) (ts : List Tile) : List (Nat × VRow) :=
  (List.range n).map fun r =>
    let src := (x.srcs.zip ts).map fun p => p.2.row (if p.1.2 then 0 else r)
    (r, ⟨rowOf x.w fun k => x.f (src.map fun v => elem x.w v.v k), poisonOf (src.map VRow.po)⟩)

/-- A word that forms whole rows: vd, its sources each with the width of a splat, whether it reads vd, O, L, and the rows
it writes from what vd held and from its sources. -/
structure Rowed where
  d : VDst
  srcs : List (VSrc × Nat)
  keeps : Bool
  o : Nat
  l : Nat
  f : Tile → List Tile → List (Nat × VRow)

/-- Tile number i of a list. -/
def nthTile (l : List Tile) (i : Nat) : Tile := l.getD i Tile.zero

/-- The first poison among the rows 0 to n - 1 of a tile. -/
def poisonRows (n : Nat) (t : Tile) : Option Origin := poisonOf ((List.range n).map fun r => (t.row r).po)

/-- One row for each of the n active rows. -/
def eachRow (n : Nat) (f : Nat → VRow) : List (Nat × VRow) := (List.range n).map fun r => (r, f r)

/-- The words that move, rearrange, reduce, sort, scan and count (R260, R266 to R273), for n active rows. -/
def movedOf (n : Nat) : Instr → Option Rowed
  | .vmov d a => some ⟨d, [(a, 64)], false, upTo n 4, upTo n 4 + 3, fun _ ts => eachRow n (nthTile ts 0).row⟩
  | .vbcast d a m e => some ⟨d, [(a, e.width)], false, occW n e.width, occW n e.width + 3, fun _ ts => eachRow n fun r =>
      if m then ⟨rowOf e.width fun _ => elem e.width ((nthTile ts 0).row r).v 0, ((nthTile ts 0).row r).po⟩
      else (nthTile ts 0).row 0⟩
  | .vredr fn d a f => some ⟨d, [(a, f.ef.width)], false, occW n f.ef.width, occW n f.ef.width + 8, fun _ ts =>
      eachRow n fun r => ⟨vredrRow fn f ((nthTile ts 0).row r).v, ((nthTile ts 0).row r).po⟩⟩
  | .vredc fn d a f => some ⟨d, [(a, f.ef.width)], false, occW n f.ef.width, occW n f.ef.width + 8, fun _ ts =>
      [(0, ⟨vredcRow fn f ((List.range n).map fun r => ((nthTile ts 0).row r).v), poisonRows n (nthTile ts 0)⟩)]⟩
  | .vtrans d a e => if n = 16 then some ⟨d, [(a, e.width)], false, 4, 8, fun _ ts => eachRow 16 fun r =>
      ⟨rowOf e.width fun k => elem e.width ((nthTile ts 0).row (k % 16)).v (k / 16 * 16 + r), poisonRows 16 (nthTile ts 0)⟩⟩
      else none
  | .vperm d a b m e => some ⟨d, [(a, e.width), (b, e.width)], false, occW n e.width, occW n e.width + 4, fun _ ts =>
      eachRow n fun r =>
        let i := (nthTile ts 1).row (if m then 0 else r)
        ⟨rowOf e.width fun k => elem e.width ((nthTile ts 0).row r).v (elem e.width i.v k % (1024 / e.width)),
          poisonOf [((nthTile ts 0).row r).po, i.po]⟩⟩
  | .vsort d a desc idx whole e => if whole && idx && e.width == 8 then none
      else if whole then some ⟨d, [(a, e.width)], false, 64, 96, fun _ ts => eachRow n fun r =>
        ⟨(rowsOfList e.width (vsortList e desc idx ((List.range n).flatMap fun i =>
          elemsOf e.width ((nthTile ts 0).row i).v))).getD r 0, poisonRows n (nthTile ts 0)⟩⟩
      else some ⟨d, [(a, e.width)], false, 16, 40, fun _ ts => eachRow n fun r =>
        ⟨rowList e.width (vsortList e desc idx (elemsOf e.width ((nthTile ts 0).row r).v)), ((nthTile ts 0).row r).po⟩⟩
  | .vscan d a excl whole f =>
      let o := 2 * occW n f.ef.width + if whole then 4 else 0
      some ⟨d, [(a, f.ef.width)], false, o, o + 8, fun _ ts => eachRow n fun r =>
        if whole then ⟨(rowsOfList f.ef.width (vscanList excl f ((List.range n).flatMap fun i =>
          elemsOf f.ef.width ((nthTile ts 0).row i).v))).getD r 0, poisonRows n (nthTile ts 0)⟩
        else ⟨rowList f.ef.width (vscanList excl f (elemsOf f.ef.width ((nthTile ts 0).row r).v)),
          ((nthTile ts 0).row r).po⟩⟩
  | .vbucket d a b k e => some ⟨d, [(a, e.width), (b, e.width)], false, occW n e.width, occW n e.width + 4, fun _ ts =>
      eachRow n fun r => ⟨rowOf e.width fun i => ((List.range (k.toNat + 1)).filter fun j =>
          !keyLt e (elem e.width ((nthTile ts 0).row r).v i) (elem e.width ((nthTile ts 1).row 0).v j)).length,
        poisonOf [((nthTile ts 0).row r).po, ((nthTile ts 1).row 0).po]⟩⟩
  | .vhist d a acc e => some ⟨d, [(a, e.width)], acc, occW n e.width, occW n e.width + 6, fun old ts =>
      [(0, ⟨rowOf 32 fun b => (((List.range n).flatMap fun r => elemsOf e.width ((nthTile ts 0).row r).v).filter (· == b)).length +
          if acc then elem 32 (old.row 0).v b else 0,
        poisonOf [poisonRows n (nthTile ts 0), if acc then (old.row 0).po else none]⟩)]⟩
  | .vextr d a b e => some ⟨d, [(a, e.width), (b, e.width)], false, upTo n 4, upTo n 4 + 3, fun _ ts =>
      let i (r : Nat) : VRow := (nthTile ts 0).row (elem e.width ((nthTile ts 1).row 0).v r % 16)
      eachRow n fun r => ⟨(i r).v, poisonOf (((List.range n).map fun r => (i r).po) ++ [((nthTile ts 1).row 0).po])⟩⟩
  | .vins d a b e => some ⟨d, [(a, e.width), (b, e.width)], true, upTo n 4, upTo n 4 + 3, fun _ ts =>
      (List.range n).map fun r => (elem e.width ((nthTile ts 1).row 0).v r % 16,
        ⟨((nthTile ts 0).row r).v, poisonOf [poisonRows n (nthTile ts 0), ((nthTile ts 1).row 0).po]⟩)⟩
  | _ => none

/-- The words that read in S, the format of vshape (R250, R262 to R265): none where S is not admitted. -/
def convertedOf (n : Nat) (src : Fmt) : Instr → Option Rowed
  | .vcvt d a f p =>
      let q := max src.width f.ef.width / min src.width f.ef.width
      if !src.general || (f.ef.isInt && src.isInt && f.rm != .rne) || decide (q ≤ p.toNat) then none
      else some ⟨d, [(a, src.width)], decide (f.ef.width < src.width), occW n (max src.width f.ef.width),
        occW n (max src.width f.ef.width) + 4, fun old ts => eachRow n fun r =>
          ⟨vcvtRow src f p.toNat (old.row r).v ((nthTile ts 0).row r).v,
            poisonOf [((nthTile ts 0).row r).po, if f.ef.width < src.width then (old.row r).po else none]⟩⟩
  | .vpack d a b f =>
      if !src.general || (f.ef.isInt && src.isInt && f.rm != .rne) || src.width != 2 * f.ef.width then none
      else some ⟨d, [(a, src.width), (b, src.width)], false, occW n src.width, occW n src.width + 4, fun _ ts =>
        eachRow n fun r => ⟨vpackRow src f ((nthTile ts 0).row r).v ((nthTile ts 1).row r).v,
          poisonOf [((nthTile ts 0).row r).po, ((nthTile ts 1).row r).po]⟩⟩
  | .vunpack d a f h =>
      if !src.general || (f.ef.isInt && src.isInt && f.rm != .rne) || f.ef.width != 2 * src.width then none
      else some ⟨d, [(a, src.width)], false, occW n f.ef.width, occW n f.ef.width + 4, fun _ ts =>
        eachRow n fun r => ⟨rowOf f.ef.width fun k => cvt src f.ef f.rm f.sat
          (elem src.width ((nthTile ts 0).row r).v ((if h then 1024 / f.ef.width else 0) + k)), ((nthTile ts 0).row r).po⟩⟩
  | .vmxscale d a e rm =>
      let ok := if e == .e2m1 then src == .fp32 || src == .bf16 || src == .fp16 else src == .e2m1
      if !ok then none
      else some ⟨d, [(a, src.width)], false, occW n (max src.width e.width), occW n (max src.width e.width) + 8, fun _ ts =>
        eachRow n fun r => ⟨if e == .e2m1 then vmxPack src rm ((nthTile ts 0).row r).v else vmxExpand e ((nthTile ts 0).row r).v,
          ((nthTile ts 0).row r).po⟩⟩
  | .vchscale d a b m e =>
      let w := max src.width e.width
      if m == 0 && (src == .fp32 || src == .bf16 || src == .fp16) then
        some ⟨d, [(a, src.width)], false, occW n w, occW n w + 8, fun _ ts =>
          [(0, ⟨vchScale src ((List.range n).map fun r => ((nthTile ts 0).row r).v), poisonRows n (nthTile ts 0)⟩)]⟩
      else if m == 1 && (src == .fp32 || src == .bf16 || src == .fp16) then
        some ⟨d, [(a, src.width), (b, 16)], false, occW n w, occW n w + 8, fun _ ts => eachRow n fun r =>
          ⟨vchQuant src ((nthTile ts 1).row 0).v ((nthTile ts 0).row r).v,
            poisonOf [((nthTile ts 0).row r).po, ((nthTile ts 1).row 0).po]⟩⟩
      else if m == 2 && src == .i4 then
        some ⟨d, [(a, src.width), (b, 16)], false, occW n w, occW n w + 8, fun _ ts => eachRow n fun r =>
          ⟨vchExpand e ((nthTile ts 1).row 0).v ((nthTile ts 0).row r).v,
            poisonOf [((nthTile ts 0).row r).po, ((nthTile ts 1).row 0).po]⟩⟩
      else none
  | _ => none

/-- S of the running job (R194, R250). -/
def sourceOf (s : State) : Option Fmt := fmtOf s.cjob.vsEf

/-- A word of whole rows with its sources ready issues with those rows. -/
def IssuesRows (s : State) (i : Instr) (x : Rowed) : Prop :=
  ∀ (old : Tile) (ts : List Tile), List.Forall₂ (fun v t => ReadsV s v.2 v.1 t) x.srcs ts →
    (x.keeps = true → ReadsV s 64 (.reg (dstReg s.cjob x.d)) old) → CanIssueV s (dstReg s.cjob x.d) x.l →
    exec i s = .next (ended (issuedV s (dstReg s.cjob x.d) x.o x.l (x.srcs.map Prod.fst) (x.f old ts)))

/-- The active rows of the issuing job (R249). -/
def rowsOn (s : State) : Nat := s.cjob.vsRows.toNat

/-- 128 bytes at local address a lie in G0 or in G1, and no tile of them is a window copy or lies in a declared window. -/
abbrev RowInScratch (s : State) (a : Nat) : Prop :=
  (a + 128 ≤ 0x400000 ∨ 0x400000 ≤ a ∧ a + 128 ≤ 0x800000) ∧
    ∀ t ∈ tilesOf a 128, s.here.copyAt t = none ∧ s.here.inWindow t = false

/-- The parts of a row at a place, each in one line: where a part begins in the row and how long it is (R145). -/
def rowParts (pa : Nat) : List (Nat × Nat) :=
  if pa % 256 ≤ 128 then [(0, 128)] else [(0, 256 - pa % 256), (256 - pa % 256, pa % 256 - 128)]

/-- 128 bytes at offset e lie in an extent, in one page of it. -/
def RowInExtent (s : State) (sel : Sel) (e : Word) (w : Bool) (va : Word) (pa : Nat) (rdup : Bool) : Prop :=
  ∃ k x p, sel = .ext k ∧ x = s.cjob.ext[k.toFin] ∧ x.len ≠ 0 ∧ 0 ≤ e.toInt ∧ e.toNat + 128 ≤ x.len.toNat ∧
    (if w then x.w = true else x.rd = true) ∧
    va = (x.base + e) &&& 0x01FFFFFFFFFFFFFF ∧ va.toNat % 0x200000 + 128 ≤ 0x200000 ∧
    (x.frames.find? fun f => f.1 == va.toNat / 0x200000) = some (va.toNat / 0x200000, p, rdup) ∧
    pa = canon s.pkgnum.toNat (p + va.toNat % 0x200000)

end Sys2Proof.Claims

-- Vector words.

/-- R249, R151: element k of a row built from elements is that element, and a row is what its elements say. R162: an integer
result wraps to its width, or is clamped to the nearest value of the format, and reads back as itself when the format holds
it. -/
def Obligations.ElementFormats : Prop :=
  (∀ (w : Nat), w ∈ [4, 8, 16, 32, 64] →
     (∀ (f : Nat → Nat) (k : Nat), k < 1024 / w → elem w (rowOf w f) k = f k % 2 ^ w) ∧
     (∀ r : Row, rowOf w (elem w r) = r)) ∧
  (∀ (f : Fmt) (sat : Bool) (v : Int), f.isInt = true →
     fitInt f sat v < 2 ^ f.width ∧
     (sat = false → intOf f (fitInt f sat v) % 2 ^ f.width = v % 2 ^ f.width) ∧
     (sat = true → ∀ k < 2 ^ f.width, (v - intOf f (fitInt f sat v)).natAbs ≤ (v - intOf f k).natAbs) ∧
     (∀ k < 2 ^ f.width, fitInt f sat (intOf f k) = k))

/-- R258 to R261, R252 to R254: every element-wise word completes with the elements of its table, after its latency. -/
def Obligations.VectorLanes : Prop :=
  ∀ (i : Instr) (s : State) (x : Lanes) (ts : List Tile), lanesOf (rowsOn s) i = some x →
    List.Forall₂ (fun v t => ReadsV s x.w v.1 t) x.srcs ts → CanIssueV s (dstReg s.cjob x.d) x.l →
    exec i s = .next (ended (issuedV s (dstReg s.cjob x.d) x.o x.l (x.srcs.map Prod.fst) (laneRows (rowsOn s) x ts)))

/-- R260, R262 to R273, R252 to R254: the words that move, convert, scale, reduce, rearrange, sort, scan, count and number complete
with their rows after their latency. Which rows VEXTR and VINS read for their poison is log entry 84 (DESIGN CHOICE). -/
def Obligations.VectorRows : Prop :=
  (∀ (i : Instr) (s : State) (x : Rowed), movedOf (rowsOn s) i = some x → IssuesRows s i x) ∧
  (∀ (i : Instr) (s : State) (src : Fmt) (x : Rowed), sourceOf s = some src → convertedOf (rowsOn s) src i = some x →
    IssuesRows s i x) ∧
  (∀ (s : State) (d : VDst) (xa : BitVec 3) (ef : Fmt) (sat : Bool), SettledX s ((0 : BitVec 1) ++ xa) →
    CanIssueV s (dstReg s.cjob d) (occW (rowsOn s) ef.width + 3) →
    exec (.viota d xa ef sat) s = .next (ended (issuedV s (dstReg s.cjob d) (occW (rowsOn s) ef.width)
      (occW (rowsOn s) ef.width + 3) [] (eachRow (rowsOn s) fun r =>
        ⟨rowOf ef.width fun k => fitInt ef sat (intOf ef ((xv s ((0 : BitVec 1) ++ xa)).v.toNat % 2 ^ ef.width) +
          (r * (1024 / ef.width) + k : Nat)), (xv s ((0 : BitVec 1) ++ xa)).po⟩)))) ∧
  (∀ (s : State) (ef : Fmt) (m : BitVec 4), exec (.vshape ef m) s = .next (ended (s.updJob fun j =>
    { j with vsEf := fmtBits ef, vsRows := BitVec.ofNat 5 (m.toNat + 1) })))

/-- R253, R274: a read of a tile register before its result is there, a word whose pipe is occupied and a word that would write vd
before an earlier word does raise SCHEDULE_MISS in a lockstep job and stall in an elastic one. R250, R256, R254: a conversion with
an S that is not admitted is ILLEGAL_OPERAND; a misaligned base or stride is ALIGNMENT; a store of a poisoned active row is
POISON_CONSUMED, and a load with a poisoned base or stride makes every active row poison. That the base is checked before the stride
and a misaligned stride is the detail of its trap is log entry 67 (DESIGN CHOICE). -/
def Obligations.VectorTraps : Prop :=
  (∀ (s : State) (d a : BitVec 5),
     let stops : Prop :=
       (s.cjob.strict = true → ∃ info, exec (.vmov (.reg d) (.reg a)) s = .next (s.takeTrap cScheduleMiss info)) ∧
       (s.cjob.strict = false → exec (.vmov (.reg d) (.reg a)) s = .next { s with cur := { s.cur with out := .hold .latency 0 } })
     (s.cjob.busy (.vreg a) ≠ none → stops) ∧
     (s.cjob.busy (.vreg a) = none → (s.cjob.ops.any fun o => o.vd == a) = false →
       (s.cjob.busy .vpipe ≠ none → stops) ∧
       (s.cjob.busy .vpipe = none →
         (∃ m ∈ s.cjob.marks, m.rsc = .vreg d ∧ (m.h = true ↔ s.cjob.st = .trapped) ∧
           s.cjob.now + (upTo (rowsOn s) 4 + 3) < m.due) → stops))) ∧
  ((∀ (i : Instr) (s : State) (d : VDst) (a b : VSrc) (f : VFmt) (p : BitVec 3) (h : Bool) (m : BitVec 2),
     i = .vcvt d a f p ∨ i = .vpack d a b f ∨ i = .vunpack d a f h ∨ i = .vmxscale d a f.ef f.rm ∨ (i = .vchscale d a b m f.ef ∧ m ≠ 3) →
     (∀ src, sourceOf s = some src → convertedOf (rowsOn s) src i = none) →
     exec i s = .next (s.takeTrap cIllegalOperand s.cur.raw)) ∧
   (∀ (s : State) (d : VDst) (a : VSrc) (e : Fmt), rowsOn s ≠ 16 →
     exec (.vtrans d a e) s = .next (s.takeTrap cIllegalOperand s.cur.raw)) ∧
   (∀ (s : State) (d : VDst) (sel : Sel) (xa xc : BitVec 3) (e c : Word), HasX s ((0 : BitVec 1) ++ xa) e →
     HasX s ((0 : BitVec 1) ++ xc) c → s.cjob.busy .mempipe = none → Quiet s →
     (e.toNat % 16 ≠ 0 → exec (.vld d sel xa xc) s = .next (s.takeTrap cAlignment e)) ∧
     (e.toNat % 16 = 0 → c.toNat % 16 ≠ 0 → exec (.vld d sel xa xc) s = .next (s.takeTrap cAlignment c))) ∧
   (∀ (s : State) (v : VSrc) (sel : Sel) (xa xc : BitVec 3) (o : Origin), SettledX s ((0 : BitVec 1) ++ xa) →
     (xv s ((0 : BitVec 1) ++ xa)).po = some o → s.cjob.busy .mempipe = none →
     exec (.vst v sel xa xc) s = .next (s.takeTrap cPoisonConsumed o)) ∧
   (∀ (s : State) (d : VDst) (sel : Sel) (xa xc : BitVec 3) (o : Origin), SettledX s ((0 : BitVec 1) ++ xa) →
     SettledX s ((0 : BitVec 1) ++ xc) → poisonOf [(xv s ((0 : BitVec 1) ++ xa)).po, (xv s ((0 : BitVec 1) ++ xc)).po] = some o →
     s.cjob.busy .mempipe = none → Quiet s →
     (∀ m ∈ s.cjob.marks, m.rsc = .vreg (dstReg s.cjob d) → (m.h = true ↔ s.cjob.st = .trapped) →
       m.due ≤ s.cjob.now + (upTo (rowsOn s) 4 + 4)) →
     (s.cjob.outs.any fun g => g.writesV (dstReg s.cjob d)) = false →
     (∀ o ∈ s.cjob.ops, o.vd = dstReg s.cjob d → s.cjob.now < o.due) →
     ∃ u op, exec (.vld d sel xa xc) s = .next u ∧ u.cur.out = .done ∧ u.cjob.ops = s.cjob.ops ++ [op] ∧
       op.vd = dstReg s.cjob d ∧ op.rows.map Prod.fst = List.range (rowsOn s) ∧ (∀ p ∈ op.rows, p.2.po = some o) ∧
       u.cjob.outs = s.cjob.outs ∧ u.cjob.moves = s.cjob.moves))

/-- R249, R274: when a word in flight is due and all its rows are there, it writes them and nothing else of vd; the other
registers keep their rows, and a word that is not due stays in flight. -/
def Obligations.VectorResultWrite : Prop :=
  ∀ (j : Job) (o : VecOp), j.ops = [o] →
    (o.due ≤ j.jc → j.st ≠ .trapped → (j.moves.any fun m => m.ord == o.ord && m.data.isNone) = false → j.outs = [] →
      let t := j.vectorDue
      t.ops = [] ∧ (∀ r : Fin 32, r.val ≠ o.vd.toNat → t.v[r] = j.v[r]) ∧
      (∀ k : Fin 16, (∀ p ∈ o.rows, p.1 ≠ k.val) → (t.v[o.vd.toNat])[k] = (j.v[o.vd.toNat])[k]) ∧
      (∀ (k : Fin 16) (v : VRow), o.rows.getLast? = some (k.val, v) → (t.v[o.vd.toNat])[k] = v)) ∧
    (j.now < o.due → j.vectorDue.ops = [o] ∧ j.vectorDue.v = j.v)

/-- R256, R257, R252: VLD and VST of scratchpad rows complete: a load reads row r in the cycle 1 + ⌊r / 4⌋ after its own and
writes vd after ⌈ROWS / 4⌉ + 4; a store lands row r in the cycle 2 + ⌊r / 4⌋ after its own. R256, R257, R212, R123: VLD and
VST of rows in an extent complete: each row of a load is outstanding with its place, in two parts where it lies in two lines, and a lockstep job freezes; each row of
a store takes an entry of the posted-store buffer, in increasing r. -/
def Obligations.VectorMemoryRows : Prop :=
  (∀ (s : State) (d : VDst) (v : VSrc) (xa xc : BitVec 3) (e c : Word) (t : Tile),
     HasX s ((0 : BitVec 1) ++ xa) e → HasX s ((0 : BitVec 1) ++ xc) c → e.toNat % 16 = 0 → c.toNat % 16 = 0 →
     (∀ r, r < rowsOn s → RowInScratch s (e + BitVec.ofNat 64 r * c).toNat) → rowsOn s ≤ 16 →
     s.cjob.busy .mempipe = none → Quiet s → (s.cjob.strict = true ∨ s.cjob.traffic = []) →
     ((∀ m ∈ s.cjob.marks, m.rsc = .vreg (dstReg s.cjob d) → (m.h = true ↔ s.cjob.st = .trapped) →
         m.due ≤ s.cjob.now + (upTo (rowsOn s) 4 + 4)) →
       (s.cjob.outs.any fun g => g.writesV (dstReg s.cjob d)) = false →
       (∀ o ∈ s.cjob.ops, o.vd = dstReg s.cjob d → s.cjob.now < o.due) →
       ∃ tr, exec (.vld d .loc xa xc) s = .next (ended { (s.updJob fun j =>
         ({ j with
             ops := j.ops ++ [(⟨s.ord, dstReg s.cjob d, [], j.now + (upTo (rowsOn s) 4 + 4)⟩ : VecOp)]
             moves := j.moves ++ (List.range (rowsOn s)).map fun r =>
               (⟨s.ord, .v, j.now + 1 + r / 4, r, (e + BitVec.ofNat 64 r * c).toNat, none, none, none, s.cur.wpc⟩ : Move)
             traffic := j.traffic ++ tr }.mark .mempipe (upTo (rowsOn s) 4) s.cur.wpc).mark
           (.vreg (dstReg s.cjob d)) (upTo (rowsOn s) 4 + 4) s.cur.wpc) with ord := s.ord + 1 })) ∧
     (ReadsV s 64 v t → (∀ r, r < rowsOn s → (t.row r).po = none) →
       ∃ u, exec (.vst v .loc xa xc) s = .next u ∧ u.cur.out = .done ∧
         u.cjob.moves = s.cjob.moves ++ (List.range (rowsOn s)).map fun r =>
           (⟨s.ord, .v, s.cjob.now + 2 + r / 4, r, (e + BitVec.ofNat 64 r * c).toNat,
             some ((List.range 128).map fun k => BitVec.ofNat 8 ((t.row r).v.toNat / 256 ^ k)), none, none, s.cur.wpc⟩ : Move))) ∧
  (∀ (s : State) (d : VDst) (v : VSrc) (sel : Sel) (xa xc : BitVec 3) (e c : Word) (t : Tile) (va : Nat → Word)
     (pa : Nat → Nat) (rdup : Nat → Bool),
     HasX s ((0 : BitVec 1) ++ xa) e → HasX s ((0 : BitVec 1) ++ xc) c → e.toNat % 16 = 0 → c.toNat % 16 = 0 →
     0 < rowsOn s → rowsOn s ≤ 16 → s.cjob.busy .mempipe = none → Quiet s →
     ((∀ r, r < rowsOn s → RowInExtent s sel (e + BitVec.ofNat 64 r * c) false (va r) (pa r) (rdup r)) →
       (∀ m ∈ s.cjob.marks, m.rsc = .vreg (dstReg s.cjob d) → (m.h = true ↔ s.cjob.st = .trapped) → m.due ≤ s.cjob.now + 1) →
       (s.cjob.outs.any fun g => g.writesV (dstReg s.cjob d)) = false →
       (∀ o ∈ s.cjob.ops, o.vd = dstReg s.cjob d → s.cjob.now < o.due) →
       ∃ u, exec (.vld d sel xa xc) s = .next u ∧ u.cur.out = .done ∧
         u.cjob.outs = s.cjob.outs ++ (List.range (rowsOn s)).flatMap (fun r => (rowParts (pa r)).map fun p =>
           (⟨.v, .vrow r p.1, dstReg s.cjob d, va r + BitVec.ofNat 64 p.1, pa r + p.1, p.2, false, true, .core, s.ord, none⟩ : GAcc)) ∧
         (s.cjob.strict = true → u.cjob.st = .frozen)) ∧
     ((∀ r, r < rowsOn s → RowInExtent s sel (e + BitVec.ofNat 64 r * c) true (va r) (pa r) (rdup r)) →
       ReadsV s 64 v t → (∀ r, r < rowsOn s → (t.row r).po = none) → s.here.psb = [] →
       (∀ r, r < rowsOn s → s.homeDead (pa r) = false) →
       ∃ u, exec (.vst v sel xa xc) s = .next u ∧ u.cur.out = .done ∧ u.here.psb.map PStore.pa = (List.range (rowsOn s)).map pa ∧
         u.here.psb.map PStore.data = (List.range (rowsOn s)).map fun r =>
           (List.range 128).map fun k => BitVec.ofNat 8 ((t.row r).v.toNat / 256 ^ k)))

namespace Sys2Proof.Claims

open Sys2Proof.Machine

/-- n bytes at local address a, at least one, lie in G0 or in G1, and no tile of them is a window copy or lies in a
declared window (R84, R322). -/
abbrev RangeIn (s : State) (a n : Nat) : Prop :=
  0 < n ∧ (a + n ≤ 0x400000 ∨ 0x400000 ≤ a ∧ a + n ≤ 0x800000) ∧
    ∀ t ∈ tilesOf a n, s.here.copyAt t = none ∧ s.here.inWindow t = false

/-- Every tile that the range touches carries the tag of the swizzle (R91). -/
abbrev TagsAre (s : State) (z : Swz) (a n : Nat) : Prop := ∀ t ∈ tilesOf a n, s.here.tag t = swzBits z

/-- A base is aligned as R319 and R320 lay down: to 4,096 under a swizzle, else to k. -/
abbrev AlignedTo (z : Swz) (k a : Nat) : Prop := a % (if z = .plain then k else 4096) = 0

/-- No row 0 to n - 1 of a bank is poisoned (R338). -/
abbrev RowsClean (b : AccBank) (n : Nat) : Prop := ∀ i : Fin 128, i.val < n → (b[i]).po = none

/-- A timeline that the word names can give a number (R105). -/
abbrev TlFree (s : State) (tl : Option (BitVec 3)) : Prop := ∀ k, tl = some k → (s.cjob.tl[k.toFin]).issued + 1 < 2 ^ 64

/-- A mark of an earlier word that still counts (R323). -/
abbrev Live (s : State) (m : Mark) : Prop := s.cjob.now < m.due ∧ (m.h = true ↔ s.cjob.st = .trapped)

/-- No timing condition of R324 and R325 keeps a word from issuing: its pipes are free, no exchange is pending on its
accumulators, no other word owns or reads what it needs (chained products excepted), no M-stream traffic is in its way,
and in an elastic job no other traffic. No acquire of its stream is outstanding (R121), and in an elastic job nothing that its
stream reads or writes in the scratchpad is on its way (R117). -/
abbrev MFree (s : State) (pipes : List Rsc) (compute readout : List (BitVec 3)) (chain : Bool) : Prop :=
  (∀ p ∈ pipes, s.cjob.busy p = none) ∧
  (∀ a ∈ compute ++ readout, (∀ p ∈ s.cjob.aswap, (0 : BitVec 1) ++ p.1 ≠ a) ∧
    ∀ m ∈ s.cjob.marks, Live s m → ∀ b, m.rsc = .accSwap b → (0 : BitVec 1) ++ b ≠ a) ∧
  (∀ a ∈ compute, ∀ m ∈ s.cjob.marks, Live s m →
    (∀ c, m.rsc = .accOwn a c → chain = true ∧ c = true) ∧ m.rsc ≠ .accRead a) ∧
  (∀ a ∈ readout, ∀ m ∈ s.cjob.marks, Live s m → ∀ c, m.rsc ≠ .accOwn a c) ∧
  (∀ t ∈ s.cjob.traffic, t.strm ≠ .m) ∧ (s.cjob.strict = true ∨ s.cjob.traffic = []) ∧
  (∀ g ∈ s.earlier, g.acq = false) ∧
  (s.cjob.strict = true ∨ (∀ m ∈ s.cjob.moves, m.strm ≠ s.cur.strm) ∧ (∀ l ∈ s.cjob.late, l.strm ≠ s.cur.strm) ∧
    ∀ o ∈ s.cjob.mops, o.underWay s.cjob.now true = false)

/-- A matrix word completes: it is in flight until cycle now + L - 1, its pipes are occupied for O cycles, it owns or
reads its accumulators for L cycles, it has taken its timeline number, its operands lie where they were resolved, and its
stores land when R323 says (R323, R326). No accumulator has changed yet. -/
def MIssues (s : State) (i : Instr) (pipes : List Rsc) (o l : Nat) (compute readout : List (BitVec 3)) (chain : Bool)
    (tl : Option (BitVec 3)) (operands : List (Nat × Nat × Nat)) (moves : List Move) : Prop :=
  ∃ u op, exec i s = .next u ∧ u.cur.out = .done ∧ u.cjob.mops = s.cjob.mops ++ [op] ∧
    op.op = i ∧ op.ord = s.ord ∧ op.pc = s.cur.wpc ∧ op.due = s.cjob.now + l - 1 ∧ op.fin = false ∧
    op.tl = tl.map (fun k => (k, (s.cjob.tl[k.toFin]).issued + 1)) ∧
    (∀ k : Fin 8, (u.cjob.tl[k]).issued = (s.cjob.tl[k]).issued + if tl.map BitVec.toFin = some k then 1 else 0) ∧
    op.reads = operands.map (fun p => (⟨s.cjob.now, p.1, p.2.1, p.2.2⟩ : OpRead)) ∧
    (∀ p ∈ pipes, ∃ m ∈ u.cjob.marks, m.rsc = p ∧ m.due = s.cjob.now + o ∧ m.pc = s.cur.wpc) ∧
    (∀ a ∈ compute, ∃ m ∈ u.cjob.marks, m.rsc = .accOwn a chain ∧ m.due = s.cjob.now + l ∧ m.pc = s.cur.wpc) ∧
    (∀ a ∈ readout, ∃ m ∈ u.cjob.marks, m.rsc = .accRead a ∧ m.due = s.cjob.now + l ∧ m.pc = s.cur.wpc) ∧
    u.cjob.moves = s.cjob.moves ++ moves ∧ u.cjob.accW = s.cjob.accW ∧ u.cjob.accV = s.cjob.accV

/-- A store of the M stream that lands dt cycles after the word. -/
def mMove (s : State) (dt a : Nat) (bs : List Byte) : Move := ⟨s.ord, .m, s.cjob.now + dt, 0, a, some bs, none, none, s.cur.wpc⟩

/-- M, N and K, or ROWS and PITCH, of a shape register (R321). -/
def shM (x : Word) : Nat := x.toNat % 256
/-- Bits 15 to 8. -/
def shN (x : Word) : Nat := x.toNat / 256 % 256
/-- Bits 31 to 16. -/
def shK (x : Word) : Nat := x.toNat / 65536 % 65536

/-- ⌈K × κ⌉ with κ 2, 1 or ½ for elements of 16, 8 or 4 bits (R318). -/
def kappaTimes (f : Fmt) (k : Nat) : Nat := if f.width = 16 then 2 * k else if f.width = 4 then (k + 1) / 2 else k

/-- PITCH, 0 meaning the length of a row (R321). -/
def pitchOf (x : Word) (row : Nat) : Nat := if shK x = 0 then row else shK x

/-- Row i, word n of a bank. -/
def accAt (b : AccBank) (i n : Nat) : Nat := accElem (b.at i).w n

/-- The array that works on an accumulator (R323). -/
def arrayFor (ad : BitVec 3) : Rsc := if ad.toNat % 2 = 0 then .p0 else .p1

/-- The accumulators from ad on that hold D columns (R334). -/
def accsFor (ad : BitVec 3) (d : Nat) : List (BitVec 3) := (List.range (upTo d 64)).map fun n => BitVec.ofNat 3 (ad.toNat + n)

/-- They all lie in a0 to a3, or all in a4 to a7. -/
abbrev AccsFit (ad : BitVec 3) (d : Nat) : Prop := ad.toNat + upTo d 64 ≤ 4 ∨ 4 ≤ ad.toNat ∧ ad.toNat + upTo d 64 ≤ 8

/-- The control block of n bytes at an address can be read, and of these the first m hold no poison (R322), with what the issuing stream
wrote before (R117). -/
abbrev BlockPart (s : State) (a n m : Nat) : Prop := RangeIn s a n ∧ ∃ own, ownAt s a n = .ok own ∧ own.poison a m = none

/-- The same of a block that is read whole. -/
abbrev BlockIn (s : State) (a n : Nat) : Prop := BlockPart s a n n

/-- n bytes of the scratchpad at an address as the issuing stream reads them. -/
def seenAt (s : State) (a n : Nat) : List Byte :=
  match ownAt s a n with
  | .ok c => c.spad.read a n
  | .error _ => []

/-- The group, G0 or G1, that an address lies in. -/
abbrev inG1 (a : Nat) : Prop := 0x400000 ≤ a

end Sys2Proof.Claims

-- Matrix words.

/-- R317 to R327: MMA and MMAT complete: with a legal shape, aligned bases, non-empty operands that lie in different bank
groups under the swizzle's tags, and no timing fault, the product is in flight for max(1, ⌈K × κ⌉) + 24 cycles. -/
def Obligations.MatrixProductIssue : Prop :=
  ∀ (s : State) (i : Instr) (trans : Bool) (ad : BitVec 3) (xa xb xs : BitVec 4) (fa fb : Fmt) (z : Swz) (ovw neg : Bool)
    (tl : Option (BitVec 3)) (a b x : Word),
    i = (if trans then Instr.mmat ad xa xb xs fa fb z ovw neg tl else Instr.mma ad xa xb xs fa fb z ovw neg tl) →
    HasX s xa a → HasX s xb b → HasX s xs x → x.toNat < 2 ^ 32 → shM x ≤ 128 → shN x ≤ 64 → shK x ≤ 4096 →
    (fa = .e2m1 → shK x % 32 = 0) → AlignedTo z 128 a.toNat → AlignedTo z 128 b.toNat → TlFree s tl →
    let sa := if trans then shK x * 16 * fa.width else panelSize fa (shM x) (shK x)
    let sb := panelSize fb (shN x) (shK x)
    (shM x ≠ 0 → shN x ≠ 0 → shK x ≠ 0 →
      RangeIn s a.toNat sa ∧ RangeIn s b.toNat sb ∧ ¬ (inG1 a.toNat ↔ inG1 b.toNat) ∧ TagsAre s z a.toNat sa ∧
        TagsAre s z b.toNat sb) →
    MFree s [arrayFor ad] [ad] [] true →
    MIssues s i [arrayFor ad] (max 1 (kappaTimes fa (shK x))) (max 1 (kappaTimes fa (shK x)) + 24) [ad] [] true tl
      (if shM x = 0 ∨ shN x = 0 ∨ shK x = 0 then [] else [(0, a.toNat, sa), (1, b.toNat, sb)]) []

/-- R320 to R323, R328 to R331, R337: the words that move accumulators complete: AZERO, ALD and ALSTAT towards the working
bank, AST, ARSTAT, ATTNF and AVEC from the visible bank, with the bytes that they store and the cycles in which these land.
R332: ASWAP completes and leaves an exchange pending; it takes effect, banks with their statistics and poison bits, at the
end of a cycle in which no word owns or reads the accumulator; ABUSY completes with the state of the engine. -/
def Obligations.AccumulatorWords : Prop :=
  ((∀ (s : State) (ad : BitVec 3) (tl : Option (BitVec 3)), TlFree s tl → MFree s [.xf] [ad] [] false →
     MIssues s (.azero ad tl) [.xf] 1 2 [ad] [] false tl [] []) ∧
   (∀ (s : State) (ad : BitVec 3) (xa xs : BitVec 4) (fa : Fmt) (z : Swz) (tl : Option (BitVec 3)) (a x : Word),
     HasX s xa a → HasX s xs x → x.toNat < 2 ^ 32 → shM x ≤ 128 → shN x ≤ 64 → fa ∈ [Fmt.fp32, .bf16, .fp16, .i32] →
     let eb := fa.width / 8
     let p := pitchOf x (shN x * eb)
     shN x * eb ≤ p → p % eb = 0 → AlignedTo z eb a.toNat → TlFree s tl →
     (shM x ≠ 0 → shN x ≠ 0 → RangeIn s a.toNat ((shM x - 1) * p + shN x * eb) ∧
       TagsAre s z a.toNat ((shM x - 1) * p + shN x * eb)) →
     MFree s [.xf] [ad] [] false →
     MIssues s (.ald ad xa xs fa z tl) [.xf] (max 1 (shM x)) (max 1 (shM x) + 4) [ad] [] false tl
       (if shM x = 0 ∨ shN x = 0 then [] else [(0, a.toNat, (shM x - 1) * p + shN x * eb)]) []) ∧
   (∀ (s : State) (ad : BitVec 3) (xa xs : BitVec 4) (fa : Fmt) (rm : RMode) (sat : Bool) (tl : Option (BitVec 3))
     (a x : Word), HasX s xa a → HasX s xs x → x.toNat < 2 ^ 32 → shM x ≤ 128 → shN x ≤ 64 →
     fa ∈ [Fmt.fp32, .bf16, .fp16, .e4m3, .e5m2, .i32, .i16, .i8] →
     let eb := fa.width / 8
     let p := pitchOf x (shN x * eb)
     shN x * eb ≤ p → p % eb = 0 → a.toNat % eb = 0 → TlFree s tl →
     (shM x ≠ 0 → shN x ≠ 0 → RangeIn s a.toNat ((shM x - 1) * p + shN x * eb)) →
     (shN x ≠ 0 → RowsClean (s.cjob.bankV ad) (shM x)) → MFree s [.xf] [] [ad] false →
     MIssues s (.ast ad xa xs fa rm sat tl) [.xf] (max 1 (shM x)) (max 1 (shM x) + 3) [] [ad] false tl []
       (if shN x = 0 then [] else (List.range (shM x)).map fun i => mMove s (3 + i) (a.toNat + i * p)
         ((List.range (shN x)).flatMap fun n => leBytes eb
           (let v := accAt (s.cjob.bankV ad) i n
            if fa = .fp32 ∨ fa = .i32 then v
            else if fa = .i16 ∨ fa = .i8 then fitInt fa sat (intOf .i32 v) else roundFV fa rm sat (fvOf .fp32 v))))) ∧
   (∀ (s : State) (ad : BitVec 3) (xa xs : BitVec 4) (tl : Option (BitVec 3)) (z : Swz) (a x : Word),
     HasX s xa a → HasX s xs x → x.toNat < 2 ^ 32 → shN x = 0 → 1 ≤ shM x → shM x ≤ 128 →
     let p := pitchOf x 8
     8 ≤ p → p % 4 = 0 → TlFree s tl → RangeIn s a.toNat ((shM x - 1) * p + 8) →
     (a.toNat % 4 = 0 → RowsClean (s.cjob.bankV ad) (shM x) → MFree s [.xf] [] [ad] false →
       MIssues s (.arstat ad xa xs tl) [.xf] (upTo (shM x) 32) (upTo (shM x) 32 + 3) [] [ad] false tl []
         ((List.range (shM x)).map fun i => mMove s (3 + i / 32) (a.toNat + i * p)
           (leBytes 4 ((s.cjob.bankV ad).at i).m.toNat ++ leBytes 4 ((s.cjob.bankV ad).at i).l.toNat))) ∧
     (AlignedTo z 4 a.toNat → TagsAre s z a.toNat ((shM x - 1) * p + 8) → MFree s [.xf] [ad] [] false →
       MIssues s (.alstat ad xa xs z tl) [.xf] (upTo (shM x) 32) (upTo (shM x) 32 + 4) [ad] [] false tl
         [(0, a.toNat, (shM x - 1) * p + 8)] [])) ∧
   (∀ (s : State) (ad : BitVec 3) (xa xs : BitVec 4) (fa : Fmt) (tl : Option (BitVec 3)) (a x : Word),
     HasX s xa a → HasX s xs x → x.toNat < 2 ^ 48 → shN x = 0 → 1 ≤ shM x → shM x ≤ 128 →
     fa ∈ [Fmt.fp32, .bf16, .fp16, .e4m3, .e5m2] →
     let eb := fa.width / 8
     let dv := x.toNat / 2 ^ 32
     let p := pitchOf x (dv * eb)
     let u := upTo (dv * eb) 256
     1 ≤ dv → dv ≤ 256 → dv * eb ≤ p → p % eb = 0 → a.toNat % eb = 0 → AccsFit ad dv → TlFree s tl →
     RangeIn s a.toNat ((shM x - 1) * p + dv * eb) → (∀ c ∈ accsFor ad dv, RowsClean (s.cjob.bankV c) (shM x)) →
     MFree s [.xf] [] (accsFor ad dv) false →
     let bytes (i : Nat) : List Byte := (List.range dv).flatMap fun c => leBytes eb (attnfElem fa
       (accAt (s.cjob.bankV (BitVec.ofNat 3 (ad.toNat + c / 64))) i (c % 64)) ((s.cjob.bankV ad).at i).l.toNat)
     MIssues s (.attnf ad xa xs fa tl) [.xf] (shM x * u) (shM x * u + 8) [] (accsFor ad dv) false tl []
       ((List.range (shM x)).flatMap fun i => (List.range u).map fun k =>
         mMove s (8 + u * i + k) (a.toNat + i * p + 256 * k) (((bytes i).drop (256 * k)).take 256))) ∧
   (∀ (s : State) (ad : BitVec 3) (xa : BitVec 4) (q : BitVec 2) (tl : Option (BitVec 3)) (a : Word), HasX s xa a →
     a.toNat < 16 → TlFree s tl → MFree s [.xf] [] [ad] false →
     (s.cjob.vq[q.toFin]).length + s.cjob.vpopped[q.toFin] + s.cjob.vqRes[q.toFin] < 4 →
     MIssues s (.avec ad xa q tl) [.xf] 4 6 [] [ad] false tl [] [])) ∧
  ((∀ (s : State) (ad : BitVec 2), (∀ p ∈ s.cjob.aswap, p.1 ≠ ad) →
     (∀ m ∈ s.cjob.marks, Live s m → m.rsc ≠ .accSwap ad) →
     exec (.aswap ad) s = .next (ended { (s.updJob fun j =>
       { j with aswap := j.aswap ++ [(ad, s.ord, s.cur.wpc.toNat)] }) with ord := s.ord + 1 })) ∧
   (∀ (j : Job) (ad : BitVec 2) (o pc : Nat), j.aswap = [(ad, o, pc)] →
     ((∀ m ∈ j.marks, j.now < m.due → (m.h = true ↔ j.st = .trapped) →
         (∀ c, m.rsc ≠ .accOwn ((0 : BitVec 1) ++ ad) c) ∧ m.rsc ≠ .accRead ((0 : BitVec 1) ++ ad)) →
       let t := j.swapDue fun _ => true
       t.aswap = [] ∧ t.bankW ((0 : BitVec 1) ++ ad) = j.bankV ((0 : BitVec 1) ++ ad) ∧
         t.bankV ((0 : BitVec 1) ++ ad) = j.bankW ((0 : BitVec 1) ++ ad) ∧
         (∀ b, b ≠ (0 : BitVec 1) ++ ad → t.bankW b = j.bankW b ∧ t.bankV b = j.bankV b)) ∧
     ((∃ m ∈ j.marks, j.now < m.due ∧ (m.h = true ↔ j.st = .trapped) ∧ m.rsc = .accRead ((0 : BitVec 1) ++ ad)) →
       j.swapDue (fun _ => true) = j)) ∧
   (∀ (s : State) (xa : BitVec 4), ∃ v : Word, exec (.abusy xa) s = .next (ended (wrX s xa ⟨v, none⟩ 1)) ∧
     (∀ k : Fin 8, (v.getLsbD k.val = true ↔ ∃ m ∈ s.cjob.marks, Live s m ∧ ∃ c, m.rsc = .accOwn (BitVec.ofFin k) c) ∧
       (v.getLsbD (8 + k.val) = true ↔ ∃ m ∈ s.cjob.marks, Live s m ∧ m.rsc = .accRead (BitVec.ofFin k))) ∧
     (v.getLsbD 16 = true ↔ ∃ m ∈ s.cjob.marks, Live s m ∧ m.rsc = .p0) ∧
     (v.getLsbD 17 = true ↔ ∃ m ∈ s.cjob.marks, Live s m ∧ m.rsc = .p1) ∧
     (v.getLsbD 18 = true ↔ ∃ m ∈ s.cjob.marks, Live s m ∧ m.rsc = .sm) ∧
     (v.getLsbD 19 = true ↔ ∃ m ∈ s.cjob.marks, Live s m ∧ m.rsc = .xf) ∧
     (v.getLsbD 20 = true ↔ s.cjob.aswap ≠ [] ∨ ∃ m ∈ s.cjob.marks, Live s m ∧ ∃ b, m.rsc = .accSwap b) ∧ v.toNat < 2 ^ 21))

/-- R320 to R326, R333, R334: ATTN and AMASS complete: with a legal descriptor, the operand rules met and no timing fault,
ATTN is in flight for 64 × ⌈D / 64⌉ × κ + 40 cycles and AMASS for max(D × κ, ROWS) + 40. -/
def Obligations.AttentionIssue : Prop :=
  ∀ (s : State) (ad : BitVec 3) (xa xb xs : BitVec 4) (fa fb : Fmt) (z : Swz) (tl : Option (BitVec 3)) (a b v : Word),
    HasX s xa a → HasX s xb b → a.toNat < 2 ^ 48 → b.toNat < 2 ^ 48 → (fa.width = 8 ∨ fa.width = 16) → fa.width = fb.width →
    let q := a.toNat % 2 ^ 24
    let adr := a.toNat / 2 ^ 24
    let k := b.toNat % 2 ^ 24
    let pd := b.toNat / 2 ^ 24
    let d := aDesc (seenAt s adr 32)
    adr % 32 = 0 → BlockIn s adr 32 → aDescOk (seenAt s adr 32) = true → pd % 4 = 0 →
    (d.mask / 4 % 2 = 1 → BlockIn s (pd + 0x140) 256) → AlignedTo z 128 q → AlignedTo z 128 k → TlFree s tl →
    let sq := d.rows * (128 * upTo (d.d * fa.width) 1024)
    let sk := 64 * (128 * upTo (d.d * fb.width) 1024)
    RangeIn s q sq → RangeIn s k sk → ¬ (inG1 q ↔ inG1 k) → TagsAre s z q sq → TagsAre s z k sk →
    (HasX s xs v → v.toNat < 2 ^ 24 → AlignedTo z 128 v.toNat → RangeIn s v.toNat sk → ¬ (inG1 q ↔ inG1 v.toNat) →
      TagsAre s z v.toNat sk → AccsFit ad d.d → MFree s [.p0, .p1, .sm] (accsFor ad d.d) [] false →
      MIssues s (.attn ad xa xb xs fa fb z tl) [.p0, .p1, .sm] (64 * upTo d.d 64 * (fa.width / 8))
        (64 * upTo d.d 64 * (fa.width / 8) + 40) (accsFor ad d.d) [] false tl [(0, q, sq), (1, k, sk), (2, v.toNat, sk)] []) ∧
    (BlockIn s (pd + 0x40) 256 → MFree s [.p0, .sm] [] [ad] false →
      let o := max (d.d * (fa.width / 8)) d.rows
      MIssues s (.amass ad xa xb fa fb z tl) [.p0, .sm] o (o + 40) [] [ad] false tl
        [(0, q, sq), (1, k, sk), (3, pd + 0x40, 256)] [])

/-- R319, R326 to R329, R331: what a matrix word writes in its last cycle: MMA and MMAT the dot products of the captured
panels over the old words or over zero, and nothing outside M × N; AZERO its zero bank; ALD the widened or copied words;
AVEC the tile of its block; the word's timeline number completes. -/
def Obligations.MatrixResults : Prop :=
  (∀ (g : Nat) (c : Core) (j : Job) (o : MatOp) (ad : BitVec 3) (xa xb xs : BitVec 4) (fa fb : Fmt) (z : Swz)
    (trans ovw neg : Bool) (tl : Option (BitVec 3)),
    o.op = (if trans then Instr.mmat ad xa xb xs fa fb z ovw neg tl else Instr.mma ad xa xb xs fa fb z ovw neg tl) →
    o.tl = none → shM o.xs ≤ 128 → shN o.xs ≤ 64 →
    let t := (finishMat g c j o).2
    let m := shM o.xs; let n := shN o.xs; let k := shK o.xs
    (∀ b, b ≠ ad → t.accW[b.toFin] = j.accW[b.toFin]) ∧
    ∀ r c', r < 128 → c' < 64 → accAt (t.accW[ad.toFin]) r c' =
      if r < m ∧ c' < n then
        let start := if ovw then 0 else accAt (j.accW[ad.toFin]) r c'
        if k = 0 then start
        else dot fa fb neg start k (fun e => if trans then capElem o.cap 0 fa (e * 16 * fa.width + r * fa.width / 8) r
            else capElem o.cap 0 fa (panelByte fa m r e) e)
          (fun e => capElem o.cap 1 fb (panelByte fb n c' e) e)
          (fun e => (o.cap.get (capKey 0 (panelScale fa m r k e))).toNat)
          (fun e => (o.cap.get (capKey 1 (panelScale fb n c' k e))).toNat) % 2 ^ 32
      else accAt (j.accW[ad.toFin]) r c') ∧
  (∀ (g : Nat) (c : Core) (j : Job) (o : MatOp) (ad : BitVec 3) (tl : Option (BitVec 3)), o.op = .azero ad tl →
    o.tl = none →
    (∀ i : Fin 128, (((finishMat g c j o).2.accW[ad.toFin])[i]) = ⟨0, 0xFF800000, 0, none⟩) ∧
    ∀ b, b ≠ ad → (finishMat g c j o).2.accW[b.toFin] = j.accW[b.toFin]) ∧
  (∀ (g : Nat) (c : Core) (j : Job) (o : MatOp) (ad : BitVec 3) (xa xs : BitVec 4) (fa : Fmt) (z : Swz)
    (tl : Option (BitVec 3)), o.op = .ald ad xa xs fa z tl → o.tl = none → shM o.xs ≤ 128 → shN o.xs ≤ 64 →
    ∀ r c', r < 128 → c' < 64 → accAt ((finishMat g c j o).2.accW[ad.toFin]) r c' =
      if r < shM o.xs ∧ c' < shN o.xs then
        let e := little (o.cap.read (r * pitchOf o.xs (shN o.xs * fa.width / 8) + c' * fa.width / 8) (fa.width / 8))
        (if fa = .bf16 ∨ fa = .fp16 then toF32 fa e else e) % 2 ^ 32
      else accAt (j.accW[ad.toFin]) r c') ∧
  (∀ (g : Nat) (c : Core) (j : Job) (o : MatOp) (ad : BitVec 3) (xa : BitVec 4) (q : BitVec 2) (tl : Option (BitVec 3)),
    o.op = .avec ad xa q tl → o.tl = none → o.xa.toNat < 16 →
    o.snap = (List.range 16).map (fun r => (16 * (o.xa.toNat % 8) + r, (j.bankV ad).at (16 * (o.xa.toNat % 8) + r))) →
    ∃ e : TileEnt, (finishMat g c j o).2.vq[q.toFin] = j.vq[q.toFin] ++ [e] ∧ e.avail = g + 1 ∧
      ∀ (r : Fin 16), (e.tile[r]).po = ((j.bankV ad).at (16 * (o.xa.toNat % 8) + r.val)).po ∧
        ∀ k, k < 32 → elem 32 (e.tile[r]).v k = accAt (j.bankV ad) (16 * (o.xa.toNat % 8) + r.val) (32 * (o.xa.toNat / 8) + k)) ∧
  (∀ (g : Nat) (c : Core) (j : Job) (o : MatOp) (k : BitVec 3) (n : Nat), o.tl = some (k, n) →
    finishMat g c j o = ((finishMat g c j { o with tl := none }).1,
      (finishMat g c j { o with tl := none }).2.modTl k fun t => t.complete n))

/-- R322, R324, R332: shapes with reserved bits, misaligned bases, operands in one group, tags of another swizzle and
poisoned rows of a read-out are precise traps, in that order of checks; a read-out of an accumulator that a compute word owns,
a compute word on one that a read-out still reads and a word that names one with an exchange pending are timing faults, but
for a read-out of a4 to a7 in an elastic job, which is ACC_BUSY. -/
def Obligations.MatrixTraps : Prop :=
  (∀ (s : State) (ad : BitVec 3) (xa xb xs : BitVec 4) (fa fb : Fmt) (z : Swz) (ovw neg : Bool) (tl : Option (BitVec 3))
    (a b x : Word), HasX s xa a → HasX s xb b → HasX s xs x →
    let i := Instr.mma ad xa xb xs fa fb z ovw neg tl
    let sa := panelSize fa (shM x) (shK x)
    let sb := panelSize fb (shN x) (shK x)
    let legal := x.toNat < 2 ^ 32 ∧ shM x ≤ 128 ∧ shN x ≤ 64 ∧ shK x ≤ 4096 ∧ (fa = .e2m1 → shK x % 32 = 0)
    (¬ legal → exec i s = .next (s.takeTrap cIllegalOperand s.cur.raw)) ∧
    (legal → ¬ AlignedTo z 128 a.toNat → exec i s = .next (s.takeTrap cAlignment a)) ∧
    (legal → AlignedTo z 128 a.toNat → ¬ AlignedTo z 128 b.toNat → exec i s = .next (s.takeTrap cAlignment b)) ∧
    (legal → AlignedTo z 128 a.toNat → AlignedTo z 128 b.toNat → shM x ≠ 0 → shN x ≠ 0 → shK x ≠ 0 →
      RangeIn s a.toNat sa → RangeIn s b.toNat sb →
      ((inG1 a.toNat ↔ inG1 b.toNat) → exec i s = .next (s.takeTrap cBankConflict a)) ∧
      (¬ (inG1 a.toNat ↔ inG1 b.toNat) → ¬ TagsAre s z a.toNat sa →
        ∃ tile ∈ tilesOf a.toNat sa, s.here.tag tile ≠ swzBits z ∧
          exec i s = .next (s.takeTrap cSwizzleMismatch (BitVec.ofNat 64 (4096 * tile)))))) ∧
  (∀ (s : State) (ad : BitVec 3) (xa xs : BitVec 4) (tl : Option (BitVec 3)) (a x : Word) (r : Fin 128) (o : Origin),
    HasX s xa a → HasX s xs x → x.toNat < 2 ^ 16 → shN x = 0 → r.val < shM x → shM x ≤ 128 → a.toNat % 4 = 0 →
    RangeIn s a.toNat ((shM x - 1) * 8 + 8) → (((s.cjob.bankV ad)[r]).po = some o) →
    (∀ q : Fin 128, q < r → ((s.cjob.bankV ad)[q]).po = none) →
    exec (.arstat ad xa xs tl) s = .next (s.takeTrap cPoisonConsumed o)) ∧
  (∀ (s : State) (ad : BitVec 3) (xa : BitVec 4) (q : BitVec 2) (tl : Option (BitVec 3)) (a : Word) (m : Mark) (c : Bool),
    HasX s xa a → a.toNat < 16 → s.cjob.busy .xf = none → s.cjob.aswap = [] → s.cjob.marks = [m] →
    Live s m → m.rsc = .accOwn ad c →
    (s.cjob.strict = false → 4 ≤ ad.toNat →
      exec (.avec ad xa q tl) s = .next (s.takeTrap cAccBusy (m.pc + ad.setWidth 64))) ∧
    (s.cjob.strict = false → ad.toNat < 4 → exec (.avec ad xa q tl) s = .next { s with cur := { s.cur with out := .hold .latency 0 } }) ∧
    (s.cjob.strict = true → exec (.avec ad xa q tl) s = .next (s.takeTrap cScheduleMiss m.pc))) ∧
  (∀ (s : State) (ad : BitVec 3) (tl : Option (BitVec 3)) (m : Mark), s.cjob.busy .xf = none → s.cjob.aswap = [] →
    s.cjob.marks = [m] → Live s m → m.rsc = .accRead ad →
    (s.cjob.strict = true → exec (.azero ad tl) s = .next (s.takeTrap cScheduleMiss m.pc)) ∧
    (s.cjob.strict = false → exec (.azero ad tl) s = .next { s with cur := { s.cur with out := .hold .latency 0 } })) ∧
  (∀ (s : State) (ad : BitVec 2) (o : Nat) (pc : Word), s.cjob.aswap = [(ad, o, pc.toNat)] →
    (s.cjob.strict = true → exec (.aswap ad) s = .next (s.takeTrap cScheduleMiss pc)) ∧
    (s.cjob.strict = false → exec (.aswap ad) s = .next { s with cur := { s.cur with out := .hold .latency 0 } }))

namespace Sys2Proof.Claims

open Sys2Proof.Machine

/-- Nothing keeps a submission back: no access of the stream is outstanding and none of its atomics is late, its posted stores have a
die point, its queue has a place, its timeline a number (R120, R278, R312). -/
abbrev CanSubmit (s : State) (store : Bool) (tl : Option (BitVec 3)) : Prop :=
  Quiet s ∧ (∀ l ∈ s.cjob.late, l.strm = s.cur.strm → ∃ k, l.op = .load k) ∧ (∀ p ∈ s.here.psb, p.rdup = false) ∧ s.here.taken store < 16 ∧ TlFree s tl

/-- A submitting word completes: its command stands last in its queue, not begun, with its registers as they were read,
its number, its turnstile with the phase that is current, its scope, widened to every agent that it reaches (R130), and as many
units to do; the other queue is as it was (R277, R278, R312). -/
def Submits (s : State) (i : Instr) (store : Bool) (tl : Option (BitVec 3)) (ts own : Option (BitVec 6)) (scope : Scope)
    (xm xs xt : Word) (total : Nat) (more : State → Cmd → Prop) : Prop :=
  ∃ u c, exec i s = .next u ∧ u.cur.out = .done ∧ u.here.queue store = s.here.queue store ++ [c] ∧
    u.here.queue (!store) = s.here.queue (!store) ∧ c.op = i ∧ c.ord = s.ord ∧ c.raw = s.cur.raw ∧ c.seq = s.cjob.seq ∧
    c.iter = s.cjob.iter ∧ c.strm = s.cur.strm ∧ c.part = s.cjob.nest.part ∧ c.xm = xm ∧ c.xs = xs ∧ c.xt = xt ∧
    c.total = total ∧ c.pos = 0 ∧ c.begun = false ∧ c.fail = none ∧ c.scope = s.widen s.cur.core { c with scope := scope } ∧ c.ts = ts ∧
    c.tl = tl.map (fun k => (k, (s.cjob.tl[k.toFin]).issued + 1)) ∧
    (∀ k : Fin 8, (u.cjob.tl[k]).issued = (s.cjob.tl[k]).issued + if tl.map BitVec.toFin = some k then 1 else 0) ∧
    (∀ k, own = some k → c.phase = (s.cjob.ts[k.toFin]).phase) ∧ more u c

/-- A submission that is a release finds what its stream has on its way landed, or lands it (R121; log entry 62). -/
abbrev Lands (s : State) : Prop := ∃ t, performed (fun _ => true) s = .ok t

/-- Nothing more to say. -/
def nothing : State → Cmd → Prop := fun _ _ => True

/-- How far a scope reaches (R127). -/
def scopeRank : Scope → Nat
  | .core => 0 | .die => 1 | .pkg => 2 | .pod => 3

/-- n bytes at a local address that a command reads, or writes: empty, or in a region of R83 whose carousel, if any, is
declared and covers them, or, for a command that reads, in one turnstile image; a slot that is not ready is a matter of the
command's beginning (R84, R85, R110). -/
def SpanOk (s : State) (w : Bool) (a : Word) (n : Nat) : Prop :=
  a.toNat < 2 ^ 24 ∧ (n = 0 ∨ (∃ l, s.cjob.place a.toNat n = .at l) ∨ s.cjob.place a.toNat n = .notReady ∨
    (∃ x, s.cjob.place a.toNat n = .bad x) ∨ (w = false ∧ ∃ k o, s.cjob.place a.toNat n = .image k o))

/-- The pages of a list of addresses are translated by entries that the die holds, and their frames can be pinned (R98,
R99, R279). -/
def Resident (s : State) (vas : List Nat) (rd w : Bool) (xl : List (Nat × Xlat)) : Prop :=
  let d := dieOf s.cur.core
  List.Forall₂ (fun p x => x.1 = p.1 ∧ ((s.die d).tlbFind s.cjob.nest.part (BitVec.ofNat 64 p.2)).isSome = true ∧
    s.lookup d s.cjob.nest.part (BitVec.ofNat 64 p.2) rd w false = .ok x.2) (pageList vas) xl ∧
  (xl.map fun x => canon s.pkgnum.toNat x.2.frame).eraseDups.length ≤ 1024 ∧
  ((s.die d).pin (xl.map fun x => canon s.pkgnum.toNat x.2.frame).eraseDups).isSome = true

/-- The pages that a command of the KV cache touches, as they are found when it is submitted (R99; log entry 39). -/
abbrev Touches (s : State) (c : Cmd) (l : List KvPg) : Prop :=
  s.kvLook ⟨s.cur.core, c, none, some s.cur.since⟩ c.part (s.kvRun c) (fun _ => .ok ()) lookLimit [] = .ok ((), l)

/-- The die holds the translations of the pages found, and their frames can be pinned (R98, R99, R279). -/
abbrev Pinnable (s : State) (l : List KvPg) : Prop :=
  let d := dieOf s.cur.core
  (∀ p ∈ l, ((s.die d).tlbFind s.cjob.nest.part (BitVec.ofNat 64 p.va)).isSome = true ∧
    s.lookup d s.cjob.nest.part (BitVec.ofNat 64 p.va) false false false = .ok p.x) ∧
  (l.map fun p => canon s.pkgnum.toNat p.x.frame).eraseDups.length ≤ 1024 ∧
  ((s.die d).pin (l.map fun p => canon s.pkgnum.toNat p.x.frame).eraseDups).isSome = true

/-- A KV command has pinned the frames of those pages, each under the one name that R30 gives it. -/
def PinnedKv (l : List KvPg) : State → Cmd → Prop :=
  fun u c => c.frames = l.map fun p => (canon u.pkgnum.toNat p.x.frame, p.va / 0x200000)

/-- The frames that a command has pinned are those of its pages, each under the one name that R30 gives it. -/
def Pinned (xl : List (Nat × Xlat)) : State → Cmd → Prop := fun u c => c.frames = xl.map fun x => (canon u.pkgnum.toNat x.2.frame, x.1)

/-- The bytes of the scratchpad of the issuing core at a local address, as its stream reads them. -/
def bytesAt (s : State) (a : Word) (n : Nat) : List Byte := seenAt s a.toNat n

/-- A collective word: its registers, its tags, whether it is two-sided. -/
def collOf : Instr → Option (BitVec 4 × BitVec 4 × BitVec 4 × Tags × Bool)
  | .creduce _ xt xs xm t => some (xt, xs, xm, t, true)
  | .cgather xt xs xm t => some (xt, xs, xm, t, true)
  | .cbcast xt xs xm t => some (xt, xs, xm, t, true)
  | .cring xt xs xm t => some (xt, xs, xm, t, false)
  | .cmcast xt xs xm t => some (xt, xs, xm, t, false)
  | _ => none

/-- The registers and the blocks that a COPY was submitted with, as the KV objects are read for it. -/
def copyBy (s : State) (dir : Dir) (xt xm xs : BitVec 4) (t : Tags) (vm vs vt : Word) (b o : List Byte) : KvBy :=
  ⟨s.cur.core, { s.command (.copy dir xt xm xs t) t.ts t.scope vm vs vt with blk := b, blk2 := o, total := (tmapOf b o).units },
    none, some s.cur.since⟩

/-- A step of a KV-indirect submission is read with every page that it touches translated: what it gives, and the pages known
before and after (R351 to R353; log entry 39). -/
abbrev Looks {α : Type} (s : State) (b : KvBy) (run : KvBy → CRes α) (l l' : List KvPg) (a : α) : Prop :=
  s.kvLook b b.cmd.part run (fun e => kvTrap s (.error e)) lookLimit l = .ok (a, l')

/-- A KV word that takes a 32-byte block: its block register, its other register, its tags, its steps. -/
def kvOf (b : List Byte) : Instr → Option (BitVec 4 × Option (BitVec 4) × Tags × Nat)
  | .kvref xm t => some (xm, none, t, 1)
  | .kvfree xm t => some (xm, none, t, 1)
  | .kvsetRep xm xs t => some (xm, some xs, t, fieldAt b 0x14 4)
  | .kvsetMass xm xs t => some (xm, some xs, t, 1)
  | _ => none

end Sys2Proof.Claims

-- Turnstiles, timelines, carousels.

/-- R292, R293, R295: TSINIT and TSPOST complete with their effect on the turnstile in this cycle; TSQUERY and TLQUERY complete with
the image and with DONE, ISSUED or FAILNUM as they stood at the start of the cycle. R103: what the posts and arrivals of one cycle
do to a turnstile, row by row, and whether it completes. R109: a declaration of its carousel makes it IDLE first, with its phase
kept. That a declaration in a cycle comes before the posts and arrivals of that cycle is log entry 71 (DESIGN CHOICE). -/
def Obligations.Turnstiles : Prop :=
  ((∀ (s : State) (k : BitVec 6), (∀ c : Fin 4, (s.cjob.car[c]).decl = true →
       k.toNat < (s.cjob.car[c]).firstts ∨ (s.cjob.car[c]).firstts + (s.cjob.car[c]).count ≤ k.toNat) →
     exec (.tsinit k) s = .next (ended (s.updJob fun j => j.modTs k fun t => { t with init := true }))) ∧
   (∀ (s : State) (k : BitVec 6) (c : Fin 4), (s.cjob.car[c]).decl = true → (s.cjob.car[c]).firstts ≤ k.toNat →
     k.toNat < (s.cjob.car[c]).firstts + (s.cjob.car[c]).count →
     ∃ info, exec (.tsinit k) s = .next (s.takeTrap cCarouselFault info)) ∧
   (∀ (s : State) (k : BitVec 6) (xs : BitVec 4) (n : Word), HasX s xs n →
     (n.toNat < 2 ^ 39 → exec (.tspost k xs) s = .next (ended (s.updJob fun j => j.modTs k fun t =>
       { t with post := some (t.post.getD 0 + n.toNat) }))) ∧
     (2 ^ 39 ≤ n.toNat → exec (.tspost k xs) s = .next (s.takeTrap cIllegalOperand s.cur.raw))) ∧
   (∀ (s : State) (xt : BitVec 4) (k : BitVec 6), ∃ v : Word, exec (.tsquery xt k) s = .next (ended (wrX s xt ⟨v, none⟩ 1)) ∧
     v.setWidth 40 = BitVec.ofInt 40 (s.cjob.ts[k.toFin]).balance ∧ v.getLsbD 40 = (s.cjob.ts[k.toFin]).phase ∧
     (v >>> 42).toNat % 4 = (match (s.cjob.ts[k.toFin]).st with | .idle => 0 | .armed => 1 | .poisoned => 2 | .overrun => 3) ∧
     v >>> 44 = (s.cjob.ts[k.toFin]).cause.setWidth 64) ∧
   (∀ (s : State) (xt : BitVec 4) (k : BitVec 3),
     let t := s.cjob.tl0[k.toFin]
     exec (.tlquery xt k 0) s = .next (ended (wrX s xt ⟨BitVec.ofNat 64 t.done, none⟩ 1)) ∧
     exec (.tlquery xt k 1) s = .next (ended (wrX s xt ⟨BitVec.ofNat 64 t.issued, none⟩ 1)) ∧
     exec (.tlquery xt k 2) s = .next (ended (wrX s xt ⟨BitVec.ofNat 64 t.failnum, none⟩ 1)))) ∧
  (∀ (t : Turnstile),
     let b : Int := t.balance + t.post.getD 0 - t.arr
     let r := t.step.1
     let live := t.st = .idle ∨ t.st = .armed
     let fits := -(2 ^ 39) ≤ b ∧ b ≤ 2 ^ 39 - 1
     (r.post = none ∧ r.arr = 0 ∧ r.badPhase = false ∧ r.err = none ∧ r.init = false ∧ r.decl = false) ∧
     (t.decl = true → t.step = { t with st := .idle, balance := 0, cause := 0, decl := false }.step) ∧
     (t.decl = false → t.init = true → r.st = .idle ∧ r.balance = 0 ∧ r.cause = 0 ∧ r.phase = t.move.1.phase ∧ t.step.2 = t.move.2) ∧
     (t.decl = false → t.init = false →
       (¬ live → r.st = t.st ∧ r.balance = t.balance ∧ r.cause = t.cause ∧ r.phase = t.phase ∧ t.step.2 = false) ∧
       (live → t.badPhase = true → r.st = .overrun ∧ r.cause = 0x19 ∧ r.balance = t.balance ∧ t.step.2 = false) ∧
       (live → t.badPhase = false → ∀ c, t.err = some c → r.st = .poisoned ∧ r.cause = c ∧ t.step.2 = false) ∧
       (live → t.badPhase = false → t.err = none →
         (¬ fits → r.st = .overrun ∧ r.cause = 0x19 ∧ r.balance = t.balance ∧ t.step.2 = false) ∧
         (fits → t.st = .idle → t.post = none → r.st = .idle ∧ r.balance = b ∧ r.phase = t.phase ∧ t.step.2 = false) ∧
         (fits → t.st = .armed ∨ t.post ≠ none →
           (0 < b → r.st = .armed ∧ r.balance = b ∧ r.phase = t.phase ∧ t.step.2 = false) ∧
           (b = 0 → r.st = .idle ∧ r.balance = 0 ∧ r.phase = !t.phase ∧ t.step.2 = true) ∧
           (b < 0 → r.st = .overrun ∧ r.cause = 0x19 ∧ r.balance = b ∧ t.step.2 = false)))))

/-- R109, R110, R113, R296 to R298: CDECL of a legal block completes and the carousel is declared, with each of its turnstiles to
become idle as the cycle ends, and under AUTOARM posted the slot size; CREL completes while TAIL to HEAD holds a slot not released
yet; CSTAT gives CPTR or CDESC; a release frees the slot at TAIL; a slot whose turnstile completes becomes READY at HEAD and
COMPLETE elsewhere, and one whose turnstile fails POISONED. That the turnstiles of a declared carousel become IDLE as the cycle
ends, with the posts noted in it kept, is log entry 71 (DESIGN CHOICE). -/
def Obligations.CarouselWords : Prop :=
  (∀ (s : State) (xm : BitVec 4) (a : Word), HasX s xm a → a.toNat % 16 = 0 → BlockIn s a.toNat 16 →
    let w := little ((bytesAt s a 16).take 8)
    let k := little ((bytesAt s a 16).drop 8)
    let c := carouselOf (bytesAt s a 16)
    (w < 2 ^ 43 ∧ w / 2 ^ 27 % 32 = 0 ∧ k < 4 ∧ s.cjob.declBad k c = false ∧ s.carouselInUse s.cur.core k = false →
      c.decl = true ∧ c.base = w % 2 ^ 24 ∧ c.lslot = w / 2 ^ 24 % 8 ∧ c.count = w / 2 ^ 32 % 16 ∧
      c.firstts = w / 2 ^ 36 % 64 ∧ c.autoarm = decide (w / 2 ^ 42 % 2 = 1) ∧ c.level = 0 ∧ c.head = 0 ∧ c.tail = 0 ∧
      ∃ u, exec (.cdecl xm) s = .next u ∧ u.cur.out = .done ∧
        (∀ i : Fin 4, u.cjob.car[i] = if i.val = k then c else s.cjob.car[i]) ∧
        ∀ i : Fin 64, if c.firstts ≤ i.val ∧ i.val < c.firstts + c.count then
            u.cjob.ts[i] = { s.cjob.ts[i] with
              decl := true
              post := if c.autoarm then some ((s.cjob.ts[i]).post.getD 0 + 2 ^ (c.lslot + 12)) else (s.cjob.ts[i]).post }
          else u.cjob.ts[i] = s.cjob.ts[i]) ∧
    (2 ^ 43 ≤ w ∨ w / 2 ^ 27 % 32 ≠ 0 ∨ 4 ≤ k → ∃ info, exec (.cdecl xm) s = .next (s.takeTrap cCarouselFault info))) ∧
  (∀ (s : State) (c : BitVec 2), let k := s.cjob.car[c.toFin]
    (k.decl = true → k.rel.length < min k.level (s.cjob.car0[c.toFin]).level →
      exec (.crel c) s = .next (ended (s.updJob fun j => j.modCar c fun k => { k with rel := k.rel ++ [none] }))) ∧
    (k.decl = false ∨ min k.level (s.cjob.car0[c.toFin]).level ≤ k.rel.length →
      exec (.crel c) s = .next (s.takeTrap cCarouselFault (c.setWidth 64)))) ∧
  (∀ (s : State) (xt : BitVec 4) (c : BitVec 2), let k := s.cjob.car0[c.toFin]
    exec (.cstat xt c true) s = .next (ended (wrX s xt ⟨k.cdesc, none⟩ 1)) ∧
    exec (.cstat xt c false) s = .next (ended (wrX s xt ⟨k.cptr, none⟩ 1))) ∧
  (∀ (c : Carousel), 0 < c.level → c.tail < 8 → 0 < c.count → c.slot c.tail ≠ .poisoned →
    let r := c.release.1
    r.level = c.level - 1 ∧ r.tail = (c.tail + 1) % c.count ∧ r.slot c.tail = .opened ∧
      c.release.2 = if c.autoarm then some (c.firstts + c.tail) else none) ∧
  (∀ (j : Job) (i : Fin 4) (k : Fin 64), let c := j.car[i]
    c.decl = true → c.firstts ≤ k.val → k.val < c.firstts + c.count → c.count ≤ 8 →
    let slot := k.val - c.firstts
    (c.slot slot = .opened → slot = c.head → (j.car0[i]).head = c.head → c.level < c.count →
      let r := (j.slotEvent i k true false).car[i]
      r.level = c.level + 1 ∧ r.head = (c.head + 1) % c.count ∧ r.slot slot = .ready ∧ r.rot = c.rot + 1) ∧
    (c.slot slot = .opened → slot ≠ c.head →
      let r := (j.slotEvent i k true false).car[i]
      r.level = c.level ∧ r.head = c.head ∧ r.slot slot = .complete) ∧
    let r := (j.slotEvent i k false true).car[i]
    r.level = c.level ∧ r.head = c.head ∧ r.slot slot = .poisoned)

-- Submissions.

/-- R278, R283 to R294: COPY, COPYR, QFILL and TSARRIVE complete: with legal operands and a place in their queue their commands are
accepted; a COPY has pinned the frames of its box. R130: the scope of a command that is performed reaches every core that it sends
to. Which pages a KV-indirect copy pins is log entry 39 (DEDUCED), and that the home of global bytes widens no scope log entry 88
(DESIGN CHOICE). -/
def Obligations.CopySubmission : Prop :=
  (∀ (s : State) (dir : Dir) (xt xm xs : BitVec 4) (t : Tags) (vt vm vs : Word) (xl : List (Nat × Xlat)),
    HasX s xm vm → HasX s xs vs → HasX s xt vt → vm.toNat % 16 = 0 → BlockIn s vm.toNat 112 → vs.toNat % 4 = 0 →
    BlockPart s vs.toNat 28 (4 * min 7 (fieldAt (bytesAt s vm 112) 8 1)) →
    let st := dir == .st
    let m := tmapOf (bytesAt s vm 112) (bytesAt s vs 28)
    firstFault (m.faults (bytesAt s vm 112) st) = none → m.trapDim = none →
    vt.toNat % (if m.swz = 0 then 16 else 4096) = 0 → SpanOk s (!st) vt m.bytes → m.kvind = false →
    CanSubmit s st t.tl → Resident s m.vas (!st) st xl →
    Submits s (.copy dir xt xm xs t) st t.tl t.ts t.ts t.scope vm vs vt m.units fun u c =>
      Pinned xl u c ∧ c.blk = bytesAt s vm 112 ∧ c.blk2 = bytesAt s vs 28) ∧
  (∀ (s : State) (xs xm xt : BitVec 4) (t : Tags) (vm loc n : Word), HasX s xm vm → HasX s xs loc → HasX s xt n →
    locatorOk loc = true → vm.toNat % 16 = 0 → (locator loc).loc % 16 = 0 → n.toNat % 16 = 0 → n.toNat ≤ 0x800000 →
    SpanOk s false vm n.toNat →
    (n ≠ 0 → vm.toNat % 4096 = (locator loc).loc % 4096 ∨
      ∀ l, s.cjob.place vm.toNat n.toNat = .at l → ∀ x ∈ tilesOf l.addr n.toNat, s.here.tag x = 0) →
    CanSubmit s true t.tl →
    Submits s (.copyr xs xm xt t) true t.tl t.ts none t.scope vm loc n (n.toNat / 16) nothing) ∧
  (∀ (s : State) (tgt : Strm) (k : BitVec 2) (xm xt : BitVec 4) (t : Tags) (vm n : Word), HasX s xm vm → HasX s xt n →
    1 ≤ n.toNat → n.toNat ≤ 4096 → s.cjob.inMask tgt = true → vm.toNat % (if tgt = .v then 16 else 8) = 0 →
    SpanOk s false vm (n.toNat * if tgt = .v then 2048 else 8) → CanSubmit s false t.tl →
    Submits s (.qfill tgt k xm xt t) false t.tl t.ts t.ts t.scope vm 0 n n.toNat nothing) ∧
  (∀ (s : State) (xm xs : BitVec 4) (tl : Option (BitVec 3)) (scope : Scope) (name n : Word), HasX s xm name →
    HasX s xs n → locatorOk name = true → n.toNat < 2 ^ 39 → 0xC00000 ≤ (locator name).loc →
    (locator name).loc < 0xC00400 → (locator name).loc % 16 = 0 → CanSubmit s true tl → Lands s →
    Submits s (.tsarrive xm xs tl scope) true tl none none scope name n 0 1 nothing) ∧
  (∀ (s u : State) (dir : Dir) (xt xm xs : BitVec 4) (t : Tags) (vt vm vs : Word) (head : List (Nat × Xlat)) (k : KvTable)
    (pool : Pool) (pb : List Byte) (es : List (Nat × Word)) (holds : List (Nat × Nat × Nat)) (l1 l2 l3 : List KvPg),
    HasX s xm vm → HasX s xs vs → HasX s xt vt → vm.toNat % 16 = 0 → BlockIn s vm.toNat 112 → vs.toNat % 4 = 0 →
    BlockPart s vs.toNat 28 (4 * min 7 (fieldAt (bytesAt s vm 112) 8 1)) →
    let st := dir == .st
    let m := tmapOf (bytesAt s vm 112) (bytesAt s vs 28)
    let n := copyBy s dir xt xm xs t vm vs vt (bytesAt s vm 112) (bytesAt s vs 28)
    let part := s.cjob.nest.part
    let table := BitVec.ofNat 64 m.base
    let ents := es.filter fun x => entSt x.2 != 0
    let slots := (ents.map fun x => entSlot x.2).eraseDups
    firstFault (m.faults (bytesAt s vm 112) st) = none → m.trapDim = none →
    vt.toNat % (if m.swz = 0 then 16 else 4096) = 0 → SpanOk s (!st) vt m.bytes → m.kvind = true → m.base % 64 = 0 →
    CanSubmit s st t.tl → Resident s [m.base] true false head →
    s.tableHeld ((head.map fun x => canon s.pkgnum.toNat (x.2.frame + m.base % 0x200000)).headD 0) = false →
    Looks s n (s.kvHead part table) [] l1 (k, pool, pb) → firstFault (m.kvFaults pool) = none →
    Looks s n (s.kvEnts part m table k pool) l1 l2 es →
    (m.edgeOf 1 = 0 → ∀ x, x < m.count → ∃ cs, m.coords x = some cs ∧ (kvHeld ents cs).isSome = true) →
    Looks s n (s.kvHolds part st k pool slots) l2 l3 (u, holds) → Pinnable u l3 →
    Submits s (.copy dir xt xm xs t) st t.tl t.ts t.ts t.scope vm vs vt m.units fun w c =>
      PinnedKv l3 w c ∧ c.ents = ents ∧ c.pool = pb ∧ c.holds = holds) ∧
  (∀ (s : State) (n : CoreIx) (c : Cmd), scopeRank c.scope ≤ 2 →
    scopeRank c.scope ≤ scopeRank (s.widen n c) ∧
    ∀ d ∈ s.sendsTo n c, scopeRank (s.scopeTo n d.1 d.2.1) ≤ scopeRank (s.widen n c))

/-- R299 to R308: the window words and the collective words complete: with legal operands and a place in their queue their
commands are accepted; a two-sided collective takes the next instance of its channel. -/
def Obligations.WindowAndCollectiveSubmission : Prop :=
  (∀ (s : State) (w : BitVec 3) (xm xs : BitVec 4) (tl : Option (BitVec 3)) (scope : Scope) (a n : Word), HasX s xm a →
    HasX s xs n → a.toNat % 4096 = 0 → n.toNat % 4096 = 0 → a.toNat + n.toNat ≤ 0x800000 →
    (n ≠ 0 → (s.here.winAfter.getD w.toNat ⟨0, 0⟩).len = 0 ∧
      (∀ r ∈ s.here.winAfter, r.len = 0 ∨ a.toNat + n.toNat ≤ r.base ∨ r.base + r.len ≤ a.toNat) ∧
      ∀ c ∈ s.here.copies, a.toNat + n.toNat ≤ c.tile * 4096 ∨ c.tile * 4096 + 4096 ≤ a.toNat) →
    CanSubmit s true tl →
    Submits s (.wdecl w xm xs tl scope) true tl none none scope a n 0 1 nothing) ∧
  (∀ (s : State) (i : Instr) (xs xm xt : BitVec 4) (t : Tags) (loc a n : Word),
    (i = .wget xs xm xt t ∨ i = .wown xs xm xt t) → HasX s xm loc → HasX s xs a → HasX s xt n →
    locatorOk loc = true → 1 ≤ n.toNat → n.toNat ≤ 512 → a.toNat % 4096 = 0 → (locator loc).loc % 4096 = 0 →
    (a.toNat + n.toNat * 4096 ≤ 0x400000 ∨ 0x400000 ≤ a.toNat ∧ a.toNat + n.toNat * 4096 ≤ 0x800000) →
    ¬ (s.localName (locator loc) = true ∧ (locator loc).core = s.cur.core) →
    (∀ k, k < n.toNat → s.here.inWindow (a.toNat / 4096 + k) = false ∧
      ∀ c, s.here.copyAt (a.toNat / 4096 + k) = some c →
        s.localName (locator loc) = true ∧ c.home = (locator loc).core ∧ c.homeTile = (locator loc).loc / 4096 + k) →
    s.here.copies.length + ((List.range n.toNat).filter fun k => (s.here.copyAt (a.toNat / 4096 + k)).isNone).length ≤ 512 →
    CanSubmit s false t.tl →
    Submits s i false t.tl t.ts t.ts t.scope loc a n n.toNat nothing) ∧
  (∀ (s : State) (i : Instr) (xs xt : BitVec 4) (t : Tags) (a n : Word), (i = .wput xs xt t ∨ i = .wdrop xs xt t) →
    HasX s xs a → HasX s xt n → a.toNat % 4096 = 0 → 1 ≤ n.toNat → n.toNat ≤ 512 →
    ((a.toNat + n.toNat * 4096 ≤ 0x400000 ∨ 0x400000 ≤ a.toNat ∧ a.toNat + n.toNat * 4096 ≤ 0x800000) →
    (∀ k, k < n.toNat → (s.here.copyAt (a.toNat / 4096 + k)).isSome = true) → CanSubmit s true t.tl → Lands s →
    Submits s i true t.tl t.ts t.ts t.scope 0 a n n.toNat nothing) ∧
    (a.toNat < 2 ^ 24 → a.toNat < 0x400000 ∧ 0x400000 < a.toNat + n.toNat * 4096 ∨ 0x800000 < a.toNat + n.toNat * 4096 →
      exec i s = .next (s.takeTrap cExtentViolation a))) ∧
  (∀ (s : State) (i : Instr) (xt xs xm : BitVec 4) (t : Tags) (two : Bool) (vm vs vt : Word),
    collOf i = some (xt, xs, xm, t, two) → HasX s xm vm → HasX s xs vs → HasX s xt vt → vm.toNat % 64 = 0 →
    BlockIn s vm.toNat 64 →
    let b := bytesAt s vm 64
    s.collBad s.cur.core i b = false → (fieldAt b 0x14 1 < 14 ∨ s.cjob.nest.prio = 7) → vs.toNat % 16 = 0 →
    vt.toNat % 16 = 0 → memberBits i b % (match i with | .cring .. => 512 | _ => 128) = 0 → SpanOk s false vs (memberBytes i b) →
    vt.toNat < 2 ^ 24 →
    (if two then SpanOk s true vt (resultBytes i b) else countOf b = 0 ∨ 0x800000 ≤ vt.toNat ∧ vt.toNat < 0xC00000 ∨
      vt.toNat + countOf b ≤ 0x400000 ∨ 0x400000 ≤ vt.toNat ∧ vt.toNat + countOf b ≤ 0x800000) →
    CanSubmit s true t.tl →
    Submits s i true t.tl t.ts (if two then t.ts else none) t.scope vm vs vt (resultBytes i b / 16) fun u c =>
      c.blk = b ∧ (∀ h : fieldAt b 0x14 1 < 16, c.inst = s.cjob.channels[fieldAt b 0x14 1]) ∧
      ∀ k : Fin 16, u.cjob.channels[k] = s.cjob.channels[k] + if two ∧ k.val = fieldAt b 0x14 1 then 1 else 0)

/-- R354 to R364: the KV words complete: with a legal block, every page that they touch translated and pinned, and a place in the
store queue, their commands are accepted; the pages are those that the command meets when it is run on the state at its submission (log
entry 39); KVAPPEND owes xt and p7 to its stream and freezes a lockstep job. -/
def Obligations.KvSubmission : Prop :=
  (∀ (s : State) (xt xm xs : BitVec 4) (t : Tags) (a n : Word) (l : List KvPg), HasX s xm a → HasX s xs n →
    1 ≤ n.toNat → n.toNat ≤ 4096 → a.toNat % 16 = 0 → BlockIn s a.toNat (16 * n.toNat) →
    let b := bytesAt s a (16 * n.toNat)
    (∀ k, k < n.toNat → fieldAt b (16 * k) 8 % 64 = 0 ∧ fieldAt b (16 * k + 8) 8 < 1024 ∧
      1 ≤ fieldAt b (16 * k + 8) 8 % 256 ∧ fieldAt b (16 * k + 8) 8 % 256 ≤ 64) →
    CanSubmit s true t.tl →
    Touches s { s.command (.kvappend xt xm xs t) t.ts t.scope a n 0 with blk := b, total := n.toNat } l → Pinnable s l →
    Submits s (.kvappend xt xm xs t) true t.tl t.ts t.ts t.scope a n 0 n.toNat fun u c =>
      PinnedKv l u c ∧ c.blk = b ∧ (∃ w ∈ u.cjob.kvWait, w.ord = c.ord ∧ w.strm = s.cur.strm ∧ w.reg = xt ∧ w.noP = false) ∧
      (s.cjob.strict = true → u.cjob.st = .frozen) ∧ (s.cjob.strict = false → u.cjob.st = s.cjob.st)) ∧
  (∀ (s : State) (i : Instr) (xm : BitVec 4) (xs : Option (BitVec 4)) (t : Tags) (steps : Nat) (a x : Word)
    (l : List KvPg), HasX s xm a → (∀ r, xs = some r → HasX s r x) → (xs = none → x = 0) → x.toNat < 2 ^ 24 →
    a.toNat % 32 = 0 → BlockIn s a.toNat 32 →
    let b := bytesAt s a 32
    kvOf b i = some (xm, xs, t, steps) → fieldAt b 0 8 % 64 = 0 → 1 ≤ fieldAt b 0x14 4 → fieldAt b 0x14 4 ≤ 4096 →
    (match i with | .kvref .. => fieldAt b 8 8 % 64 = 0 | _ => fieldAt b 8 8 = 0) →
    (match i with | .kvsetRep .. => fieldAt b 0x18 4 ≤ 5 | _ => fieldAt b 0x18 4 = 0) →
    CanSubmit s true t.tl →
    Touches s { s.command i t.ts t.scope a x 0 with blk := b, src := a.toNat, total := steps } l → Pinnable s l →
    Submits s i true t.tl t.ts t.ts t.scope a x 0 steps fun u c => PinnedKv l u c ∧ c.blk = b) ∧
  (∀ (s : State) (xm : BitVec 4) (tl : BitVec 3) (ts : Option (BitVec 6)) (scope : Scope) (a : Word)
    (l : List KvPg), HasX s xm a → a.toNat % 32 = 0 → BlockIn s a.toNat 32 →
    let b := bytesAt s a 32
    fieldAt b 0x14 4 = 0 → fieldAt b 0 8 % 64 = 0 → CanSubmit s true (some tl) →
    Touches s { s.command (.roust xm tl ts scope) ts scope a 0 0 with blk := b, src := a.toNat, total := 1 } l → Pinnable s l →
    Submits s (.roust xm tl ts scope) true (some tl) ts ts scope a 0 0 1 fun u c => PinnedKv l u c ∧ c.blk = b)

/-- R277, R278, R213, R312, R283, R309: a channel kept for level 7, a poisoned register, a full queue, a local address past 24 bits, a locator with a
reserved bit, a misaligned block and a block outside G0 and G1 stop a submission: traps as the rules name them, and a
full queue holds the word with nothing changed. -/
def Obligations.SubmissionStops : Prop :=
  (∀ (s : State) (xs xm xt : BitVec 4) (t : Tags) (vm loc n : Word), HasX s xm vm → HasX s xs loc → HasX s xt n →
    let i := Instr.copyr xs xm xt t
    (2 ^ 24 ≤ vm.toNat → exec i s = .next (s.takeTrap cExtentViolation vm)) ∧
    (vm.toNat < 2 ^ 24 → locatorOk loc = false → exec i s = .next (s.takeTrap cIllegalOperand s.cur.raw)) ∧
    (vm.toNat < 2 ^ 24 → locatorOk loc = true → vm.toNat % 16 ≠ 0 → exec i s = .next (s.takeTrap cAlignment vm)) ∧
    (vm.toNat < 2 ^ 24 → locatorOk loc = true → vm.toNat % 16 = 0 → (locator loc).loc % 16 = 0 → n = 0 → Quiet s → (∀ l ∈ s.cjob.late, l.strm = s.cur.strm → ∃ k, l.op = .load k) →
      (∀ p ∈ s.here.psb, p.rdup = false) → 16 ≤ s.here.taken true →
      exec i s = .next { s with cur := { s.cur with out := .hold .queueFull 0 } })) ∧
  (∀ (s : State) (xm : BitVec 4) (a : Word), HasX s xm a →
    (2 ^ 24 ≤ a.toNat → exec (.cdecl xm) s = .next (s.takeTrap cExtentViolation a)) ∧
    (a.toNat < 2 ^ 24 → a.toNat % 16 ≠ 0 → exec (.cdecl xm) s = .next (s.takeTrap cAlignment a)) ∧
    (0xC00400 ≤ a.toNat → a.toNat < 2 ^ 24 → a.toNat % 16 = 0 →
      exec (.cdecl xm) s = .next (s.takeTrap cExtentViolation a))) ∧
  (∀ (s : State) (i : Instr) (xt xs xm : BitVec 4) (t : Tags) (two : Bool) (vm vs vt : Word),
    collOf i = some (xt, xs, xm, t, two) → HasX s xm vm → HasX s xs vs → HasX s xt vt → vs.toNat < 2 ^ 24 →
    vt.toNat < 2 ^ 24 → vm.toNat % 64 = 0 → BlockIn s vm.toNat 64 → s.collBad s.cur.core i (bytesAt s vm 64) = false →
    14 ≤ fieldAt (bytesAt s vm 64) 0x14 1 → s.cjob.nest.prio ≠ 7 →
    exec i s = .next (s.takeTrap cPrivilege s.cur.raw)) ∧
  (∀ (i : Instr) (s : State) (xm : BitVec 4) (o : Origin), SettledX s xm → (xv s xm).po = some o →
    ((∃ d xt xs t, i = .copy d xt xm xs t) ∨ (∃ xs xt t, i = .copyr xs xm xt t) ∨ (∃ g k xt t, i = .qfill g k xm xt t) ∨
      (∃ xs tl sc, i = .tsarrive xm xs tl sc) ∨ (∃ ts, i = .tspost ts xm) ∨ i = .cdecl xm ∨ (∃ w xs tl sc, i = .wdecl w xm xs tl sc) ∨
      (∃ xs xt t, i = .wget xs xm xt t) ∨ (∃ xt t, i = .wput xm xt t) ∨ (∃ xt xs t, i = .cgather xt xs xm t) ∨
      (∃ xt xs t, i = .kvappend xt xm xs t) ∨ (∃ t, i = .kvref xm t) ∨ ∃ tl ts sc, i = .roust xm tl ts sc) →
    exec i s = .next (s.takeTrap cPoisonConsumed o))

namespace Sys2Proof.Claims

open Sys2Proof.Machine

/-- The words of the running job of a core have results in flight that its job cycles move. -/
abbrev JobRuns (s : State) (n : CoreIx) : Prop :=
  (s.job n).st = .running ∨ (s.job n).st = .trapped ∨ (s.job n).st = .draining

/-- An outcome is a next state of which something holds. -/
def Leads (o : Answer) (p : State → Prop) : Prop := ∃ t, o = .next t ∧ p t

/-- An event of core n happens and leads to a state of which something holds. -/
def Happens (e : Instr) (s : State) (p : State → Prop) : Prop := ∃ t, exec e s = .next t ∧ p t

end Sys2Proof.Claims

-- Events of a core.

/-- R211, R274, R326, R332, R212, R126: the events that write results complete: what is due is written, a matrix word whose masses the home
takes (R134) has its effect, an exchange whose accumulator is free is made, an answered load writes its register and no longer freezes its
job, an atomic is performed at its home and its old value is on its way. -/
def Obligations.ResultEvents : Prop :=
  (∀ (s : State) (n : CoreIx) (st : Strm), JobRuns s n →
    exec (.scalarResultWrite n st) s = .next (s.modJob n fun j => j.modStream st fun t => t.drain j.now) ∧
    exec (.vectorResultWrite n) s = .next (s.modJob n Job.vectorDue)) ∧
  (∀ (s : State) (n : CoreIx) (o : MatOp), JobRuns s n → (s.job n).mops = [o] → o.due ≤ (s.job n).now → o.fin = false →
    o.massHeld (s.heldTile n) (s.core n) = false →
    let r := finishMat s.gcc (s.core n) { s.job n with mops := [{ o with fin := true }] } o
    exec (.matrixWordComplete n) s = .next (s.setCore n (r.1.setJob r.2))) ∧
  (∀ (s : State) (n : CoreIx) (a : BitVec 2) (o pc : Nat), JobRuns s n → (s.job n).aswap = [(a, o, pc)] →
    (∀ m ∈ (s.job n).marks, (s.job n).now < m.due → (m.h = true ↔ (s.job n).st = .trapped) →
      (∀ c, m.rsc ≠ .accOwn ((0 : BitVec 1) ++ a) c) ∧ m.rsc ≠ .accRead ((0 : BitVec 1) ++ a)) →
    exec (.aswapExchange n a) s = .next (s.modJob n fun j => ({ j with
      aswap := [], accW := j.accW.set a.toNat j.accV[a.toFin], accV := j.accV.set a.toFin j.accW[a.toNat] } : Job).addMark
        (.accSwap a) 1 (BitVec.ofNat 64 pc))) ∧
  (∀ (s : State) (n : CoreIx) (st : Strm) (g : GAcc) (xd : BitVec 4) (sz : Sz) (sx : Bool) (bs : List Byte),
    ((s.job n).nest.lockstep = false ∨ (s.job n).cycDone = false) →
    (s.job n).outs = [g] → g.strm = st → g.kind = .load sz sx → g.reg = (0 : BitVec 1) ++ xd → xd ≠ 0 →
    g.val = some (bs, none) → bs.length = widthOf sz →
    Happens (.globalLoadComplete n st) s fun t => (t.job n).outs = [] ∧
      (((t.job n).stream st).x[xd.toFin]) = ⟨extended sx bs, none⟩ ∧
      (t.job n).freeze = (s.job n).freeze.filter (fun f => !(f.kind == .gload && f.strm == st)) ∧
      (t.job n).st = (s.job n).st) ∧
  (∀ (s : State) (n : CoreIx) (st : Strm) (g : GAcc) (aop : BitVec 4) (dw : Bool) (b c : Word),
    (s.job n).outs = [g] → g.strm = st → g.kind = .atomic aop dw b c → g.val = none →
    g.len = (if dw then 8 else 4) →
    (s.core n).psb = [] → s.homeDead g.pa = false → s.homePo g.pa g.len = none → s.dups = [] → s.mem.wf = true →
    (∀ m, alGet s.homeOrder (g.pa / 256) = some m → m ≤ n.val) → (alGet s.holders (g.pa / 0x200000)).getD [] = [] →
    (∀ w ∈ s.rdWrites, w.page ≠ g.pa / 0x200000) →
    let old := little (s.homeBytes g.pa g.len)
    let new := newOf aop (8 * g.len) old (b.toNat % 256 ^ g.len) (c.toNat % 256 ^ g.len)
    Happens (.homeAtomic n st) s fun t =>
      (t.job n).outs = [{ g with val := some ((List.range g.len).map (fun k => BitVec.ofNat 8 (old / 256 ^ k)), none) }] ∧
      t.homeBytes g.pa g.len = (List.range g.len).map (fun k => BitVec.ofNat 8 (new / 256 ^ k)) ∧
      ∀ a, a < g.pa ∨ g.pa + g.len ≤ a → t.homeByte a = s.homeByte a)

/-- R60, R221, R278, R279: the events that end a hold complete: the stream is no longer held, its freezing event is gone,
and a job that nothing freezes any more runs; with the end of a walk the die holds the translation. R94 to R97: the walk reads
four levels of entries from the partition's root table and answers with the leaf's frame and rights. -/
def Obligations.HoldEndEvents : Prop :=
  (∀ (s : State) (n : CoreIx) (st : Strm) (e : Instr) (k : Hold) (x : Nat), ((s.job n).stream st).held = some (k, x) →
    (e = .stampwTargetReached n st ∧ k = .stamp ∧ x ≤ s.gcc ∨ e = .heldSubmissionAccept n st ∧ k = .queueFull) →
    Happens e s fun t => ((t.job n).stream st).held = none ∧
      (t.job n).freeze = (s.job n).freeze.filter (fun f => !(f.kind == k && f.strm == st)) ∧
      ((s.job n).st = .frozen → (t.job n).freeze = [] → (t.job n).st = .running) ∧
      ((s.job n).st ≠ .frozen ∨ (t.job n).freeze ≠ [] → (t.job n).st = (s.job n).st)) ∧
  (∀ (s : State) (n : CoreIx) (st : Strm) (page : Nat) (x : Xlat),
    ((s.job n).stream st).held = some (.translation, page) →
    s.walk (s.job n).nest.part (BitVec.ofNat 64 (page * 0x200000)) false false false = .ok x →
    Happens (.submissionTranslationDone n st) s fun t => ((t.job n).stream st).held = none ∧
      ((t.die (dieOf n)).tlbFind (s.job n).nest.part (BitVec.ofNat 64 (page * 0x200000))).isSome = true) ∧
  (∀ (s : State) (part : BitVec 16) (va : Word) (p : Partition) (table : Nat → Nat) (e : Nat → Word), s.partOf part = some p →
    let ea (k : Nat) : Nat := table k + va.toNat / 2 ^ (21 + 9 * k) % 512 * 8
    let pa (k : Nat) : Nat := canon s.pkgnum.toNat (ea k)
    va.toNat < 2 ^ 57 → table 3 = p.root.toNat * 4096 → (∀ k, k < 3 → table k = (e (k + 1) &&& 0x000FFFFFFFFFF000).toNat) →
    (∀ k, k < 4 → s.isDram (ea k) = true ∧ s.homeDead (ea k) = false ∧ s.homePo (pa k) 8 = none ∧
      little (s.homeBytes (pa k) 8) = (e k).toNat ∧ (e k).getLsbD 0 = true) →
    (∀ k, 1 ≤ k → k < 4 → e k &&& 0xFFF0000000000FFE = 0) → e 0 &&& 0xFFF00000001FFFD0 = 0 →
    s.frameBad (e 0 &&& 0x000FFFFFFFE00000).toNat false ((e 0).getLsbD 5) = false →
    s.walk part va false false false =
      .ok ⟨(e 0 &&& 0x000FFFFFFFE00000).toNat, ea 0, (e 0).getLsbD 1, (e 0).getLsbD 2, (e 0).getLsbD 5⟩)

/-- R280 to R284, R291, R373, R120, R121: the events of queued commands complete: a command begins with its ranges resolved, one that
is a release once what its stream did before has been performed, a unit of it lands, with what its stream wrote before it, a queue entry is appended, its first message arrives and finds the current phase, it completes and leaves its
queue with its number, it ends with its error, noted on its timeline or else owed to its stream, and an error owed to a stream
is delivered. -/
def Obligations.CommandEvents : Prop :=
  (∀ (s s1 s2 s3 : State) (n : CoreIx) (store : Bool) (c c1 c2 c3 c4 : Cmd) (j : Job),
    (s.core n).nextToBegin store = some c → c.fail = none → (s.portup ≠ 0 ∨ s.leaves n c = false) → twoSided c.op = false →
    (s.core n).jobOf c.seq c.iter = some j → j.saving = none → beginSource (s.core n) j c = .ok c1 →
    beginTarget s n j c1 = .ok (s1, c2) → beginFar s1 n c2 = .ok (s2, c3) → beginOwn s2 n j c3 = .ok (s3, c4) →
    exec (.commandBegin n store) s = .next (s3.modCmd n store c.ord fun e => { c4 with begun := true, frames := e.frames })) ∧
  (∀ (s : State) (n : CoreIx) (store : Bool) (c : Cmd) (j : Job), (s.core n).queue store = [c] → c.begun = false →
    c.fail = none → c.frames = [] → (s.core n).jobOf c.seq c.iter = some j → j.saving = none →
    ((∃ w xm xs tl sc, c.op = .wdecl w xm xs tl sc) ∨ (∃ xs xm xt t, c.op = .wget xs xm xt t ∨ c.op = .wown xs xm xt t) ∨
       (∃ xm xs tl sc, c.op = .tsarrive xm xs tl sc) ∧ s.localName (locator c.xm) = true ∧ s.released n j c = true →
     exec (.commandBegin n store) s = .next (s.modCmd n store c.ord fun d => { d with begun := true })) ∧
    (∀ tgt k xm xt t, c.op = .qfill tgt k xm xt t → 1 ≤ c.xt.toNat →
     c.xm.toNat + c.xt.toNat * (if tgt = .v then 2048 else 8) ≤ 0x400000 →
     exec (.commandBegin n store) s = .next (s.modCmd n store c.ord fun d =>
       { d with begun := true, src := c.xm.toNat, srcSlot := none }))) ∧
  (∀ (s : State) (n : CoreIx) (j : Job) (c : Cmd), (∀ g ∈ j.outs, g.strm ≠ c.strm) →
    (∀ m, ∀ p ∈ (s.core m).psb, relPoint c.scope p = true) → s.released n j c = true) ∧
  (∀ (s t : State) (n : CoreIx) (store : Bool) (ix : Nat) (c : Cmd), ((s.core n).queue store)[ix]? = some c → c.begun = true →
    c.pos < c.total → c.fail = none → s.landUnit n store (ix == 0) c = .done t →
    exec (.engineWriteLands n store ix 1) s = .next t) ∧
  (∀ (s : State) (n : CoreIx) (c : Cmd) (xm xs : BitVec 4) (tl : Option (BitVec 3)) (sc : Scope) (k : BitVec 6),
    (s.core n).sq = [c] → c.op = .tsarrive xm xs tl sc → c.begun = true → c.pos < c.total → c.fail = none → c.rslots = [] →
    s.localName (locator c.xm) = true → (locator c.xm).core = n → locTs (locator c.xm).loc = some k →
    exec (.engineWriteLands n true 0 1) s = .next ((s.modJobOf n c.seq c.iter fun j =>
      j.modTs k fun t => t.addArr c.phase c.xs.toNat).modCmd n true c.ord fun d =>
        { d with pos := d.pos + 1, tagged := d.tagged.eraseDups })) ∧
  (∀ (s : State) (n : CoreIx) (ix : Nat) (c : Cmd) (tgt : Strm) (k : BitVec 2) (xm xt : BitVec 4) (tg : Tags) (j : Job),
    (s.core n).lq[ix]? = some c → c.op = .qfill tgt k xm xt tg → tgt ≠ .v → c.begun = true → c.pos < c.total → c.fail = none →
    c.tagged ≠ [s.gcc + 1] → s.turnsDone n = true → (s.core n).jobOf c.seq c.iter = some j →
    c.src + 8 * (c.pos + 1) ≤ 0xC00000 → (∀ w ∈ (s.cmdView n c).copies, w.st ≠ .i) →
    ((j.stream tgt).q[k.toFin]).length + (j.stream tgt).popped[k.toFin] < 4 →
    Happens (.qfillAppend n ix) s fun t => ∃ j' e, (t.core n).jobOf c.seq c.iter = some j' ∧
      (j'.stream tgt).q[k.toFin] = (j.stream tgt).q[k.toFin] ++ [e] ∧ e.avail = s.gcc + 1 ∧
      e.val.v = BitVec.ofNat 64 (little ((s.cmdView n c).spad.read (c.src + 8 * c.pos) 8)) ∧
      (e.val.po.isSome = ((s.cmdView n c).poison (c.src + 8 * c.pos) 8).isSome)) ∧
  (∀ (s : State) (n : CoreIx) (c : Cmd), (∀ m ∈ (s.jobFor n c).moves, m.strm ≠ c.strm) → (s.jobFor n c).mops = [] →
    (∀ l ∈ (s.core n).landing, l.rank ≠ rankOf c.strm) → s.cmdView n c = s.core n) ∧
  (∀ (s : State) (n : CoreIx) (store : Bool) (ix : Nat) (c : Cmd) (d : Nat × CoreIx × Nat × Nat),
    ((s.core n).queue store)[ix]? = some c → c.begun = true → c.total ≠ 0 →
    ((s.sendsTo n c).find? fun d => d.1 == s.pkgnum.toNat && d.2.1 != n && !(c.rphase.any fun p => p.1 == d.2.1.val)) = some d →
    s.corePart d.2.1 c.part = true → s.coreUp d.2.1 = true →
    let ts := match c.op with | .tsarrive .. => locTs d.2.2.1 | _ => c.ts
    let phase := match ts with | some k => ((s.job d.2.1).ts[k.toFin]).phase | none => false
    exec (.remoteArrival n store ix) s = .next (s.modCmd n store c.ord fun e =>
      { e with rphase := e.rphase ++ [(d.2.1.val, phase)] })) ∧
  (∀ (s : State) (n : CoreIx) (c : Cmd), (s.core n).sq = [c] → c.begun = true → c.total ≠ 0 → c.rphase = [] →
    let l := locator (match c.op with | .tsarrive .. => c.xm | _ => c.xs)
    (∃ xm xs tl sc, c.op = .tsarrive xm xs tl sc) ∨ (∃ xs xm xt t, c.op = .copyr xs xm xt t) → s.localName l = true →
    l.core ≠ n → s.corePart l.core c.part = true → s.coreUp l.core = true →
    Happens (.remoteArrival n true 0) s fun t => ∃ phase, (t.core n).sq = [{ c with rphase := [(l.core.val, phase)] }]) ∧
  (∀ (s : State) (n : CoreIx) (store : Bool) (c : Cmd), ((s.core n).queue store).head? = some c → c.begun = true →
    c.total ≤ c.pos → c.fail = none → twoSided c.op = false → isKv c.op = false → (∀ m, (s.core m).inbox = []) →
    exec (.commandComplete n store) s = .next (s.completes n store c) ∧
    (∀ d ∈ ((s.completes n store c).core n).queue store, d.ord ≠ c.ord) ∧
    (c.holds = [] → ∀ k m j, c.tl = some (k, m) → (s.core n).jobOf c.seq c.iter = some j →
      ∃ j', ((s.completes n store c).core n).jobOf c.seq c.iter = some j' ∧
        j'.tl[k.toFin] = (j.tl[k.toFin]).complete m)) ∧
  (∀ (s : State) (n : CoreIx) (store : Bool) (ix : Nat) (c : Cmd) (cause : Cause),
    ((s.core n).queue store)[ix]? = some c → c.fail = some cause → (∀ a b d e, c.op ≠ .cmcast a b d e) →
    cause ≠ cPageProtection → cause ≠ cLinkDown →
    exec (.commandError n store ix) s = .next ((s.roustFree n c).failCmd n store c cause c.info) ∧
    (c.holds = [] → ∀ j, (s.core n).jobOf c.seq c.iter = some j →
      let t := (s.roustFree n c).failCmd n store c cause c.info
      (∀ d ∈ (t.core n).queue store, d.ord ≠ c.ord) ∧
      ∃ j', (t.core n).jobOf c.seq c.iter = some j' ∧
        (∀ k m, c.tl = some (k, m) → j'.tl[k.toFin] = (j.tl[k.toFin]).failAt m cause) ∧
        (c.tl = none → c.ts = none → c.orphan = false → j'.owed = j.owed ++ [(c.ord, c.strm, cause, c.info, c.pc)]))) ∧
  (∀ (s : State) (n : CoreIx) (st : Strm) (o : Nat) (cause : Cause) (info pc : Word),
    (s.job n).owed = [(o, st, cause, info, pc)] → ((s.job n).stream st).started = true → ((s.job n).stream st).joined = false →
    (s.job n).st = .running → (s.job n).traps = [] → (s.job n).stop = none → (s.job n).wdog = none → (s.job n).watch = none →
    ((s.job n).nest.lockstep = false ∨ (s.job n).cycDone = false) → (∀ u, s.tried n u = false) →
    exec (.deferredCommandTrap n st) s =
      .next ((s.modJob n fun j => { j with owed := [] }).deliver n ⟨st, cause, info, pc, ((s.job n).stream st).pc, false⟩) ∧
    ((s.job n).outs = [] →
      cause ∉ [cPageNotPresent, cPageProtection, cPinExhausted, cDieFenced, cLinkDown, cEcc] → (s.job n).trapvec ≠ 0 →
      (s.job n).nest.smask.getLsbD 0 = true → ((s.job n).stream .s).joined = false →
      Happens (.deferredCommandTrap n st) s fun t => let j := t.job n
        j.st = .trapped ∧ j.trapcause = cause ∧ j.trappc = pc ∧ j.trapstrm = st ∧ j.trapinfo = info ∧
        (j.stream .s).pc = j.trapvec ∧ j.owed = []))

/-- R105, R107: DONE of a timeline moves over the numbers that have completed, never past FAILNUM - 1, and FAILNUM is the
lowest number that ended with an error, with its cause. R113, R297: the events of carousels complete: a COMPLETE slot at
HEAD becomes READY, and a release whose reads are over frees the slot at TAIL and, under AUTOARM, posts the slot size to its
turnstile. -/
def Obligations.TimelineAndCarouselEvents : Prop :=
  ((∀ (t : Timeline) (n : Nat), t.failnum = 0 → t.above = [] → t.done < n →
     (t.complete n).done = (if n = t.done + 1 then n else t.done) ∧
     (n ≠ t.done + 1 → (t.complete n).above = [n]) ∧ (t.complete n).issued = t.issued) ∧
   (∀ (t : Timeline) (n : Nat), t.done ≤ (t.complete n).done ∧ (t.complete n).failnum = t.failnum ∧
     (t.failnum ≠ 0 → t.done < t.failnum → (t.complete n).done < t.failnum) ∧
     ∀ k, t.done < k → k ≤ (t.complete n).done → k = n ∨ k ∈ t.above) ∧
   (∀ (t : Timeline) (n : Nat) (c : Cause),
     (t.failnum = 0 ∨ n < t.failnum → (t.failAt n c).failnum = n ∧ (t.failAt n c).cause = c) ∧
     (t.failnum ≠ 0 → t.failnum ≤ n → t.failAt n c = t) ∧ (t.failAt n c).done = t.done)) ∧
  ((∀ (s : State) (n : CoreIx) (car : BitVec 2), let c := (s.job n).car[car.toFin]
     c.decl = true → c.slot c.head = .complete → ((s.job n).car0[car.toFin]).head = c.head → c.level < c.count →
     exec (.carouselHeadAdvance n car) s = .next (s.modJob n fun j => j.modCar car Carousel.advanceHead)) ∧
   (∀ c : Carousel, c.level < c.count → c.advanceHead.level = c.level + 1 ∧ c.advanceHead.head = (c.head + 1) % c.count ∧
     c.advanceHead.rot = c.rot + 1 ∧ (c.head < 8 → c.advanceHead.slot c.head = .ready) ∧ c.advanceHead.tail = c.tail) ∧
   (∀ (s : State) (n : CoreIx) (car : BitVec 2) (o : Nat), (∀ m ∈ (s.job n).moves, o ≤ m.ord) →
     (∀ m ∈ (s.job n).mops, o ≤ m.ord) → (∀ l ∈ (s.job n).late, o ≤ l.ord) → (∀ d ∈ (s.core n).lq ++ (s.core n).sq, o ≤ d.ord) → s.slotInUse n car.toNat o = false) ∧
   (∀ (s : State) (n : CoreIx) (car : BitVec 2) (o : Nat) (rest : List (Option Nat)), let c := (s.job n).car[car.toFin]
     c.rel = some o :: rest → (s.slotInUse n car.toNat o = false ∨ (∀ m ∈ (s.job n).moves, o ≤ m.ord) ∧
       (∀ m ∈ (s.job n).mops, o ≤ m.ord) ∧ (∀ l ∈ (s.job n).late, o ≤ l.ord) ∧
       ∀ d ∈ (s.core n).lq ++ (s.core n).sq, o ≤ d.ord) → 0 < c.level → c.tail < 8 → 0 < c.count → c.slot c.tail ≠ .poisoned →
     Happens (.carouselReleaseEffect n car) s fun t => let d := (t.job n).car[car.toFin]
       d.rel = rest ∧ d.level = c.level - 1 ∧ d.tail = (c.tail + 1) % c.count ∧ d.slot c.tail = .opened ∧
       (c.autoarm = true → ∀ h : c.firstts + c.tail < 64,
         ((t.job n).ts[c.firstts + c.tail]).post =
           some ((((s.job n).ts[c.firstts + c.tail]).post.getD 0) + 2 ^ (c.lslot + 12))) ∧
       (c.autoarm = false → (t.job n).ts = (s.job n).ts)))

-- Events of the coherence protocol.

/-- R123, R137, R139: the events of posted stores, invalidations and fills complete: a store reaches its home and asks the dies that
may hold a copy, an invalidation takes a die's copy, a store with every acknowledgement is ordered and its entry is free, a fill is
installed, a clean line leaves. Which of two incarnations is the older the top bit of their difference tells, which is log entry 64
(DEDUCED); that an invalidation is acknowledged in the event in which it arrives is log entry 46 (DEDUCED). -/
def Obligations.StoreAndFillEvents : Prop :=
  (∀ (s : State) (n : CoreIx) (ix : Nat) (p : PStore), (s.core n).psb[ix]? = some p → p.atHome = false →
    s.behind n p = false → s.homeDead p.pa = false → p.rdup = false →
    exec (.storeAtHome n ix) s = .next (({ s.modStore n p.ord (fun _ => { p with atHome := true, arr := s.ord }) with
      ord := s.ord + 1 }).probeFor n { p with atHome := true, arr := s.ord } false) ∧
    Happens (.storeAtHome n ix) s fun t => t.mem = s.mem ∧ ∀ q ∈ (t.core n).psb, q.ord = p.ord → q.atHome = true) ∧
  (∀ (s : State) (n : CoreIx) (ix : Nat) (p : PStore), (s.core n).psb[ix]? = some p → p.atHome = false →
    s.behind n p = false → s.homeDead p.pa = true → exec (.storeAtHome n ix) s = .next (s.orderStore n p) ∧
    (s.orderStore n p).mem = s.mem ∧ ∀ q ∈ ((s.orderStore n p).core n).psb, q.ord ≠ p.ord) ∧
  (∀ (s : State) (n : CoreIx) (ix : Nat) (p : PStore), (s.core n).psb[ix]? = some p → p.atHome = true → p.wait = 0 →
    p.rdup = false → s.earlierAtHome p = false → s.homeDead p.pa = false → s.dups = [] → s.mem.wf = true →
    Happens (.acknowledgementAtHome n ix) s fun t =>
      (t.core n).psb = (s.core n).psb.filter (fun q => q.ord != p.ord) ∧
      t.homeBytes p.pa p.data.length = p.data ∧
      ∀ a, a < p.pa ∨ p.pa + p.data.length ≤ a → t.homeByte a = s.homeByte a) ∧
  (∀ (s : State) (i : Inval), s.invals = [i] → (i.inc - s.homeInc (i.line * 256)).msb = true →
    exec (.invalidationReceived 0) s = .next { s with invals := [] }) ∧
  (∀ (s : State) (i : Inval), s.invals = [i] → i.inc = s.homeInc (i.line * 256) → Happens (.invalidationReceived 0) s fun t =>
    t.invals = [] ∧ (t.die i.die).find i.line = none ∧
    ∀ (n : CoreIx) (p : PStore), p ∈ (t.core n).psb → p.ord = i.ord → p.wait.getLsbD i.die.val = false) ∧
  (∀ (s : State) (f : Fill), s.fills = [f] → f.sent = true → f.inc = s.homeInc (f.line * 256) →
    (∀ a ∈ (s.die f.die).ackSeq, a.1 = f.line → (f.seq - a.2.1).msb = false) →
    Happens (.fillReceived 0) s fun t =>
      t.fills = [] ∧ (t.die f.die).find f.line = some ⟨f.line, f.data, f.po, f.seq⟩) ∧
  (∀ (s : State) (f : Fill) (a : Nat × BitVec 32 × Nat), s.fills = [f] → f.sent = true → f.inc = s.homeInc (f.line * 256) →
    a ∈ (s.die f.die).ackSeq → a.1 = f.line → (f.seq - a.2.1).msb = true → Happens (.fillReceived 0) s fun t => t.fills = [] ∧ (t.die f.die).find f.line = none) ∧
  (∀ (s : State) (d : DieIx) (line : Nat), ((s.die d).find line).isSome = true →
    exec (.dieCacheEviction d line) s = .next (s.modDie d fun e => { e with lines := e.lines.filter fun l => l.line != line }))

/-- R132 to R134, R139, R144, R299 to R301: the events of read-duplicated pages and of windows complete: a round begins for
the oldest write of a page, with the holders and the dies that may hold a copy asked, or, in a duplicate, with the write sent to the owner
of the page; a write whose round is over is ordered, and its writer told; a window is declared or undeclared, a tile with no other
holder is bound at once, a holder answers a probe, a home write sends the holders' copies to I. -/
def Obligations.WindowAndDuplicateEvents : Prop :=
  (∀ (s : State) (page : Nat) (w : RdWrite) (p : PStore), s.rdWrites = [w] → w.page = page → w.started = false → w.kind = .store →
    ((s.core w.core).psb.find? fun p => p.ord == w.ord) = some p → s.dups = [] →
    let told : List (Nat × FabricSay) := ((alGet s.holders page).getD []).flatMap fun k =>
      (linesOf p.pa p.data.length).map fun l => (k, FabricSay.inval (s.peerLine l))
    exec (.rdupInvalidationRound page) s = .next (({ s with
      rdWrites := [{ w with started := true, wait := told.map Prod.fst, dies := 0 }]
      fabricOut := s.fabricOut ++ told.map fun (x : Nat × FabricSay) => (⟨x.1, s.incarn, w.part, x.2⟩ : FabricOut) }).probeFor w.core p true)) ∧
  (∀ (s : State) (page line : Nat) (w : RdWrite), s.rdWrites = [w] → w.page = page → w.started = false → w.kind ≠ .store →
    s.writerThere w = true → s.dups = [] → linesOf (s.writeSpan w).1 (s.writeSpan w).2 = [line] →
    let dies := s.sharers line &&& w.mask &&& s.shellsvc
    Happens (.rdupInvalidationRound page) s fun t =>
      t.rdWrites = [{ w with started := true, wait := (alGet s.holders page).getD [], dies := dies }] ∧
      t.fabricOut = s.fabricOut ++ ((alGet s.holders page).getD []).map (fun k => (⟨k, s.incarn, w.part, .inval (s.peerLine line)⟩ : FabricOut)) ∧
      t.mem = s.mem ∧ t.cores = s.cores ∧
      t.invals = s.invals ++ ((List.finRange 8).filter fun d => dies.getLsbD d.val).map fun d =>
        (⟨d, line, s.seqOf line + 1, w.ord, s.homeInc (line * 256), w.part⟩ : Inval)) ∧
  (∀ (s : State) (page : Nat) (w : RdWrite) (d : Dup), s.rdWrites = [w] → w.page = page → w.started = false →
    s.writerThere w = true → s.dupAt (page * 0x200000) = some d →
    let off := (d.peer - 0x8000000000000) % 2 ^ 40 + ((s.writeSpan w).1 - d.frame)
    Happens (.rdupInvalidationRound page) s fun t =>
      t.fabricOut = s.fabricOut ++ [⟨(d.peer - 0x8000000000000) / 2 ^ 40, s.incarn, w.part, s.writeSay w off⟩] ∧
      ∀ v ∈ t.rdWrites, v.started = true ∧ v.wait = [(d.peer - 0x8000000000000) / 2 ^ 40]) ∧
  (∀ (s : State) (page : Nat) (w : RdWrite) (bs : List (Nat × Byte × Option PoU)) (pkg num : Nat), s.rdWrites = [w] → w.page = page →
    w.started = true → w.wait = [] → w.dies = 0 → w.kind = .bytes bs (some (pkg, num)) → s.invals = [] →
    Happens (.rdupInvalidationRound page) s fun t => t.rdWrites = [] ∧
      t.fabricOut = s.fabricOut ++ [⟨pkg, s.incarn, w.part, .ordered num⟩]) ∧
  (∀ (s : State) (n : CoreIx) (c : Cmd) (w : BitVec 3) (xm xs : BitVec 4) (tl : Option (BitVec 3)) (sc : Scope),
    (s.core n).windowCmd false = none → (s.core n).windowCmd true = some c → c.op = .wdecl w xm xs tl sc → c.xs ≠ 0 →
    Happens (.windowRequestAtHome n) s fun t => ((t.core n).win[w.toFin]) = ⟨c.xm.toNat, c.xs.toNat⟩ ∧
      ∀ k : Fin 8, k ≠ w.toFin → (t.core n).win[k] = (s.core n).win[k]) ∧
  (∀ (s : State) (n : CoreIx) (c : Cmd) (xs xm xt : BitVec 4) (tg : Tags), (s.core n).windowCmd false = some c →
    c.op = .wget xs xm xt tg →
    let l := locator c.xm
    let tile := c.xs.toNat / 4096 + c.pos
    let home := l.loc / 4096 + c.pos
    s.localName l = true → s.corePart l.core c.part = true → s.coreUp l.core = true → l.core ≠ n →
    (s.core n).copyAt tile = none → (s.core n).copies.length < 512 → (s.core l.core).inWindow home = true →
    (s.core l.core).winReqs = [] → s.winNeeds n l.core home false = [] ∨ (∀ m, (s.core m).copies = []) →
    (∀ m, (s.core m).landing = [] ∧ (s.core m).inbox = []) →
    Happens (.windowRequestAtHome n) s fun t => (t.core n).copyAt tile = some ⟨tile, l.core, home, .s, []⟩) ∧
  (∀ (s : State) (n h : CoreIx) (r : WinReq) (rest : List CoreIx), (s.core n).winReqs = [r] → r.probes = h :: rest → h ≠ n →
    r.inc = (s.die (dieOf r.req)).incarn → (s.core h).landing = [] →
    exec (.windowProbeAtHolder n 0) s = .next ((s.winProbe h n r.homeTile r.own).modCore n fun k =>
      { k with winReqs := k.winReqs.map fun (q : WinReq) => if q.homeTile == r.homeTile then { q with probes := rest } else q })) ∧
  (∀ (s : State) (n h : CoreIx) (w : WinCopy) (tile : Nat), (s.core h).copies = [w] → w.home = n → w.homeTile = tile → h ≠ n →
    (w.st = .m → (s.winProbe h n tile false).core h = (s.core h).setCopy w.tile .o w.dirty) ∧
    (w.st = .e → (s.winProbe h n tile false).core h = (s.core h).setCopy w.tile .s []) ∧
    (w.st = .s ∨ w.st = .o → s.winProbe h n tile false = s) ∧
    (w.st = .e ∨ w.st = .s → (s.winProbe h n tile true).core h = (s.core h).setCopy w.tile .i [])) ∧
  (∀ (s : State) (n : CoreIx) (tile : Nat), ((s.job n).stream .s).held = some (.homeWrite, tile) → (s.job n).moves = [] → (s.job n).mops = [] →
    (s.winHolders n tile ≠ [] → s.winQuiet n tile = true → exec (.homeWriteRelease n) s = .next (s.winRecall n tile)) ∧
    (s.winHolders n tile = [] → s.heldTile n tile = false →
      exec (.homeWriteRelease n) s = .next (s.modJob n fun j => j.unhold .s .homeWrite)))

namespace Sys2Proof.Claims

open Sys2Proof.Machine

/-- A job that has its context alone on its core: dispatched, waiting for no page, in the running context. -/
abbrev Waits (s : State) (n : CoreIx) (j : Job) : Prop :=
  (s.core n).job = j ∧ j.st = .dispatched ∧ j.faultPage = none

/-- The job of the other context of a core does not keep a translated one from its start: there is none, or one that drains with its
windows gone (log entry 21), or one that is only dispatched, of no gang that has its start gcc (log entry 87). -/
abbrev Clear (s : State) (n : CoreIx) (o : Job) : Prop :=
  o.st = .none ∨ (o.st = .draining ∧ (s.core n).bare = true) ∨ (o.st = .dispatched ∧ s.fixed o = false)

/-- What a record of R44 to R46 that EBADNEST refuses shows in its fields (R48). -/
abbrev ShapeBad (r : NestRec) : Prop :=
  r.ndim = 0 ∨ 4 < r.ndim ∨ r.smask = 0 ∨ r.dies = 0 ∨ 16 < r.maxcores ∨ 2 ^ 48 < r.iterations ∨
  r.carve.toNat % 4096 ≠ 0 ∨ 0x100000 < r.carve.toNat ∨ r.ovfva.toNat % 0x200000 ≠ 0 ∨ (r.persist = true ∧ r.beaconUs = 0) ∨
  (∃ k d, k < r.ndim ∧ d = r.dim k ∧ (r.ndim ≤ d ∨ ∃ m, m < k ∧ r.dim m = d)) ∨
  (∃ k : Fin 4, r.ndim ≤ k.val ∧ (r.walk[k] ≠ 0 ∨ r.bound[k] ≠ 0)) ∨
  (∃ k : Fin 4, r.smask.getLsbD k.val = true ∧ (r.entry[k] = 0 ∨ (r.entry[k]).toNat % 8 ≠ 0))

end Sys2Proof.Claims

-- Launches and jobs.

/-- R48, R49, R399: the oldest submission is taken: a record that passes the checks is given the next acceptance sequence and
waits with its iterations, once the writes of its partition that came before it have been made; one that fails is answered with the code of the first check, in the order of R48. -/
def Obligations.LaunchAcceptance : Prop :=
  (∀ (s : State) (u : Submission) (rest : List Submission) (p : BitVec 16) (b : List Byte) (r : NestRec),
    let s0 : State := { s with subs := rest }
    s.subs = u :: rest → s.writesAhead u = false → u.part = some p → s0.submits p = true → s.logn ≠ 0 →
    (u.bytes = some b ∨ u.bytes = none ∧ s0.vaBytes p u.va.toNat 640 = some b) → s0.check p u.va b = .ok r →
    r.iterations ≠ 0 →
    Happens .launchAcceptance s fun t => t.subs = rest ∧ t.jrnlNext = s.jrnlNext + 1 ∧
      (∃ l : Launch, t.launches = s.launches ++ [l] ∧ l.seq = s.jrnlNext ∧ l.total = r.iterations ∧ l.ended = 0 ∧
        l.next = Vector.replicate 8 0 ∧ l.dies = (if r.gang then r.dies else r.dies &&& s.bothUp) ∧ l.atWall = s.wall) ∧
      (∀ f k, u.fn = some (f, k) → u.quiet = false → (t.fns[f]).substat[k] = BitVec.ofNat 64 s.jrnlNext) ∧
      ∀ n : CoreIx, u.core = some n.val → (t.job n).outs = (s.job n).outs.map fun (g : GAcc) => if g.ord = u.ord then
        { g with val := some ((List.range 8).map (fun k => BitVec.ofNat 8 (s.jrnlNext % 2 ^ 64 / 256 ^ k)), none) } else g) ∧
  (∀ (s : State) (u : Submission) (rest : List Submission) (p : BitVec 16) (b : List Byte) (code : Nat),
    let s0 : State := { s with subs := rest }
    s.subs = u :: rest → s.writesAhead u = false → u.part = some p → s0.submits p = true →
    (u.bytes = some b ∨ u.bytes = none ∧ s0.vaBytes p u.va.toNat 640 = some b) → s0.check p u.va b = .error code →
    Happens .launchAcceptance s fun t => t.subs = rest ∧ t.launches = s.launches ∧
      (∀ f k, u.fn = some (f, k) → u.quiet = false →
        (t.fns[f]).substat[k] = 0x8000000000000000 + BitVec.ofNat 64 code) ∧
      ∀ n : CoreIx, u.core = some n.val → code < 8 → (t.job n).outs = (s.job n).outs.map fun (g : GAcc) => if g.ord = u.ord then
        { g with val := some ([BitVec.ofNat 8 code, 0, 0, 0, 0, 0, 0, 0x80], none) } else g) ∧
  (∀ (s : State) (u : Submission) (rest : List Submission), s.subs = u :: rest → s.writesAhead u = true →
    exec .launchAcceptance s = .next s) ∧
  (∀ (s : State) (p : BitVec 16) (va : Word) (b : List Byte), let r := nestOf va b
    (va.toNat % 64 ≠ 0 ∨ fieldAt b 0 1 % 4 = 2 ∨ fieldAt b 0 1 % 4 = 3 ∨ ShapeBad r → s.check p va b = .error 1) ∧
    (badBytes va b = false → ¬ ShapeBad r →
      (badOperands b = true → s.check p va b = .error 2) ∧
      (badOperands b = false →
        (∀ q, s.partOf p = some q → r.part ≠ p ∨ r.dies &&& ~~~q.dies ≠ 0 ∨ r.prio = 7 ∧ q.priv = false →
          s.check p va b = .error 3) ∧
        (∀ q, s.partOf p = some q → r.part = p → r.dies &&& ~~~q.dies = 0 → (r.prio = 7 → q.priv = true) →
          (r.dies &&& (s.diesvc &&& s.shellsvc) = 0 → s.check p va b = .error 4) ∧
          (r.dies &&& (s.diesvc &&& s.shellsvc) ≠ 0 → r.gang = false → s.check p va b = .ok r)))))

/-- R51, R52: the iterations of a launch are spread over its dies: each is run by exactly one die, the one
whose rank is its number modulo the number of dies, and a die runs its own in increasing order; and the indices of an iteration count through the loops of WALK, the last one
innermost, the stage inside it. -/
def Obligations.IterationOrder : Prop :=
  (∀ (l : Launch) (it : Nat), l.dies ≠ 0 → it < l.total →
    ∃ d k, l.dies.getLsbD d.val = true ∧ k < l.share d ∧ l.iter d k = it ∧
      ∀ d' k', l.dies.getLsbD d'.val = true → k' < l.share d' → l.iter d' k' = it → d' = d ∧ k' = k) ∧
  (∀ (l : Launch) (d : DieIx) (k : Nat), k < l.share d →
    let up := (List.range 8).filter fun e => l.dies.getLsbD e
    l.iter d k < l.total ∧ l.dies.getLsbD d.val = true ∧
    l.iter d k % up.length = (up.filter fun e => decide (e < d.val)).length ∧ l.iter d k / up.length = k) ∧
  (∀ (r : NestRec) (it : Nat), r.bad = false → it < r.iterations →
    (r.indices it).2 = it % max r.stages 1 ∧
    (List.range r.ndim).foldl (fun a k => a * r.boundOf (r.dim k) + ((r.indices it).1.toList.getD (r.dim k) 0).toNat) 0 =
      it / max r.stages 1 ∧
    ∀ k, k < r.ndim → ((r.indices it).1.toList.getD (r.dim k) 0).toNat < r.boundOf (r.dim k))

/-- R53, R54, R57: a die dispatches, of the candidates that a core can take, the one of highest effective priority, to the core
that R54 names: the next iteration of a launch, as a job whose streams stand at T0, or a saved job. -/
def Obligations.JobDispatch : Prop :=
  (∀ (s : State) (d : DieIx) (l : Launch) (n : CoreIx), s.best d = some (.fresh l) → s.candCore d (.fresh l) = some n →
    l.nest.gang = false → let j := s.newJob l n (l.iter d l.next[d])
    exec (.jobDispatch d) s = .next { s.modCore n (fun c => c.place j true) with
      launches := s.launches.map fun (m : Launch) =>
        if m.seq = l.seq then { m with next := m.next.set d (m.next[d] + 1) } else m } ∧
    j.st = .dispatched ∧ j.seq = l.seq ∧ j.iter = l.iter d l.next[d] ∧ j.xlated = false ∧
    j.stage = BitVec.ofNat 64 (l.nest.indices j.iter).2 ∧ j.idx = (l.nest.indices j.iter).1 ∧
    ∀ k : Fin 4, ((j.strm[k]).started = l.nest.smask.getLsbD k.val) ∧ ((j.strm[k]).joined = !l.nest.smask.getLsbD k.val) ∧
      ((j.strm[k]).p = Vector.replicate 8 ⟨false, none⟩) ∧ ((j.strm[k]).q = Vector.replicate 4 []) ∧
      (l.nest.smask.getLsbD k.val = true → (j.strm[k]).pc = l.nest.entry[k] ∧
        ∀ r : Fin 16, (j.strm[k]).x[r] =
          if r = 5 then ⟨j.stage, none⟩ else if h : 1 ≤ r.val ∧ r.val ≤ 4 then ⟨j.idx[r.val - 1], none⟩ else ⟨0, none⟩)) ∧
  (∀ (s : State) (d : DieIx) (p : Parked) (base : Nat) (n : CoreIx), s.best d = some (.again p base) →
    s.candCore d (.again p base) = some n →
    let j : Job := { p.job with st := .dispatched, xlated := false, faultPage := none }
    exec (.jobDispatch d) s = .next ((s.modCore n fun c => c.place j false).journal (j.entry 9 .dispatched 0 n (leBytes 1 p.slot)))) ∧
  (∀ (s : State) (d : DieIx) (l : Launch) (n : CoreIx), s.launches = [l] → s.parked = [] → l.nest.gang = false → l.left d ≠ 0 →
    s.crowded d l.seq l.nest = false → s.coreFor d = some n → s.best d = some (.fresh l) ∧ s.candCore d (.fresh l) = some n) ∧
  (∀ (s : State) (d : DieIx), (∃ m, dieOf m = d ∧ s.hasRoom m = true ∧ s.reservedBy m = []) → ∃ n, s.coreFor d = some n) ∧
  (∀ (s : State) (d : DieIx), s.cands d ≠ [] → ∃ c n, s.best d = some c ∧ s.candCore d c = some n) ∧
  (∀ (c : Core) (j : Job) (b : Bool), c.job.st = .none → c.other.st = .none →
    (c.place j b).job = { j with ts := c.job.ts } ∧ (c.place j b).other.st = .none) ∧
  (∀ (s : State) (d : DieIx) (c : Cand), s.best d = some c → c ∈ s.cands d ∧
    ∀ e ∈ s.cands d, key4Lt (s.candKey e) (s.candKey c) = false) ∧
  (∀ (s : State) (d : DieIx) (n : CoreIx), s.coreFor d = some n → dieOf n = d ∧ s.coreUp n = true ∧
    ((s.core n).ctx0.st = .none ∨ (s.core n).ctx1.st = .none) ∧
    (∀ m, dieOf m = d → s.coreUp m = true → s.reservedBy m = [] → (s.core m).ctx0.st = .none → (s.core m).ctx1.st = .none →
      (s.core n).ctx0.st = .none ∧ (s.core n).ctx1.st = .none ∧ n ≤ m))

/-- R55, R47: a job whose extents and overflow page translate, none of them to another package and none to be held for the launch,
leaves its translation with one pin on each of its frames and its windows fixed; a page that is not present is asked for and the job
waits; another failure fences it. R57, R64, R72: a translated job starts in its context; the jobs of a gang are given one start at
least 4,096 cycles ahead and start together when it is reached. Which other jobs of its core a job may start beside is log entries
21 and 87 (DESIGN CHOICE). -/
def Obligations.JobTranslationAndStart : Prop :=
  ((∀ (s : State) (n : CoreIx) (j : Job) (exts : List (List PageX)) (ovf : List PageX) (die : Die), Waits s n j → j.xlated = false →
     s.jobPages j = .ok (exts, ovf) → (∀ d ∈ j.nest.decl.toList, d.pin = false) →
     (∀ p ∈ exts.flatten ++ ovf, ∀ a b, s.place (canon s.pkgnum.toNat p.x.frame) ≠ .peer a b) →
     let frames := ((exts.flatten ++ ovf).map fun p => canon s.pkgnum.toNat p.x.frame).eraseDups
     frames.length ≤ 1024 → (s.die (dieOf n)).pin frames = some die →
     Happens (.dispatchTranslation n) s fun t => let k := (t.core n).job
       k.xlated = true ∧ k.st = .dispatched ∧ k.pins = frames ∧ (t.die (dieOf n)).pinned = die.pinned ∧
       ∀ e : Fin 16, let d := j.nest.decl[e]
         k.ext[e] = if d.len = 0 then Ext.zero else ⟨BitVec.ofNat 64 (windowBase j.nest j.idx d), d.len, d.rd, d.w,
           (exts.getD e.val []).map fun p => (p.page, canon s.pkgnum.toNat p.x.frame, p.x.rdup)⟩) ∧
   (∀ (s : State) (n : CoreIx) (j : Job) (c : Cause) (info : Word), Waits s n j → j.xlated = false →
     s.jobPages j = .error (c, info) →
     (c = cPageNotPresent → s.pageGone j.nest.part = false →
       Happens (.dispatchTranslation n) s fun t => (t.core n).job.st = .dispatched ∧
         (t.core n).job.faultPage = some (info.toNat / 0x200000)) ∧
     (c ≠ cPageNotPresent → exec (.dispatchTranslation n) s = .next (s.fenceCtx n true c info))) ∧
   (∀ (s : State) (j : Job), (∀ d ∈ j.nest.decl.toList, d.len = 0) → j.nest.ovfva = 0 →
     s.jobPages j = .ok (List.replicate 16 [], []) ∧ ∀ d : Die, d.pin [] = some d) ∧
   (∀ (r : NestRec) (idx : Vector Word 4) (d : Decl),
     (∀ k : Fin 4, r.ndim ≤ k.val → idx[k] = 0) → r.ndim ≤ 4 →
     windowBase r idx d = d.base.toNat + (idx[0].toNat * d.stride[0].toNat + idx[1].toNat * d.stride[1].toNat +
       idx[2].toNat * d.stride[2].toNat + idx[3].toNat * d.stride[3].toNat) * 64)) ∧
  ((∀ (s : State) (n : CoreIx) (j : Job), Waits s n j → j.xlated = true → j.nest.gang = false → s.savedOf j = none →
     Clear s n (s.core n).other →
     exec (.jobStart n) s = .next ((s.modJob n fun j =>
       { j with st := .running, t0 := s.gcc, beacon := 0, ts := Vector.replicate 64 Turnstile.zero }).modCore n
       fun c => { c.reveal true with collEnds := [] })) ∧
   (∀ (s : State) (n : CoreIx), Clear s n (s.core n).job → ¬ ((s.core n).job.st = .dispatched ∧ (s.core n).job.xlated = true) →
     (s.core n).other.st = .dispatched →
     (s.core n).other.xlated = true → (s.core n).other.nest.gang = false → s.savedOf (s.core n).other = none →
     Happens (.jobStart n) s fun t => (t.core n).job = { (s.core n).other with
         st := .running, t0 := s.gcc, beacon := 0, ts := Vector.replicate 64 Turnstile.zero } ∧
       (t.core n).other = (s.core n).job) ∧
   (∀ (s : State) (seq : Nat) (l : Launch), s.launches.find? (fun l => l.seq == seq) = some l → l.nest.gang = true →
     s.gangCan l = true →
     (l.gangAt = none → ∃ g, s.gcc + 4096 ≤ g ∧ exec (.gangStart seq) s = .next { s with
       free := s.free + 1
       launches := s.launches.map fun (m : Launch) => if m.seq = seq then { m with gangAt := some g } else m }) ∧
     (∀ g, l.gangAt = some g → s.gcc < g → exec (.gangStart seq) s = .next s) ∧
     (∀ g, l.gangAt = some g → g ≤ s.gcc → s.parked = [] →
       exec (.gangStart seq) s = .next ((s.gangReady l).foldl (fun t e => t.startCtx e.1 e.2.1) s) ∧
       ∀ n, (s.core n).ctx0.seq = seq → (s.core n).ctx0.st = .dispatched → (s.core n).ctx1.st = .none →
         (((s.gangReady l).foldl (fun t e => t.startCtx e.1 e.2.1) s).job n).st = .running)))

/-- R69, R75: a launch that waits above a running job of a full die asks for that job: the one of lowest priority, the one started
last among those; and its request stands, in the place of one from below level 7 where it is at level 7. R75, R76, R382: a request
at level 7 that GRACE has passed takes a free slot of the die for a job that can be stopped; a save whose commands and stores are
over leaves the job PREEMPTED in its slot and its context empty. At which boundary a job is stopped is log entry 23, that a request
at level 7 takes the place of a lower one log entry 51 (DEDUCED), the microsecond as 21,600 units log entry 5 (DESIGN CHOICE), and
the start by which victims are ranked the first T0, log entry 72 (DESIGN CHOICE). -/
def Obligations.Preemption : Prop :=
  ((∀ (s : State) (d : DieIx) (l : Launch) (n : CoreIx), (∀ m, dieOf m = d → s.hasRoom m = false) → s.waiters d = [l] →
     (∀ m q, dieOf m = d → (s.job m).preq = some q → q.seq ≠ l.seq) →
     let p := s.effPrio l.nest.prio l.atWall
     s.victim d p = some n → ((s.job n).preq = none ∨ p = 7 ∧ ∃ q, (s.job n).preq = some q ∧ q.lvl7 = false) →
     (s.job n).nest.gang = false →
     exec (.preemptionRequest d) s = .next (s.modJob n fun k => { k with preq := some ⟨l.seq, p == 7, s.wall⟩ })) ∧
   (∀ (s : State) (d : DieIx) (p : Nat) (n : CoreIx), s.victim d p = some n →
     dieOf n = d ∧ (s.job n).alive = true ∧ (s.job n).prio < p ∧ (s.job n).saving = none ∧
     ∀ m, dieOf m = d → (s.job m).alive = true → (s.job m).saving = none → (s.job n).prio ≤ (s.job m).prio ∧
       ((s.job m).prio = (s.job n).prio → (s.job m).t0 ≤ (s.job n).t0 ∧
         ((s.job m).t0 = (s.job n).t0 → (s.job m).seq ≤ (s.job n).seq ∧ ((s.job m).seq = (s.job n).seq → m ≤ n)))) ∧
   (∀ (s : State) (d : DieIx) (p : Nat), (∃ m, dieOf m = d ∧ (s.job m).alive = true ∧ (s.job m).prio < p ∧ (s.job m).saving = none) →
     ∃ n, s.victim d p = some n) ∧
   (∀ (s : State) (prio since : Nat), prio ≤ 7 →
     (prio = 7 → s.effPrio prio since = 7) ∧
     (prio ≠ 7 → s.effPrio prio since = min 6 (max prio (prio + (s.wall - since) / 21600 / max 1 s.ageint.toNat))))) ∧
  ((∀ (s : State) (n : CoreIx) (q : PreReq) (k : Nat), (s.job n).preq = some q → q.lvl7 = true →
     max 1 s.grace.toNat * 21600 ≤ s.wall - q.since → s.stoppable n = true → (s.job n).nest.gang = false →
     (s.die (dieOf n)).freeSlot = some k →
     exec (.forcedPreemption n) s = .next ((s.drain n).takeSlot n ⟨k, true, 0, 2048⟩)) ∧
   (∀ (s : State) (n : CoreIx), (s.job n).alive = true → (s.job n).saving = none → s.groupsDone n = true →
     (∀ c ∈ (s.core n).lq ++ (s.core n).sq, c.of (s.job n) = true → c.begun = false) → (s.job n).outs = [] →
     (s.job n).moves = [] → (s.job n).late = [] → (s.job n).ops = [] → (s.job n).mops = [] → (s.job n).wdog = none → s.stoppable n = true) ∧
   (∀ (s : State) (n : CoreIx) (sv : Saving), let j := s.job n
     j.saving = some sv → j.st ≠ .none → j.cycDone = false → j.outs = [] → (s.core n).psb = [] → (s.core n).sq = [] →
     j.traps = [] → j.stop = none → j.wdog = none → j.moves = [] → j.late = [] → j.ops = [] → j.mops = [] → (s.core n).torn = true →
     (∀ c ∈ (s.core n).lq, c.of j = true → c.begun = false) →
     Happens (.preemptionSaveDone n) s fun t => (t.job n).st = .none ∧ (t.core n).other = (s.core n).other ∧
       (∀ c ∈ (t.core n).lq, c.of j = false) ∧
       ∃ p : Parked, t.parked = s.parked ++ [p] ∧ p.die = dieOf n ∧ p.slot = sv.slot ∧ p.job.seq = j.seq ∧
         p.job.iter = j.iter ∧ p.job.saving = none ∧ p.job.preq = none ∧
         p.cmdsL.map Cmd.ord = ((s.core n).lq.filter fun c => c.of j).map Cmd.ord))

/-- R73, R74, R77: the watchdog finds a job whose beacon interval or budget has passed, and no other; what it has found ends the job as
the cycle does. A draining job's copies and windows are torn down (17 R302) once its commands on them have ended (log entry 21, this
model's choice), and a draining job of which nothing is outstanding is DONE: its context is empty, its pins are released, and its bytes
arrive on the completion turnstile it names in this package. -/
def Obligations.JobEnds : Prop :=
  (∀ (s : State) (n : CoreIx), let j := s.job n
    let finds (k : Nat) : Prop := exec (.watchdog n) s = .next (s.modJob n fun j => { j with wdog := some k })
    let late : Prop := j.nest.persist = true ∧ j.nest.beaconUs.toNat * 21600 ≤ j.beacon
    let spent : Prop := j.nest.budgetUs ≠ 0 ∧ j.nest.budgetUs.toNat * 21600 ≤ j.runtime
    let lives : Prop := j.st = .running ∨ j.st = .frozen ∨ j.st = .trapped
    (lives → late → finds 0) ∧ (lives → ¬ late → spent → finds 1) ∧
    (¬ lives ∨ ¬ late ∧ ¬ spent → exec (.watchdog n) s = .next s)) ∧
  (∀ (s : State) (n : CoreIx) (k : Nat), (s.job n).wdog = some k → (s.job n).alive = true → ((s.settle n).job n).st = .none) ∧
  (∀ (s : State) (n : CoreIx), (s.core n).job.st = .draining → (s.core n).torn = false →
    (∀ c ∈ (s.core n).lq ++ (s.core n).sq, isWindow c.op = false) → exec (.jobDone n) s = .next (s.tearWindows n)) ∧
  (∀ (s : State) (n : CoreIx), s.drained n (s.core n).job = true → (s.core n).bare = true →
    let j := (s.core n).job
    Happens (.jobDone n) s fun t => (t.job n).st = .none ∧ (t.core n).other.st = (s.core n).other.st ∧
      (s.logn ≠ 0 → t.jrnlNext = s.jrnlNext + 1) ∧
      ((∀ l ∈ s.launches, l.seq = j.seq → l.ended + 1 < l.total) →
        (t.die (dieOf n)).pinned = ((s.die (dieOf n)).unpin j.pins).pinned ∧
        t.launches = s.launches.map fun (m : Launch) => if m.seq = j.seq then { m with ended := m.ended + 1 } else m)) ∧
  (∀ (s : State) (n : CoreIx), let c := s.core n
    c.job.st = .draining → c.torn = true → c.lq = [] → c.sq = [] → c.psb = [] → c.job.outs = [] → c.job.moves = [] →
    c.job.late = [] → c.job.ops = [] → c.job.mops = [] → (∀ st, (c.job.stream st).pend = []) → s.drained n c.job = true ∧ c.bare = true) ∧
  (∀ (s : State) (j : Job) (k : BitVec 6), let w := j.nest.donets
    w ≠ 0 → j.nest.donecnt ≠ 0 → locTs (locator w).loc = some k → s.localName (locator w) = true →
    s.coreUp (locator w).core = true → s.corePart (locator w).core j.nest.part = true →
    s.arriveDone j = (s.modJob (locator w).core fun m => m.modTs k fun t => t.addArr t.phase j.nest.donecnt.toNat, 0)) ∧
  (∀ (s : State) (j : Job), j.nest.donets = 0 ∨ j.nest.donecnt = 0 → s.arriveDone j = (s, 0))

namespace Sys2Proof.Claims

open Sys2Proof.Machine

/-- A core holds no job. -/
abbrev Empty (s : State) (n : CoreIx) : Prop := (s.core n).ctx0.st = .none ∧ (s.core n).ctx1.st = .none

/-- A line of 256 bytes lies in a 2 MiB frame. -/
abbrev LineIn (base line : Nat) : Prop := base ≤ line * 256 ∧ line * 256 < base + 0x200000

end Sys2Proof.Claims

-- Fencing, failures, resets.

/-- R42, R43, R65, R379: fencing a core or the cores domain of a die clears the service bits of what leaves and no other, recomputes
the signature, and leaves no job on the cores that leave; a spoke that fails fences its die's cores domain. R35, R36, R381, R416, 07
R142: with its memory shell a die's cores domain goes too, its cache and its part in the directory are gone and no store of it is
left; a readmitted shell is in service again, empty, with the next incarnation, and its bonded DRAM reads as poisoned. That the
bytes under the poison of a readmitted shell are 0 is log entry 4 (DESIGN CHOICE). -/
def Obligations.Fencing : Prop :=
  ((∀ (s : State) (n : CoreIx), s.boot = .ready → s.coresvc.getLsbD n.val = true →
     Happens (.coreFence n) s fun t => Empty t n ∧ t.defectsig = defectSig t.coresvc ∧ t.diesvc = s.diesvc ∧
       t.shellsvc = s.shellsvc ∧ t.gcc = s.gcc ∧
       ∀ k : CoreIx, t.coresvc.getLsbD k.val = (s.coresvc.getLsbD k.val && k != n)) ∧
   (∀ (s : State) (d : DieIx) (e : Instr), e = .coresDomainFence d ∨ e = .spokeFailure d → s.boot = .ready →
     s.diesvc.getLsbD d.val = true →
     Happens e s fun t => (∀ n, dieOf n = d → Empty t n) ∧ t.defectsig = defectSig t.coresvc ∧ t.shellsvc = s.shellsvc ∧
       (∀ k : DieIx, t.diesvc.getLsbD k.val = (s.diesvc.getLsbD k.val && k != d)) ∧
       ∀ k : CoreIx, t.coresvc.getLsbD k.val = (s.coresvc.getLsbD k.val && dieOf k != d)) ∧
   (∀ (s : State) (n : CoreIx), s.coresvc.getLsbD n.val = false → exec (.coreFence n) s = .next s) ∧
   (∀ (s : State) (d : DieIx), s.diesvc.getLsbD d.val = false → exec (.coresDomainFence d) s = .next s ∧
     exec (.spokeFailure d) s = .next s)) ∧
  ((∀ (s : State) (d : DieIx), s.boot = .ready → s.shellsvc.getLsbD d.val = true →
     Happens (.memoryShellFence d) s fun t =>
       (∀ k : DieIx, t.shellsvc.getLsbD k.val = (s.shellsvc.getLsbD k.val && k != d)) ∧
       (∀ k : DieIx, t.diesvc.getLsbD k.val = (s.diesvc.getLsbD k.val && k != d)) ∧
       (t.die d).lines = [] ∧ (∀ e ∈ t.dir, e.2.getLsbD d.val = false) ∧ (∀ e ∈ t.regions, e.2.getLsbD d.val = false) ∧
       (∀ i ∈ t.invals, i.die ≠ d) ∧ ∀ n, dieOf n = d → Empty t n ∧ (t.core n).psb = []) ∧
   (∀ (s : State) (d : DieIx), s.shellsvc.getLsbD d.val = false → exec (.memoryShellFence d) s = .next s) ∧
   (∀ (s : State) (d : DieIx), s.boot = .ready → s.shellsvc.getLsbD d.val = false →
     0x10000000000 ≤ s.jrnlBase.toNat * 4096 → (∀ e ∈ s.dups, 0x10000000000 ≤ e.frame) →
     Happens (.shellReadmit d) s fun t =>
       (∀ k : DieIx, t.shellsvc.getLsbD k.val = (s.shellsvc.getLsbD k.val || k == d)) ∧ t.diesvc = s.diesvc ∧
       (t.die d).incarn = (s.die d).incarn + 1 ∧ (t.die d).lines = [] ∧
       ∀ a, d.val * 0xC00000000 ≤ a → a < (d.val + 1) * 0xC00000000 →
         t.homeByte a = 0 ∧ t.unitPo (a / 32) = some (.raw cEcc)))

/-- R19, R20, R380, R409: a boundary or a port that fails leaves service; one failed boundary fences nothing, a second one the
dies of the smaller arc; messages take the shorter way round unless a failed boundary lies on it; with the last port what
was on its way to another package ends with LINK_DOWN; trained ports are up under the package number given. R141, R407: a
message of another package whose incarnation is older than the one recorded of its sender is dropped; one that no valid entry
here accepts for the dies it addresses is answered NOT_HELD and does nothing else; an accepted one has its effect: a holder is
recorded, a read is answered, bytes are counted on a turnstile with the phase that was current when the first message of their command came
(R284). Which of two incarnations is the older the top bit of their difference tells (log entry 64), and another package's order is that of
its messages here (log entry 1). -/
def Obligations.LinkEvents : Prop :=
  (∀ (s : State) (b : Fin 8), s.boot = .ready → s.ringup.getLsbD b.val = true →
    let u : State := { s with ringup := setBit s.ringup b.val false }
    let x := u.arc b.val
    let y := u.arc ((b.val + 1) % 8)
    let lose := if ((b.val + 1) % 8) ∈ u.arc b.val then [] else if y.length < x.length ∨ (x.length = y.length ∧ 0 ∈ x) then y else x
    Happens (.boundaryFailure b) s fun t =>
      (∀ k : Fin 8, t.ringup.getLsbD k.val = (s.ringup.getLsbD k.val && k != b)) ∧
      ∀ d : DieIx, t.shellsvc.getLsbD d.val = (s.shellsvc.getLsbD d.val && !lose.contains d.val)) ∧
  (∀ (s : State) (a b : Nat), a < 8 → b < 8 →
    (s.ringup = 0xFF → (s.route a b).length = min ((b + 8 - a) % 8) ((a + 8 - b) % 8)) ∧
    (∀ f : Fin 8, (∀ k : Fin 8, k ≠ f → s.ringup.getLsbD k.val = true) → s.ringup.getLsbD f.val = false →
      f.val ∉ s.route a b)) ∧
  (∀ (s : State) (p : Fin 18), s.boot = .ready → s.portup.getLsbD p.val = true →
    Happens (.fabricPortDown p) s fun t =>
      (∀ k : Fin 18, t.portup.getLsbD k.val = (s.portup.getLsbD k.val && k != p)) ∧
      ((∀ k : Fin 18, k ≠ p → s.portup.getLsbD k.val = false) → ∀ (n : CoreIx) (store : Bool),
        ∀ c ∈ (t.core n).queue store, c.begun = true → c.pos < c.total → t.leaves n c = true → c.fail.isSome = true)) ∧
  (∀ (s : State) (ports : BitVec 18), s.boot = .ready → s.fabDone = true → ports &&& s.porten ≠ 0 →
    exec (.portTrained ports) s = .next { s with portup := s.portup ||| (ports &&& s.porten), pkgnum := s.fabPkg }) ∧
  (∀ (s : State) (rest : List Turn) (m : FabricIn), s.power = true → s.boot = .ready → s.turns = .fabric m :: rest →
    let s1 : State := { s with turns := rest }
    let s2 : State := { s1 with fabricInc := alSet s.fabricInc m.pkg m.inc }
    let held : Prop := ∃ p, s.partOf m.part = some p ∧ ∀ d ∈ s.addressed m.ask, p.dies.getLsbD d.val = true
    ((∃ r, alGet s.fabricInc m.pkg = some r ∧ (m.inc - r).msb = true) → step s = .next s1) ∧
    ((∀ r, alGet s.fabricInc m.pkg = some r → (m.inc - r).msb = false) →
      let tells (x : FabricSay) : State := { s2 with fabricOut := s.fabricOut ++ [⟨m.pkg, s.incarn, m.part, x⟩] }
      (¬ held → step s = .next (tells .notHeld)) ∧
      (held →
        (∀ page, m.ask = .register page → Leads (step s) fun t => m.pkg ∈ (alGet t.holders page).getD []) ∧
        (∀ addr k num bs po, m.ask = .read addr k num → s2.peerRead m (canon s.pkgnum.toNat addr) k = some (bs, po) →
          step s = .next (tells (.data num bs po))) ∧
        (∀ core k len cmd fin, m.ask = .arrive core k len cmd fin → s.coreUp core = true →
          let now := ((s.job core).ts[k.toFin]).phase
          let counts (ph : Bool) (l : List FarPhase) : Prop :=
            step s = .next ({ s2 with farPhases := l }.modJob core fun j => j.modTs k fun x => x.addArr ph len)
          (s.farPhases = [] → counts now (if fin then [] else [⟨m.pkg, cmd, core, k, now⟩])) ∧
          ∀ f : FarPhase, s.farPhases = [f] → f.pkg = m.pkg → f.cmd = cmd → f.core = core → f.ts = k →
            counts f.phase (if fin then [] else [f])))))

/-- R378, R375, 07 R146: an uncorrectable error poisons its unit and nothing else; one in the state of a core fences the core; after a hand-over no die, no fill and no directory
entry holds a line of the frame. -/
def Obligations.MemoryFaultEvents : Prop :=
  (∀ (s : State) (pa : Nat), s.isDram pa = true →
    exec (.uncorrectableEccError (.global pa)) s = .next { s with
      memPo := alSet s.memPo (canon s.pkgnum.toNat pa / 32) (some (.raw cEcc)) } ∧
    Happens (.uncorrectableEccError (.global pa)) s fun t =>
      t.unitPo (canon s.pkgnum.toNat pa / 32) = some (.raw cEcc) ∧
      ∀ u, u ≠ canon s.pkgnum.toNat pa / 32 → t.unitPo u = s.unitPo u) ∧
  (∀ (s : State) (n : CoreIx) (a : Nat), a < 0x800000 →
    exec (.uncorrectableEccError (.scratch n a)) s = .next (s.modCore n fun c =>
      { c with spadPo := alSet c.spadPo (a / 8) (.raw cEcc) })) ∧
  (∀ (s : State) (n : CoreIx), s.boot = .ready → s.coresvc.getLsbD n.val = true →
    Happens (.uncorrectableEccError (.core n)) s fun t => Empty t n ∧
      ∀ k : CoreIx, t.coresvc.getLsbD k.val = (s.coresvc.getLsbD k.val && k != n)) ∧
  (∀ (s : State) (frame : Nat), s.boot = .ready → let base := canon s.pkgnum.toNat (frame * 0x200000)
    Happens (.frameHandover frame) s fun t =>
      (∀ d : DieIx, ∀ l ∈ (t.die d).lines, ¬ LineIn base l.line) ∧ (∀ f ∈ t.fills, ¬ LineIn base f.line) ∧
      ∀ e ∈ t.dir, ¬ LineIn base e.1)

/-- R34, R37, R39, R411, R414: the package reset gives every state but flash its reset value; without power all else is lost and
nothing happens until the package is reset; firmware that fails stops the package. That a step without power is the fault noPower is
log entry 57 (DESIGN CHOICE). -/
def Obligations.ResetAndPower : Prop :=
  (∀ s : State, exec .packageReset s = .next { State.reset with flash := s.flash, ord := s.ord, free := s.free }) ∧
  (∀ (s : State) (e : Instr), e = .powerLoss ∨ e = .overTemperatureTrip → s.recLen.bind s.recovery = none →
    exec e s = .next { State.reset with power := false, flash := s.flash, ord := s.ord, free := s.free + 1 }) ∧
  (∀ s : State, s.power = false → s.nextTurn.1 ≠ .event .packageReset → step s = .fault .noPower) ∧
  (∀ s : State, s.turns = [] → s.nextTurn.1 ≠ .event .packageReset) ∧
  (∀ (s : State) (rest : List Turn), s.turns = .event .packageReset :: rest →
    step s = .next { State.reset with flash := s.flash, ord := s.ord, free := s.free }) ∧
  (∀ s : State, s.boot = .load ∨ s.boot = .ready → exec .firmwareFailure s = .next { s with boot := .halt })

/-- R412 to R415: the ROM takes an image that passes its checks and counts one that fails; bring-up leaves LPDDR zero, the
journal empty, what fails its test out of service, and the package READY; in WAIT the host gives a length, and an image that
passes replaces the one in flash. -/
def Obligations.BootEvents : Prop :=
  (∀ s : State, s.boot = .check →
    (imagePasses s.flash = true → exec .flashImageCheck s = .next { s with
      boot := .load, fwDigest := sha3 ((s.flash.drop 0x2000).take (fieldAt s.flash 8 8)),
      fwSvn := BitVec.ofNat 32 (fieldAt s.flash 4 4) }) ∧
    (imagePasses s.flash = false → exec .flashImageCheck s = .next { s with
      boot := .wait, fails := BitVec.ofNat 8 (min 255 (s.fails.toNat + 1)) })) ∧
  (∀ img : List Byte, imagePasses img = true → fieldAt img 0 4 = 0x4B514657 ∧ 1 ≤ fieldAt img 8 8 ∧
    fieldAt img 8 8 ≤ 0xFFFE000 ∧ 0x2000 + fieldAt img 8 8 ≤ img.length ∧ Config.fusedMinSvn ≤ fieldAt img 4 4) ∧
  (∀ (s : State) (c : BringUpCfg), s.boot = .load → bringUpOk c = true →
    Happens (.bringUp c) s fun t => t.boot = .ready ∧ t.jrnlBase = c.jrnlBase ∧ t.logn = c.logn ∧ t.saveBase = c.saveBase ∧
      t.saveSlots = c.saveSlots ∧ t.defectsig = defectSig t.coresvc ∧
      (∀ d : DieIx, t.shellsvc.getLsbD d.val = (s.shellsvc.getLsbD d.val && !c.shellFail.getLsbD d.val) ∧
        t.diesvc.getLsbD d.val = (s.diesvc.getLsbD d.val && !c.shellFail.getLsbD d.val)) ∧
      (∀ n : CoreIx, t.coresvc.getLsbD n.val =
        (s.coresvc.getLsbD n.val && !c.coreFail.getLsbD n.val && t.diesvc.getLsbD (dieOf n).val)) ∧
      (c.shellFail = 0 → t.mem = [] ∧ t.jrnlNext = 1)) ∧
  (∀ (s : State) (n : Word), s.boot = .wait → s.recLen = none → exec (.reclenWrite n) s = .next { s with recLen := some n }) ∧
  (∀ (s : State) (n : Word), s.boot = .wait → s.recLen = some n →
    let img := s.homeBytes 0x10000000000 n.toNat
    let bad := { s with recLen := none, fails := BitVec.ofNat 8 (min 255 (s.fails.toNat + 1)) }
    (n.toNat < 0x2001 ∨ 0x10000000 < n.toNat ∨ imagePasses img = false → exec .recoveryCheckDone s = .next bad) ∧
    (0x2001 ≤ n.toNat → n.toNat ≤ 0x10000000 → imagePasses img = true →
      exec .recoveryCheckDone s = .next { s with
        recLen := none, flash := img, boot := .load, fwDigest := sha3 ((img.drop 0x2000).take (fieldAt img 8 8)),
        fwSvn := BitVec.ofNat 32 (fieldAt img 4 4) }))

-- The host.

/-- R393, R396 to R398, R412: the events of the functions complete: a function that is reset keeps its place with a page at its
reset values, one that is removed or appears is absent or present so, a held message goes out when its vector is unmasked, a
submission waits for the RM, and an attestation is asked for and answered. That the page of a function that is reset or appears has
every MSI-X mask bit set is log entry 30 (PRESUMED), and that a reset of the PF drops a table update that is held log entry 55
(DEDUCED). -/
def Obligations.FunctionEvents : Prop :=
  (∀ (s : State) (f : Fin 65), (s.fns[f]).present = true →
    Happens (.functionLevelReset f) s fun t => t.fns[f] = { FnPage.zero with present := true } ∧
      (∀ u ∈ t.subs, ∀ k, u.fn = some (f, k) → u.quiet = true) ∧ t.subs.map Submission.ord = s.subs.map Submission.ord ∧
      (f = 0 → t.phys = false ∧ t.pteBusy = none ∧ ∀ g : Fin 65, g ≠ 0 → (t.fns[g]).present = false)) ∧
  (∀ (s : State) (n : Fin 65), Happens (.vfRemoval n) s fun t =>
    (∀ g : Fin 65, (t.fns[g]).present = ((s.fns[g]).present && decide (g ≤ n))) ∧
    ∀ k : Fin 8, (s.parts[k]).valid = true → (s.parts[k]).owner.toNat < 65 → n.val < (s.parts[k]).owner.toNat →
      (∀ g : Fin 65, g.val = (s.parts[k]).owner.toNat → (s.fns[g]).present = true) →
      (t.parts[k]).clearing = true ∧ (t.parts[k]).gone = true ∧ (t.parts[k]).faults = []) ∧
  (∀ (s : State) (n : Fin 65), s.boot = .ready → Happens (.vfEnable n) s fun t => ∀ f : Fin 65,
    t.fns[f] = if (s.fns[f]).present = false ∧ f ≤ n then { FnPage.zero with present := true } else s.fns[f]) ∧
  (∀ (s : State) (f : Fin 65) (v : Fin 4), s.boot ≠ .ready → exec (.msixVectorUnmask f v) s = .next s) ∧
  (∀ (s : State) (f : Fin 65) (v : Fin 4), s.boot = .ready → (s.fns[f]).present = true →
    let p := s.fns[f]
    exec (.msixVectorUnmask f v) s = .next { s with
      fns := s.fns.set f { p with mask := p.mask.set v false, pend := p.pend.set v false }
      pcieOut := s.pcieOut ++ if p.pend[v] then [.msix f.val v.val] else [] }) ∧
  (∀ (s : State) (f : Fin 65) (k : Fin 16) (va : Word), s.boot = .ready → (s.fns[f]).present = true →
    let p := s.fns[f]
    (p.substat[k] = 0x4000000000000000 → exec (.submissionDoorbell f k va) s = .next s) ∧
    (p.substat[k] ≠ 0x4000000000000000 → Happens (.submissionDoorbell f k va) s fun t =>
      (t.fns[f]).substat[k] = 0x4000000000000000 ∧
      ∃ u : Submission, t.subs = s.subs ++ [u] ∧ u.fn = some (f, k) ∧ u.va = va ∧ u.core = none ∧ u.bytes = none ∧
        u.quiet = false ∧ u.part = (s.fnPart f).map Partition.id)) ∧
  (∀ (s : State) (f : Fin 65), s.boot = .ready → (s.fns[f]).present = true →
    ((s.fns[f]).attstat ≠ 1 → exec (.attgoWrite f) s = .next { s with fns := s.fns.set f { s.fns[f] with attstat := 1 } }) ∧
    ((s.fns[f]).attstat = 1 → exec (.attgoWrite f) s = .next s)) ∧
  (∀ (s : State) (f : Fin 65), (s.fns[f]).attstat = 1 → Happens (.attestationReady f) s fun t =>
    (t.fns[f]).attstat = 2 ∧ (t.fns[f]).attrep = s.attHead f ++ deviceSign (sha3 (s.attHead f)) ∧ (deviceSign (sha3 (s.attHead f))).length = 4627 ∧
    ((s.fns[f]).mask[1] = false → t.pcieOut = s.pcieOut ++ [.msix f.val 1]) ∧
    ((s.fns[f]).mask[1] = true → t.pcieOut = s.pcieOut ∧ (t.fns[f]).pend[(1 : Fin 4)] = true))

/-- R400, R403: an access through the data window completes: a read answers with the bytes at the addresses its window reaches, a
write is ordered there, leaves the units that it covers whole clean and sets D of the entries it went through, and elsewhere nothing
changes; one that cannot be translated sets WINERR and reads all ones. R401, R402, R404: invalidations, answers to fault requests
and updates of table entries complete: an invalidation drops the translations of its range in every die, the oldest request is
answered, an entry is written at its home in one step, or waits while its frame is pinned. Which places no host access reaches is
log entry 78 (DESIGN CHOICE). -/
def Obligations.HostMemoryEvents : Prop :=
  ((∀ (s u : State) (f : Fin 65) (off : BitVec 36) (sz : Sz) (l : List (Nat × Option Nat)), s.boot = .ready →
     (s.fns[f]).present = true → s.windowBytes f off (widthOf sz) false = some (l, u) →
     (∀ e ∈ l, s.isDram e.1 = true ∧ canon s.pkgnum.toNat e.1 = e.1 ∧ s.homeDead e.1 = false ∧ s.homePo e.1 1 = none) →
     exec (.dataWindowRead f off sz) s = .next { u with
       pcieOut := s.pcieOut ++ [.readData f.val (BitVec.ofNat 64 (little (l.map fun e => s.homeByte e.1))) false] }) ∧
   (∀ (s : State) (f : Fin 65) (off : BitVec 36) (sz : Sz), s.boot = .ready → (s.fns[f]).present = true →
     s.windowBytes f off (widthOf sz) false = none →
     Happens (.dataWindowRead f off sz) s fun t => (t.fns[f]).winerr = true ∧
       t.pcieOut.getLast? = some (.readData f.val (BitVec.ofNat 64 (256 ^ widthOf sz - 1)) false)) ∧
   (∀ (s u : State) (f : Fin 65) (off : BitVec 36) (n v : Nat) (l : List (Nat × Option Nat)), s.boot = .ready →
     (s.fns[f]).present = true → s.dups = [] → s.holders = [] → s.rdWrites = [] → s.mem.wf = true →
     s.windowBytes f off n true = some (l, u) →
     (l.map Prod.fst).Nodup → (∀ e ∈ l, s.homeDead e.1 = false ∧ s.isDram e.1 = true ∧ canon s.pkgnum.toNat e.1 = e.1) →
     Happens (.dataWindowWrite f off n v) s fun t =>
       (∀ k, ∀ h : k < l.length, t.homeByte (l[k]).1 = BitVec.ofNat 8 (v / 256 ^ k)) ∧
       (∀ k, (∀ i, i < 32 → 32 * k + i ∈ l.map Prod.fst) → t.unitPo k = none) ∧
       ∀ a, a ∉ l.map Prod.fst → t.homeByte a =
         if l.any (fun e => e.2.map (canon s.pkgnum.toNat) == some a) = true then s.homeByte a ||| 8 else s.homeByte a) ∧
   (∀ (s : State) (f : Fin 65) (off : BitVec 36) (n v : Nat), s.boot = .ready → (s.fns[f]).present = true →
     s.windowBytes f off n true = none →
     Happens (.dataWindowWrite f off n v) s fun t => (t.fns[f]).winerr = true ∧ t.mem = s.mem) ∧
   (∀ (s : State) (off : BitVec 36) (i : Nat), s.phys = true →
     s.windowByte 0 ((s.fns[(0 : Fin 65)]).dwbase.toNat + off.toNat + i) false =
       if s.isDram ((s.fns[(0 : Fin 65)]).dwbase.toNat + off.toNat + i) = true then
         some (canon s.pkgnum.toNat ((s.fns[(0 : Fin 65)]).dwbase.toNat + off.toNat + i), none, s)
       else none) ∧
   (∀ (s : State) (off : BitVec 36) (sz : Sz) (v : Nat), s.phys = true → s.boot = .ready → (s.fns[(0 : Fin 65)]).present = true →
     let a := (s.fns[(0 : Fin 65)]).dwbase.toNat + off.toNat
     (∀ i, i < widthOf sz → s.isDram (a + i) = true ∧ canon s.pkgnum.toNat (a + i) = a + i ∧ s.homeDead (a + i) = false) →
     ((∀ i, i < widthOf sz → s.homePo (a + i) 1 = none) → exec (.dataWindowRead 0 off sz) s = .next { s with
       pcieOut := s.pcieOut ++ [.readData 0 (BitVec.ofNat 64 (little (s.homeBytes a (widthOf sz)))) false] }) ∧
     (s.dups = [] → s.holders = [] → s.rdWrites = [] → s.mem.wf = true →
       Happens (.dataWindowWrite 0 off (widthOf sz) v) s fun t =>
         (∀ k, k < widthOf sz → t.homeByte (a + k) = BitVec.ofNat 8 (v / 256 ^ k)) ∧
         ∀ b, b < a ∨ a + widthOf sz ≤ b → t.homeByte b = s.homeByte b))) ∧
  ((∀ (s : State) (f : Fin 65) (len : Word), s.boot = .ready → (s.fns[f]).present = true → (s.fns[f]).inv = none →
     exec (.invlenWrite f len) s = .next { s with fns := s.fns.set f { s.fns[f] with inv := some ((s.fns[f]).invva, len) } }) ∧
   (∀ (s : State) (f : Fin 65) (va len : Word) (p : Partition), (s.fns[f]).inv = some (va, len) → s.fnPart f = some p →
     Happens (.invalidationDone f) s fun t => (t.fns[f]).inv = none ∧
       ∀ (d : DieIx) (e : TlbEnt), e ∈ (t.die d).tlb ↔ e ∈ (s.die d).tlb ∧
         ¬ (e.part = p.id ∧ (len = 0 ∨ va.toNat / 0x200000 ≤ e.page ∧ e.page * 0x200000 < va.toNat + len.toNat))) ∧
   (∀ (s : State) (f : Fin 65) (k : Fin 8) (v : Word) (page : Nat) (rest : List Nat), s.boot = .ready →
     (s.fns[f]).present = true → s.fnSlot f = some k → (s.parts[k]).faults = page :: rest →
     (v.toNat / 2 ^ 21 % 2 ^ 36 ≠ page ∨ v.toNat % 4 = 0 ∨ v.toNat % 4 = 3 → exec (.faultack f v) s = .next s) ∧
     (v.toNat / 2 ^ 21 % 2 ^ 36 = page → v.toNat % 4 = 1 ∨ v.toNat % 4 = 2 →
       (∀ n run, ((s.core n).ctx run).nest.part ≠ (s.parts[k]).id) →
       Happens (.faultack f v) s fun t => (t.parts[k]).faults = rest ∧ t.cores = s.cores) ∧
     (v.toNat / 2 ^ 21 % 2 ^ 36 = page → v.toNat % 4 = 1 → ∀ n, (s.core n).job.st = .dispatched →
       (s.core n).job.nest.part = (s.parts[k]).id → (s.core n).job.faultPage = some page →
       Happens (.faultack f v) s fun t => (t.core n).job.st = .dispatched ∧ (t.core n).job.faultPage = none)) ∧
   (∀ (s : State) (v : Word), s.boot = .ready → s.pteBusy = none →
     let go : State := { s with pteBusy := some (v.setWidth 2), pteBad := false, pteHeld := false }
     (s.isDram s.pteAt = false → exec (.ptegoWrite v) s = .next { go with pteBad := true }.pteEnd) ∧
     (s.isDram s.pteAt = true → go.pteWaits = true → exec (.ptegoWrite v) s = .next { go with pteHeld := true }) ∧
     (s.isDram s.pteAt = true → go.pteWaits = false → exec (.ptegoWrite v) s = .next go.pteWrite)) ∧
   (∀ s : State, s.pteHeld = true → s.pteWaits = false → exec .pteUpdateDone s = .next s.pteWrite) ∧
   (∀ s : State, s.dups = [] → s.mem.wf = true → s.homeDead (canon s.pkgnum.toNat s.pteAt) = false →
     let a := canon s.pkgnum.toNat s.pteAt
     s.pteWrite.homeBytes a 8 = (List.range 8).map (fun k => BitVec.ofNat 8 (s.pteData.toNat / 256 ^ k)) ∧
     (∀ b, b < a ∨ a + 8 ≤ b → s.pteWrite.homeByte b = s.homeByte b) ∧ s.pteWrite.pteBusy = none ∧
     s.pteWrite.pteHeld = false))

/-- R405, R406, R409 to R411, R40: partition entries, the fabric and power modes are configured: an entry is written only as
R406 allows and cleared once nothing of the partition is left, the first fabric write after READY is taken, and a change of
mode is fixed ahead and takes effect at its gcc. -/
def Obligations.ConfigurationEvents : Prop :=
  (∀ (s : State) (k : Fin 8) (v : Word), s.boot = .ready → let p := s.parts[k]
    (p.valid = true → v.toNat / 2 ^ 63 = 1 → exec (.partitionEntryWrite k v) s = .next s) ∧
    (p.valid = true → v.toNat / 2 ^ 63 = 0 →
      exec (.partitionEntryWrite k v) s = .next { s with parts := s.parts.set k { p with clearing := true } }) ∧
    (p.valid = false →
      let q : Partition := ⟨v.getLsbD 63, v.getLsbD 62, BitVec.ofNat 8 (v.toNat / 2 ^ 48), BitVec.ofNat 8 (v.toNat / 2 ^ 32),
        BitVec.ofNat 16 v.toNat, p.root, false, [], false⟩
      let clash := ∃ i : Fin 8, i ≠ k ∧ (s.parts[i]).valid = true ∧ ((s.parts[i]).dies &&& q.dies ≠ 0 ∨ (s.parts[i]).id = q.id ∨
        (q.owner ≠ 0xFF ∧ (s.parts[i]).owner = q.owner))
      (q.valid = true ∧ (q.dies = 0 ∨ q.root = 0 ∨ clash) → exec (.partitionEntryWrite k v) s = .next s) ∧
      (q.valid = false ∨ q.dies ≠ 0 ∧ q.root ≠ 0 ∧ ¬ clash →
        exec (.partitionEntryWrite k v) s = .next { s with parts := s.parts.set k q }))) ∧
  (∀ (s : State) (k : Fin 8), let p := s.parts[k]
    p.valid = true → p.clearing = true →
    (p.faults = [] → (∀ l ∈ s.launches, l.nest.part ≠ p.id) → exec (.partitionClearDone k) s =
      .next { s with parts := s.parts.set k { p with valid := false, clearing := false, gone := false } }) ∧
    ((∃ l ∈ s.launches, l.nest.part = p.id) → exec (.partitionClearDone k) s = .next s)) ∧
  (∀ (s : State) (v : Word), s.boot = .ready →
    (s.fabDone = false → exec (.fabricConfigWrite v) s = .next { s with
      porten := BitVec.ofNat 18 (v.toNat / 2 ^ 32), fabPkg := BitVec.ofNat 11 v.toNat, fabDone := true }) ∧
    (s.fabDone = true → exec (.fabricConfigWrite v) s = .next s)) ∧
  (∀ (s : State) (v : Word), s.boot = .ready →
    (v.toNat % 4 = 3 → exec (.pwrctlWrite v) s = .next s) ∧
    (v.toNat % 4 ≠ 3 → s.pend.isSome = true ∨ BitVec.ofNat 2 v.toNat = s.pmode →
      exec (.pwrctlWrite v) s = .next { s with preq := BitVec.ofNat 2 v.toNat }) ∧
    (v.toNat % 4 ≠ 3 → s.pend = none → BitVec.ofNat 2 v.toNat ≠ s.pmode →
      Happens (.pwrctlWrite v) s fun t => t.preq = BitVec.ofNat 2 v.toNat ∧ t.pmode = s.pmode ∧
        ∃ g, t.pend = some (g, BitVec.ofNat 2 v.toNat) ∧ s.gcc < g ∧
          g ≤ s.gcc + 50 * (if s.pmode = 0 then 2700 else if s.pmode = 1 then 2400 else 1800))) ∧
  (∀ (s : State) (g : Nat) (m : BitVec 2), s.pend = some (g, m) →
    (s.gcc < g → exec .modeChange s = .next s) ∧
    (g ≤ s.gcc → s.preq = m → exec .modeChange s = .next { s with pmode := m, pend := none }))

/-- R395, R400, R401, R403 to R405, R412, R70: a register write takes of its value what the register's fields admit; the registers
of other functions and offsets without a register ignore it. -/
def Obligations.RegisterWrites : Prop :=
  ∀ (s : State) (f : Fin 65) (v : Word), s.boot = .ready → (s.fns[f]).present = true →
    let writes (bar4 : Bool) (off : Nat) (t : State) : Prop := exec (.registerWrite f bar4 (BitVec.ofNat 32 off) v) s = .next t
    let page (p : FnPage) : State := { s with fns := s.fns.set f p }
    let p := s.fns[f]
    writes false 0x100 (if v.getLsbD 8 then page { p with winerr := false } else s) ∧
    writes false 0x108 (page { p with dwbase := BitVec.ofNat 64 (v.toNat / 2 ^ 36 * 2 ^ 36) }) ∧
    writes false 0x110 (page { p with invva := v }) ∧
    writes false 0x148 (if f = 0 then { s with phys := v.getLsbD 0 } else s) ∧
    writes false 0x150 (if f = 0 ∧ s.pteBusy = none then { s with pteAddr := BitVec.ofNat 49 (v.toNat / 8) } else s) ∧
    writes false 0x158 (if f = 0 ∧ s.pteBusy = none then { s with pteData := v } else s) ∧
    (∀ k, k < 8 → writes false (0x200 + 8 * k) (if p.attstat = 1 then s else page { p with
      attnonce := p.attnonce.take (8 * k) ++ (List.range 8).map (fun i => BitVec.ofNat 8 (v.toNat / 256 ^ i)) ++
        p.attnonce.drop (8 * k + 8) })) ∧
    (∀ off, 0x1000 ≤ off → off < 2 ^ 32 → writes false off s) ∧
    (f ≠ 0 → ∀ off, off < 2 ^ 32 → writes true off s) ∧
    (f = 0 → writes true 0x20 { s with grace := BitVec.ofNat 32 (v.toNat / 2 ^ 32), ageint := BitVec.ofNat 32 v.toNat } ∧
      writes true 0x00 s ∧ writes true 0x18 s ∧
      ∀ k : Fin 8, let q := s.parts[k]
        writes true (0x208 + 16 * k.val) (if q.valid then s else
          { s with parts := s.parts.set k { q with root := BitVec.ofNat 40 (v.toNat / 2 ^ 12) } }))

namespace Sys2Proof.Claims

open Sys2Proof.Machine

/-- What a register-only scalar word writes: an x register, a predicate. -/
structure Dest where
  x : Option (BitVec 4)
  p : Option (BitVec 3)

/-- The scalar words that touch registers alone, with what each writes (R196, R214, R233 to R240, R285, R295, R298). -/
def destOf (i : Instr) : Option Dest :=
  match twoOf i with
  | some w => some ⟨some w.d, none⟩
  | none => match oneOf i with
    | some w => some ⟨some w.d, none⟩
    | none => match i with
      | .nop => some ⟨none, none⟩
      | .li d _ | .bfi d _ _ _ | .sel d _ _ _ | .stampw d _ | .tsquery d _ | .tlquery d _ _ | .cstat d _ _ => some ⟨some d, none⟩
      | .cmp _ d _ _ | .cmpi _ d _ _ | .pand d _ _ | .por d _ _ | .pxor d _ _ | .pnot d _ => some ⟨none, some d⟩
      | _ => none

/-- A result in flight is one for the destination. -/
def Dest.has (d : Dest) (e : SRes) : Prop :=
  (e.isP = false ∧ d.x = some e.reg) ∨ (e.isP = true ∧ ∃ r, d.p = some r ∧ e.reg = (0 : BitVec 1) ++ r)

/-- The resource that stands for the destination until its result can be read. -/
def Dest.names (d : Dest) (st : Strm) (r : Rsc) : Prop :=
  (∃ x, d.x = some x ∧ r = .xreg st x) ∨ (∃ p, d.p = some p ∧ r = .preg st p)

/-- The word w of core n's stream st, fetched as r at address pc in a state, and that state as its meaning is given it: the
stream stands at the next group. -/
def ready (s : State) (n : CoreIx) (st : Strm) (pc r : Word) : State :=
  ((s.passed n st (pc + 8)).fresh n).at n st pc pc (pc + 8) r

/-- The word r that the stream fetches is a group of its own, due now, and legal in its stream (R178, R182, R184, R58). -/
abbrev GroupOf (j : Job) (st : Strm) (r : Word) (w : IWord) : Prop :=
  decode r = .ok w ∧ w.stp = true ∧ opcodeBad st r = false ∧ operandBad st r = false ∧
    j.nextOf st + w.slk.toNat ≤ j.now

end Sys2Proof.Claims

-- Frames.

/-- R9, R182, R211: a register-only scalar word that completes changes nothing but the results in flight of its stream, of
which every new one is for its destination, and the notes about them: every other register, special register, accumulator and all of memory
are as they were. -/
def Obligations.RegisterWordsFrame : Prop :=
  ∀ (i : Instr) (s t : State) (d : Dest), destOf i = some d → exec i s = .next t → t.cur.out = .done →
    ∃ (pe : List SRes) (ou : List GAcc) (kw : List KvRes) (lt : List Late) (mk : List Mark),
      t = ended (s.updJob fun j =>
        { j.modStream s.cur.strm (fun u => { u with pend := pe }) with outs := ou, kvWait := kw, late := lt, marks := mk }) ∧
      (∀ e ∈ pe, e ∈ s.cstrm.pend ∨ d.has e) ∧
      ou.map (fun g => (g.ord, g.strm, g.pa)) = s.cjob.outs.map (fun g => (g.ord, g.strm, g.pa)) ∧
      kw.map KvRes.ord = s.cjob.kvWait.map KvRes.ord ∧
      lt.map (fun l => (l.ord, l.strm, l.addr, l.op)) = s.cjob.late.map (fun l => (l.ord, l.strm, l.addr, l.op)) ∧
      (∀ m : Mark, ¬ d.names s.cur.strm m.rsc → (m ∈ mk ↔ m ∈ s.cjob.marks)) ∧
      ∀ a, t.homeByte a = s.homeByte a

/-- R118, R123, R182, R241: no word of classes 00, 01 and 10 that completes changes a byte of memory in its issue: what it stores
lands at the end of the cycle or is ordered later. A scalar store of a stream with nothing else on its way changes nothing
else: its bytes land inside the place that its effective address names, in this cycle or once its bank is free, or stand in the
posted-store buffer with that place; and the end of a cycle changes the bytes that land and no others. -/
def Obligations.MemoryFrame : Prop :=
  (∀ (i : Instr) (s t : State), (encodeOp i).1 < 0xC0 → exec i s = .next t → t.cur.out = .done →
    t.mem = s.mem ∧ (∀ a, t.homeByte a = s.homeByte a) ∧ ∀ (n : CoreIx) (a : Nat), (t.core n).spad.get a = (s.core n).spad.get a) ∧
  (∀ (i : Instr) (s t : State) (w : StoreW) (g : Target), storeOf i = some w → Free s →
    exec i s = .next t → t.cur.out = .done →
    s.target s.cur.core ⟨false, true, false⟩ w.sel ((xv s w.a).v + w.off) (widthOf w.sz) = .ok g →
    (∃ (tr : List Traf) (ts : Vector Turnstile 64) (mv : List Move) (ou : List GAcc) (st : JState) (fz : List Frz),
      t.cjob = { s.cjob with traffic := tr, ts := ts, moves := mv, outs := ou, st := st, freeze := fz }) ∧
    (∀ m, m ≠ s.cur.core → t.core m = s.core m) ∧
    match g with
    | .loc x => t.here.psb = s.here.psb ∧ t.cjob.outs = s.cjob.outs ∧ t.cjob.st = s.cjob.st ∧
        ((t.cjob.moves = s.cjob.moves ∧ ∃ l : Land, t.here.landing = s.here.landing ++ [l] ∧
            ∀ b ∈ l.bytes, x.addr ≤ b.1 ∧ b.1 < x.addr + widthOf w.sz) ∨
          (t.here.landing = s.here.landing ∧ ∃ (m : Move) (bs : List Byte), t.cjob.moves = s.cjob.moves ++ [m] ∧ m.addr = x.addr ∧
            m.data = some bs ∧ bs.length = widthOf w.sz))
    | .glob _ pa _ => t.here.landing = s.here.landing ∧ t.cjob.moves = s.cjob.moves ∧ t.cjob.ts = s.cjob.ts ∧
        (t.here.psb = s.here.psb ∨
          ∃ p : PStore, t.here.psb = s.here.psb ++ [p] ∧ p.pa = pa ∧ p.data.length = widthOf w.sz)
    | _ => t.here.landing = s.here.landing ∧ t.here.psb = s.here.psb ∧ t.cjob = s.cjob) ∧
  (∀ c : Core, c.spad.wf = true →
    (∀ a, (∀ l ∈ c.landing, ∀ b ∈ l.bytes, b.1 ≠ a) → c.commit.spad.get a = c.spad.get a) ∧
    ∀ l, c.landing = [l] → (l.bytes.map Prod.fst).Nodup → ∀ b ∈ l.bytes, c.commit.spad.get b.1 = b.2.1)

-- The machine.

/-- R36, R39, R41, R42, R66, R70, R386, R395, R405, R409, R410, R413, R414: the machine right after the package reset: its registers at the
values of their Reset columns, bonded DRAM poisoned, no job, no partition, no virtual function, memory in its canonical form. -/
def Obligations.ResetState : Prop :=
  let s := State.reset
  s.gcc = 0 ∧ s.power = true ∧ s.boot = .check ∧ s.memWf = true ∧
  s.mgmtRead 0x00 = 0x0000FFFF20010000 ∧ s.mgmtRead 0x08 = 0xFFFFFFFFFFFFFFFF ∧ s.mgmtRead 0x10 = 0xFFFFFFFFFFFFFFFF ∧
  s.mgmtRead 0x18 = 0 ∧ s.mgmtRead 0x20 = 0x00000032000003E8 ∧ s.mgmtRead 0x28 = 2 ∧ s.mgmtRead 0x30 = 0 ∧
  s.mgmtRead 0x38 = 0 ∧ s.mgmtRead 0x40 = 0 ∧ s.mgmtRead 0x48 = 1 ∧ s.mgmtRead 0x50 = 0xFF ∧
  (∀ k, k < 8 → s.mgmtRead (0x100 + 8 * k) = 0 ∧ s.mgmtRead (0x200 + 16 * k) = 0x00FF000000000000 ∧
    s.mgmtRead (0x208 + 16 * k) = 0) ∧
  (∀ f : Fin 65, (s.fns[f]).present = decide (f = 0) ∧ s.fnRead f 0x100 = 0 ∧ s.fnRead f 0x108 = 0 ∧ s.fnRead f 0x110 = 0 ∧
    s.fnRead f 0x120 = 0 ∧ s.fnRead f 0x128 = 0 ∧ s.fnRead f 0x148 = 0 ∧ s.fnRead f 0x168 = 0 ∧ s.fnRead f 0x248 = 0 ∧
    ∀ k, k < 16 → s.fnRead f (8 + 16 * k) = 0) ∧
  (∀ n, Empty s n ∧ (s.core n).psb = [] ∧ (s.core n).lq = [] ∧ (s.core n).sq = []) ∧
  (∀ a, a < 0x6000000000 → s.unitPo (a / 32) = some (.raw cEcc)) ∧
  (∀ d : DieIx, (s.die d).lines = [] ∧ (s.die d).tlb = []) ∧ s.dir = [] ∧ s.launches = [] ∧ s.parked = []

/-- R58, R62, R178, R182, R183: a step whose turn is the issue of a stream that stands at a group of one word runs that word: exec of the decoded
instruction, on the state in which the stream stands at the next group, when the guard holds, and nothing when it does not; a
word that traps or is held has none of its effect: its trap is noted, to be taken at the end of the cycle (R373). In a lockstep
job the cycle of its only stream does the same. -/
def Obligations.StepRunsDecoded : Prop :=
  (∀ (s s3 : State) (rest : List Turn) (n : CoreIx) (st : Strm) (r : Word) (w : IWord),
    let s1 : State := { s with turns := rest }
    let s2 := s1.try_ n st
    let j := s2.job n
    let pc := (j.stream st).pc
    let s4 := ready s3 n st pc r
    s.power = true → s.boot = .ready → s.turns = .issue n st :: rest → s1.canIssue n st = true →
    (∀ m ∈ j.moves, m.strm = st → j.now < m.due) → (st = .m → ∀ o ∈ j.mops, j.now < o.due) →
    s2.fetchWord n pc = .ok (r, s3) → GroupOf j st r w →
    (guardOf s4 w = .ok false → step s = .next ((ended s4).issuedBy n st)) ∧
    (guardOf s4 w = .ok true → ∀ t, exec w.op s4 = .next t →
      (t.cur.out = .done → step s = .next (t.issuedBy n st)) ∧
      (∀ h info, t.cur.out = .hold h info →
        step s = .next (s2.modJob n fun j => j.modStream st fun u => { u with held := some (h, info) })) ∧
      (∀ c info at_, t.cur.out = .trapped c info at_ →
        step s = .next (s2.note n ⟨st, c, info, at_, if c = cSoftware then pc + 8 else pc, false⟩)))) ∧
  (∀ (s s3 t : State) (rest : List Turn) (n : CoreIx) (st : Strm) (r : Word) (w : IWord),
    let s1 : State := { s with turns := rest }
    let j := s1.job n
    let pc := (j.stream st).pc
    let s2 := strms.foldl (fun (u : State) k => u.try_ n k) (s1.modJob n fun j => { j with st := .running, freeze := [] })
    let s4 := ready s3 n st pc r
    s.power = true → s.boot = .ready → s.turns = .cycle n :: rest → s1.lockMay n = true → j.owed = [] →
    (∀ u, (j.stream u).started = decide (u = st)) → (j.stream st).joined = false →
    s2.fetchWord n pc = .ok (r, s3) → GroupOf j st r w → guardOf s4 w = .ok true → exec w.op s4 = .next t →
    t.cur.out = .done → (∀ u, ((t.job n).stream u).started = decide (u = st)) → (t.job n).traps = [] →
    (clashes j.traffic ((t.job n).traffic.drop j.traffic.length)).2 = [] →
    step s = .next ((t.issuedBy n st).modJob n fun j => { j with cycDone := true })) ∧
  (∀ (s : State) (n : CoreIx), let j := s.job n
    j.nest.lockstep = true → j.st = .running → j.cycDone = false → j.thawAt ≠ s.gcc + 1 → j.saving = none → j.stop = none →
    j.traps = [] → j.freeze = [] → s.tried n .s = false → s.lockMay n = true) ∧
  (∀ (s : State) (w : IWord), SettledP s w.pg → (pv s w.pg).po = none → guardOf s w = .ok ((pv s w.pg).v != w.pn))

namespace Sys2Proof.Claims

/-- The cells of the opcode map that are unassigned (R195). -/
abbrev NoOpcode (n : Nat) : Prop :=
  0x16 ≤ n ∧ n ≤ 0x1F ∨ 0x29 ≤ n ∧ n ≤ 0x2F ∨ 0x35 ≤ n ∧ n ≤ 0x3F ∨ n = 0x43 ∨ 0x5C ≤ n ∧ n ≤ 0x7F ∨
    0x8D ≤ n ∧ n ≤ 0xBF ∨ n = 0xC7 ∨ 0xDB ≤ n ∧ n ≤ 0xFF

end Sys2Proof.Claims

/-- R186 to R199: words written out from the spec's encodings decode to the instructions they stand for, and R195: every word of an
unassigned opcode, with any slack, STP, guard and operand bits, to the row that raises ILLEGAL_OPCODE. -/
def Obligations.DecodeWords : Prop :=
  decode 0x0144006240000000 = .ok ⟨5, false, 0, false, .add 3 1 2⟩ ∧
  decode 0x0026008C2C000040 = .ok ⟨0, true, 0, false, .ld 4 6 (.ext 2) .d false 64⟩ ∧
  decode 0x002040203FFFFFFD = .ok ⟨0, true, 0, false, .brc .ne 1 0 0x1FFFFFFD⟩ ∧
  decode 0x0026808C0E389400 = .ok ⟨0, true, 0, false, .atincb 4 6 7 (.ext 3) false .acq .die⟩ ∧
  decode 0x0028000000000600 = .ok ⟨0, true, 0, false, .vshape .i32 0⟩ ∧
  decode 0x7FB00019CCCCCA00 = .ok ⟨510, true, 0, false, .mma 0 6 7 3 .e4m3 .e4m3 .sk16 false false (some 2)⟩ ∧
  decode 0x003800468480E000 = .ok ⟨0, true, 0, false, .copy .ld 4 2 3 ⟨some 1, some 8, .pkg⟩⟩ ∧
  decode 0x003AC0468400A000 = .ok ⟨0, true, 0, false, .kvappend 4 2 3 ⟨some 1, none, .pkg⟩⟩ ∧
  decode 0x003B40A00800A000 = .ok ⟨0, true, 0, false, .roust 5 2 none .pkg⟩ ∧
  (∀ (slk : BitVec 10) (stp : BitVec 1) (opc : BitVec 8) (pg : BitVec 3) (pn : BitVec 1) (o : BitVec 41), NoOpcode opc.toNat →
    decode (slk ++ stp ++ opc ++ pg ++ pn ++ o) = .ok ⟨slk, stp == 1, pg, pn == 1, .unassignedOpcode opc o⟩)

/-- R177, R184 to R199: every instruction word with legal operands decodes to itself from its encoding, with its slack, its STP, its
guard and every operand at every value; and a word that decodes is the encoding of what it decodes to. -/
def Obligations.RoundTrip : Prop :=
  (∀ w : IWord, WellFormed w.op = true → decode (encode w) = .ok w) ∧
  (∀ i : Instr, WellFormed i = true → decodeTableWord 64 (encode ⟨0, true, 0, false, i⟩).toNat = some i) ∧
  (∀ (r : Word) (w : IWord), decode r = .ok w → encode w = r)

/-- R2: every step keeps every memory of the package in its canonical form: global memory, scratchpads, saved scratchpads. -/
def Obligations.MemoryInvariant : Prop := ∀ s t : State, s.memWf = true → step s = .next t → t.memWf = true

/-- R39, R43: but for a package reset or a loss of power, gcc never falls and moves by one at most in a step, and a core that has left service stays
out. -/
def Obligations.CounterAndService : Prop :=
  ∀ s t : State, step s = .next t →
    s.nextTurn.1 ≠ .event .packageReset → s.nextTurn.1 ≠ .event .powerLoss → s.nextTurn.1 ≠ .event .overTemperatureTrip →
    (t.gcc = s.gcc ∨ s.nextTurn.1 = .tick ∧ t.gcc = s.gcc + 1) ∧
    ∀ n : CoreIx, t.coresvc.getLsbD n.val = true → s.coresvc.getLsbD n.val = true
end

