-- ==== Sys2Proof/Laws/Memory.lean ====
section
/-! SUPPORT. The laws of sparse memories: every operation keeps the canonical form, a byte written reads back, every other
byte stays, equal contents are equal data; and the same for the small tables. -/

namespace Sys2Proof

/-- A memory in its form from a higher address on is in its form from a lower one on. -/
theorem Memory.wfFrom_mono {lo lo' : Nat} : ∀ {m : Memory}, lo' ≤ lo → m.wfFrom lo = true → m.wfFrom lo' = true
  | [], _, _ => rfl
  | (a, b) :: m, h, hw => by
    simp only [Memory.wfFrom, Bool.and_eq_true, decide_eq_true_eq] at hw ⊢
    exact ⟨⟨h.trans hw.1.1, hw.1.2⟩, hw.2⟩

/-- Below the first cell a memory reads zero. -/
theorem Memory.get_below {lo : Nat} : ∀ {m : Memory}, m.wfFrom lo = true → ∀ {x : Nat}, x < lo → m.get x = 0
  | [], _, _, _ => rfl
  | (a, b) :: m, hw, x, hx => by
    simp only [Memory.wfFrom, Bool.and_eq_true, decide_eq_true_eq] at hw
    have h1 : x ≠ a := by omega
    have h2 : x < a := by omega
    simp only [Memory.get, h1, h2, if_true, if_false]

/-- A write of one byte keeps the canonical form. -/
theorem Memory.wfFrom_put {lo : Nat} : ∀ {m : Memory} {x : Nat} {v : Byte}, lo ≤ x → m.wfFrom lo = true →
    (m.put x v).wfFrom lo = true
  | [], x, v, h, _ => by
    unfold Memory.put; split
    · rfl
    · simp_all [Memory.wfFrom]
  | (a, b) :: m, x, v, h, hw => by
    have hw' := hw
    simp only [Memory.wfFrom, Bool.and_eq_true, decide_eq_true_eq] at hw
    obtain ⟨⟨h1, h2⟩, h3⟩ := hw
    unfold Memory.put
    split
    · split
      · exact hw'
      · simp_all [Memory.wfFrom]
    · split
      · split
        · exact Memory.wfFrom_mono (by omega) h3
        · simp_all [Memory.wfFrom]
      · have := Memory.wfFrom_put (m := m) (x := x) (v := v) (lo := a + 1) (by omega) h3
        simp_all [Memory.wfFrom]

/-- A write of one byte keeps the canonical form. -/
theorem Memory.wf_put {m : Memory} {x : Nat} {v : Byte} (h : m.wf = true) : (m.put x v).wf = true :=
  Memory.wfFrom_put (Nat.zero_le x) h

/-- A write of any length keeps the canonical form. -/
theorem Memory.wf_write : ∀ {l : List Byte} {m : Memory} {a : Nat}, m.wf = true → (m.write a l).wf = true
  | [], _, _, h => h
  | _ :: l, _, _, h => Memory.wf_write (l := l) (Memory.wf_put h)

/-- The byte that was written reads back. -/
theorem Memory.get_put_same {lo : Nat} : ∀ {m : Memory} {x : Nat} {v : Byte}, m.wfFrom lo = true → (m.put x v).get x = v
  | [], x, v, _ => by
    unfold Memory.put; split <;> simp_all [Memory.get]
  | (a, b) :: m, x, v, hw => by
    simp only [Memory.wfFrom, Bool.and_eq_true, decide_eq_true_eq] at hw
    obtain ⟨⟨h1, h2⟩, h3⟩ := hw
    unfold Memory.put
    by_cases hx : x < a
    · by_cases hv : v = 0
      · have : x ≠ a := by omega
        simp [hx, hv, Memory.get, this]
      · rw [if_pos hx, if_neg hv]; simp [Memory.get]
    · by_cases hxa : x = a
      · by_cases hv : v = 0
        · subst hxa; simp only [hv, Nat.lt_irrefl, if_true, if_false]
          exact Memory.get_below h3 (Nat.lt_succ_self x)
        · rw [if_neg hx, if_pos hxa, if_neg hv]; simp [Memory.get, hxa]
      · simp only [hx, hxa, if_false, Memory.get]
        exact Memory.get_put_same h3

/-- Every other byte stays. -/
theorem Memory.get_put_other {lo : Nat} : ∀ {m : Memory} {x y : Nat} {v : Byte}, m.wfFrom lo = true → y ≠ x →
    (m.put x v).get y = m.get y
  | [], x, y, v, _, h => by
    unfold Memory.put; split <;> simp [Memory.get, h]
  | (a, b) :: m, x, y, v, hw, h => by
    simp only [Memory.wfFrom, Bool.and_eq_true, decide_eq_true_eq] at hw
    obtain ⟨⟨h1, h2⟩, h3⟩ := hw
    unfold Memory.put
    by_cases hx : x < a
    · by_cases hv : v = 0
      · simp [hx, hv]
      · have : y < x → y ≠ a := by omega
        have h5 : y < x → y < a := by omega
        by_cases hy : y < x
        · rw [if_pos hx, if_neg hv]; simp [Memory.get, h, hy, this hy, h5 hy]
        · rw [if_pos hx, if_neg hv]; simp [Memory.get, h, hy]
    · by_cases hxa : x = a
      · subst hxa
        by_cases hv : v = 0
        · simp only [hv, Nat.lt_irrefl, if_true, if_false, Memory.get, h]
          by_cases hy : y < x
          · simp only [hy, if_true]; exact Memory.get_below h3 (by omega)
          · simp only [hy, if_false]
        · rw [if_neg hx, if_pos rfl, if_neg hv]; simp [Memory.get, h]
      · simp only [hx, hxa, if_false, Memory.get]
        rw [Memory.get_put_other h3 h]

/-- Every byte outside a write stays. -/
theorem Memory.get_write_other : ∀ {l : List Byte} {m : Memory} {a y : Nat}, m.wf = true → y < a ∨ a + l.length ≤ y →
    (m.write a l).get y = m.get y
  | [], _, _, _, _, _ => rfl
  | b :: l, m, a, y, hw, h => by
    simp only [List.length_cons] at h
    rw [Memory.write, Memory.get_write_other (Memory.wf_put hw) (by omega), Memory.get_put_other hw (by omega)]

/-- The bytes of a write read back. -/
theorem Memory.get_write_same : ∀ {l : List Byte} {m : Memory} {a k : Nat}, m.wf = true → (h : k < l.length) →
    (m.write a l).get (a + k) = l[k]
  | b :: l, m, a, 0, hw, _ => by
    rw [Memory.write, Memory.get_write_other (Memory.wf_put hw) (by omega)]
    exact Memory.get_put_same hw
  | b :: l, m, a, k + 1, hw, h => by
    rw [Memory.write, show a + (k + 1) = a + 1 + k by omega, Memory.get_write_same (Memory.wf_put hw) (by simpa using h)]
    simp

/-- Two memories in their form that read alike are the same data. -/
theorem Memory.ext_get {lo : Nat} : ∀ {m m' : Memory}, m.wfFrom lo = true → m'.wfFrom lo = true → (∀ x, m.get x = m'.get x) → m = m'
  | [], [], _, _, _ => rfl
  | [], (a, b) :: m', _, h2, h => by
    simp only [Memory.wfFrom, Bool.and_eq_true, bne_iff_ne] at h2
    have := h a; simp [Memory.get] at this
    exact absurd this.symm h2.1.2
  | (a, b) :: m, [], h1, _, h => by
    simp only [Memory.wfFrom, Bool.and_eq_true, bne_iff_ne] at h1
    have := h a; simp [Memory.get] at this
    exact absurd this h1.1.2
  | (a, b) :: m, (a', b') :: m', h1, h2, h => by
    simp only [Memory.wfFrom, Bool.and_eq_true, bne_iff_ne, decide_eq_true_eq] at h1 h2
    have ha : a = a' := by
      rcases Nat.lt_trichotomy a a' with hl | he | hl
      · have := h a; simp [Memory.get, hl, Nat.ne_of_lt hl] at this; exact absurd this h1.1.2
      · exact he
      · have := h a'; simp [Memory.get, hl, Nat.ne_of_lt hl] at this; exact absurd this.symm h2.1.2
    subst ha
    have hb : b = b' := by simpa [Memory.get] using h a
    subst hb
    have : m = m' := by
      refine Memory.ext_get h1.2 h2.2 fun x => ?_
      by_cases hx : x < a + 1
      · rw [Memory.get_below h1.2 hx, Memory.get_below h2.2 hx]
      · have := h x
        simpa only [Memory.get, show x ≠ a by omega, show ¬ x < a by omega, if_false] using this
    rw [this]

/-- A read of n bytes has n bytes. -/
@[simp] theorem Memory.length_read (m : Memory) (a n : Nat) : (m.read a n).length = n := by simp [Memory.read]

namespace Machine

/-- The entry just set is found. -/
@[simp] theorem alGet_alSet_same {β : Type} (l : List (Nat × β)) (k : Nat) (v : β) : alGet (alSet l k v) k = some v := by
  simp [alGet, alSet]

/-- Every other entry stays when a key is dropped. -/
theorem alGet_alDel_other {β : Type} (l : List (Nat × β)) {k i : Nat} (h : i ≠ k) : alGet (alDel l k) i = alGet l i := by
  induction l with
  | nil => rfl
  | cons e l ih =>
    unfold alDel alGet at ih ⊢
    rw [List.filter_cons, List.find?_cons]
    by_cases he : e.1 = k
    · have h1 : (e.1 != k) = false := by simp [he]
      have h2 : (e.1 == i) = false := by simpa [he] using Ne.symm h
      rw [h1, h2]; exact ih
    · have h1 : (e.1 != k) = true := by simp [he]
      rw [h1, if_pos rfl, List.find?_cons]
      cases e.1 == i
      · exact ih
      · rfl

/-- Every other entry stays when a key is set. -/
theorem alGet_alSet_other {β : Type} (l : List (Nat × β)) {k i : Nat} (v : β) (h : i ≠ k) :
    alGet (alSet l k v) i = alGet l i := by
  rw [← alGet_alDel_other l h]
  simp [alSet, alGet, Ne.symm h]

/-- A key that was dropped is absent. -/
@[simp] theorem alGet_alDel_same {β : Type} (l : List (Nat × β)) (k : Nat) : alGet (alDel l k) k = none := by
  simp [alGet, alDel]

end Machine

end Sys2Proof
end

