-- ==== Sys2Proof/Laws/State.lean ====
section
/-! SUPPORT. What the updates of the state leave as it was, one lemma for each field and update, and what they read back as:
so that no later proof unfolds a record update. -/

set_option autoImplicit false

namespace Sys2Proof.Machine

-- What was written reads back.


/-- The core that was set. -/
@[simp] theorem State.core_setCore (s : State) (n : CoreIx) (c : Core) : (s.setCore n c).core n = c := by
  simp [State.core, State.setCore]

/-- Every other core. -/
theorem State.core_setCore_other (s : State) {n m : CoreIx} (c : Core) (h : m ≠ n) : (s.setCore n c).core m = s.core m := by
  have : n.val ≠ m.val := fun e => h (Fin.ext e.symm)
  simp [State.core, State.setCore, this]

/-- Every die, when a core is set. -/
@[simp] theorem State.die_setCore (s : State) (n : CoreIx) (c : Core) (d : DieIx) : (s.setCore n c).die d = s.die d := rfl

/-- The core that was changed. -/
@[simp] theorem State.core_modCore (s : State) (n : CoreIx) (f : Core → Core) : (s.modCore n f).core n = f (s.core n) :=
  s.core_setCore n _

/-- Every other core. -/
theorem State.core_modCore_other (s : State) {n m : CoreIx} (f : Core → Core) (h : m ≠ n) : (s.modCore n f).core m = s.core m :=
  s.core_setCore_other _ h

/-- Every die, when a core is changed. -/
@[simp] theorem State.die_modCore (s : State) (n : CoreIx) (f : Core → Core) (d : DieIx) : (s.modCore n f).die d = s.die d := rfl

/-- The job of the running context that was set. -/
@[simp] theorem Core.job_setJob (c : Core) (j : Job) : (c.setJob j).job = j := by
  cases h : c.runIx <;> simp [Core.setJob, Core.job, h]

/-- The other context, when the running one is set. -/
@[simp] theorem Core.other_setJob (c : Core) (j : Job) : (c.setJob j).other = c.other := by
  cases h : c.runIx <;> simp [Core.setJob, Core.other, h]

/-- The job of the other context that was set. -/
@[simp] theorem Core.other_setOther (c : Core) (j : Job) : (c.setOther j).other = j := by
  cases h : c.runIx <;> simp [Core.setOther, Core.other, h]

/-- The running context, when the other one is set. -/
@[simp] theorem Core.job_setOther (c : Core) (j : Job) : (c.setOther j).job = c.job := by
  cases h : c.runIx <;> simp [Core.setOther, Core.job, h]

/-- The job that was set. -/
@[simp] theorem State.job_setJob (s : State) (n : CoreIx) (j : Job) : (s.setJob n j).job n = j := by
  simp [State.job, State.setJob]

/-- The job that was changed. -/
@[simp] theorem State.job_modJob (s : State) (n : CoreIx) (f : Job → Job) : (s.modJob n f).job n = f (s.job n) := by
  simp [State.modJob]

/-- The running job of every other core. -/
theorem State.job_modJob_other (s : State) {n m : CoreIx} (f : Job → Job) (h : m ≠ n) : (s.modJob n f).job m = s.job m := by
  simp only [State.modJob, State.setJob, State.job]; rw [State.core_setCore_other _ _ h]

/-- Every other core, when a job is changed. -/
theorem State.core_modJob_other (s : State) {n m : CoreIx} (f : Job → Job) (h : m ≠ n) : (s.modJob n f).core m = s.core m := by
  simp only [State.modJob, State.setJob]; rw [State.core_setCore_other _ _ h]

/-- The core of the job that was changed. -/
@[simp] theorem State.core_modJob (s : State) (n : CoreIx) (f : Job → Job) :
    (s.modJob n f).core n = (s.core n).setJob (f (s.job n)) := by
  simp [State.modJob, State.setJob]

/-- The issuing job that was changed. -/
@[simp] theorem State.cjob_updJob (s : State) (f : Job → Job) : (s.updJob f).cjob = f s.cjob := by
  exact s.job_modJob s.cur.core f

/-- The core of the issuing job that was changed. -/
@[simp] theorem State.here_updJob (s : State) (f : Job → Job) : (s.updJob f).here = s.here.setJob (f s.cjob) := by
  exact s.core_modJob s.cur.core f

/-- The die that was changed. -/
@[simp] theorem State.die_modDie (s : State) (d : DieIx) (f : Die → Die) : (s.modDie d f).die d = f (s.die d) := by
  simp [State.die, State.modDie]

/-- Every other die. -/
theorem State.die_modDie_other (s : State) {d e : DieIx} (f : Die → Die) (h : e ≠ d) : (s.modDie d f).die e = s.die e := by
  have : d.val ≠ e.val := fun x => h (Fin.ext x.symm)
  simp [State.die, State.modDie, this]

/-- Every core, when a die is changed. -/
@[simp] theorem State.core_modDie (s : State) (d : DieIx) (f : Die → Die) (n : CoreIx) : (s.modDie d f).core n = s.core n := rfl

/-- The stream that was set. -/
@[simp] theorem Job.stream_setStream (j : Job) (st : Strm) (t : Stream) : (j.setStream st t).stream st = t := by
  simp [Job.stream, Job.setStream]

/-- The stream that was changed. -/
@[simp] theorem Job.stream_modStream (j : Job) (st : Strm) (f : Stream → Stream) : (j.modStream st f).stream st = f (j.stream st) :=
  j.stream_setStream st _

/-- Every other stream. -/
theorem Job.stream_modStream_other (j : Job) {st st' : Strm} (f : Stream → Stream) (h : st' ≠ st) :
    (j.modStream st f).stream st' = j.stream st' := by
  cases st <;> cases st' <;> simp_all [Job.stream, Job.modStream, Job.setStream, sIx]

/-- The issuing stream that was changed. -/
@[simp] theorem State.cstrm_updStrm (s : State) (f : Stream → Stream) : (s.updStrm f).cstrm = f s.cstrm := by
  show ((s.updJob fun j => j.modStream s.cur.strm f).cjob).stream s.cur.strm = _
  rw [State.cjob_updJob, Job.stream_modStream]; rfl

/-- The turnstile that was changed. -/
@[simp] theorem Job.ts_modTs (j : Job) (k : BitVec 6) (f : Turnstile → Turnstile) :
    (j.modTs k f).ts[k.toFin] = f j.ts[k.toFin] := by simp [Job.modTs]

/-- The timeline that was changed. -/
@[simp] theorem Job.tl_modTl (j : Job) (k : BitVec 3) (f : Timeline → Timeline) :
    (j.modTl k f).tl[k.toFin] = f j.tl[k.toFin] := by simp [Job.modTl]

/-- The carousel that was changed. -/
@[simp] theorem Job.car_modCar (j : Job) (c : BitVec 2) (f : Carousel → Carousel) :
    (j.modCar c f).car[c.toFin] = f j.car[c.toFin] := by simp [Job.modCar]

-- What each update leaves.

@[simp] theorem State.gcc_setCore (s : State) (n : CoreIx) (c : Core) : (s.setCore n c).gcc = s.gcc := rfl
@[simp] theorem State.power_setCore (s : State) (n : CoreIx) (c : Core) : (s.setCore n c).power = s.power := rfl
@[simp] theorem State.boot_setCore (s : State) (n : CoreIx) (c : Core) : (s.setCore n c).boot = s.boot := rfl
@[simp] theorem State.fails_setCore (s : State) (n : CoreIx) (c : Core) : (s.setCore n c).fails = s.fails := rfl
@[simp] theorem State.wall_setCore (s : State) (n : CoreIx) (c : Core) : (s.setCore n c).wall = s.wall := rfl
@[simp] theorem State.pmode_setCore (s : State) (n : CoreIx) (c : Core) : (s.setCore n c).pmode = s.pmode := rfl
@[simp] theorem State.preq_setCore (s : State) (n : CoreIx) (c : Core) : (s.setCore n c).preq = s.preq := rfl
@[simp] theorem State.pend_setCore (s : State) (n : CoreIx) (c : Core) : (s.setCore n c).pend = s.pend := rfl
@[simp] theorem State.diesvc_setCore (s : State) (n : CoreIx) (c : Core) : (s.setCore n c).diesvc = s.diesvc := rfl
@[simp] theorem State.shellsvc_setCore (s : State) (n : CoreIx) (c : Core) : (s.setCore n c).shellsvc = s.shellsvc := rfl
@[simp] theorem State.pkgnum_setCore (s : State) (n : CoreIx) (c : Core) : (s.setCore n c).pkgnum = s.pkgnum := rfl
@[simp] theorem State.coresvc_setCore (s : State) (n : CoreIx) (c : Core) : (s.setCore n c).coresvc = s.coresvc := rfl
@[simp] theorem State.defectsig_setCore (s : State) (n : CoreIx) (c : Core) : (s.setCore n c).defectsig = s.defectsig := rfl
@[simp] theorem State.grace_setCore (s : State) (n : CoreIx) (c : Core) : (s.setCore n c).grace = s.grace := rfl
@[simp] theorem State.ageint_setCore (s : State) (n : CoreIx) (c : Core) : (s.setCore n c).ageint = s.ageint := rfl
@[simp] theorem State.saveBase_setCore (s : State) (n : CoreIx) (c : Core) : (s.setCore n c).saveBase = s.saveBase := rfl
@[simp] theorem State.saveSlots_setCore (s : State) (n : CoreIx) (c : Core) : (s.setCore n c).saveSlots = s.saveSlots := rfl
@[simp] theorem State.jrnlBase_setCore (s : State) (n : CoreIx) (c : Core) : (s.setCore n c).jrnlBase = s.jrnlBase := rfl
@[simp] theorem State.logn_setCore (s : State) (n : CoreIx) (c : Core) : (s.setCore n c).logn = s.logn := rfl
@[simp] theorem State.jrnlNext_setCore (s : State) (n : CoreIx) (c : Core) : (s.setCore n c).jrnlNext = s.jrnlNext := rfl
@[simp] theorem State.parts_setCore (s : State) (n : CoreIx) (c : Core) : (s.setCore n c).parts = s.parts := rfl
@[simp] theorem State.porten_setCore (s : State) (n : CoreIx) (c : Core) : (s.setCore n c).porten = s.porten := rfl
@[simp] theorem State.fabPkg_setCore (s : State) (n : CoreIx) (c : Core) : (s.setCore n c).fabPkg = s.fabPkg := rfl
@[simp] theorem State.fabDone_setCore (s : State) (n : CoreIx) (c : Core) : (s.setCore n c).fabDone = s.fabDone := rfl
@[simp] theorem State.portup_setCore (s : State) (n : CoreIx) (c : Core) : (s.setCore n c).portup = s.portup := rfl
@[simp] theorem State.ringup_setCore (s : State) (n : CoreIx) (c : Core) : (s.setCore n c).ringup = s.ringup := rfl
@[simp] theorem State.incarn_setCore (s : State) (n : CoreIx) (c : Core) : (s.setCore n c).incarn = s.incarn := rfl
@[simp] theorem State.mem_setCore (s : State) (n : CoreIx) (c : Core) : (s.setCore n c).mem = s.mem := rfl
@[simp] theorem State.memPo_setCore (s : State) (n : CoreIx) (c : Core) : (s.setCore n c).memPo = s.memPo := rfl
@[simp] theorem State.seqs_setCore (s : State) (n : CoreIx) (c : Core) : (s.setCore n c).seqs = s.seqs := rfl
@[simp] theorem State.dir_setCore (s : State) (n : CoreIx) (c : Core) : (s.setCore n c).dir = s.dir := rfl
@[simp] theorem State.regions_setCore (s : State) (n : CoreIx) (c : Core) : (s.setCore n c).regions = s.regions := rfl
@[simp] theorem State.fills_setCore (s : State) (n : CoreIx) (c : Core) : (s.setCore n c).fills = s.fills := rfl
@[simp] theorem State.invals_setCore (s : State) (n : CoreIx) (c : Core) : (s.setCore n c).invals = s.invals := rfl
@[simp] theorem State.rdWrites_setCore (s : State) (n : CoreIx) (c : Core) : (s.setCore n c).rdWrites = s.rdWrites := rfl
@[simp] theorem State.dups_setCore (s : State) (n : CoreIx) (c : Core) : (s.setCore n c).dups = s.dups := rfl
@[simp] theorem State.holders_setCore (s : State) (n : CoreIx) (c : Core) : (s.setCore n c).holders = s.holders := rfl
@[simp] theorem State.launches_setCore (s : State) (n : CoreIx) (c : Core) : (s.setCore n c).launches = s.launches := rfl
@[simp] theorem State.subs_setCore (s : State) (n : CoreIx) (c : Core) : (s.setCore n c).subs = s.subs := rfl
@[simp] theorem State.parked_setCore (s : State) (n : CoreIx) (c : Core) : (s.setCore n c).parked = s.parked := rfl
@[simp] theorem State.fns_setCore (s : State) (n : CoreIx) (c : Core) : (s.setCore n c).fns = s.fns := rfl
@[simp] theorem State.phys_setCore (s : State) (n : CoreIx) (c : Core) : (s.setCore n c).phys = s.phys := rfl
@[simp] theorem State.pteAddr_setCore (s : State) (n : CoreIx) (c : Core) : (s.setCore n c).pteAddr = s.pteAddr := rfl
@[simp] theorem State.pteData_setCore (s : State) (n : CoreIx) (c : Core) : (s.setCore n c).pteData = s.pteData := rfl
@[simp] theorem State.pteBad_setCore (s : State) (n : CoreIx) (c : Core) : (s.setCore n c).pteBad = s.pteBad := rfl
@[simp] theorem State.pteHeld_setCore (s : State) (n : CoreIx) (c : Core) : (s.setCore n c).pteHeld = s.pteHeld := rfl
@[simp] theorem State.pteBusy_setCore (s : State) (n : CoreIx) (c : Core) : (s.setCore n c).pteBusy = s.pteBusy := rfl
@[simp] theorem State.pcieOut_setCore (s : State) (n : CoreIx) (c : Core) : (s.setCore n c).pcieOut = s.pcieOut := rfl
@[simp] theorem State.flash_setCore (s : State) (n : CoreIx) (c : Core) : (s.setCore n c).flash = s.flash := rfl
@[simp] theorem State.recLen_setCore (s : State) (n : CoreIx) (c : Core) : (s.setCore n c).recLen = s.recLen := rfl
@[simp] theorem State.fwDigest_setCore (s : State) (n : CoreIx) (c : Core) : (s.setCore n c).fwDigest = s.fwDigest := rfl
@[simp] theorem State.fwSvn_setCore (s : State) (n : CoreIx) (c : Core) : (s.setCore n c).fwSvn = s.fwSvn := rfl
@[simp] theorem State.fabricOut_setCore (s : State) (n : CoreIx) (c : Core) : (s.setCore n c).fabricOut = s.fabricOut := rfl
@[simp] theorem State.fabricIn_setCore (s : State) (n : CoreIx) (c : Core) : (s.setCore n c).fabricIn = s.fabricIn := rfl
@[simp] theorem State.fabricInc_setCore (s : State) (n : CoreIx) (c : Core) : (s.setCore n c).fabricInc = s.fabricInc := rfl
@[simp] theorem State.farPhases_setCore (s : State) (n : CoreIx) (c : Core) : (s.setCore n c).farPhases = s.farPhases := rfl
@[simp] theorem State.holdRounds_setCore (s : State) (n : CoreIx) (c : Core) : (s.setCore n c).holdRounds = s.holdRounds := rfl
@[simp] theorem State.homeOrder_setCore (s : State) (n : CoreIx) (c : Core) : (s.setCore n c).homeOrder = s.homeOrder := rfl
@[simp] theorem State.kvWaits_setCore (s : State) (n : CoreIx) (c : Core) : (s.setCore n c).kvWaits = s.kvWaits := rfl
@[simp] theorem State.dies_setCore (s : State) (n : CoreIx) (c : Core) : (s.setCore n c).dies = s.dies := rfl
@[simp] theorem State.turns_setCore (s : State) (n : CoreIx) (c : Core) : (s.setCore n c).turns = s.turns := rfl
@[simp] theorem State.cur_setCore (s : State) (n : CoreIx) (c : Core) : (s.setCore n c).cur = s.cur := rfl
@[simp] theorem State.ord_setCore (s : State) (n : CoreIx) (c : Core) : (s.setCore n c).ord = s.ord := rfl
@[simp] theorem State.free_setCore (s : State) (n : CoreIx) (c : Core) : (s.setCore n c).free = s.free := rfl

@[simp] theorem State.gcc_modCore (s : State) (n : CoreIx) (f : Core → Core) : (s.modCore n f).gcc = s.gcc := rfl
@[simp] theorem State.power_modCore (s : State) (n : CoreIx) (f : Core → Core) : (s.modCore n f).power = s.power := rfl
@[simp] theorem State.boot_modCore (s : State) (n : CoreIx) (f : Core → Core) : (s.modCore n f).boot = s.boot := rfl
@[simp] theorem State.fails_modCore (s : State) (n : CoreIx) (f : Core → Core) : (s.modCore n f).fails = s.fails := rfl
@[simp] theorem State.wall_modCore (s : State) (n : CoreIx) (f : Core → Core) : (s.modCore n f).wall = s.wall := rfl
@[simp] theorem State.pmode_modCore (s : State) (n : CoreIx) (f : Core → Core) : (s.modCore n f).pmode = s.pmode := rfl
@[simp] theorem State.preq_modCore (s : State) (n : CoreIx) (f : Core → Core) : (s.modCore n f).preq = s.preq := rfl
@[simp] theorem State.pend_modCore (s : State) (n : CoreIx) (f : Core → Core) : (s.modCore n f).pend = s.pend := rfl
@[simp] theorem State.diesvc_modCore (s : State) (n : CoreIx) (f : Core → Core) : (s.modCore n f).diesvc = s.diesvc := rfl
@[simp] theorem State.shellsvc_modCore (s : State) (n : CoreIx) (f : Core → Core) : (s.modCore n f).shellsvc = s.shellsvc := rfl
@[simp] theorem State.pkgnum_modCore (s : State) (n : CoreIx) (f : Core → Core) : (s.modCore n f).pkgnum = s.pkgnum := rfl
@[simp] theorem State.coresvc_modCore (s : State) (n : CoreIx) (f : Core → Core) : (s.modCore n f).coresvc = s.coresvc := rfl
@[simp] theorem State.defectsig_modCore (s : State) (n : CoreIx) (f : Core → Core) : (s.modCore n f).defectsig = s.defectsig := rfl
@[simp] theorem State.grace_modCore (s : State) (n : CoreIx) (f : Core → Core) : (s.modCore n f).grace = s.grace := rfl
@[simp] theorem State.ageint_modCore (s : State) (n : CoreIx) (f : Core → Core) : (s.modCore n f).ageint = s.ageint := rfl
@[simp] theorem State.saveBase_modCore (s : State) (n : CoreIx) (f : Core → Core) : (s.modCore n f).saveBase = s.saveBase := rfl
@[simp] theorem State.saveSlots_modCore (s : State) (n : CoreIx) (f : Core → Core) : (s.modCore n f).saveSlots = s.saveSlots := rfl
@[simp] theorem State.jrnlBase_modCore (s : State) (n : CoreIx) (f : Core → Core) : (s.modCore n f).jrnlBase = s.jrnlBase := rfl
@[simp] theorem State.logn_modCore (s : State) (n : CoreIx) (f : Core → Core) : (s.modCore n f).logn = s.logn := rfl
@[simp] theorem State.jrnlNext_modCore (s : State) (n : CoreIx) (f : Core → Core) : (s.modCore n f).jrnlNext = s.jrnlNext := rfl
@[simp] theorem State.parts_modCore (s : State) (n : CoreIx) (f : Core → Core) : (s.modCore n f).parts = s.parts := rfl
@[simp] theorem State.porten_modCore (s : State) (n : CoreIx) (f : Core → Core) : (s.modCore n f).porten = s.porten := rfl
@[simp] theorem State.fabPkg_modCore (s : State) (n : CoreIx) (f : Core → Core) : (s.modCore n f).fabPkg = s.fabPkg := rfl
@[simp] theorem State.fabDone_modCore (s : State) (n : CoreIx) (f : Core → Core) : (s.modCore n f).fabDone = s.fabDone := rfl
@[simp] theorem State.portup_modCore (s : State) (n : CoreIx) (f : Core → Core) : (s.modCore n f).portup = s.portup := rfl
@[simp] theorem State.ringup_modCore (s : State) (n : CoreIx) (f : Core → Core) : (s.modCore n f).ringup = s.ringup := rfl
@[simp] theorem State.incarn_modCore (s : State) (n : CoreIx) (f : Core → Core) : (s.modCore n f).incarn = s.incarn := rfl
@[simp] theorem State.mem_modCore (s : State) (n : CoreIx) (f : Core → Core) : (s.modCore n f).mem = s.mem := rfl
@[simp] theorem State.memPo_modCore (s : State) (n : CoreIx) (f : Core → Core) : (s.modCore n f).memPo = s.memPo := rfl
@[simp] theorem State.seqs_modCore (s : State) (n : CoreIx) (f : Core → Core) : (s.modCore n f).seqs = s.seqs := rfl
@[simp] theorem State.dir_modCore (s : State) (n : CoreIx) (f : Core → Core) : (s.modCore n f).dir = s.dir := rfl
@[simp] theorem State.regions_modCore (s : State) (n : CoreIx) (f : Core → Core) : (s.modCore n f).regions = s.regions := rfl
@[simp] theorem State.fills_modCore (s : State) (n : CoreIx) (f : Core → Core) : (s.modCore n f).fills = s.fills := rfl
@[simp] theorem State.invals_modCore (s : State) (n : CoreIx) (f : Core → Core) : (s.modCore n f).invals = s.invals := rfl
@[simp] theorem State.rdWrites_modCore (s : State) (n : CoreIx) (f : Core → Core) : (s.modCore n f).rdWrites = s.rdWrites := rfl
@[simp] theorem State.dups_modCore (s : State) (n : CoreIx) (f : Core → Core) : (s.modCore n f).dups = s.dups := rfl
@[simp] theorem State.holders_modCore (s : State) (n : CoreIx) (f : Core → Core) : (s.modCore n f).holders = s.holders := rfl
@[simp] theorem State.launches_modCore (s : State) (n : CoreIx) (f : Core → Core) : (s.modCore n f).launches = s.launches := rfl
@[simp] theorem State.subs_modCore (s : State) (n : CoreIx) (f : Core → Core) : (s.modCore n f).subs = s.subs := rfl
@[simp] theorem State.parked_modCore (s : State) (n : CoreIx) (f : Core → Core) : (s.modCore n f).parked = s.parked := rfl
@[simp] theorem State.fns_modCore (s : State) (n : CoreIx) (f : Core → Core) : (s.modCore n f).fns = s.fns := rfl
@[simp] theorem State.phys_modCore (s : State) (n : CoreIx) (f : Core → Core) : (s.modCore n f).phys = s.phys := rfl
@[simp] theorem State.pteAddr_modCore (s : State) (n : CoreIx) (f : Core → Core) : (s.modCore n f).pteAddr = s.pteAddr := rfl
@[simp] theorem State.pteData_modCore (s : State) (n : CoreIx) (f : Core → Core) : (s.modCore n f).pteData = s.pteData := rfl
@[simp] theorem State.pteBad_modCore (s : State) (n : CoreIx) (f : Core → Core) : (s.modCore n f).pteBad = s.pteBad := rfl
@[simp] theorem State.pteHeld_modCore (s : State) (n : CoreIx) (f : Core → Core) : (s.modCore n f).pteHeld = s.pteHeld := rfl
@[simp] theorem State.pteBusy_modCore (s : State) (n : CoreIx) (f : Core → Core) : (s.modCore n f).pteBusy = s.pteBusy := rfl
@[simp] theorem State.pcieOut_modCore (s : State) (n : CoreIx) (f : Core → Core) : (s.modCore n f).pcieOut = s.pcieOut := rfl
@[simp] theorem State.flash_modCore (s : State) (n : CoreIx) (f : Core → Core) : (s.modCore n f).flash = s.flash := rfl
@[simp] theorem State.recLen_modCore (s : State) (n : CoreIx) (f : Core → Core) : (s.modCore n f).recLen = s.recLen := rfl
@[simp] theorem State.fwDigest_modCore (s : State) (n : CoreIx) (f : Core → Core) : (s.modCore n f).fwDigest = s.fwDigest := rfl
@[simp] theorem State.fwSvn_modCore (s : State) (n : CoreIx) (f : Core → Core) : (s.modCore n f).fwSvn = s.fwSvn := rfl
@[simp] theorem State.fabricOut_modCore (s : State) (n : CoreIx) (f : Core → Core) : (s.modCore n f).fabricOut = s.fabricOut := rfl
@[simp] theorem State.fabricIn_modCore (s : State) (n : CoreIx) (f : Core → Core) : (s.modCore n f).fabricIn = s.fabricIn := rfl
@[simp] theorem State.fabricInc_modCore (s : State) (n : CoreIx) (f : Core → Core) : (s.modCore n f).fabricInc = s.fabricInc := rfl
@[simp] theorem State.farPhases_modCore (s : State) (n : CoreIx) (f : Core → Core) : (s.modCore n f).farPhases = s.farPhases := rfl
@[simp] theorem State.holdRounds_modCore (s : State) (n : CoreIx) (f : Core → Core) : (s.modCore n f).holdRounds = s.holdRounds := rfl
@[simp] theorem State.homeOrder_modCore (s : State) (n : CoreIx) (f : Core → Core) : (s.modCore n f).homeOrder = s.homeOrder := rfl
@[simp] theorem State.kvWaits_modCore (s : State) (n : CoreIx) (f : Core → Core) : (s.modCore n f).kvWaits = s.kvWaits := rfl
@[simp] theorem State.dies_modCore (s : State) (n : CoreIx) (f : Core → Core) : (s.modCore n f).dies = s.dies := rfl
@[simp] theorem State.turns_modCore (s : State) (n : CoreIx) (f : Core → Core) : (s.modCore n f).turns = s.turns := rfl
@[simp] theorem State.cur_modCore (s : State) (n : CoreIx) (f : Core → Core) : (s.modCore n f).cur = s.cur := rfl
@[simp] theorem State.ord_modCore (s : State) (n : CoreIx) (f : Core → Core) : (s.modCore n f).ord = s.ord := rfl
@[simp] theorem State.free_modCore (s : State) (n : CoreIx) (f : Core → Core) : (s.modCore n f).free = s.free := rfl

@[simp] theorem State.gcc_modJob (s : State) (n : CoreIx) (f : Job → Job) : (s.modJob n f).gcc = s.gcc := rfl
@[simp] theorem State.power_modJob (s : State) (n : CoreIx) (f : Job → Job) : (s.modJob n f).power = s.power := rfl
@[simp] theorem State.boot_modJob (s : State) (n : CoreIx) (f : Job → Job) : (s.modJob n f).boot = s.boot := rfl
@[simp] theorem State.fails_modJob (s : State) (n : CoreIx) (f : Job → Job) : (s.modJob n f).fails = s.fails := rfl
@[simp] theorem State.wall_modJob (s : State) (n : CoreIx) (f : Job → Job) : (s.modJob n f).wall = s.wall := rfl
@[simp] theorem State.pmode_modJob (s : State) (n : CoreIx) (f : Job → Job) : (s.modJob n f).pmode = s.pmode := rfl
@[simp] theorem State.preq_modJob (s : State) (n : CoreIx) (f : Job → Job) : (s.modJob n f).preq = s.preq := rfl
@[simp] theorem State.pend_modJob (s : State) (n : CoreIx) (f : Job → Job) : (s.modJob n f).pend = s.pend := rfl
@[simp] theorem State.diesvc_modJob (s : State) (n : CoreIx) (f : Job → Job) : (s.modJob n f).diesvc = s.diesvc := rfl
@[simp] theorem State.shellsvc_modJob (s : State) (n : CoreIx) (f : Job → Job) : (s.modJob n f).shellsvc = s.shellsvc := rfl
@[simp] theorem State.pkgnum_modJob (s : State) (n : CoreIx) (f : Job → Job) : (s.modJob n f).pkgnum = s.pkgnum := rfl
@[simp] theorem State.coresvc_modJob (s : State) (n : CoreIx) (f : Job → Job) : (s.modJob n f).coresvc = s.coresvc := rfl
@[simp] theorem State.defectsig_modJob (s : State) (n : CoreIx) (f : Job → Job) : (s.modJob n f).defectsig = s.defectsig := rfl
@[simp] theorem State.grace_modJob (s : State) (n : CoreIx) (f : Job → Job) : (s.modJob n f).grace = s.grace := rfl
@[simp] theorem State.ageint_modJob (s : State) (n : CoreIx) (f : Job → Job) : (s.modJob n f).ageint = s.ageint := rfl
@[simp] theorem State.saveBase_modJob (s : State) (n : CoreIx) (f : Job → Job) : (s.modJob n f).saveBase = s.saveBase := rfl
@[simp] theorem State.saveSlots_modJob (s : State) (n : CoreIx) (f : Job → Job) : (s.modJob n f).saveSlots = s.saveSlots := rfl
@[simp] theorem State.jrnlBase_modJob (s : State) (n : CoreIx) (f : Job → Job) : (s.modJob n f).jrnlBase = s.jrnlBase := rfl
@[simp] theorem State.logn_modJob (s : State) (n : CoreIx) (f : Job → Job) : (s.modJob n f).logn = s.logn := rfl
@[simp] theorem State.jrnlNext_modJob (s : State) (n : CoreIx) (f : Job → Job) : (s.modJob n f).jrnlNext = s.jrnlNext := rfl
@[simp] theorem State.parts_modJob (s : State) (n : CoreIx) (f : Job → Job) : (s.modJob n f).parts = s.parts := rfl
@[simp] theorem State.porten_modJob (s : State) (n : CoreIx) (f : Job → Job) : (s.modJob n f).porten = s.porten := rfl
@[simp] theorem State.fabPkg_modJob (s : State) (n : CoreIx) (f : Job → Job) : (s.modJob n f).fabPkg = s.fabPkg := rfl
@[simp] theorem State.fabDone_modJob (s : State) (n : CoreIx) (f : Job → Job) : (s.modJob n f).fabDone = s.fabDone := rfl
@[simp] theorem State.portup_modJob (s : State) (n : CoreIx) (f : Job → Job) : (s.modJob n f).portup = s.portup := rfl
@[simp] theorem State.ringup_modJob (s : State) (n : CoreIx) (f : Job → Job) : (s.modJob n f).ringup = s.ringup := rfl
@[simp] theorem State.incarn_modJob (s : State) (n : CoreIx) (f : Job → Job) : (s.modJob n f).incarn = s.incarn := rfl
@[simp] theorem State.mem_modJob (s : State) (n : CoreIx) (f : Job → Job) : (s.modJob n f).mem = s.mem := rfl
@[simp] theorem State.memPo_modJob (s : State) (n : CoreIx) (f : Job → Job) : (s.modJob n f).memPo = s.memPo := rfl
@[simp] theorem State.seqs_modJob (s : State) (n : CoreIx) (f : Job → Job) : (s.modJob n f).seqs = s.seqs := rfl
@[simp] theorem State.dir_modJob (s : State) (n : CoreIx) (f : Job → Job) : (s.modJob n f).dir = s.dir := rfl
@[simp] theorem State.regions_modJob (s : State) (n : CoreIx) (f : Job → Job) : (s.modJob n f).regions = s.regions := rfl
@[simp] theorem State.fills_modJob (s : State) (n : CoreIx) (f : Job → Job) : (s.modJob n f).fills = s.fills := rfl
@[simp] theorem State.invals_modJob (s : State) (n : CoreIx) (f : Job → Job) : (s.modJob n f).invals = s.invals := rfl
@[simp] theorem State.rdWrites_modJob (s : State) (n : CoreIx) (f : Job → Job) : (s.modJob n f).rdWrites = s.rdWrites := rfl
@[simp] theorem State.dups_modJob (s : State) (n : CoreIx) (f : Job → Job) : (s.modJob n f).dups = s.dups := rfl
@[simp] theorem State.holders_modJob (s : State) (n : CoreIx) (f : Job → Job) : (s.modJob n f).holders = s.holders := rfl
@[simp] theorem State.launches_modJob (s : State) (n : CoreIx) (f : Job → Job) : (s.modJob n f).launches = s.launches := rfl
@[simp] theorem State.subs_modJob (s : State) (n : CoreIx) (f : Job → Job) : (s.modJob n f).subs = s.subs := rfl
@[simp] theorem State.parked_modJob (s : State) (n : CoreIx) (f : Job → Job) : (s.modJob n f).parked = s.parked := rfl
@[simp] theorem State.fns_modJob (s : State) (n : CoreIx) (f : Job → Job) : (s.modJob n f).fns = s.fns := rfl
@[simp] theorem State.phys_modJob (s : State) (n : CoreIx) (f : Job → Job) : (s.modJob n f).phys = s.phys := rfl
@[simp] theorem State.pteAddr_modJob (s : State) (n : CoreIx) (f : Job → Job) : (s.modJob n f).pteAddr = s.pteAddr := rfl
@[simp] theorem State.pteData_modJob (s : State) (n : CoreIx) (f : Job → Job) : (s.modJob n f).pteData = s.pteData := rfl
@[simp] theorem State.pteBad_modJob (s : State) (n : CoreIx) (f : Job → Job) : (s.modJob n f).pteBad = s.pteBad := rfl
@[simp] theorem State.pteHeld_modJob (s : State) (n : CoreIx) (f : Job → Job) : (s.modJob n f).pteHeld = s.pteHeld := rfl
@[simp] theorem State.pteBusy_modJob (s : State) (n : CoreIx) (f : Job → Job) : (s.modJob n f).pteBusy = s.pteBusy := rfl
@[simp] theorem State.pcieOut_modJob (s : State) (n : CoreIx) (f : Job → Job) : (s.modJob n f).pcieOut = s.pcieOut := rfl
@[simp] theorem State.flash_modJob (s : State) (n : CoreIx) (f : Job → Job) : (s.modJob n f).flash = s.flash := rfl
@[simp] theorem State.recLen_modJob (s : State) (n : CoreIx) (f : Job → Job) : (s.modJob n f).recLen = s.recLen := rfl
@[simp] theorem State.fwDigest_modJob (s : State) (n : CoreIx) (f : Job → Job) : (s.modJob n f).fwDigest = s.fwDigest := rfl
@[simp] theorem State.fwSvn_modJob (s : State) (n : CoreIx) (f : Job → Job) : (s.modJob n f).fwSvn = s.fwSvn := rfl
@[simp] theorem State.fabricOut_modJob (s : State) (n : CoreIx) (f : Job → Job) : (s.modJob n f).fabricOut = s.fabricOut := rfl
@[simp] theorem State.fabricIn_modJob (s : State) (n : CoreIx) (f : Job → Job) : (s.modJob n f).fabricIn = s.fabricIn := rfl
@[simp] theorem State.fabricInc_modJob (s : State) (n : CoreIx) (f : Job → Job) : (s.modJob n f).fabricInc = s.fabricInc := rfl
@[simp] theorem State.farPhases_modJob (s : State) (n : CoreIx) (f : Job → Job) : (s.modJob n f).farPhases = s.farPhases := rfl
@[simp] theorem State.holdRounds_modJob (s : State) (n : CoreIx) (f : Job → Job) : (s.modJob n f).holdRounds = s.holdRounds := rfl
@[simp] theorem State.homeOrder_modJob (s : State) (n : CoreIx) (f : Job → Job) : (s.modJob n f).homeOrder = s.homeOrder := rfl
@[simp] theorem State.kvWaits_modJob (s : State) (n : CoreIx) (f : Job → Job) : (s.modJob n f).kvWaits = s.kvWaits := rfl
@[simp] theorem State.dies_modJob (s : State) (n : CoreIx) (f : Job → Job) : (s.modJob n f).dies = s.dies := rfl
@[simp] theorem State.turns_modJob (s : State) (n : CoreIx) (f : Job → Job) : (s.modJob n f).turns = s.turns := rfl
@[simp] theorem State.cur_modJob (s : State) (n : CoreIx) (f : Job → Job) : (s.modJob n f).cur = s.cur := rfl
@[simp] theorem State.ord_modJob (s : State) (n : CoreIx) (f : Job → Job) : (s.modJob n f).ord = s.ord := rfl
@[simp] theorem State.free_modJob (s : State) (n : CoreIx) (f : Job → Job) : (s.modJob n f).free = s.free := rfl

@[simp] theorem State.gcc_updJob (s : State) (f : Job → Job) : (s.updJob f).gcc = s.gcc := rfl
@[simp] theorem State.power_updJob (s : State) (f : Job → Job) : (s.updJob f).power = s.power := rfl
@[simp] theorem State.boot_updJob (s : State) (f : Job → Job) : (s.updJob f).boot = s.boot := rfl
@[simp] theorem State.fails_updJob (s : State) (f : Job → Job) : (s.updJob f).fails = s.fails := rfl
@[simp] theorem State.wall_updJob (s : State) (f : Job → Job) : (s.updJob f).wall = s.wall := rfl
@[simp] theorem State.pmode_updJob (s : State) (f : Job → Job) : (s.updJob f).pmode = s.pmode := rfl
@[simp] theorem State.preq_updJob (s : State) (f : Job → Job) : (s.updJob f).preq = s.preq := rfl
@[simp] theorem State.pend_updJob (s : State) (f : Job → Job) : (s.updJob f).pend = s.pend := rfl
@[simp] theorem State.diesvc_updJob (s : State) (f : Job → Job) : (s.updJob f).diesvc = s.diesvc := rfl
@[simp] theorem State.shellsvc_updJob (s : State) (f : Job → Job) : (s.updJob f).shellsvc = s.shellsvc := rfl
@[simp] theorem State.pkgnum_updJob (s : State) (f : Job → Job) : (s.updJob f).pkgnum = s.pkgnum := rfl
@[simp] theorem State.coresvc_updJob (s : State) (f : Job → Job) : (s.updJob f).coresvc = s.coresvc := rfl
@[simp] theorem State.defectsig_updJob (s : State) (f : Job → Job) : (s.updJob f).defectsig = s.defectsig := rfl
@[simp] theorem State.grace_updJob (s : State) (f : Job → Job) : (s.updJob f).grace = s.grace := rfl
@[simp] theorem State.ageint_updJob (s : State) (f : Job → Job) : (s.updJob f).ageint = s.ageint := rfl
@[simp] theorem State.saveBase_updJob (s : State) (f : Job → Job) : (s.updJob f).saveBase = s.saveBase := rfl
@[simp] theorem State.saveSlots_updJob (s : State) (f : Job → Job) : (s.updJob f).saveSlots = s.saveSlots := rfl
@[simp] theorem State.jrnlBase_updJob (s : State) (f : Job → Job) : (s.updJob f).jrnlBase = s.jrnlBase := rfl
@[simp] theorem State.logn_updJob (s : State) (f : Job → Job) : (s.updJob f).logn = s.logn := rfl
@[simp] theorem State.jrnlNext_updJob (s : State) (f : Job → Job) : (s.updJob f).jrnlNext = s.jrnlNext := rfl
@[simp] theorem State.parts_updJob (s : State) (f : Job → Job) : (s.updJob f).parts = s.parts := rfl
@[simp] theorem State.porten_updJob (s : State) (f : Job → Job) : (s.updJob f).porten = s.porten := rfl
@[simp] theorem State.fabPkg_updJob (s : State) (f : Job → Job) : (s.updJob f).fabPkg = s.fabPkg := rfl
@[simp] theorem State.fabDone_updJob (s : State) (f : Job → Job) : (s.updJob f).fabDone = s.fabDone := rfl
@[simp] theorem State.portup_updJob (s : State) (f : Job → Job) : (s.updJob f).portup = s.portup := rfl
@[simp] theorem State.ringup_updJob (s : State) (f : Job → Job) : (s.updJob f).ringup = s.ringup := rfl
@[simp] theorem State.incarn_updJob (s : State) (f : Job → Job) : (s.updJob f).incarn = s.incarn := rfl
@[simp] theorem State.mem_updJob (s : State) (f : Job → Job) : (s.updJob f).mem = s.mem := rfl
@[simp] theorem State.memPo_updJob (s : State) (f : Job → Job) : (s.updJob f).memPo = s.memPo := rfl
@[simp] theorem State.seqs_updJob (s : State) (f : Job → Job) : (s.updJob f).seqs = s.seqs := rfl
@[simp] theorem State.dir_updJob (s : State) (f : Job → Job) : (s.updJob f).dir = s.dir := rfl
@[simp] theorem State.regions_updJob (s : State) (f : Job → Job) : (s.updJob f).regions = s.regions := rfl
@[simp] theorem State.fills_updJob (s : State) (f : Job → Job) : (s.updJob f).fills = s.fills := rfl
@[simp] theorem State.invals_updJob (s : State) (f : Job → Job) : (s.updJob f).invals = s.invals := rfl
@[simp] theorem State.rdWrites_updJob (s : State) (f : Job → Job) : (s.updJob f).rdWrites = s.rdWrites := rfl
@[simp] theorem State.dups_updJob (s : State) (f : Job → Job) : (s.updJob f).dups = s.dups := rfl
@[simp] theorem State.holders_updJob (s : State) (f : Job → Job) : (s.updJob f).holders = s.holders := rfl
@[simp] theorem State.launches_updJob (s : State) (f : Job → Job) : (s.updJob f).launches = s.launches := rfl
@[simp] theorem State.subs_updJob (s : State) (f : Job → Job) : (s.updJob f).subs = s.subs := rfl
@[simp] theorem State.parked_updJob (s : State) (f : Job → Job) : (s.updJob f).parked = s.parked := rfl
@[simp] theorem State.fns_updJob (s : State) (f : Job → Job) : (s.updJob f).fns = s.fns := rfl
@[simp] theorem State.phys_updJob (s : State) (f : Job → Job) : (s.updJob f).phys = s.phys := rfl
@[simp] theorem State.pteAddr_updJob (s : State) (f : Job → Job) : (s.updJob f).pteAddr = s.pteAddr := rfl
@[simp] theorem State.pteData_updJob (s : State) (f : Job → Job) : (s.updJob f).pteData = s.pteData := rfl
@[simp] theorem State.pteBad_updJob (s : State) (f : Job → Job) : (s.updJob f).pteBad = s.pteBad := rfl
@[simp] theorem State.pteHeld_updJob (s : State) (f : Job → Job) : (s.updJob f).pteHeld = s.pteHeld := rfl
@[simp] theorem State.pteBusy_updJob (s : State) (f : Job → Job) : (s.updJob f).pteBusy = s.pteBusy := rfl
@[simp] theorem State.pcieOut_updJob (s : State) (f : Job → Job) : (s.updJob f).pcieOut = s.pcieOut := rfl
@[simp] theorem State.flash_updJob (s : State) (f : Job → Job) : (s.updJob f).flash = s.flash := rfl
@[simp] theorem State.recLen_updJob (s : State) (f : Job → Job) : (s.updJob f).recLen = s.recLen := rfl
@[simp] theorem State.fwDigest_updJob (s : State) (f : Job → Job) : (s.updJob f).fwDigest = s.fwDigest := rfl
@[simp] theorem State.fwSvn_updJob (s : State) (f : Job → Job) : (s.updJob f).fwSvn = s.fwSvn := rfl
@[simp] theorem State.fabricOut_updJob (s : State) (f : Job → Job) : (s.updJob f).fabricOut = s.fabricOut := rfl
@[simp] theorem State.fabricIn_updJob (s : State) (f : Job → Job) : (s.updJob f).fabricIn = s.fabricIn := rfl
@[simp] theorem State.fabricInc_updJob (s : State) (f : Job → Job) : (s.updJob f).fabricInc = s.fabricInc := rfl
@[simp] theorem State.farPhases_updJob (s : State) (f : Job → Job) : (s.updJob f).farPhases = s.farPhases := rfl
@[simp] theorem State.holdRounds_updJob (s : State) (f : Job → Job) : (s.updJob f).holdRounds = s.holdRounds := rfl
@[simp] theorem State.homeOrder_updJob (s : State) (f : Job → Job) : (s.updJob f).homeOrder = s.homeOrder := rfl
@[simp] theorem State.kvWaits_updJob (s : State) (f : Job → Job) : (s.updJob f).kvWaits = s.kvWaits := rfl
@[simp] theorem State.dies_updJob (s : State) (f : Job → Job) : (s.updJob f).dies = s.dies := rfl
@[simp] theorem State.turns_updJob (s : State) (f : Job → Job) : (s.updJob f).turns = s.turns := rfl
@[simp] theorem State.cur_updJob (s : State) (f : Job → Job) : (s.updJob f).cur = s.cur := rfl
@[simp] theorem State.ord_updJob (s : State) (f : Job → Job) : (s.updJob f).ord = s.ord := rfl
@[simp] theorem State.free_updJob (s : State) (f : Job → Job) : (s.updJob f).free = s.free := rfl

@[simp] theorem State.gcc_updStrm (s : State) (f : Stream → Stream) : (s.updStrm f).gcc = s.gcc := rfl
@[simp] theorem State.power_updStrm (s : State) (f : Stream → Stream) : (s.updStrm f).power = s.power := rfl
@[simp] theorem State.boot_updStrm (s : State) (f : Stream → Stream) : (s.updStrm f).boot = s.boot := rfl
@[simp] theorem State.fails_updStrm (s : State) (f : Stream → Stream) : (s.updStrm f).fails = s.fails := rfl
@[simp] theorem State.wall_updStrm (s : State) (f : Stream → Stream) : (s.updStrm f).wall = s.wall := rfl
@[simp] theorem State.pmode_updStrm (s : State) (f : Stream → Stream) : (s.updStrm f).pmode = s.pmode := rfl
@[simp] theorem State.preq_updStrm (s : State) (f : Stream → Stream) : (s.updStrm f).preq = s.preq := rfl
@[simp] theorem State.pend_updStrm (s : State) (f : Stream → Stream) : (s.updStrm f).pend = s.pend := rfl
@[simp] theorem State.diesvc_updStrm (s : State) (f : Stream → Stream) : (s.updStrm f).diesvc = s.diesvc := rfl
@[simp] theorem State.shellsvc_updStrm (s : State) (f : Stream → Stream) : (s.updStrm f).shellsvc = s.shellsvc := rfl
@[simp] theorem State.pkgnum_updStrm (s : State) (f : Stream → Stream) : (s.updStrm f).pkgnum = s.pkgnum := rfl
@[simp] theorem State.coresvc_updStrm (s : State) (f : Stream → Stream) : (s.updStrm f).coresvc = s.coresvc := rfl
@[simp] theorem State.defectsig_updStrm (s : State) (f : Stream → Stream) : (s.updStrm f).defectsig = s.defectsig := rfl
@[simp] theorem State.grace_updStrm (s : State) (f : Stream → Stream) : (s.updStrm f).grace = s.grace := rfl
@[simp] theorem State.ageint_updStrm (s : State) (f : Stream → Stream) : (s.updStrm f).ageint = s.ageint := rfl
@[simp] theorem State.saveBase_updStrm (s : State) (f : Stream → Stream) : (s.updStrm f).saveBase = s.saveBase := rfl
@[simp] theorem State.saveSlots_updStrm (s : State) (f : Stream → Stream) : (s.updStrm f).saveSlots = s.saveSlots := rfl
@[simp] theorem State.jrnlBase_updStrm (s : State) (f : Stream → Stream) : (s.updStrm f).jrnlBase = s.jrnlBase := rfl
@[simp] theorem State.logn_updStrm (s : State) (f : Stream → Stream) : (s.updStrm f).logn = s.logn := rfl
@[simp] theorem State.jrnlNext_updStrm (s : State) (f : Stream → Stream) : (s.updStrm f).jrnlNext = s.jrnlNext := rfl
@[simp] theorem State.parts_updStrm (s : State) (f : Stream → Stream) : (s.updStrm f).parts = s.parts := rfl
@[simp] theorem State.porten_updStrm (s : State) (f : Stream → Stream) : (s.updStrm f).porten = s.porten := rfl
@[simp] theorem State.fabPkg_updStrm (s : State) (f : Stream → Stream) : (s.updStrm f).fabPkg = s.fabPkg := rfl
@[simp] theorem State.fabDone_updStrm (s : State) (f : Stream → Stream) : (s.updStrm f).fabDone = s.fabDone := rfl
@[simp] theorem State.portup_updStrm (s : State) (f : Stream → Stream) : (s.updStrm f).portup = s.portup := rfl
@[simp] theorem State.ringup_updStrm (s : State) (f : Stream → Stream) : (s.updStrm f).ringup = s.ringup := rfl
@[simp] theorem State.incarn_updStrm (s : State) (f : Stream → Stream) : (s.updStrm f).incarn = s.incarn := rfl
@[simp] theorem State.mem_updStrm (s : State) (f : Stream → Stream) : (s.updStrm f).mem = s.mem := rfl
@[simp] theorem State.memPo_updStrm (s : State) (f : Stream → Stream) : (s.updStrm f).memPo = s.memPo := rfl
@[simp] theorem State.seqs_updStrm (s : State) (f : Stream → Stream) : (s.updStrm f).seqs = s.seqs := rfl
@[simp] theorem State.dir_updStrm (s : State) (f : Stream → Stream) : (s.updStrm f).dir = s.dir := rfl
@[simp] theorem State.regions_updStrm (s : State) (f : Stream → Stream) : (s.updStrm f).regions = s.regions := rfl
@[simp] theorem State.fills_updStrm (s : State) (f : Stream → Stream) : (s.updStrm f).fills = s.fills := rfl
@[simp] theorem State.invals_updStrm (s : State) (f : Stream → Stream) : (s.updStrm f).invals = s.invals := rfl
@[simp] theorem State.rdWrites_updStrm (s : State) (f : Stream → Stream) : (s.updStrm f).rdWrites = s.rdWrites := rfl
@[simp] theorem State.dups_updStrm (s : State) (f : Stream → Stream) : (s.updStrm f).dups = s.dups := rfl
@[simp] theorem State.holders_updStrm (s : State) (f : Stream → Stream) : (s.updStrm f).holders = s.holders := rfl
@[simp] theorem State.launches_updStrm (s : State) (f : Stream → Stream) : (s.updStrm f).launches = s.launches := rfl
@[simp] theorem State.subs_updStrm (s : State) (f : Stream → Stream) : (s.updStrm f).subs = s.subs := rfl
@[simp] theorem State.parked_updStrm (s : State) (f : Stream → Stream) : (s.updStrm f).parked = s.parked := rfl
@[simp] theorem State.fns_updStrm (s : State) (f : Stream → Stream) : (s.updStrm f).fns = s.fns := rfl
@[simp] theorem State.phys_updStrm (s : State) (f : Stream → Stream) : (s.updStrm f).phys = s.phys := rfl
@[simp] theorem State.pteAddr_updStrm (s : State) (f : Stream → Stream) : (s.updStrm f).pteAddr = s.pteAddr := rfl
@[simp] theorem State.pteData_updStrm (s : State) (f : Stream → Stream) : (s.updStrm f).pteData = s.pteData := rfl
@[simp] theorem State.pteBad_updStrm (s : State) (f : Stream → Stream) : (s.updStrm f).pteBad = s.pteBad := rfl
@[simp] theorem State.pteHeld_updStrm (s : State) (f : Stream → Stream) : (s.updStrm f).pteHeld = s.pteHeld := rfl
@[simp] theorem State.pteBusy_updStrm (s : State) (f : Stream → Stream) : (s.updStrm f).pteBusy = s.pteBusy := rfl
@[simp] theorem State.pcieOut_updStrm (s : State) (f : Stream → Stream) : (s.updStrm f).pcieOut = s.pcieOut := rfl
@[simp] theorem State.flash_updStrm (s : State) (f : Stream → Stream) : (s.updStrm f).flash = s.flash := rfl
@[simp] theorem State.recLen_updStrm (s : State) (f : Stream → Stream) : (s.updStrm f).recLen = s.recLen := rfl
@[simp] theorem State.fwDigest_updStrm (s : State) (f : Stream → Stream) : (s.updStrm f).fwDigest = s.fwDigest := rfl
@[simp] theorem State.fwSvn_updStrm (s : State) (f : Stream → Stream) : (s.updStrm f).fwSvn = s.fwSvn := rfl
@[simp] theorem State.fabricOut_updStrm (s : State) (f : Stream → Stream) : (s.updStrm f).fabricOut = s.fabricOut := rfl
@[simp] theorem State.fabricIn_updStrm (s : State) (f : Stream → Stream) : (s.updStrm f).fabricIn = s.fabricIn := rfl
@[simp] theorem State.fabricInc_updStrm (s : State) (f : Stream → Stream) : (s.updStrm f).fabricInc = s.fabricInc := rfl
@[simp] theorem State.farPhases_updStrm (s : State) (f : Stream → Stream) : (s.updStrm f).farPhases = s.farPhases := rfl
@[simp] theorem State.holdRounds_updStrm (s : State) (f : Stream → Stream) : (s.updStrm f).holdRounds = s.holdRounds := rfl
@[simp] theorem State.homeOrder_updStrm (s : State) (f : Stream → Stream) : (s.updStrm f).homeOrder = s.homeOrder := rfl
@[simp] theorem State.kvWaits_updStrm (s : State) (f : Stream → Stream) : (s.updStrm f).kvWaits = s.kvWaits := rfl
@[simp] theorem State.dies_updStrm (s : State) (f : Stream → Stream) : (s.updStrm f).dies = s.dies := rfl
@[simp] theorem State.turns_updStrm (s : State) (f : Stream → Stream) : (s.updStrm f).turns = s.turns := rfl
@[simp] theorem State.cur_updStrm (s : State) (f : Stream → Stream) : (s.updStrm f).cur = s.cur := rfl
@[simp] theorem State.ord_updStrm (s : State) (f : Stream → Stream) : (s.updStrm f).ord = s.ord := rfl
@[simp] theorem State.free_updStrm (s : State) (f : Stream → Stream) : (s.updStrm f).free = s.free := rfl

@[simp] theorem State.gcc_modDie (s : State) (d : DieIx) (f : Die → Die) : (s.modDie d f).gcc = s.gcc := rfl
@[simp] theorem State.power_modDie (s : State) (d : DieIx) (f : Die → Die) : (s.modDie d f).power = s.power := rfl
@[simp] theorem State.boot_modDie (s : State) (d : DieIx) (f : Die → Die) : (s.modDie d f).boot = s.boot := rfl
@[simp] theorem State.fails_modDie (s : State) (d : DieIx) (f : Die → Die) : (s.modDie d f).fails = s.fails := rfl
@[simp] theorem State.wall_modDie (s : State) (d : DieIx) (f : Die → Die) : (s.modDie d f).wall = s.wall := rfl
@[simp] theorem State.pmode_modDie (s : State) (d : DieIx) (f : Die → Die) : (s.modDie d f).pmode = s.pmode := rfl
@[simp] theorem State.preq_modDie (s : State) (d : DieIx) (f : Die → Die) : (s.modDie d f).preq = s.preq := rfl
@[simp] theorem State.pend_modDie (s : State) (d : DieIx) (f : Die → Die) : (s.modDie d f).pend = s.pend := rfl
@[simp] theorem State.diesvc_modDie (s : State) (d : DieIx) (f : Die → Die) : (s.modDie d f).diesvc = s.diesvc := rfl
@[simp] theorem State.shellsvc_modDie (s : State) (d : DieIx) (f : Die → Die) : (s.modDie d f).shellsvc = s.shellsvc := rfl
@[simp] theorem State.pkgnum_modDie (s : State) (d : DieIx) (f : Die → Die) : (s.modDie d f).pkgnum = s.pkgnum := rfl
@[simp] theorem State.coresvc_modDie (s : State) (d : DieIx) (f : Die → Die) : (s.modDie d f).coresvc = s.coresvc := rfl
@[simp] theorem State.defectsig_modDie (s : State) (d : DieIx) (f : Die → Die) : (s.modDie d f).defectsig = s.defectsig := rfl
@[simp] theorem State.grace_modDie (s : State) (d : DieIx) (f : Die → Die) : (s.modDie d f).grace = s.grace := rfl
@[simp] theorem State.ageint_modDie (s : State) (d : DieIx) (f : Die → Die) : (s.modDie d f).ageint = s.ageint := rfl
@[simp] theorem State.saveBase_modDie (s : State) (d : DieIx) (f : Die → Die) : (s.modDie d f).saveBase = s.saveBase := rfl
@[simp] theorem State.saveSlots_modDie (s : State) (d : DieIx) (f : Die → Die) : (s.modDie d f).saveSlots = s.saveSlots := rfl
@[simp] theorem State.jrnlBase_modDie (s : State) (d : DieIx) (f : Die → Die) : (s.modDie d f).jrnlBase = s.jrnlBase := rfl
@[simp] theorem State.logn_modDie (s : State) (d : DieIx) (f : Die → Die) : (s.modDie d f).logn = s.logn := rfl
@[simp] theorem State.jrnlNext_modDie (s : State) (d : DieIx) (f : Die → Die) : (s.modDie d f).jrnlNext = s.jrnlNext := rfl
@[simp] theorem State.parts_modDie (s : State) (d : DieIx) (f : Die → Die) : (s.modDie d f).parts = s.parts := rfl
@[simp] theorem State.porten_modDie (s : State) (d : DieIx) (f : Die → Die) : (s.modDie d f).porten = s.porten := rfl
@[simp] theorem State.fabPkg_modDie (s : State) (d : DieIx) (f : Die → Die) : (s.modDie d f).fabPkg = s.fabPkg := rfl
@[simp] theorem State.fabDone_modDie (s : State) (d : DieIx) (f : Die → Die) : (s.modDie d f).fabDone = s.fabDone := rfl
@[simp] theorem State.portup_modDie (s : State) (d : DieIx) (f : Die → Die) : (s.modDie d f).portup = s.portup := rfl
@[simp] theorem State.ringup_modDie (s : State) (d : DieIx) (f : Die → Die) : (s.modDie d f).ringup = s.ringup := rfl
@[simp] theorem State.incarn_modDie (s : State) (d : DieIx) (f : Die → Die) : (s.modDie d f).incarn = s.incarn := rfl
@[simp] theorem State.mem_modDie (s : State) (d : DieIx) (f : Die → Die) : (s.modDie d f).mem = s.mem := rfl
@[simp] theorem State.memPo_modDie (s : State) (d : DieIx) (f : Die → Die) : (s.modDie d f).memPo = s.memPo := rfl
@[simp] theorem State.seqs_modDie (s : State) (d : DieIx) (f : Die → Die) : (s.modDie d f).seqs = s.seqs := rfl
@[simp] theorem State.dir_modDie (s : State) (d : DieIx) (f : Die → Die) : (s.modDie d f).dir = s.dir := rfl
@[simp] theorem State.regions_modDie (s : State) (d : DieIx) (f : Die → Die) : (s.modDie d f).regions = s.regions := rfl
@[simp] theorem State.fills_modDie (s : State) (d : DieIx) (f : Die → Die) : (s.modDie d f).fills = s.fills := rfl
@[simp] theorem State.invals_modDie (s : State) (d : DieIx) (f : Die → Die) : (s.modDie d f).invals = s.invals := rfl
@[simp] theorem State.rdWrites_modDie (s : State) (d : DieIx) (f : Die → Die) : (s.modDie d f).rdWrites = s.rdWrites := rfl
@[simp] theorem State.dups_modDie (s : State) (d : DieIx) (f : Die → Die) : (s.modDie d f).dups = s.dups := rfl
@[simp] theorem State.holders_modDie (s : State) (d : DieIx) (f : Die → Die) : (s.modDie d f).holders = s.holders := rfl
@[simp] theorem State.launches_modDie (s : State) (d : DieIx) (f : Die → Die) : (s.modDie d f).launches = s.launches := rfl
@[simp] theorem State.subs_modDie (s : State) (d : DieIx) (f : Die → Die) : (s.modDie d f).subs = s.subs := rfl
@[simp] theorem State.parked_modDie (s : State) (d : DieIx) (f : Die → Die) : (s.modDie d f).parked = s.parked := rfl
@[simp] theorem State.fns_modDie (s : State) (d : DieIx) (f : Die → Die) : (s.modDie d f).fns = s.fns := rfl
@[simp] theorem State.phys_modDie (s : State) (d : DieIx) (f : Die → Die) : (s.modDie d f).phys = s.phys := rfl
@[simp] theorem State.pteAddr_modDie (s : State) (d : DieIx) (f : Die → Die) : (s.modDie d f).pteAddr = s.pteAddr := rfl
@[simp] theorem State.pteData_modDie (s : State) (d : DieIx) (f : Die → Die) : (s.modDie d f).pteData = s.pteData := rfl
@[simp] theorem State.pteBad_modDie (s : State) (d : DieIx) (f : Die → Die) : (s.modDie d f).pteBad = s.pteBad := rfl
@[simp] theorem State.pteHeld_modDie (s : State) (d : DieIx) (f : Die → Die) : (s.modDie d f).pteHeld = s.pteHeld := rfl
@[simp] theorem State.pteBusy_modDie (s : State) (d : DieIx) (f : Die → Die) : (s.modDie d f).pteBusy = s.pteBusy := rfl
@[simp] theorem State.pcieOut_modDie (s : State) (d : DieIx) (f : Die → Die) : (s.modDie d f).pcieOut = s.pcieOut := rfl
@[simp] theorem State.flash_modDie (s : State) (d : DieIx) (f : Die → Die) : (s.modDie d f).flash = s.flash := rfl
@[simp] theorem State.recLen_modDie (s : State) (d : DieIx) (f : Die → Die) : (s.modDie d f).recLen = s.recLen := rfl
@[simp] theorem State.fwDigest_modDie (s : State) (d : DieIx) (f : Die → Die) : (s.modDie d f).fwDigest = s.fwDigest := rfl
@[simp] theorem State.fwSvn_modDie (s : State) (d : DieIx) (f : Die → Die) : (s.modDie d f).fwSvn = s.fwSvn := rfl
@[simp] theorem State.fabricOut_modDie (s : State) (d : DieIx) (f : Die → Die) : (s.modDie d f).fabricOut = s.fabricOut := rfl
@[simp] theorem State.fabricIn_modDie (s : State) (d : DieIx) (f : Die → Die) : (s.modDie d f).fabricIn = s.fabricIn := rfl
@[simp] theorem State.fabricInc_modDie (s : State) (d : DieIx) (f : Die → Die) : (s.modDie d f).fabricInc = s.fabricInc := rfl
@[simp] theorem State.farPhases_modDie (s : State) (d : DieIx) (f : Die → Die) : (s.modDie d f).farPhases = s.farPhases := rfl
@[simp] theorem State.holdRounds_modDie (s : State) (d : DieIx) (f : Die → Die) : (s.modDie d f).holdRounds = s.holdRounds := rfl
@[simp] theorem State.homeOrder_modDie (s : State) (d : DieIx) (f : Die → Die) : (s.modDie d f).homeOrder = s.homeOrder := rfl
@[simp] theorem State.kvWaits_modDie (s : State) (d : DieIx) (f : Die → Die) : (s.modDie d f).kvWaits = s.kvWaits := rfl
@[simp] theorem State.cores_modDie (s : State) (d : DieIx) (f : Die → Die) : (s.modDie d f).cores = s.cores := rfl
@[simp] theorem State.turns_modDie (s : State) (d : DieIx) (f : Die → Die) : (s.modDie d f).turns = s.turns := rfl
@[simp] theorem State.cur_modDie (s : State) (d : DieIx) (f : Die → Die) : (s.modDie d f).cur = s.cur := rfl
@[simp] theorem State.ord_modDie (s : State) (d : DieIx) (f : Die → Die) : (s.modDie d f).ord = s.ord := rfl
@[simp] theorem State.free_modDie (s : State) (d : DieIx) (f : Die → Die) : (s.modDie d f).free = s.free := rfl

@[simp] theorem Core.spad_setJob (c : Core) (j : Job) : (c.setJob j).spad = c.spad := by unfold Core.setJob; split <;> rfl
@[simp] theorem Core.spadPo_setJob (c : Core) (j : Job) : (c.setJob j).spadPo = c.spadPo := by unfold Core.setJob; split <;> rfl
@[simp] theorem Core.tags_setJob (c : Core) (j : Job) : (c.setJob j).tags = c.tags := by unfold Core.setJob; split <;> rfl
@[simp] theorem Core.landing_setJob (c : Core) (j : Job) : (c.setJob j).landing = c.landing := by unfold Core.setJob; split <;> rfl
@[simp] theorem Core.inbox_setJob (c : Core) (j : Job) : (c.setJob j).inbox = c.inbox := by unfold Core.setJob; split <;> rfl
@[simp] theorem Core.runIx_setJob (c : Core) (j : Job) : (c.setJob j).runIx = c.runIx := by unfold Core.setJob; split <;> rfl
@[simp] theorem Core.lq_setJob (c : Core) (j : Job) : (c.setJob j).lq = c.lq := by unfold Core.setJob; split <;> rfl
@[simp] theorem Core.sq_setJob (c : Core) (j : Job) : (c.setJob j).sq = c.sq := by unfold Core.setJob; split <;> rfl
@[simp] theorem Core.lqFreed_setJob (c : Core) (j : Job) : (c.setJob j).lqFreed = c.lqFreed := by unfold Core.setJob; split <;> rfl
@[simp] theorem Core.sqFreed_setJob (c : Core) (j : Job) : (c.setJob j).sqFreed = c.sqFreed := by unfold Core.setJob; split <;> rfl
@[simp] theorem Core.psb_setJob (c : Core) (j : Job) : (c.setJob j).psb = c.psb := by unfold Core.setJob; split <;> rfl
@[simp] theorem Core.win_setJob (c : Core) (j : Job) : (c.setJob j).win = c.win := by unfold Core.setJob; split <;> rfl
@[simp] theorem Core.copies_setJob (c : Core) (j : Job) : (c.setJob j).copies = c.copies := by unfold Core.setJob; split <;> rfl
@[simp] theorem Core.winReqs_setJob (c : Core) (j : Job) : (c.setJob j).winReqs = c.winReqs := by unfold Core.setJob; split <;> rfl
@[simp] theorem Core.collEnds_setJob (c : Core) (j : Job) : (c.setJob j).collEnds = c.collEnds := by unfold Core.setJob; split <;> rfl
@[simp] theorem Core.icache_setJob (c : Core) (j : Job) : (c.setJob j).icache = c.icache := by unfold Core.setJob; split <;> rfl
@[simp] theorem Core.ringFreed_setJob (c : Core) (j : Job) : (c.setJob j).ringFreed = c.ringFreed := by unfold Core.setJob; split <;> rfl
@[simp] theorem Core.ctxShown_setJob (c : Core) (j : Job) : (c.setJob j).ctxShown = c.ctxShown := by unfold Core.setJob; split <;> rfl

@[simp] theorem Core.spad_setOther (c : Core) (j : Job) : (c.setOther j).spad = c.spad := by unfold Core.setOther; split <;> rfl
@[simp] theorem Core.spadPo_setOther (c : Core) (j : Job) : (c.setOther j).spadPo = c.spadPo := by unfold Core.setOther; split <;> rfl
@[simp] theorem Core.tags_setOther (c : Core) (j : Job) : (c.setOther j).tags = c.tags := by unfold Core.setOther; split <;> rfl
@[simp] theorem Core.landing_setOther (c : Core) (j : Job) : (c.setOther j).landing = c.landing := by unfold Core.setOther; split <;> rfl
@[simp] theorem Core.inbox_setOther (c : Core) (j : Job) : (c.setOther j).inbox = c.inbox := by unfold Core.setOther; split <;> rfl
@[simp] theorem Core.runIx_setOther (c : Core) (j : Job) : (c.setOther j).runIx = c.runIx := by unfold Core.setOther; split <;> rfl
@[simp] theorem Core.lq_setOther (c : Core) (j : Job) : (c.setOther j).lq = c.lq := by unfold Core.setOther; split <;> rfl
@[simp] theorem Core.sq_setOther (c : Core) (j : Job) : (c.setOther j).sq = c.sq := by unfold Core.setOther; split <;> rfl
@[simp] theorem Core.lqFreed_setOther (c : Core) (j : Job) : (c.setOther j).lqFreed = c.lqFreed := by unfold Core.setOther; split <;> rfl
@[simp] theorem Core.sqFreed_setOther (c : Core) (j : Job) : (c.setOther j).sqFreed = c.sqFreed := by unfold Core.setOther; split <;> rfl
@[simp] theorem Core.psb_setOther (c : Core) (j : Job) : (c.setOther j).psb = c.psb := by unfold Core.setOther; split <;> rfl
@[simp] theorem Core.win_setOther (c : Core) (j : Job) : (c.setOther j).win = c.win := by unfold Core.setOther; split <;> rfl
@[simp] theorem Core.copies_setOther (c : Core) (j : Job) : (c.setOther j).copies = c.copies := by unfold Core.setOther; split <;> rfl
@[simp] theorem Core.winReqs_setOther (c : Core) (j : Job) : (c.setOther j).winReqs = c.winReqs := by unfold Core.setOther; split <;> rfl
@[simp] theorem Core.collEnds_setOther (c : Core) (j : Job) : (c.setOther j).collEnds = c.collEnds := by unfold Core.setOther; split <;> rfl
@[simp] theorem Core.icache_setOther (c : Core) (j : Job) : (c.setOther j).icache = c.icache := by unfold Core.setOther; split <;> rfl
@[simp] theorem Core.ringFreed_setOther (c : Core) (j : Job) : (c.setOther j).ringFreed = c.ringFreed := by unfold Core.setOther; split <;> rfl
@[simp] theorem Core.ctxShown_setOther (c : Core) (j : Job) : (c.setOther j).ctxShown = c.ctxShown := by unfold Core.setOther; split <;> rfl

@[simp] theorem Job.st_modStream (j : Job) (st : Strm) (f : Stream → Stream) : (j.modStream st f).st = j.st := rfl
@[simp] theorem Job.seq_modStream (j : Job) (st : Strm) (f : Stream → Stream) : (j.modStream st f).seq = j.seq := rfl
@[simp] theorem Job.iter_modStream (j : Job) (st : Strm) (f : Stream → Stream) : (j.modStream st f).iter = j.iter := rfl
@[simp] theorem Job.idx_modStream (j : Job) (st : Strm) (f : Stream → Stream) : (j.modStream st f).idx = j.idx := rfl
@[simp] theorem Job.stage_modStream (j : Job) (st : Strm) (f : Stream → Stream) : (j.modStream st f).stage = j.stage := rfl
@[simp] theorem Job.nest_modStream (j : Job) (st : Strm) (f : Stream → Stream) : (j.modStream st f).nest = j.nest := rfl
@[simp] theorem Job.prio_modStream (j : Job) (st : Strm) (f : Stream → Stream) : (j.modStream st f).prio = j.prio := rfl
@[simp] theorem Job.incarn_modStream (j : Job) (st : Strm) (f : Stream → Stream) : (j.modStream st f).incarn = j.incarn := rfl
@[simp] theorem Job.pkgnum_modStream (j : Job) (st : Strm) (f : Stream → Stream) : (j.modStream st f).pkgnum = j.pkgnum := rfl
@[simp] theorem Job.jc_modStream (j : Job) (st : Strm) (f : Stream → Stream) : (j.modStream st f).jc = j.jc := rfl
@[simp] theorem Job.hclk_modStream (j : Job) (st : Strm) (f : Stream → Stream) : (j.modStream st f).hclk = j.hclk := rfl
@[simp] theorem Job.hNext_modStream (j : Job) (st : Strm) (f : Stream → Stream) : (j.modStream st f).hNext = j.hNext := rfl
@[simp] theorem Job.t0_modStream (j : Job) (st : Strm) (f : Stream → Stream) : (j.modStream st f).t0 = j.t0 := rfl
@[simp] theorem Job.cycDone_modStream (j : Job) (st : Strm) (f : Stream → Stream) : (j.modStream st f).cycDone = j.cycDone := rfl
@[simp] theorem Job.thawAt_modStream (j : Job) (st : Strm) (f : Stream → Stream) : (j.modStream st f).thawAt = j.thawAt := rfl
@[simp] theorem Job.vq_modStream (j : Job) (st : Strm) (f : Stream → Stream) : (j.modStream st f).vq = j.vq := rfl
@[simp] theorem Job.vpopped_modStream (j : Job) (st : Strm) (f : Stream → Stream) : (j.modStream st f).vpopped = j.vpopped := rfl
@[simp] theorem Job.vqRes_modStream (j : Job) (st : Strm) (f : Stream → Stream) : (j.modStream st f).vqRes = j.vqRes := rfl
@[simp] theorem Job.v_modStream (j : Job) (st : Strm) (f : Stream → Stream) : (j.modStream st f).v = j.v := rfl
@[simp] theorem Job.vsEf_modStream (j : Job) (st : Strm) (f : Stream → Stream) : (j.modStream st f).vsEf = j.vsEf := rfl
@[simp] theorem Job.vsRows_modStream (j : Job) (st : Strm) (f : Stream → Stream) : (j.modStream st f).vsRows = j.vsRows := rfl
@[simp] theorem Job.vrb_modStream (j : Job) (st : Strm) (f : Stream → Stream) : (j.modStream st f).vrb = j.vrb := rfl
@[simp] theorem Job.ringB_modStream (j : Job) (st : Strm) (f : Stream → Stream) : (j.modStream st f).ringB = j.ringB := rfl
@[simp] theorem Job.ringS_modStream (j : Job) (st : Strm) (f : Stream → Stream) : (j.modStream st f).ringS = j.ringS := rfl
@[simp] theorem Job.sr0_modStream (j : Job) (st : Strm) (f : Stream → Stream) : (j.modStream st f).sr0 = j.sr0 := rfl
@[simp] theorem Job.accW_modStream (j : Job) (st : Strm) (f : Stream → Stream) : (j.modStream st f).accW = j.accW := rfl
@[simp] theorem Job.accV_modStream (j : Job) (st : Strm) (f : Stream → Stream) : (j.modStream st f).accV = j.accV := rfl
@[simp] theorem Job.aswap_modStream (j : Job) (st : Strm) (f : Stream → Stream) : (j.modStream st f).aswap = j.aswap := rfl
@[simp] theorem Job.ops_modStream (j : Job) (st : Strm) (f : Stream → Stream) : (j.modStream st f).ops = j.ops := rfl
@[simp] theorem Job.moves_modStream (j : Job) (st : Strm) (f : Stream → Stream) : (j.modStream st f).moves = j.moves := rfl
@[simp] theorem Job.late_modStream (j : Job) (st : Strm) (f : Stream → Stream) : (j.modStream st f).late = j.late := rfl
@[simp] theorem Job.mops_modStream (j : Job) (st : Strm) (f : Stream → Stream) : (j.modStream st f).mops = j.mops := rfl
@[simp] theorem Job.marks_modStream (j : Job) (st : Strm) (f : Stream → Stream) : (j.modStream st f).marks = j.marks := rfl
@[simp] theorem Job.traffic_modStream (j : Job) (st : Strm) (f : Stream → Stream) : (j.modStream st f).traffic = j.traffic := rfl
@[simp] theorem Job.ts_modStream (j : Job) (st : Strm) (f : Stream → Stream) : (j.modStream st f).ts = j.ts := rfl
@[simp] theorem Job.tl_modStream (j : Job) (st : Strm) (f : Stream → Stream) : (j.modStream st f).tl = j.tl := rfl
@[simp] theorem Job.tl0_modStream (j : Job) (st : Strm) (f : Stream → Stream) : (j.modStream st f).tl0 = j.tl0 := rfl
@[simp] theorem Job.car_modStream (j : Job) (st : Strm) (f : Stream → Stream) : (j.modStream st f).car = j.car := rfl
@[simp] theorem Job.car0_modStream (j : Job) (st : Strm) (f : Stream → Stream) : (j.modStream st f).car0 = j.car0 := rfl
@[simp] theorem Job.ext_modStream (j : Job) (st : Strm) (f : Stream → Stream) : (j.modStream st f).ext = j.ext := rfl
@[simp] theorem Job.ovf_modStream (j : Job) (st : Strm) (f : Stream → Stream) : (j.modStream st f).ovf = j.ovf := rfl
@[simp] theorem Job.pins_modStream (j : Job) (st : Strm) (f : Stream → Stream) : (j.modStream st f).pins = j.pins := rfl
@[simp] theorem Job.trapvec_modStream (j : Job) (st : Strm) (f : Stream → Stream) : (j.modStream st f).trapvec = j.trapvec := rfl
@[simp] theorem Job.trapcause_modStream (j : Job) (st : Strm) (f : Stream → Stream) : (j.modStream st f).trapcause = j.trapcause := rfl
@[simp] theorem Job.trappc_modStream (j : Job) (st : Strm) (f : Stream → Stream) : (j.modStream st f).trappc = j.trappc := rfl
@[simp] theorem Job.trapstrm_modStream (j : Job) (st : Strm) (f : Stream → Stream) : (j.modStream st f).trapstrm = j.trapstrm := rfl
@[simp] theorem Job.trapinfo_modStream (j : Job) (st : Strm) (f : Stream → Stream) : (j.modStream st f).trapinfo = j.trapinfo := rfl
@[simp] theorem Job.trapResume_modStream (j : Job) (st : Strm) (f : Stream → Stream) : (j.modStream st f).trapResume = j.trapResume := rfl
@[simp] theorem Job.sResume_modStream (j : Job) (st : Strm) (f : Stream → Stream) : (j.modStream st f).sResume = j.sResume := rfl
@[simp] theorem Job.retStrm_modStream (j : Job) (st : Strm) (f : Stream → Stream) : (j.modStream st f).retStrm = j.retStrm := rfl
@[simp] theorem Job.traps_modStream (j : Job) (st : Strm) (f : Stream → Stream) : (j.modStream st f).traps = j.traps := rfl
@[simp] theorem Job.stop_modStream (j : Job) (st : Strm) (f : Stream → Stream) : (j.modStream st f).stop = j.stop := rfl
@[simp] theorem Job.tret_modStream (j : Job) (st : Strm) (f : Stream → Stream) : (j.modStream st f).tret = j.tret := rfl
@[simp] theorem Job.wasTrapped_modStream (j : Job) (st : Strm) (f : Stream → Stream) : (j.modStream st f).wasTrapped = j.wasTrapped := rfl
@[simp] theorem Job.freeze_modStream (j : Job) (st : Strm) (f : Stream → Stream) : (j.modStream st f).freeze = j.freeze := rfl
@[simp] theorem Job.outs_modStream (j : Job) (st : Strm) (f : Stream → Stream) : (j.modStream st f).outs = j.outs := rfl
@[simp] theorem Job.kvWait_modStream (j : Job) (st : Strm) (f : Stream → Stream) : (j.modStream st f).kvWait = j.kvWait := rfl
@[simp] theorem Job.owed_modStream (j : Job) (st : Strm) (f : Stream → Stream) : (j.modStream st f).owed = j.owed := rfl
@[simp] theorem Job.beacon_modStream (j : Job) (st : Strm) (f : Stream → Stream) : (j.modStream st f).beacon = j.beacon := rfl
@[simp] theorem Job.runtime_modStream (j : Job) (st : Strm) (f : Stream → Stream) : (j.modStream st f).runtime = j.runtime := rfl
@[simp] theorem Job.wdog_modStream (j : Job) (st : Strm) (f : Stream → Stream) : (j.modStream st f).wdog = j.wdog := rfl
@[simp] theorem Job.preq_modStream (j : Job) (st : Strm) (f : Stream → Stream) : (j.modStream st f).preq = j.preq := rfl
@[simp] theorem Job.saving_modStream (j : Job) (st : Strm) (f : Stream → Stream) : (j.modStream st f).saving = j.saving := rfl
@[simp] theorem Job.channels_modStream (j : Job) (st : Strm) (f : Stream → Stream) : (j.modStream st f).channels = j.channels := rfl
@[simp] theorem Job.xlated_modStream (j : Job) (st : Strm) (f : Stream → Stream) : (j.modStream st f).xlated = j.xlated := rfl
@[simp] theorem Job.faultPage_modStream (j : Job) (st : Strm) (f : Stream → Stream) : (j.modStream st f).faultPage = j.faultPage := rfl

@[simp] theorem Job.st_mark (j : Job) (r : Rsc) (l : Nat) (pc : Word) : (j.mark r l pc).st = j.st := rfl
@[simp] theorem Job.seq_mark (j : Job) (r : Rsc) (l : Nat) (pc : Word) : (j.mark r l pc).seq = j.seq := rfl
@[simp] theorem Job.iter_mark (j : Job) (r : Rsc) (l : Nat) (pc : Word) : (j.mark r l pc).iter = j.iter := rfl
@[simp] theorem Job.idx_mark (j : Job) (r : Rsc) (l : Nat) (pc : Word) : (j.mark r l pc).idx = j.idx := rfl
@[simp] theorem Job.stage_mark (j : Job) (r : Rsc) (l : Nat) (pc : Word) : (j.mark r l pc).stage = j.stage := rfl
@[simp] theorem Job.nest_mark (j : Job) (r : Rsc) (l : Nat) (pc : Word) : (j.mark r l pc).nest = j.nest := rfl
@[simp] theorem Job.prio_mark (j : Job) (r : Rsc) (l : Nat) (pc : Word) : (j.mark r l pc).prio = j.prio := rfl
@[simp] theorem Job.incarn_mark (j : Job) (r : Rsc) (l : Nat) (pc : Word) : (j.mark r l pc).incarn = j.incarn := rfl
@[simp] theorem Job.pkgnum_mark (j : Job) (r : Rsc) (l : Nat) (pc : Word) : (j.mark r l pc).pkgnum = j.pkgnum := rfl
@[simp] theorem Job.strm_mark (j : Job) (r : Rsc) (l : Nat) (pc : Word) : (j.mark r l pc).strm = j.strm := rfl
@[simp] theorem Job.jc_mark (j : Job) (r : Rsc) (l : Nat) (pc : Word) : (j.mark r l pc).jc = j.jc := rfl
@[simp] theorem Job.hclk_mark (j : Job) (r : Rsc) (l : Nat) (pc : Word) : (j.mark r l pc).hclk = j.hclk := rfl
@[simp] theorem Job.hNext_mark (j : Job) (r : Rsc) (l : Nat) (pc : Word) : (j.mark r l pc).hNext = j.hNext := rfl
@[simp] theorem Job.t0_mark (j : Job) (r : Rsc) (l : Nat) (pc : Word) : (j.mark r l pc).t0 = j.t0 := rfl
@[simp] theorem Job.cycDone_mark (j : Job) (r : Rsc) (l : Nat) (pc : Word) : (j.mark r l pc).cycDone = j.cycDone := rfl
@[simp] theorem Job.thawAt_mark (j : Job) (r : Rsc) (l : Nat) (pc : Word) : (j.mark r l pc).thawAt = j.thawAt := rfl
@[simp] theorem Job.vq_mark (j : Job) (r : Rsc) (l : Nat) (pc : Word) : (j.mark r l pc).vq = j.vq := rfl
@[simp] theorem Job.vpopped_mark (j : Job) (r : Rsc) (l : Nat) (pc : Word) : (j.mark r l pc).vpopped = j.vpopped := rfl
@[simp] theorem Job.vqRes_mark (j : Job) (r : Rsc) (l : Nat) (pc : Word) : (j.mark r l pc).vqRes = j.vqRes := rfl
@[simp] theorem Job.v_mark (j : Job) (r : Rsc) (l : Nat) (pc : Word) : (j.mark r l pc).v = j.v := rfl
@[simp] theorem Job.vsEf_mark (j : Job) (r : Rsc) (l : Nat) (pc : Word) : (j.mark r l pc).vsEf = j.vsEf := rfl
@[simp] theorem Job.vsRows_mark (j : Job) (r : Rsc) (l : Nat) (pc : Word) : (j.mark r l pc).vsRows = j.vsRows := rfl
@[simp] theorem Job.vrb_mark (j : Job) (r : Rsc) (l : Nat) (pc : Word) : (j.mark r l pc).vrb = j.vrb := rfl
@[simp] theorem Job.ringB_mark (j : Job) (r : Rsc) (l : Nat) (pc : Word) : (j.mark r l pc).ringB = j.ringB := rfl
@[simp] theorem Job.ringS_mark (j : Job) (r : Rsc) (l : Nat) (pc : Word) : (j.mark r l pc).ringS = j.ringS := rfl
@[simp] theorem Job.sr0_mark (j : Job) (r : Rsc) (l : Nat) (pc : Word) : (j.mark r l pc).sr0 = j.sr0 := rfl
@[simp] theorem Job.accW_mark (j : Job) (r : Rsc) (l : Nat) (pc : Word) : (j.mark r l pc).accW = j.accW := rfl
@[simp] theorem Job.accV_mark (j : Job) (r : Rsc) (l : Nat) (pc : Word) : (j.mark r l pc).accV = j.accV := rfl
@[simp] theorem Job.aswap_mark (j : Job) (r : Rsc) (l : Nat) (pc : Word) : (j.mark r l pc).aswap = j.aswap := rfl
@[simp] theorem Job.ops_mark (j : Job) (r : Rsc) (l : Nat) (pc : Word) : (j.mark r l pc).ops = j.ops := rfl
@[simp] theorem Job.moves_mark (j : Job) (r : Rsc) (l : Nat) (pc : Word) : (j.mark r l pc).moves = j.moves := rfl
@[simp] theorem Job.late_mark (j : Job) (r : Rsc) (l : Nat) (pc : Word) : (j.mark r l pc).late = j.late := rfl
@[simp] theorem Job.mops_mark (j : Job) (r : Rsc) (l : Nat) (pc : Word) : (j.mark r l pc).mops = j.mops := rfl
@[simp] theorem Job.traffic_mark (j : Job) (r : Rsc) (l : Nat) (pc : Word) : (j.mark r l pc).traffic = j.traffic := rfl
@[simp] theorem Job.ts_mark (j : Job) (r : Rsc) (l : Nat) (pc : Word) : (j.mark r l pc).ts = j.ts := rfl
@[simp] theorem Job.tl_mark (j : Job) (r : Rsc) (l : Nat) (pc : Word) : (j.mark r l pc).tl = j.tl := rfl
@[simp] theorem Job.tl0_mark (j : Job) (r : Rsc) (l : Nat) (pc : Word) : (j.mark r l pc).tl0 = j.tl0 := rfl
@[simp] theorem Job.car_mark (j : Job) (r : Rsc) (l : Nat) (pc : Word) : (j.mark r l pc).car = j.car := rfl
@[simp] theorem Job.car0_mark (j : Job) (r : Rsc) (l : Nat) (pc : Word) : (j.mark r l pc).car0 = j.car0 := rfl
@[simp] theorem Job.ext_mark (j : Job) (r : Rsc) (l : Nat) (pc : Word) : (j.mark r l pc).ext = j.ext := rfl
@[simp] theorem Job.ovf_mark (j : Job) (r : Rsc) (l : Nat) (pc : Word) : (j.mark r l pc).ovf = j.ovf := rfl
@[simp] theorem Job.pins_mark (j : Job) (r : Rsc) (l : Nat) (pc : Word) : (j.mark r l pc).pins = j.pins := rfl
@[simp] theorem Job.trapvec_mark (j : Job) (r : Rsc) (l : Nat) (pc : Word) : (j.mark r l pc).trapvec = j.trapvec := rfl
@[simp] theorem Job.trapcause_mark (j : Job) (r : Rsc) (l : Nat) (pc : Word) : (j.mark r l pc).trapcause = j.trapcause := rfl
@[simp] theorem Job.trappc_mark (j : Job) (r : Rsc) (l : Nat) (pc : Word) : (j.mark r l pc).trappc = j.trappc := rfl
@[simp] theorem Job.trapstrm_mark (j : Job) (r : Rsc) (l : Nat) (pc : Word) : (j.mark r l pc).trapstrm = j.trapstrm := rfl
@[simp] theorem Job.trapinfo_mark (j : Job) (r : Rsc) (l : Nat) (pc : Word) : (j.mark r l pc).trapinfo = j.trapinfo := rfl
@[simp] theorem Job.trapResume_mark (j : Job) (r : Rsc) (l : Nat) (pc : Word) : (j.mark r l pc).trapResume = j.trapResume := rfl
@[simp] theorem Job.sResume_mark (j : Job) (r : Rsc) (l : Nat) (pc : Word) : (j.mark r l pc).sResume = j.sResume := rfl
@[simp] theorem Job.retStrm_mark (j : Job) (r : Rsc) (l : Nat) (pc : Word) : (j.mark r l pc).retStrm = j.retStrm := rfl
@[simp] theorem Job.traps_mark (j : Job) (r : Rsc) (l : Nat) (pc : Word) : (j.mark r l pc).traps = j.traps := rfl
@[simp] theorem Job.stop_mark (j : Job) (r : Rsc) (l : Nat) (pc : Word) : (j.mark r l pc).stop = j.stop := rfl
@[simp] theorem Job.tret_mark (j : Job) (r : Rsc) (l : Nat) (pc : Word) : (j.mark r l pc).tret = j.tret := rfl
@[simp] theorem Job.wasTrapped_mark (j : Job) (r : Rsc) (l : Nat) (pc : Word) : (j.mark r l pc).wasTrapped = j.wasTrapped := rfl
@[simp] theorem Job.freeze_mark (j : Job) (r : Rsc) (l : Nat) (pc : Word) : (j.mark r l pc).freeze = j.freeze := rfl
@[simp] theorem Job.outs_mark (j : Job) (r : Rsc) (l : Nat) (pc : Word) : (j.mark r l pc).outs = j.outs := rfl
@[simp] theorem Job.kvWait_mark (j : Job) (r : Rsc) (l : Nat) (pc : Word) : (j.mark r l pc).kvWait = j.kvWait := rfl
@[simp] theorem Job.owed_mark (j : Job) (r : Rsc) (l : Nat) (pc : Word) : (j.mark r l pc).owed = j.owed := rfl
@[simp] theorem Job.beacon_mark (j : Job) (r : Rsc) (l : Nat) (pc : Word) : (j.mark r l pc).beacon = j.beacon := rfl
@[simp] theorem Job.runtime_mark (j : Job) (r : Rsc) (l : Nat) (pc : Word) : (j.mark r l pc).runtime = j.runtime := rfl
@[simp] theorem Job.wdog_mark (j : Job) (r : Rsc) (l : Nat) (pc : Word) : (j.mark r l pc).wdog = j.wdog := rfl
@[simp] theorem Job.preq_mark (j : Job) (r : Rsc) (l : Nat) (pc : Word) : (j.mark r l pc).preq = j.preq := rfl
@[simp] theorem Job.saving_mark (j : Job) (r : Rsc) (l : Nat) (pc : Word) : (j.mark r l pc).saving = j.saving := rfl
@[simp] theorem Job.channels_mark (j : Job) (r : Rsc) (l : Nat) (pc : Word) : (j.mark r l pc).channels = j.channels := rfl
@[simp] theorem Job.xlated_mark (j : Job) (r : Rsc) (l : Nat) (pc : Word) : (j.mark r l pc).xlated = j.xlated := rfl
@[simp] theorem Job.faultPage_mark (j : Job) (r : Rsc) (l : Nat) (pc : Word) : (j.mark r l pc).faultPage = j.faultPage := rfl

@[simp] theorem Job.st_addMark (j : Job) (r : Rsc) (l : Nat) (pc : Word) : (j.addMark r l pc).st = j.st := rfl
@[simp] theorem Job.seq_addMark (j : Job) (r : Rsc) (l : Nat) (pc : Word) : (j.addMark r l pc).seq = j.seq := rfl
@[simp] theorem Job.iter_addMark (j : Job) (r : Rsc) (l : Nat) (pc : Word) : (j.addMark r l pc).iter = j.iter := rfl
@[simp] theorem Job.idx_addMark (j : Job) (r : Rsc) (l : Nat) (pc : Word) : (j.addMark r l pc).idx = j.idx := rfl
@[simp] theorem Job.stage_addMark (j : Job) (r : Rsc) (l : Nat) (pc : Word) : (j.addMark r l pc).stage = j.stage := rfl
@[simp] theorem Job.nest_addMark (j : Job) (r : Rsc) (l : Nat) (pc : Word) : (j.addMark r l pc).nest = j.nest := rfl
@[simp] theorem Job.prio_addMark (j : Job) (r : Rsc) (l : Nat) (pc : Word) : (j.addMark r l pc).prio = j.prio := rfl
@[simp] theorem Job.incarn_addMark (j : Job) (r : Rsc) (l : Nat) (pc : Word) : (j.addMark r l pc).incarn = j.incarn := rfl
@[simp] theorem Job.pkgnum_addMark (j : Job) (r : Rsc) (l : Nat) (pc : Word) : (j.addMark r l pc).pkgnum = j.pkgnum := rfl
@[simp] theorem Job.strm_addMark (j : Job) (r : Rsc) (l : Nat) (pc : Word) : (j.addMark r l pc).strm = j.strm := rfl
@[simp] theorem Job.jc_addMark (j : Job) (r : Rsc) (l : Nat) (pc : Word) : (j.addMark r l pc).jc = j.jc := rfl
@[simp] theorem Job.hclk_addMark (j : Job) (r : Rsc) (l : Nat) (pc : Word) : (j.addMark r l pc).hclk = j.hclk := rfl
@[simp] theorem Job.hNext_addMark (j : Job) (r : Rsc) (l : Nat) (pc : Word) : (j.addMark r l pc).hNext = j.hNext := rfl
@[simp] theorem Job.t0_addMark (j : Job) (r : Rsc) (l : Nat) (pc : Word) : (j.addMark r l pc).t0 = j.t0 := rfl
@[simp] theorem Job.cycDone_addMark (j : Job) (r : Rsc) (l : Nat) (pc : Word) : (j.addMark r l pc).cycDone = j.cycDone := rfl
@[simp] theorem Job.thawAt_addMark (j : Job) (r : Rsc) (l : Nat) (pc : Word) : (j.addMark r l pc).thawAt = j.thawAt := rfl
@[simp] theorem Job.vq_addMark (j : Job) (r : Rsc) (l : Nat) (pc : Word) : (j.addMark r l pc).vq = j.vq := rfl
@[simp] theorem Job.vpopped_addMark (j : Job) (r : Rsc) (l : Nat) (pc : Word) : (j.addMark r l pc).vpopped = j.vpopped := rfl
@[simp] theorem Job.vqRes_addMark (j : Job) (r : Rsc) (l : Nat) (pc : Word) : (j.addMark r l pc).vqRes = j.vqRes := rfl
@[simp] theorem Job.v_addMark (j : Job) (r : Rsc) (l : Nat) (pc : Word) : (j.addMark r l pc).v = j.v := rfl
@[simp] theorem Job.vsEf_addMark (j : Job) (r : Rsc) (l : Nat) (pc : Word) : (j.addMark r l pc).vsEf = j.vsEf := rfl
@[simp] theorem Job.vsRows_addMark (j : Job) (r : Rsc) (l : Nat) (pc : Word) : (j.addMark r l pc).vsRows = j.vsRows := rfl
@[simp] theorem Job.vrb_addMark (j : Job) (r : Rsc) (l : Nat) (pc : Word) : (j.addMark r l pc).vrb = j.vrb := rfl
@[simp] theorem Job.ringB_addMark (j : Job) (r : Rsc) (l : Nat) (pc : Word) : (j.addMark r l pc).ringB = j.ringB := rfl
@[simp] theorem Job.ringS_addMark (j : Job) (r : Rsc) (l : Nat) (pc : Word) : (j.addMark r l pc).ringS = j.ringS := rfl
@[simp] theorem Job.sr0_addMark (j : Job) (r : Rsc) (l : Nat) (pc : Word) : (j.addMark r l pc).sr0 = j.sr0 := rfl
@[simp] theorem Job.accW_addMark (j : Job) (r : Rsc) (l : Nat) (pc : Word) : (j.addMark r l pc).accW = j.accW := rfl
@[simp] theorem Job.accV_addMark (j : Job) (r : Rsc) (l : Nat) (pc : Word) : (j.addMark r l pc).accV = j.accV := rfl
@[simp] theorem Job.aswap_addMark (j : Job) (r : Rsc) (l : Nat) (pc : Word) : (j.addMark r l pc).aswap = j.aswap := rfl
@[simp] theorem Job.ops_addMark (j : Job) (r : Rsc) (l : Nat) (pc : Word) : (j.addMark r l pc).ops = j.ops := rfl
@[simp] theorem Job.moves_addMark (j : Job) (r : Rsc) (l : Nat) (pc : Word) : (j.addMark r l pc).moves = j.moves := rfl
@[simp] theorem Job.late_addMark (j : Job) (r : Rsc) (l : Nat) (pc : Word) : (j.addMark r l pc).late = j.late := rfl
@[simp] theorem Job.mops_addMark (j : Job) (r : Rsc) (l : Nat) (pc : Word) : (j.addMark r l pc).mops = j.mops := rfl
@[simp] theorem Job.traffic_addMark (j : Job) (r : Rsc) (l : Nat) (pc : Word) : (j.addMark r l pc).traffic = j.traffic := rfl
@[simp] theorem Job.ts_addMark (j : Job) (r : Rsc) (l : Nat) (pc : Word) : (j.addMark r l pc).ts = j.ts := rfl
@[simp] theorem Job.tl_addMark (j : Job) (r : Rsc) (l : Nat) (pc : Word) : (j.addMark r l pc).tl = j.tl := rfl
@[simp] theorem Job.tl0_addMark (j : Job) (r : Rsc) (l : Nat) (pc : Word) : (j.addMark r l pc).tl0 = j.tl0 := rfl
@[simp] theorem Job.car_addMark (j : Job) (r : Rsc) (l : Nat) (pc : Word) : (j.addMark r l pc).car = j.car := rfl
@[simp] theorem Job.car0_addMark (j : Job) (r : Rsc) (l : Nat) (pc : Word) : (j.addMark r l pc).car0 = j.car0 := rfl
@[simp] theorem Job.ext_addMark (j : Job) (r : Rsc) (l : Nat) (pc : Word) : (j.addMark r l pc).ext = j.ext := rfl
@[simp] theorem Job.ovf_addMark (j : Job) (r : Rsc) (l : Nat) (pc : Word) : (j.addMark r l pc).ovf = j.ovf := rfl
@[simp] theorem Job.pins_addMark (j : Job) (r : Rsc) (l : Nat) (pc : Word) : (j.addMark r l pc).pins = j.pins := rfl
@[simp] theorem Job.trapvec_addMark (j : Job) (r : Rsc) (l : Nat) (pc : Word) : (j.addMark r l pc).trapvec = j.trapvec := rfl
@[simp] theorem Job.trapcause_addMark (j : Job) (r : Rsc) (l : Nat) (pc : Word) : (j.addMark r l pc).trapcause = j.trapcause := rfl
@[simp] theorem Job.trappc_addMark (j : Job) (r : Rsc) (l : Nat) (pc : Word) : (j.addMark r l pc).trappc = j.trappc := rfl
@[simp] theorem Job.trapstrm_addMark (j : Job) (r : Rsc) (l : Nat) (pc : Word) : (j.addMark r l pc).trapstrm = j.trapstrm := rfl
@[simp] theorem Job.trapinfo_addMark (j : Job) (r : Rsc) (l : Nat) (pc : Word) : (j.addMark r l pc).trapinfo = j.trapinfo := rfl
@[simp] theorem Job.trapResume_addMark (j : Job) (r : Rsc) (l : Nat) (pc : Word) : (j.addMark r l pc).trapResume = j.trapResume := rfl
@[simp] theorem Job.sResume_addMark (j : Job) (r : Rsc) (l : Nat) (pc : Word) : (j.addMark r l pc).sResume = j.sResume := rfl
@[simp] theorem Job.retStrm_addMark (j : Job) (r : Rsc) (l : Nat) (pc : Word) : (j.addMark r l pc).retStrm = j.retStrm := rfl
@[simp] theorem Job.traps_addMark (j : Job) (r : Rsc) (l : Nat) (pc : Word) : (j.addMark r l pc).traps = j.traps := rfl
@[simp] theorem Job.stop_addMark (j : Job) (r : Rsc) (l : Nat) (pc : Word) : (j.addMark r l pc).stop = j.stop := rfl
@[simp] theorem Job.tret_addMark (j : Job) (r : Rsc) (l : Nat) (pc : Word) : (j.addMark r l pc).tret = j.tret := rfl
@[simp] theorem Job.wasTrapped_addMark (j : Job) (r : Rsc) (l : Nat) (pc : Word) : (j.addMark r l pc).wasTrapped = j.wasTrapped := rfl
@[simp] theorem Job.freeze_addMark (j : Job) (r : Rsc) (l : Nat) (pc : Word) : (j.addMark r l pc).freeze = j.freeze := rfl
@[simp] theorem Job.outs_addMark (j : Job) (r : Rsc) (l : Nat) (pc : Word) : (j.addMark r l pc).outs = j.outs := rfl
@[simp] theorem Job.kvWait_addMark (j : Job) (r : Rsc) (l : Nat) (pc : Word) : (j.addMark r l pc).kvWait = j.kvWait := rfl
@[simp] theorem Job.owed_addMark (j : Job) (r : Rsc) (l : Nat) (pc : Word) : (j.addMark r l pc).owed = j.owed := rfl
@[simp] theorem Job.beacon_addMark (j : Job) (r : Rsc) (l : Nat) (pc : Word) : (j.addMark r l pc).beacon = j.beacon := rfl
@[simp] theorem Job.runtime_addMark (j : Job) (r : Rsc) (l : Nat) (pc : Word) : (j.addMark r l pc).runtime = j.runtime := rfl
@[simp] theorem Job.wdog_addMark (j : Job) (r : Rsc) (l : Nat) (pc : Word) : (j.addMark r l pc).wdog = j.wdog := rfl
@[simp] theorem Job.preq_addMark (j : Job) (r : Rsc) (l : Nat) (pc : Word) : (j.addMark r l pc).preq = j.preq := rfl
@[simp] theorem Job.saving_addMark (j : Job) (r : Rsc) (l : Nat) (pc : Word) : (j.addMark r l pc).saving = j.saving := rfl
@[simp] theorem Job.channels_addMark (j : Job) (r : Rsc) (l : Nat) (pc : Word) : (j.addMark r l pc).channels = j.channels := rfl
@[simp] theorem Job.xlated_addMark (j : Job) (r : Rsc) (l : Nat) (pc : Word) : (j.addMark r l pc).xlated = j.xlated := rfl
@[simp] theorem Job.faultPage_addMark (j : Job) (r : Rsc) (l : Nat) (pc : Word) : (j.addMark r l pc).faultPage = j.faultPage := rfl

@[simp] theorem Job.st_modTs (j : Job) (k : BitVec 6) (f : Turnstile → Turnstile) : (j.modTs k f).st = j.st := rfl
@[simp] theorem Job.seq_modTs (j : Job) (k : BitVec 6) (f : Turnstile → Turnstile) : (j.modTs k f).seq = j.seq := rfl
@[simp] theorem Job.iter_modTs (j : Job) (k : BitVec 6) (f : Turnstile → Turnstile) : (j.modTs k f).iter = j.iter := rfl
@[simp] theorem Job.idx_modTs (j : Job) (k : BitVec 6) (f : Turnstile → Turnstile) : (j.modTs k f).idx = j.idx := rfl
@[simp] theorem Job.stage_modTs (j : Job) (k : BitVec 6) (f : Turnstile → Turnstile) : (j.modTs k f).stage = j.stage := rfl
@[simp] theorem Job.nest_modTs (j : Job) (k : BitVec 6) (f : Turnstile → Turnstile) : (j.modTs k f).nest = j.nest := rfl
@[simp] theorem Job.prio_modTs (j : Job) (k : BitVec 6) (f : Turnstile → Turnstile) : (j.modTs k f).prio = j.prio := rfl
@[simp] theorem Job.incarn_modTs (j : Job) (k : BitVec 6) (f : Turnstile → Turnstile) : (j.modTs k f).incarn = j.incarn := rfl
@[simp] theorem Job.pkgnum_modTs (j : Job) (k : BitVec 6) (f : Turnstile → Turnstile) : (j.modTs k f).pkgnum = j.pkgnum := rfl
@[simp] theorem Job.strm_modTs (j : Job) (k : BitVec 6) (f : Turnstile → Turnstile) : (j.modTs k f).strm = j.strm := rfl
@[simp] theorem Job.jc_modTs (j : Job) (k : BitVec 6) (f : Turnstile → Turnstile) : (j.modTs k f).jc = j.jc := rfl
@[simp] theorem Job.hclk_modTs (j : Job) (k : BitVec 6) (f : Turnstile → Turnstile) : (j.modTs k f).hclk = j.hclk := rfl
@[simp] theorem Job.hNext_modTs (j : Job) (k : BitVec 6) (f : Turnstile → Turnstile) : (j.modTs k f).hNext = j.hNext := rfl
@[simp] theorem Job.t0_modTs (j : Job) (k : BitVec 6) (f : Turnstile → Turnstile) : (j.modTs k f).t0 = j.t0 := rfl
@[simp] theorem Job.cycDone_modTs (j : Job) (k : BitVec 6) (f : Turnstile → Turnstile) : (j.modTs k f).cycDone = j.cycDone := rfl
@[simp] theorem Job.thawAt_modTs (j : Job) (k : BitVec 6) (f : Turnstile → Turnstile) : (j.modTs k f).thawAt = j.thawAt := rfl
@[simp] theorem Job.vq_modTs (j : Job) (k : BitVec 6) (f : Turnstile → Turnstile) : (j.modTs k f).vq = j.vq := rfl
@[simp] theorem Job.vpopped_modTs (j : Job) (k : BitVec 6) (f : Turnstile → Turnstile) : (j.modTs k f).vpopped = j.vpopped := rfl
@[simp] theorem Job.vqRes_modTs (j : Job) (k : BitVec 6) (f : Turnstile → Turnstile) : (j.modTs k f).vqRes = j.vqRes := rfl
@[simp] theorem Job.v_modTs (j : Job) (k : BitVec 6) (f : Turnstile → Turnstile) : (j.modTs k f).v = j.v := rfl
@[simp] theorem Job.vsEf_modTs (j : Job) (k : BitVec 6) (f : Turnstile → Turnstile) : (j.modTs k f).vsEf = j.vsEf := rfl
@[simp] theorem Job.vsRows_modTs (j : Job) (k : BitVec 6) (f : Turnstile → Turnstile) : (j.modTs k f).vsRows = j.vsRows := rfl
@[simp] theorem Job.vrb_modTs (j : Job) (k : BitVec 6) (f : Turnstile → Turnstile) : (j.modTs k f).vrb = j.vrb := rfl
@[simp] theorem Job.ringB_modTs (j : Job) (k : BitVec 6) (f : Turnstile → Turnstile) : (j.modTs k f).ringB = j.ringB := rfl
@[simp] theorem Job.ringS_modTs (j : Job) (k : BitVec 6) (f : Turnstile → Turnstile) : (j.modTs k f).ringS = j.ringS := rfl
@[simp] theorem Job.sr0_modTs (j : Job) (k : BitVec 6) (f : Turnstile → Turnstile) : (j.modTs k f).sr0 = j.sr0 := rfl
@[simp] theorem Job.accW_modTs (j : Job) (k : BitVec 6) (f : Turnstile → Turnstile) : (j.modTs k f).accW = j.accW := rfl
@[simp] theorem Job.accV_modTs (j : Job) (k : BitVec 6) (f : Turnstile → Turnstile) : (j.modTs k f).accV = j.accV := rfl
@[simp] theorem Job.aswap_modTs (j : Job) (k : BitVec 6) (f : Turnstile → Turnstile) : (j.modTs k f).aswap = j.aswap := rfl
@[simp] theorem Job.ops_modTs (j : Job) (k : BitVec 6) (f : Turnstile → Turnstile) : (j.modTs k f).ops = j.ops := rfl
@[simp] theorem Job.moves_modTs (j : Job) (k : BitVec 6) (f : Turnstile → Turnstile) : (j.modTs k f).moves = j.moves := rfl
@[simp] theorem Job.late_modTs (j : Job) (k : BitVec 6) (f : Turnstile → Turnstile) : (j.modTs k f).late = j.late := rfl
@[simp] theorem Job.mops_modTs (j : Job) (k : BitVec 6) (f : Turnstile → Turnstile) : (j.modTs k f).mops = j.mops := rfl
@[simp] theorem Job.marks_modTs (j : Job) (k : BitVec 6) (f : Turnstile → Turnstile) : (j.modTs k f).marks = j.marks := rfl
@[simp] theorem Job.traffic_modTs (j : Job) (k : BitVec 6) (f : Turnstile → Turnstile) : (j.modTs k f).traffic = j.traffic := rfl
@[simp] theorem Job.tl_modTs (j : Job) (k : BitVec 6) (f : Turnstile → Turnstile) : (j.modTs k f).tl = j.tl := rfl
@[simp] theorem Job.tl0_modTs (j : Job) (k : BitVec 6) (f : Turnstile → Turnstile) : (j.modTs k f).tl0 = j.tl0 := rfl
@[simp] theorem Job.car_modTs (j : Job) (k : BitVec 6) (f : Turnstile → Turnstile) : (j.modTs k f).car = j.car := rfl
@[simp] theorem Job.car0_modTs (j : Job) (k : BitVec 6) (f : Turnstile → Turnstile) : (j.modTs k f).car0 = j.car0 := rfl
@[simp] theorem Job.ext_modTs (j : Job) (k : BitVec 6) (f : Turnstile → Turnstile) : (j.modTs k f).ext = j.ext := rfl
@[simp] theorem Job.ovf_modTs (j : Job) (k : BitVec 6) (f : Turnstile → Turnstile) : (j.modTs k f).ovf = j.ovf := rfl
@[simp] theorem Job.pins_modTs (j : Job) (k : BitVec 6) (f : Turnstile → Turnstile) : (j.modTs k f).pins = j.pins := rfl
@[simp] theorem Job.trapvec_modTs (j : Job) (k : BitVec 6) (f : Turnstile → Turnstile) : (j.modTs k f).trapvec = j.trapvec := rfl
@[simp] theorem Job.trapcause_modTs (j : Job) (k : BitVec 6) (f : Turnstile → Turnstile) : (j.modTs k f).trapcause = j.trapcause := rfl
@[simp] theorem Job.trappc_modTs (j : Job) (k : BitVec 6) (f : Turnstile → Turnstile) : (j.modTs k f).trappc = j.trappc := rfl
@[simp] theorem Job.trapstrm_modTs (j : Job) (k : BitVec 6) (f : Turnstile → Turnstile) : (j.modTs k f).trapstrm = j.trapstrm := rfl
@[simp] theorem Job.trapinfo_modTs (j : Job) (k : BitVec 6) (f : Turnstile → Turnstile) : (j.modTs k f).trapinfo = j.trapinfo := rfl
@[simp] theorem Job.trapResume_modTs (j : Job) (k : BitVec 6) (f : Turnstile → Turnstile) : (j.modTs k f).trapResume = j.trapResume := rfl
@[simp] theorem Job.sResume_modTs (j : Job) (k : BitVec 6) (f : Turnstile → Turnstile) : (j.modTs k f).sResume = j.sResume := rfl
@[simp] theorem Job.retStrm_modTs (j : Job) (k : BitVec 6) (f : Turnstile → Turnstile) : (j.modTs k f).retStrm = j.retStrm := rfl
@[simp] theorem Job.traps_modTs (j : Job) (k : BitVec 6) (f : Turnstile → Turnstile) : (j.modTs k f).traps = j.traps := rfl
@[simp] theorem Job.stop_modTs (j : Job) (k : BitVec 6) (f : Turnstile → Turnstile) : (j.modTs k f).stop = j.stop := rfl
@[simp] theorem Job.tret_modTs (j : Job) (k : BitVec 6) (f : Turnstile → Turnstile) : (j.modTs k f).tret = j.tret := rfl
@[simp] theorem Job.wasTrapped_modTs (j : Job) (k : BitVec 6) (f : Turnstile → Turnstile) : (j.modTs k f).wasTrapped = j.wasTrapped := rfl
@[simp] theorem Job.freeze_modTs (j : Job) (k : BitVec 6) (f : Turnstile → Turnstile) : (j.modTs k f).freeze = j.freeze := rfl
@[simp] theorem Job.outs_modTs (j : Job) (k : BitVec 6) (f : Turnstile → Turnstile) : (j.modTs k f).outs = j.outs := rfl
@[simp] theorem Job.kvWait_modTs (j : Job) (k : BitVec 6) (f : Turnstile → Turnstile) : (j.modTs k f).kvWait = j.kvWait := rfl
@[simp] theorem Job.owed_modTs (j : Job) (k : BitVec 6) (f : Turnstile → Turnstile) : (j.modTs k f).owed = j.owed := rfl
@[simp] theorem Job.beacon_modTs (j : Job) (k : BitVec 6) (f : Turnstile → Turnstile) : (j.modTs k f).beacon = j.beacon := rfl
@[simp] theorem Job.runtime_modTs (j : Job) (k : BitVec 6) (f : Turnstile → Turnstile) : (j.modTs k f).runtime = j.runtime := rfl
@[simp] theorem Job.wdog_modTs (j : Job) (k : BitVec 6) (f : Turnstile → Turnstile) : (j.modTs k f).wdog = j.wdog := rfl
@[simp] theorem Job.preq_modTs (j : Job) (k : BitVec 6) (f : Turnstile → Turnstile) : (j.modTs k f).preq = j.preq := rfl
@[simp] theorem Job.saving_modTs (j : Job) (k : BitVec 6) (f : Turnstile → Turnstile) : (j.modTs k f).saving = j.saving := rfl
@[simp] theorem Job.channels_modTs (j : Job) (k : BitVec 6) (f : Turnstile → Turnstile) : (j.modTs k f).channels = j.channels := rfl
@[simp] theorem Job.xlated_modTs (j : Job) (k : BitVec 6) (f : Turnstile → Turnstile) : (j.modTs k f).xlated = j.xlated := rfl
@[simp] theorem Job.faultPage_modTs (j : Job) (k : BitVec 6) (f : Turnstile → Turnstile) : (j.modTs k f).faultPage = j.faultPage := rfl

@[simp] theorem Job.st_modTl (j : Job) (k : BitVec 3) (f : Timeline → Timeline) : (j.modTl k f).st = j.st := rfl
@[simp] theorem Job.seq_modTl (j : Job) (k : BitVec 3) (f : Timeline → Timeline) : (j.modTl k f).seq = j.seq := rfl
@[simp] theorem Job.iter_modTl (j : Job) (k : BitVec 3) (f : Timeline → Timeline) : (j.modTl k f).iter = j.iter := rfl
@[simp] theorem Job.idx_modTl (j : Job) (k : BitVec 3) (f : Timeline → Timeline) : (j.modTl k f).idx = j.idx := rfl
@[simp] theorem Job.stage_modTl (j : Job) (k : BitVec 3) (f : Timeline → Timeline) : (j.modTl k f).stage = j.stage := rfl
@[simp] theorem Job.nest_modTl (j : Job) (k : BitVec 3) (f : Timeline → Timeline) : (j.modTl k f).nest = j.nest := rfl
@[simp] theorem Job.prio_modTl (j : Job) (k : BitVec 3) (f : Timeline → Timeline) : (j.modTl k f).prio = j.prio := rfl
@[simp] theorem Job.incarn_modTl (j : Job) (k : BitVec 3) (f : Timeline → Timeline) : (j.modTl k f).incarn = j.incarn := rfl
@[simp] theorem Job.pkgnum_modTl (j : Job) (k : BitVec 3) (f : Timeline → Timeline) : (j.modTl k f).pkgnum = j.pkgnum := rfl
@[simp] theorem Job.strm_modTl (j : Job) (k : BitVec 3) (f : Timeline → Timeline) : (j.modTl k f).strm = j.strm := rfl
@[simp] theorem Job.jc_modTl (j : Job) (k : BitVec 3) (f : Timeline → Timeline) : (j.modTl k f).jc = j.jc := rfl
@[simp] theorem Job.hclk_modTl (j : Job) (k : BitVec 3) (f : Timeline → Timeline) : (j.modTl k f).hclk = j.hclk := rfl
@[simp] theorem Job.hNext_modTl (j : Job) (k : BitVec 3) (f : Timeline → Timeline) : (j.modTl k f).hNext = j.hNext := rfl
@[simp] theorem Job.t0_modTl (j : Job) (k : BitVec 3) (f : Timeline → Timeline) : (j.modTl k f).t0 = j.t0 := rfl
@[simp] theorem Job.cycDone_modTl (j : Job) (k : BitVec 3) (f : Timeline → Timeline) : (j.modTl k f).cycDone = j.cycDone := rfl
@[simp] theorem Job.thawAt_modTl (j : Job) (k : BitVec 3) (f : Timeline → Timeline) : (j.modTl k f).thawAt = j.thawAt := rfl
@[simp] theorem Job.vq_modTl (j : Job) (k : BitVec 3) (f : Timeline → Timeline) : (j.modTl k f).vq = j.vq := rfl
@[simp] theorem Job.vpopped_modTl (j : Job) (k : BitVec 3) (f : Timeline → Timeline) : (j.modTl k f).vpopped = j.vpopped := rfl
@[simp] theorem Job.vqRes_modTl (j : Job) (k : BitVec 3) (f : Timeline → Timeline) : (j.modTl k f).vqRes = j.vqRes := rfl
@[simp] theorem Job.v_modTl (j : Job) (k : BitVec 3) (f : Timeline → Timeline) : (j.modTl k f).v = j.v := rfl
@[simp] theorem Job.vsEf_modTl (j : Job) (k : BitVec 3) (f : Timeline → Timeline) : (j.modTl k f).vsEf = j.vsEf := rfl
@[simp] theorem Job.vsRows_modTl (j : Job) (k : BitVec 3) (f : Timeline → Timeline) : (j.modTl k f).vsRows = j.vsRows := rfl
@[simp] theorem Job.vrb_modTl (j : Job) (k : BitVec 3) (f : Timeline → Timeline) : (j.modTl k f).vrb = j.vrb := rfl
@[simp] theorem Job.ringB_modTl (j : Job) (k : BitVec 3) (f : Timeline → Timeline) : (j.modTl k f).ringB = j.ringB := rfl
@[simp] theorem Job.ringS_modTl (j : Job) (k : BitVec 3) (f : Timeline → Timeline) : (j.modTl k f).ringS = j.ringS := rfl
@[simp] theorem Job.sr0_modTl (j : Job) (k : BitVec 3) (f : Timeline → Timeline) : (j.modTl k f).sr0 = j.sr0 := rfl
@[simp] theorem Job.accW_modTl (j : Job) (k : BitVec 3) (f : Timeline → Timeline) : (j.modTl k f).accW = j.accW := rfl
@[simp] theorem Job.accV_modTl (j : Job) (k : BitVec 3) (f : Timeline → Timeline) : (j.modTl k f).accV = j.accV := rfl
@[simp] theorem Job.aswap_modTl (j : Job) (k : BitVec 3) (f : Timeline → Timeline) : (j.modTl k f).aswap = j.aswap := rfl
@[simp] theorem Job.ops_modTl (j : Job) (k : BitVec 3) (f : Timeline → Timeline) : (j.modTl k f).ops = j.ops := rfl
@[simp] theorem Job.moves_modTl (j : Job) (k : BitVec 3) (f : Timeline → Timeline) : (j.modTl k f).moves = j.moves := rfl
@[simp] theorem Job.late_modTl (j : Job) (k : BitVec 3) (f : Timeline → Timeline) : (j.modTl k f).late = j.late := rfl
@[simp] theorem Job.mops_modTl (j : Job) (k : BitVec 3) (f : Timeline → Timeline) : (j.modTl k f).mops = j.mops := rfl
@[simp] theorem Job.marks_modTl (j : Job) (k : BitVec 3) (f : Timeline → Timeline) : (j.modTl k f).marks = j.marks := rfl
@[simp] theorem Job.traffic_modTl (j : Job) (k : BitVec 3) (f : Timeline → Timeline) : (j.modTl k f).traffic = j.traffic := rfl
@[simp] theorem Job.ts_modTl (j : Job) (k : BitVec 3) (f : Timeline → Timeline) : (j.modTl k f).ts = j.ts := rfl
@[simp] theorem Job.tl0_modTl (j : Job) (k : BitVec 3) (f : Timeline → Timeline) : (j.modTl k f).tl0 = j.tl0 := rfl
@[simp] theorem Job.car_modTl (j : Job) (k : BitVec 3) (f : Timeline → Timeline) : (j.modTl k f).car = j.car := rfl
@[simp] theorem Job.car0_modTl (j : Job) (k : BitVec 3) (f : Timeline → Timeline) : (j.modTl k f).car0 = j.car0 := rfl
@[simp] theorem Job.ext_modTl (j : Job) (k : BitVec 3) (f : Timeline → Timeline) : (j.modTl k f).ext = j.ext := rfl
@[simp] theorem Job.ovf_modTl (j : Job) (k : BitVec 3) (f : Timeline → Timeline) : (j.modTl k f).ovf = j.ovf := rfl
@[simp] theorem Job.pins_modTl (j : Job) (k : BitVec 3) (f : Timeline → Timeline) : (j.modTl k f).pins = j.pins := rfl
@[simp] theorem Job.trapvec_modTl (j : Job) (k : BitVec 3) (f : Timeline → Timeline) : (j.modTl k f).trapvec = j.trapvec := rfl
@[simp] theorem Job.trapcause_modTl (j : Job) (k : BitVec 3) (f : Timeline → Timeline) : (j.modTl k f).trapcause = j.trapcause := rfl
@[simp] theorem Job.trappc_modTl (j : Job) (k : BitVec 3) (f : Timeline → Timeline) : (j.modTl k f).trappc = j.trappc := rfl
@[simp] theorem Job.trapstrm_modTl (j : Job) (k : BitVec 3) (f : Timeline → Timeline) : (j.modTl k f).trapstrm = j.trapstrm := rfl
@[simp] theorem Job.trapinfo_modTl (j : Job) (k : BitVec 3) (f : Timeline → Timeline) : (j.modTl k f).trapinfo = j.trapinfo := rfl
@[simp] theorem Job.trapResume_modTl (j : Job) (k : BitVec 3) (f : Timeline → Timeline) : (j.modTl k f).trapResume = j.trapResume := rfl
@[simp] theorem Job.sResume_modTl (j : Job) (k : BitVec 3) (f : Timeline → Timeline) : (j.modTl k f).sResume = j.sResume := rfl
@[simp] theorem Job.retStrm_modTl (j : Job) (k : BitVec 3) (f : Timeline → Timeline) : (j.modTl k f).retStrm = j.retStrm := rfl
@[simp] theorem Job.traps_modTl (j : Job) (k : BitVec 3) (f : Timeline → Timeline) : (j.modTl k f).traps = j.traps := rfl
@[simp] theorem Job.stop_modTl (j : Job) (k : BitVec 3) (f : Timeline → Timeline) : (j.modTl k f).stop = j.stop := rfl
@[simp] theorem Job.tret_modTl (j : Job) (k : BitVec 3) (f : Timeline → Timeline) : (j.modTl k f).tret = j.tret := rfl
@[simp] theorem Job.wasTrapped_modTl (j : Job) (k : BitVec 3) (f : Timeline → Timeline) : (j.modTl k f).wasTrapped = j.wasTrapped := rfl
@[simp] theorem Job.freeze_modTl (j : Job) (k : BitVec 3) (f : Timeline → Timeline) : (j.modTl k f).freeze = j.freeze := rfl
@[simp] theorem Job.outs_modTl (j : Job) (k : BitVec 3) (f : Timeline → Timeline) : (j.modTl k f).outs = j.outs := rfl
@[simp] theorem Job.kvWait_modTl (j : Job) (k : BitVec 3) (f : Timeline → Timeline) : (j.modTl k f).kvWait = j.kvWait := rfl
@[simp] theorem Job.owed_modTl (j : Job) (k : BitVec 3) (f : Timeline → Timeline) : (j.modTl k f).owed = j.owed := rfl
@[simp] theorem Job.beacon_modTl (j : Job) (k : BitVec 3) (f : Timeline → Timeline) : (j.modTl k f).beacon = j.beacon := rfl
@[simp] theorem Job.runtime_modTl (j : Job) (k : BitVec 3) (f : Timeline → Timeline) : (j.modTl k f).runtime = j.runtime := rfl
@[simp] theorem Job.wdog_modTl (j : Job) (k : BitVec 3) (f : Timeline → Timeline) : (j.modTl k f).wdog = j.wdog := rfl
@[simp] theorem Job.preq_modTl (j : Job) (k : BitVec 3) (f : Timeline → Timeline) : (j.modTl k f).preq = j.preq := rfl
@[simp] theorem Job.saving_modTl (j : Job) (k : BitVec 3) (f : Timeline → Timeline) : (j.modTl k f).saving = j.saving := rfl
@[simp] theorem Job.channels_modTl (j : Job) (k : BitVec 3) (f : Timeline → Timeline) : (j.modTl k f).channels = j.channels := rfl
@[simp] theorem Job.xlated_modTl (j : Job) (k : BitVec 3) (f : Timeline → Timeline) : (j.modTl k f).xlated = j.xlated := rfl
@[simp] theorem Job.faultPage_modTl (j : Job) (k : BitVec 3) (f : Timeline → Timeline) : (j.modTl k f).faultPage = j.faultPage := rfl

@[simp] theorem Job.st_modCar (j : Job) (c : BitVec 2) (f : Carousel → Carousel) : (j.modCar c f).st = j.st := rfl
@[simp] theorem Job.seq_modCar (j : Job) (c : BitVec 2) (f : Carousel → Carousel) : (j.modCar c f).seq = j.seq := rfl
@[simp] theorem Job.iter_modCar (j : Job) (c : BitVec 2) (f : Carousel → Carousel) : (j.modCar c f).iter = j.iter := rfl
@[simp] theorem Job.idx_modCar (j : Job) (c : BitVec 2) (f : Carousel → Carousel) : (j.modCar c f).idx = j.idx := rfl
@[simp] theorem Job.stage_modCar (j : Job) (c : BitVec 2) (f : Carousel → Carousel) : (j.modCar c f).stage = j.stage := rfl
@[simp] theorem Job.nest_modCar (j : Job) (c : BitVec 2) (f : Carousel → Carousel) : (j.modCar c f).nest = j.nest := rfl
@[simp] theorem Job.prio_modCar (j : Job) (c : BitVec 2) (f : Carousel → Carousel) : (j.modCar c f).prio = j.prio := rfl
@[simp] theorem Job.incarn_modCar (j : Job) (c : BitVec 2) (f : Carousel → Carousel) : (j.modCar c f).incarn = j.incarn := rfl
@[simp] theorem Job.pkgnum_modCar (j : Job) (c : BitVec 2) (f : Carousel → Carousel) : (j.modCar c f).pkgnum = j.pkgnum := rfl
@[simp] theorem Job.strm_modCar (j : Job) (c : BitVec 2) (f : Carousel → Carousel) : (j.modCar c f).strm = j.strm := rfl
@[simp] theorem Job.jc_modCar (j : Job) (c : BitVec 2) (f : Carousel → Carousel) : (j.modCar c f).jc = j.jc := rfl
@[simp] theorem Job.hclk_modCar (j : Job) (c : BitVec 2) (f : Carousel → Carousel) : (j.modCar c f).hclk = j.hclk := rfl
@[simp] theorem Job.hNext_modCar (j : Job) (c : BitVec 2) (f : Carousel → Carousel) : (j.modCar c f).hNext = j.hNext := rfl
@[simp] theorem Job.t0_modCar (j : Job) (c : BitVec 2) (f : Carousel → Carousel) : (j.modCar c f).t0 = j.t0 := rfl
@[simp] theorem Job.cycDone_modCar (j : Job) (c : BitVec 2) (f : Carousel → Carousel) : (j.modCar c f).cycDone = j.cycDone := rfl
@[simp] theorem Job.thawAt_modCar (j : Job) (c : BitVec 2) (f : Carousel → Carousel) : (j.modCar c f).thawAt = j.thawAt := rfl
@[simp] theorem Job.vq_modCar (j : Job) (c : BitVec 2) (f : Carousel → Carousel) : (j.modCar c f).vq = j.vq := rfl
@[simp] theorem Job.vpopped_modCar (j : Job) (c : BitVec 2) (f : Carousel → Carousel) : (j.modCar c f).vpopped = j.vpopped := rfl
@[simp] theorem Job.vqRes_modCar (j : Job) (c : BitVec 2) (f : Carousel → Carousel) : (j.modCar c f).vqRes = j.vqRes := rfl
@[simp] theorem Job.v_modCar (j : Job) (c : BitVec 2) (f : Carousel → Carousel) : (j.modCar c f).v = j.v := rfl
@[simp] theorem Job.vsEf_modCar (j : Job) (c : BitVec 2) (f : Carousel → Carousel) : (j.modCar c f).vsEf = j.vsEf := rfl
@[simp] theorem Job.vsRows_modCar (j : Job) (c : BitVec 2) (f : Carousel → Carousel) : (j.modCar c f).vsRows = j.vsRows := rfl
@[simp] theorem Job.vrb_modCar (j : Job) (c : BitVec 2) (f : Carousel → Carousel) : (j.modCar c f).vrb = j.vrb := rfl
@[simp] theorem Job.ringB_modCar (j : Job) (c : BitVec 2) (f : Carousel → Carousel) : (j.modCar c f).ringB = j.ringB := rfl
@[simp] theorem Job.ringS_modCar (j : Job) (c : BitVec 2) (f : Carousel → Carousel) : (j.modCar c f).ringS = j.ringS := rfl
@[simp] theorem Job.sr0_modCar (j : Job) (c : BitVec 2) (f : Carousel → Carousel) : (j.modCar c f).sr0 = j.sr0 := rfl
@[simp] theorem Job.accW_modCar (j : Job) (c : BitVec 2) (f : Carousel → Carousel) : (j.modCar c f).accW = j.accW := rfl
@[simp] theorem Job.accV_modCar (j : Job) (c : BitVec 2) (f : Carousel → Carousel) : (j.modCar c f).accV = j.accV := rfl
@[simp] theorem Job.aswap_modCar (j : Job) (c : BitVec 2) (f : Carousel → Carousel) : (j.modCar c f).aswap = j.aswap := rfl
@[simp] theorem Job.ops_modCar (j : Job) (c : BitVec 2) (f : Carousel → Carousel) : (j.modCar c f).ops = j.ops := rfl
@[simp] theorem Job.moves_modCar (j : Job) (c : BitVec 2) (f : Carousel → Carousel) : (j.modCar c f).moves = j.moves := rfl
@[simp] theorem Job.late_modCar (j : Job) (c : BitVec 2) (f : Carousel → Carousel) : (j.modCar c f).late = j.late := rfl
@[simp] theorem Job.mops_modCar (j : Job) (c : BitVec 2) (f : Carousel → Carousel) : (j.modCar c f).mops = j.mops := rfl
@[simp] theorem Job.marks_modCar (j : Job) (c : BitVec 2) (f : Carousel → Carousel) : (j.modCar c f).marks = j.marks := rfl
@[simp] theorem Job.traffic_modCar (j : Job) (c : BitVec 2) (f : Carousel → Carousel) : (j.modCar c f).traffic = j.traffic := rfl
@[simp] theorem Job.ts_modCar (j : Job) (c : BitVec 2) (f : Carousel → Carousel) : (j.modCar c f).ts = j.ts := rfl
@[simp] theorem Job.tl_modCar (j : Job) (c : BitVec 2) (f : Carousel → Carousel) : (j.modCar c f).tl = j.tl := rfl
@[simp] theorem Job.tl0_modCar (j : Job) (c : BitVec 2) (f : Carousel → Carousel) : (j.modCar c f).tl0 = j.tl0 := rfl
@[simp] theorem Job.car0_modCar (j : Job) (c : BitVec 2) (f : Carousel → Carousel) : (j.modCar c f).car0 = j.car0 := rfl
@[simp] theorem Job.ext_modCar (j : Job) (c : BitVec 2) (f : Carousel → Carousel) : (j.modCar c f).ext = j.ext := rfl
@[simp] theorem Job.ovf_modCar (j : Job) (c : BitVec 2) (f : Carousel → Carousel) : (j.modCar c f).ovf = j.ovf := rfl
@[simp] theorem Job.pins_modCar (j : Job) (c : BitVec 2) (f : Carousel → Carousel) : (j.modCar c f).pins = j.pins := rfl
@[simp] theorem Job.trapvec_modCar (j : Job) (c : BitVec 2) (f : Carousel → Carousel) : (j.modCar c f).trapvec = j.trapvec := rfl
@[simp] theorem Job.trapcause_modCar (j : Job) (c : BitVec 2) (f : Carousel → Carousel) : (j.modCar c f).trapcause = j.trapcause := rfl
@[simp] theorem Job.trappc_modCar (j : Job) (c : BitVec 2) (f : Carousel → Carousel) : (j.modCar c f).trappc = j.trappc := rfl
@[simp] theorem Job.trapstrm_modCar (j : Job) (c : BitVec 2) (f : Carousel → Carousel) : (j.modCar c f).trapstrm = j.trapstrm := rfl
@[simp] theorem Job.trapinfo_modCar (j : Job) (c : BitVec 2) (f : Carousel → Carousel) : (j.modCar c f).trapinfo = j.trapinfo := rfl
@[simp] theorem Job.trapResume_modCar (j : Job) (c : BitVec 2) (f : Carousel → Carousel) : (j.modCar c f).trapResume = j.trapResume := rfl
@[simp] theorem Job.sResume_modCar (j : Job) (c : BitVec 2) (f : Carousel → Carousel) : (j.modCar c f).sResume = j.sResume := rfl
@[simp] theorem Job.retStrm_modCar (j : Job) (c : BitVec 2) (f : Carousel → Carousel) : (j.modCar c f).retStrm = j.retStrm := rfl
@[simp] theorem Job.traps_modCar (j : Job) (c : BitVec 2) (f : Carousel → Carousel) : (j.modCar c f).traps = j.traps := rfl
@[simp] theorem Job.stop_modCar (j : Job) (c : BitVec 2) (f : Carousel → Carousel) : (j.modCar c f).stop = j.stop := rfl
@[simp] theorem Job.tret_modCar (j : Job) (c : BitVec 2) (f : Carousel → Carousel) : (j.modCar c f).tret = j.tret := rfl
@[simp] theorem Job.wasTrapped_modCar (j : Job) (c : BitVec 2) (f : Carousel → Carousel) : (j.modCar c f).wasTrapped = j.wasTrapped := rfl
@[simp] theorem Job.freeze_modCar (j : Job) (c : BitVec 2) (f : Carousel → Carousel) : (j.modCar c f).freeze = j.freeze := rfl
@[simp] theorem Job.outs_modCar (j : Job) (c : BitVec 2) (f : Carousel → Carousel) : (j.modCar c f).outs = j.outs := rfl
@[simp] theorem Job.kvWait_modCar (j : Job) (c : BitVec 2) (f : Carousel → Carousel) : (j.modCar c f).kvWait = j.kvWait := rfl
@[simp] theorem Job.owed_modCar (j : Job) (c : BitVec 2) (f : Carousel → Carousel) : (j.modCar c f).owed = j.owed := rfl
@[simp] theorem Job.beacon_modCar (j : Job) (c : BitVec 2) (f : Carousel → Carousel) : (j.modCar c f).beacon = j.beacon := rfl
@[simp] theorem Job.runtime_modCar (j : Job) (c : BitVec 2) (f : Carousel → Carousel) : (j.modCar c f).runtime = j.runtime := rfl
@[simp] theorem Job.wdog_modCar (j : Job) (c : BitVec 2) (f : Carousel → Carousel) : (j.modCar c f).wdog = j.wdog := rfl
@[simp] theorem Job.preq_modCar (j : Job) (c : BitVec 2) (f : Carousel → Carousel) : (j.modCar c f).preq = j.preq := rfl
@[simp] theorem Job.saving_modCar (j : Job) (c : BitVec 2) (f : Carousel → Carousel) : (j.modCar c f).saving = j.saving := rfl
@[simp] theorem Job.channels_modCar (j : Job) (c : BitVec 2) (f : Carousel → Carousel) : (j.modCar c f).channels = j.channels := rfl
@[simp] theorem Job.xlated_modCar (j : Job) (c : BitVec 2) (f : Carousel → Carousel) : (j.modCar c f).xlated = j.xlated := rfl
@[simp] theorem Job.faultPage_modCar (j : Job) (c : BitVec 2) (f : Carousel → Carousel) : (j.modCar c f).faultPage = j.faultPage := rfl

@[simp] theorem Job.st_wrX (j : Job) (st : Strm) (pc : Word) (r : BitVec 4) (v : XVal) (l : Nat) : (j.wrX st pc r v l).st = j.st := by unfold Job.wrX; split <;> rfl
@[simp] theorem Job.seq_wrX (j : Job) (st : Strm) (pc : Word) (r : BitVec 4) (v : XVal) (l : Nat) : (j.wrX st pc r v l).seq = j.seq := by unfold Job.wrX; split <;> rfl
@[simp] theorem Job.iter_wrX (j : Job) (st : Strm) (pc : Word) (r : BitVec 4) (v : XVal) (l : Nat) : (j.wrX st pc r v l).iter = j.iter := by unfold Job.wrX; split <;> rfl
@[simp] theorem Job.idx_wrX (j : Job) (st : Strm) (pc : Word) (r : BitVec 4) (v : XVal) (l : Nat) : (j.wrX st pc r v l).idx = j.idx := by unfold Job.wrX; split <;> rfl
@[simp] theorem Job.stage_wrX (j : Job) (st : Strm) (pc : Word) (r : BitVec 4) (v : XVal) (l : Nat) : (j.wrX st pc r v l).stage = j.stage := by unfold Job.wrX; split <;> rfl
@[simp] theorem Job.nest_wrX (j : Job) (st : Strm) (pc : Word) (r : BitVec 4) (v : XVal) (l : Nat) : (j.wrX st pc r v l).nest = j.nest := by unfold Job.wrX; split <;> rfl
@[simp] theorem Job.prio_wrX (j : Job) (st : Strm) (pc : Word) (r : BitVec 4) (v : XVal) (l : Nat) : (j.wrX st pc r v l).prio = j.prio := by unfold Job.wrX; split <;> rfl
@[simp] theorem Job.incarn_wrX (j : Job) (st : Strm) (pc : Word) (r : BitVec 4) (v : XVal) (l : Nat) : (j.wrX st pc r v l).incarn = j.incarn := by unfold Job.wrX; split <;> rfl
@[simp] theorem Job.pkgnum_wrX (j : Job) (st : Strm) (pc : Word) (r : BitVec 4) (v : XVal) (l : Nat) : (j.wrX st pc r v l).pkgnum = j.pkgnum := by unfold Job.wrX; split <;> rfl
@[simp] theorem Job.jc_wrX (j : Job) (st : Strm) (pc : Word) (r : BitVec 4) (v : XVal) (l : Nat) : (j.wrX st pc r v l).jc = j.jc := by unfold Job.wrX; split <;> rfl
@[simp] theorem Job.hclk_wrX (j : Job) (st : Strm) (pc : Word) (r : BitVec 4) (v : XVal) (l : Nat) : (j.wrX st pc r v l).hclk = j.hclk := by unfold Job.wrX; split <;> rfl
@[simp] theorem Job.hNext_wrX (j : Job) (st : Strm) (pc : Word) (r : BitVec 4) (v : XVal) (l : Nat) : (j.wrX st pc r v l).hNext = j.hNext := by unfold Job.wrX; split <;> rfl
@[simp] theorem Job.t0_wrX (j : Job) (st : Strm) (pc : Word) (r : BitVec 4) (v : XVal) (l : Nat) : (j.wrX st pc r v l).t0 = j.t0 := by unfold Job.wrX; split <;> rfl
@[simp] theorem Job.cycDone_wrX (j : Job) (st : Strm) (pc : Word) (r : BitVec 4) (v : XVal) (l : Nat) : (j.wrX st pc r v l).cycDone = j.cycDone := by unfold Job.wrX; split <;> rfl
@[simp] theorem Job.thawAt_wrX (j : Job) (st : Strm) (pc : Word) (r : BitVec 4) (v : XVal) (l : Nat) : (j.wrX st pc r v l).thawAt = j.thawAt := by unfold Job.wrX; split <;> rfl
@[simp] theorem Job.vq_wrX (j : Job) (st : Strm) (pc : Word) (r : BitVec 4) (v : XVal) (l : Nat) : (j.wrX st pc r v l).vq = j.vq := by unfold Job.wrX; split <;> rfl
@[simp] theorem Job.vpopped_wrX (j : Job) (st : Strm) (pc : Word) (r : BitVec 4) (v : XVal) (l : Nat) : (j.wrX st pc r v l).vpopped = j.vpopped := by unfold Job.wrX; split <;> rfl
@[simp] theorem Job.vqRes_wrX (j : Job) (st : Strm) (pc : Word) (r : BitVec 4) (v : XVal) (l : Nat) : (j.wrX st pc r v l).vqRes = j.vqRes := by unfold Job.wrX; split <;> rfl
@[simp] theorem Job.v_wrX (j : Job) (st : Strm) (pc : Word) (r : BitVec 4) (v : XVal) (l : Nat) : (j.wrX st pc r v l).v = j.v := by unfold Job.wrX; split <;> rfl
@[simp] theorem Job.vsEf_wrX (j : Job) (st : Strm) (pc : Word) (r : BitVec 4) (v : XVal) (l : Nat) : (j.wrX st pc r v l).vsEf = j.vsEf := by unfold Job.wrX; split <;> rfl
@[simp] theorem Job.vsRows_wrX (j : Job) (st : Strm) (pc : Word) (r : BitVec 4) (v : XVal) (l : Nat) : (j.wrX st pc r v l).vsRows = j.vsRows := by unfold Job.wrX; split <;> rfl
@[simp] theorem Job.vrb_wrX (j : Job) (st : Strm) (pc : Word) (r : BitVec 4) (v : XVal) (l : Nat) : (j.wrX st pc r v l).vrb = j.vrb := by unfold Job.wrX; split <;> rfl
@[simp] theorem Job.ringB_wrX (j : Job) (st : Strm) (pc : Word) (r : BitVec 4) (v : XVal) (l : Nat) : (j.wrX st pc r v l).ringB = j.ringB := by unfold Job.wrX; split <;> rfl
@[simp] theorem Job.ringS_wrX (j : Job) (st : Strm) (pc : Word) (r : BitVec 4) (v : XVal) (l : Nat) : (j.wrX st pc r v l).ringS = j.ringS := by unfold Job.wrX; split <;> rfl
@[simp] theorem Job.sr0_wrX (j : Job) (st : Strm) (pc : Word) (r : BitVec 4) (v : XVal) (l : Nat) : (j.wrX st pc r v l).sr0 = j.sr0 := by unfold Job.wrX; split <;> rfl
@[simp] theorem Job.accW_wrX (j : Job) (st : Strm) (pc : Word) (r : BitVec 4) (v : XVal) (l : Nat) : (j.wrX st pc r v l).accW = j.accW := by unfold Job.wrX; split <;> rfl
@[simp] theorem Job.accV_wrX (j : Job) (st : Strm) (pc : Word) (r : BitVec 4) (v : XVal) (l : Nat) : (j.wrX st pc r v l).accV = j.accV := by unfold Job.wrX; split <;> rfl
@[simp] theorem Job.aswap_wrX (j : Job) (st : Strm) (pc : Word) (r : BitVec 4) (v : XVal) (l : Nat) : (j.wrX st pc r v l).aswap = j.aswap := by unfold Job.wrX; split <;> rfl
@[simp] theorem Job.ops_wrX (j : Job) (st : Strm) (pc : Word) (r : BitVec 4) (v : XVal) (l : Nat) : (j.wrX st pc r v l).ops = j.ops := by unfold Job.wrX; split <;> rfl
@[simp] theorem Job.moves_wrX (j : Job) (st : Strm) (pc : Word) (r : BitVec 4) (v : XVal) (l : Nat) : (j.wrX st pc r v l).moves = j.moves := by unfold Job.wrX; split <;> rfl
@[simp] theorem Job.mops_wrX (j : Job) (st : Strm) (pc : Word) (r : BitVec 4) (v : XVal) (l : Nat) : (j.wrX st pc r v l).mops = j.mops := by unfold Job.wrX; split <;> rfl
@[simp] theorem Job.traffic_wrX (j : Job) (st : Strm) (pc : Word) (r : BitVec 4) (v : XVal) (l : Nat) : (j.wrX st pc r v l).traffic = j.traffic := by unfold Job.wrX; split <;> rfl
@[simp] theorem Job.ts_wrX (j : Job) (st : Strm) (pc : Word) (r : BitVec 4) (v : XVal) (l : Nat) : (j.wrX st pc r v l).ts = j.ts := by unfold Job.wrX; split <;> rfl
@[simp] theorem Job.tl_wrX (j : Job) (st : Strm) (pc : Word) (r : BitVec 4) (v : XVal) (l : Nat) : (j.wrX st pc r v l).tl = j.tl := by unfold Job.wrX; split <;> rfl
@[simp] theorem Job.tl0_wrX (j : Job) (st : Strm) (pc : Word) (r : BitVec 4) (v : XVal) (l : Nat) : (j.wrX st pc r v l).tl0 = j.tl0 := by unfold Job.wrX; split <;> rfl
@[simp] theorem Job.car_wrX (j : Job) (st : Strm) (pc : Word) (r : BitVec 4) (v : XVal) (l : Nat) : (j.wrX st pc r v l).car = j.car := by unfold Job.wrX; split <;> rfl
@[simp] theorem Job.car0_wrX (j : Job) (st : Strm) (pc : Word) (r : BitVec 4) (v : XVal) (l : Nat) : (j.wrX st pc r v l).car0 = j.car0 := by unfold Job.wrX; split <;> rfl
@[simp] theorem Job.ext_wrX (j : Job) (st : Strm) (pc : Word) (r : BitVec 4) (v : XVal) (l : Nat) : (j.wrX st pc r v l).ext = j.ext := by unfold Job.wrX; split <;> rfl
@[simp] theorem Job.ovf_wrX (j : Job) (st : Strm) (pc : Word) (r : BitVec 4) (v : XVal) (l : Nat) : (j.wrX st pc r v l).ovf = j.ovf := by unfold Job.wrX; split <;> rfl
@[simp] theorem Job.pins_wrX (j : Job) (st : Strm) (pc : Word) (r : BitVec 4) (v : XVal) (l : Nat) : (j.wrX st pc r v l).pins = j.pins := by unfold Job.wrX; split <;> rfl
@[simp] theorem Job.trapvec_wrX (j : Job) (st : Strm) (pc : Word) (r : BitVec 4) (v : XVal) (l : Nat) : (j.wrX st pc r v l).trapvec = j.trapvec := by unfold Job.wrX; split <;> rfl
@[simp] theorem Job.trapcause_wrX (j : Job) (st : Strm) (pc : Word) (r : BitVec 4) (v : XVal) (l : Nat) : (j.wrX st pc r v l).trapcause = j.trapcause := by unfold Job.wrX; split <;> rfl
@[simp] theorem Job.trappc_wrX (j : Job) (st : Strm) (pc : Word) (r : BitVec 4) (v : XVal) (l : Nat) : (j.wrX st pc r v l).trappc = j.trappc := by unfold Job.wrX; split <;> rfl
@[simp] theorem Job.trapstrm_wrX (j : Job) (st : Strm) (pc : Word) (r : BitVec 4) (v : XVal) (l : Nat) : (j.wrX st pc r v l).trapstrm = j.trapstrm := by unfold Job.wrX; split <;> rfl
@[simp] theorem Job.trapinfo_wrX (j : Job) (st : Strm) (pc : Word) (r : BitVec 4) (v : XVal) (l : Nat) : (j.wrX st pc r v l).trapinfo = j.trapinfo := by unfold Job.wrX; split <;> rfl
@[simp] theorem Job.trapResume_wrX (j : Job) (st : Strm) (pc : Word) (r : BitVec 4) (v : XVal) (l : Nat) : (j.wrX st pc r v l).trapResume = j.trapResume := by unfold Job.wrX; split <;> rfl
@[simp] theorem Job.sResume_wrX (j : Job) (st : Strm) (pc : Word) (r : BitVec 4) (v : XVal) (l : Nat) : (j.wrX st pc r v l).sResume = j.sResume := by unfold Job.wrX; split <;> rfl
@[simp] theorem Job.retStrm_wrX (j : Job) (st : Strm) (pc : Word) (r : BitVec 4) (v : XVal) (l : Nat) : (j.wrX st pc r v l).retStrm = j.retStrm := by unfold Job.wrX; split <;> rfl
@[simp] theorem Job.traps_wrX (j : Job) (st : Strm) (pc : Word) (r : BitVec 4) (v : XVal) (l : Nat) : (j.wrX st pc r v l).traps = j.traps := by unfold Job.wrX; split <;> rfl
@[simp] theorem Job.stop_wrX (j : Job) (st : Strm) (pc : Word) (r : BitVec 4) (v : XVal) (l : Nat) : (j.wrX st pc r v l).stop = j.stop := by unfold Job.wrX; split <;> rfl
@[simp] theorem Job.tret_wrX (j : Job) (st : Strm) (pc : Word) (r : BitVec 4) (v : XVal) (l : Nat) : (j.wrX st pc r v l).tret = j.tret := by unfold Job.wrX; split <;> rfl
@[simp] theorem Job.wasTrapped_wrX (j : Job) (st : Strm) (pc : Word) (r : BitVec 4) (v : XVal) (l : Nat) : (j.wrX st pc r v l).wasTrapped = j.wasTrapped := by unfold Job.wrX; split <;> rfl
@[simp] theorem Job.freeze_wrX (j : Job) (st : Strm) (pc : Word) (r : BitVec 4) (v : XVal) (l : Nat) : (j.wrX st pc r v l).freeze = j.freeze := by unfold Job.wrX; split <;> rfl
@[simp] theorem Job.owed_wrX (j : Job) (st : Strm) (pc : Word) (r : BitVec 4) (v : XVal) (l : Nat) : (j.wrX st pc r v l).owed = j.owed := by unfold Job.wrX; split <;> rfl
@[simp] theorem Job.beacon_wrX (j : Job) (st : Strm) (pc : Word) (r : BitVec 4) (v : XVal) (l : Nat) : (j.wrX st pc r v l).beacon = j.beacon := by unfold Job.wrX; split <;> rfl
@[simp] theorem Job.runtime_wrX (j : Job) (st : Strm) (pc : Word) (r : BitVec 4) (v : XVal) (l : Nat) : (j.wrX st pc r v l).runtime = j.runtime := by unfold Job.wrX; split <;> rfl
@[simp] theorem Job.wdog_wrX (j : Job) (st : Strm) (pc : Word) (r : BitVec 4) (v : XVal) (l : Nat) : (j.wrX st pc r v l).wdog = j.wdog := by unfold Job.wrX; split <;> rfl
@[simp] theorem Job.preq_wrX (j : Job) (st : Strm) (pc : Word) (r : BitVec 4) (v : XVal) (l : Nat) : (j.wrX st pc r v l).preq = j.preq := by unfold Job.wrX; split <;> rfl
@[simp] theorem Job.saving_wrX (j : Job) (st : Strm) (pc : Word) (r : BitVec 4) (v : XVal) (l : Nat) : (j.wrX st pc r v l).saving = j.saving := by unfold Job.wrX; split <;> rfl
@[simp] theorem Job.channels_wrX (j : Job) (st : Strm) (pc : Word) (r : BitVec 4) (v : XVal) (l : Nat) : (j.wrX st pc r v l).channels = j.channels := by unfold Job.wrX; split <;> rfl
@[simp] theorem Job.xlated_wrX (j : Job) (st : Strm) (pc : Word) (r : BitVec 4) (v : XVal) (l : Nat) : (j.wrX st pc r v l).xlated = j.xlated := by unfold Job.wrX; split <;> rfl
@[simp] theorem Job.faultPage_wrX (j : Job) (st : Strm) (pc : Word) (r : BitVec 4) (v : XVal) (l : Nat) : (j.wrX st pc r v l).faultPage = j.faultPage := by unfold Job.wrX; split <;> rfl

@[simp] theorem Job.st_wrP (j : Job) (st : Strm) (pc : Word) (r : BitVec 3) (v : PVal) (l : Nat) : (j.wrP st pc r v l).st = j.st := by unfold Job.wrP; split <;> [rfl; (dsimp only; split <;> rfl)]
@[simp] theorem Job.seq_wrP (j : Job) (st : Strm) (pc : Word) (r : BitVec 3) (v : PVal) (l : Nat) : (j.wrP st pc r v l).seq = j.seq := by unfold Job.wrP; split <;> [rfl; (dsimp only; split <;> rfl)]
@[simp] theorem Job.iter_wrP (j : Job) (st : Strm) (pc : Word) (r : BitVec 3) (v : PVal) (l : Nat) : (j.wrP st pc r v l).iter = j.iter := by unfold Job.wrP; split <;> [rfl; (dsimp only; split <;> rfl)]
@[simp] theorem Job.idx_wrP (j : Job) (st : Strm) (pc : Word) (r : BitVec 3) (v : PVal) (l : Nat) : (j.wrP st pc r v l).idx = j.idx := by unfold Job.wrP; split <;> [rfl; (dsimp only; split <;> rfl)]
@[simp] theorem Job.stage_wrP (j : Job) (st : Strm) (pc : Word) (r : BitVec 3) (v : PVal) (l : Nat) : (j.wrP st pc r v l).stage = j.stage := by unfold Job.wrP; split <;> [rfl; (dsimp only; split <;> rfl)]
@[simp] theorem Job.nest_wrP (j : Job) (st : Strm) (pc : Word) (r : BitVec 3) (v : PVal) (l : Nat) : (j.wrP st pc r v l).nest = j.nest := by unfold Job.wrP; split <;> [rfl; (dsimp only; split <;> rfl)]
@[simp] theorem Job.prio_wrP (j : Job) (st : Strm) (pc : Word) (r : BitVec 3) (v : PVal) (l : Nat) : (j.wrP st pc r v l).prio = j.prio := by unfold Job.wrP; split <;> [rfl; (dsimp only; split <;> rfl)]
@[simp] theorem Job.incarn_wrP (j : Job) (st : Strm) (pc : Word) (r : BitVec 3) (v : PVal) (l : Nat) : (j.wrP st pc r v l).incarn = j.incarn := by unfold Job.wrP; split <;> [rfl; (dsimp only; split <;> rfl)]
@[simp] theorem Job.pkgnum_wrP (j : Job) (st : Strm) (pc : Word) (r : BitVec 3) (v : PVal) (l : Nat) : (j.wrP st pc r v l).pkgnum = j.pkgnum := by unfold Job.wrP; split <;> [rfl; (dsimp only; split <;> rfl)]
@[simp] theorem Job.jc_wrP (j : Job) (st : Strm) (pc : Word) (r : BitVec 3) (v : PVal) (l : Nat) : (j.wrP st pc r v l).jc = j.jc := by unfold Job.wrP; split <;> [rfl; (dsimp only; split <;> rfl)]
@[simp] theorem Job.hclk_wrP (j : Job) (st : Strm) (pc : Word) (r : BitVec 3) (v : PVal) (l : Nat) : (j.wrP st pc r v l).hclk = j.hclk := by unfold Job.wrP; split <;> [rfl; (dsimp only; split <;> rfl)]
@[simp] theorem Job.hNext_wrP (j : Job) (st : Strm) (pc : Word) (r : BitVec 3) (v : PVal) (l : Nat) : (j.wrP st pc r v l).hNext = j.hNext := by unfold Job.wrP; split <;> [rfl; (dsimp only; split <;> rfl)]
@[simp] theorem Job.t0_wrP (j : Job) (st : Strm) (pc : Word) (r : BitVec 3) (v : PVal) (l : Nat) : (j.wrP st pc r v l).t0 = j.t0 := by unfold Job.wrP; split <;> [rfl; (dsimp only; split <;> rfl)]
@[simp] theorem Job.cycDone_wrP (j : Job) (st : Strm) (pc : Word) (r : BitVec 3) (v : PVal) (l : Nat) : (j.wrP st pc r v l).cycDone = j.cycDone := by unfold Job.wrP; split <;> [rfl; (dsimp only; split <;> rfl)]
@[simp] theorem Job.thawAt_wrP (j : Job) (st : Strm) (pc : Word) (r : BitVec 3) (v : PVal) (l : Nat) : (j.wrP st pc r v l).thawAt = j.thawAt := by unfold Job.wrP; split <;> [rfl; (dsimp only; split <;> rfl)]
@[simp] theorem Job.vq_wrP (j : Job) (st : Strm) (pc : Word) (r : BitVec 3) (v : PVal) (l : Nat) : (j.wrP st pc r v l).vq = j.vq := by unfold Job.wrP; split <;> [rfl; (dsimp only; split <;> rfl)]
@[simp] theorem Job.vpopped_wrP (j : Job) (st : Strm) (pc : Word) (r : BitVec 3) (v : PVal) (l : Nat) : (j.wrP st pc r v l).vpopped = j.vpopped := by unfold Job.wrP; split <;> [rfl; (dsimp only; split <;> rfl)]
@[simp] theorem Job.vqRes_wrP (j : Job) (st : Strm) (pc : Word) (r : BitVec 3) (v : PVal) (l : Nat) : (j.wrP st pc r v l).vqRes = j.vqRes := by unfold Job.wrP; split <;> [rfl; (dsimp only; split <;> rfl)]
@[simp] theorem Job.v_wrP (j : Job) (st : Strm) (pc : Word) (r : BitVec 3) (v : PVal) (l : Nat) : (j.wrP st pc r v l).v = j.v := by unfold Job.wrP; split <;> [rfl; (dsimp only; split <;> rfl)]
@[simp] theorem Job.vsEf_wrP (j : Job) (st : Strm) (pc : Word) (r : BitVec 3) (v : PVal) (l : Nat) : (j.wrP st pc r v l).vsEf = j.vsEf := by unfold Job.wrP; split <;> [rfl; (dsimp only; split <;> rfl)]
@[simp] theorem Job.vsRows_wrP (j : Job) (st : Strm) (pc : Word) (r : BitVec 3) (v : PVal) (l : Nat) : (j.wrP st pc r v l).vsRows = j.vsRows := by unfold Job.wrP; split <;> [rfl; (dsimp only; split <;> rfl)]
@[simp] theorem Job.vrb_wrP (j : Job) (st : Strm) (pc : Word) (r : BitVec 3) (v : PVal) (l : Nat) : (j.wrP st pc r v l).vrb = j.vrb := by unfold Job.wrP; split <;> [rfl; (dsimp only; split <;> rfl)]
@[simp] theorem Job.ringB_wrP (j : Job) (st : Strm) (pc : Word) (r : BitVec 3) (v : PVal) (l : Nat) : (j.wrP st pc r v l).ringB = j.ringB := by unfold Job.wrP; split <;> [rfl; (dsimp only; split <;> rfl)]
@[simp] theorem Job.ringS_wrP (j : Job) (st : Strm) (pc : Word) (r : BitVec 3) (v : PVal) (l : Nat) : (j.wrP st pc r v l).ringS = j.ringS := by unfold Job.wrP; split <;> [rfl; (dsimp only; split <;> rfl)]
@[simp] theorem Job.sr0_wrP (j : Job) (st : Strm) (pc : Word) (r : BitVec 3) (v : PVal) (l : Nat) : (j.wrP st pc r v l).sr0 = j.sr0 := by unfold Job.wrP; split <;> [rfl; (dsimp only; split <;> rfl)]
@[simp] theorem Job.accW_wrP (j : Job) (st : Strm) (pc : Word) (r : BitVec 3) (v : PVal) (l : Nat) : (j.wrP st pc r v l).accW = j.accW := by unfold Job.wrP; split <;> [rfl; (dsimp only; split <;> rfl)]
@[simp] theorem Job.accV_wrP (j : Job) (st : Strm) (pc : Word) (r : BitVec 3) (v : PVal) (l : Nat) : (j.wrP st pc r v l).accV = j.accV := by unfold Job.wrP; split <;> [rfl; (dsimp only; split <;> rfl)]
@[simp] theorem Job.aswap_wrP (j : Job) (st : Strm) (pc : Word) (r : BitVec 3) (v : PVal) (l : Nat) : (j.wrP st pc r v l).aswap = j.aswap := by unfold Job.wrP; split <;> [rfl; (dsimp only; split <;> rfl)]
@[simp] theorem Job.ops_wrP (j : Job) (st : Strm) (pc : Word) (r : BitVec 3) (v : PVal) (l : Nat) : (j.wrP st pc r v l).ops = j.ops := by unfold Job.wrP; split <;> [rfl; (dsimp only; split <;> rfl)]
@[simp] theorem Job.moves_wrP (j : Job) (st : Strm) (pc : Word) (r : BitVec 3) (v : PVal) (l : Nat) : (j.wrP st pc r v l).moves = j.moves := by unfold Job.wrP; split <;> [rfl; (dsimp only; split <;> rfl)]
@[simp] theorem Job.mops_wrP (j : Job) (st : Strm) (pc : Word) (r : BitVec 3) (v : PVal) (l : Nat) : (j.wrP st pc r v l).mops = j.mops := by unfold Job.wrP; split <;> [rfl; (dsimp only; split <;> rfl)]
@[simp] theorem Job.traffic_wrP (j : Job) (st : Strm) (pc : Word) (r : BitVec 3) (v : PVal) (l : Nat) : (j.wrP st pc r v l).traffic = j.traffic := by unfold Job.wrP; split <;> [rfl; (dsimp only; split <;> rfl)]
@[simp] theorem Job.ts_wrP (j : Job) (st : Strm) (pc : Word) (r : BitVec 3) (v : PVal) (l : Nat) : (j.wrP st pc r v l).ts = j.ts := by unfold Job.wrP; split <;> [rfl; (dsimp only; split <;> rfl)]
@[simp] theorem Job.tl_wrP (j : Job) (st : Strm) (pc : Word) (r : BitVec 3) (v : PVal) (l : Nat) : (j.wrP st pc r v l).tl = j.tl := by unfold Job.wrP; split <;> [rfl; (dsimp only; split <;> rfl)]
@[simp] theorem Job.tl0_wrP (j : Job) (st : Strm) (pc : Word) (r : BitVec 3) (v : PVal) (l : Nat) : (j.wrP st pc r v l).tl0 = j.tl0 := by unfold Job.wrP; split <;> [rfl; (dsimp only; split <;> rfl)]
@[simp] theorem Job.car_wrP (j : Job) (st : Strm) (pc : Word) (r : BitVec 3) (v : PVal) (l : Nat) : (j.wrP st pc r v l).car = j.car := by unfold Job.wrP; split <;> [rfl; (dsimp only; split <;> rfl)]
@[simp] theorem Job.car0_wrP (j : Job) (st : Strm) (pc : Word) (r : BitVec 3) (v : PVal) (l : Nat) : (j.wrP st pc r v l).car0 = j.car0 := by unfold Job.wrP; split <;> [rfl; (dsimp only; split <;> rfl)]
@[simp] theorem Job.ext_wrP (j : Job) (st : Strm) (pc : Word) (r : BitVec 3) (v : PVal) (l : Nat) : (j.wrP st pc r v l).ext = j.ext := by unfold Job.wrP; split <;> [rfl; (dsimp only; split <;> rfl)]
@[simp] theorem Job.ovf_wrP (j : Job) (st : Strm) (pc : Word) (r : BitVec 3) (v : PVal) (l : Nat) : (j.wrP st pc r v l).ovf = j.ovf := by unfold Job.wrP; split <;> [rfl; (dsimp only; split <;> rfl)]
@[simp] theorem Job.pins_wrP (j : Job) (st : Strm) (pc : Word) (r : BitVec 3) (v : PVal) (l : Nat) : (j.wrP st pc r v l).pins = j.pins := by unfold Job.wrP; split <;> [rfl; (dsimp only; split <;> rfl)]
@[simp] theorem Job.trapvec_wrP (j : Job) (st : Strm) (pc : Word) (r : BitVec 3) (v : PVal) (l : Nat) : (j.wrP st pc r v l).trapvec = j.trapvec := by unfold Job.wrP; split <;> [rfl; (dsimp only; split <;> rfl)]
@[simp] theorem Job.trapcause_wrP (j : Job) (st : Strm) (pc : Word) (r : BitVec 3) (v : PVal) (l : Nat) : (j.wrP st pc r v l).trapcause = j.trapcause := by unfold Job.wrP; split <;> [rfl; (dsimp only; split <;> rfl)]
@[simp] theorem Job.trappc_wrP (j : Job) (st : Strm) (pc : Word) (r : BitVec 3) (v : PVal) (l : Nat) : (j.wrP st pc r v l).trappc = j.trappc := by unfold Job.wrP; split <;> [rfl; (dsimp only; split <;> rfl)]
@[simp] theorem Job.trapstrm_wrP (j : Job) (st : Strm) (pc : Word) (r : BitVec 3) (v : PVal) (l : Nat) : (j.wrP st pc r v l).trapstrm = j.trapstrm := by unfold Job.wrP; split <;> [rfl; (dsimp only; split <;> rfl)]
@[simp] theorem Job.trapinfo_wrP (j : Job) (st : Strm) (pc : Word) (r : BitVec 3) (v : PVal) (l : Nat) : (j.wrP st pc r v l).trapinfo = j.trapinfo := by unfold Job.wrP; split <;> [rfl; (dsimp only; split <;> rfl)]
@[simp] theorem Job.trapResume_wrP (j : Job) (st : Strm) (pc : Word) (r : BitVec 3) (v : PVal) (l : Nat) : (j.wrP st pc r v l).trapResume = j.trapResume := by unfold Job.wrP; split <;> [rfl; (dsimp only; split <;> rfl)]
@[simp] theorem Job.sResume_wrP (j : Job) (st : Strm) (pc : Word) (r : BitVec 3) (v : PVal) (l : Nat) : (j.wrP st pc r v l).sResume = j.sResume := by unfold Job.wrP; split <;> [rfl; (dsimp only; split <;> rfl)]
@[simp] theorem Job.retStrm_wrP (j : Job) (st : Strm) (pc : Word) (r : BitVec 3) (v : PVal) (l : Nat) : (j.wrP st pc r v l).retStrm = j.retStrm := by unfold Job.wrP; split <;> [rfl; (dsimp only; split <;> rfl)]
@[simp] theorem Job.traps_wrP (j : Job) (st : Strm) (pc : Word) (r : BitVec 3) (v : PVal) (l : Nat) : (j.wrP st pc r v l).traps = j.traps := by unfold Job.wrP; split <;> [rfl; (dsimp only; split <;> rfl)]
@[simp] theorem Job.stop_wrP (j : Job) (st : Strm) (pc : Word) (r : BitVec 3) (v : PVal) (l : Nat) : (j.wrP st pc r v l).stop = j.stop := by unfold Job.wrP; split <;> [rfl; (dsimp only; split <;> rfl)]
@[simp] theorem Job.tret_wrP (j : Job) (st : Strm) (pc : Word) (r : BitVec 3) (v : PVal) (l : Nat) : (j.wrP st pc r v l).tret = j.tret := by unfold Job.wrP; split <;> [rfl; (dsimp only; split <;> rfl)]
@[simp] theorem Job.wasTrapped_wrP (j : Job) (st : Strm) (pc : Word) (r : BitVec 3) (v : PVal) (l : Nat) : (j.wrP st pc r v l).wasTrapped = j.wasTrapped := by unfold Job.wrP; split <;> [rfl; (dsimp only; split <;> rfl)]
@[simp] theorem Job.freeze_wrP (j : Job) (st : Strm) (pc : Word) (r : BitVec 3) (v : PVal) (l : Nat) : (j.wrP st pc r v l).freeze = j.freeze := by unfold Job.wrP; split <;> [rfl; (dsimp only; split <;> rfl)]
@[simp] theorem Job.owed_wrP (j : Job) (st : Strm) (pc : Word) (r : BitVec 3) (v : PVal) (l : Nat) : (j.wrP st pc r v l).owed = j.owed := by unfold Job.wrP; split <;> [rfl; (dsimp only; split <;> rfl)]
@[simp] theorem Job.beacon_wrP (j : Job) (st : Strm) (pc : Word) (r : BitVec 3) (v : PVal) (l : Nat) : (j.wrP st pc r v l).beacon = j.beacon := by unfold Job.wrP; split <;> [rfl; (dsimp only; split <;> rfl)]
@[simp] theorem Job.runtime_wrP (j : Job) (st : Strm) (pc : Word) (r : BitVec 3) (v : PVal) (l : Nat) : (j.wrP st pc r v l).runtime = j.runtime := by unfold Job.wrP; split <;> [rfl; (dsimp only; split <;> rfl)]
@[simp] theorem Job.wdog_wrP (j : Job) (st : Strm) (pc : Word) (r : BitVec 3) (v : PVal) (l : Nat) : (j.wrP st pc r v l).wdog = j.wdog := by unfold Job.wrP; split <;> [rfl; (dsimp only; split <;> rfl)]
@[simp] theorem Job.preq_wrP (j : Job) (st : Strm) (pc : Word) (r : BitVec 3) (v : PVal) (l : Nat) : (j.wrP st pc r v l).preq = j.preq := by unfold Job.wrP; split <;> [rfl; (dsimp only; split <;> rfl)]
@[simp] theorem Job.saving_wrP (j : Job) (st : Strm) (pc : Word) (r : BitVec 3) (v : PVal) (l : Nat) : (j.wrP st pc r v l).saving = j.saving := by unfold Job.wrP; split <;> [rfl; (dsimp only; split <;> rfl)]
@[simp] theorem Job.channels_wrP (j : Job) (st : Strm) (pc : Word) (r : BitVec 3) (v : PVal) (l : Nat) : (j.wrP st pc r v l).channels = j.channels := by unfold Job.wrP; split <;> [rfl; (dsimp only; split <;> rfl)]
@[simp] theorem Job.xlated_wrP (j : Job) (st : Strm) (pc : Word) (r : BitVec 3) (v : PVal) (l : Nat) : (j.wrP st pc r v l).xlated = j.xlated := by unfold Job.wrP; split <;> [rfl; (dsimp only; split <;> rfl)]
@[simp] theorem Job.faultPage_wrP (j : Job) (st : Strm) (pc : Word) (r : BitVec 3) (v : PVal) (l : Nat) : (j.wrP st pc r v l).faultPage = j.faultPage := by unfold Job.wrP; split <;> [rfl; (dsimp only; split <;> rfl)]

end Sys2Proof.Machine
end

