-- ==== Sys2Proof/Laws/Ops.lean ====
section
/-! SUPPORT. The shared operations: what each can answer and when, so that a proof cites a lemma and unfolds none of them. -/

set_option autoImplicit false

namespace Sys2Proof.Machine

-- Results of a word.

/-- A composed operation answers just when its parts do. -/
theorem Res.bind_ok {α β : Type} {x : Res α} {f : α → Res β} {b : β} : (x >>= f) = .ok b ↔ ∃ a, x = .ok a ∧ f a = .ok b := by
  cases x with
  | error e => exact ⟨fun h => (by cases h), fun ⟨_, h, _⟩ => (by cases h)⟩
  | ok a => exact ⟨fun h => ⟨a, rfl, h⟩, fun ⟨_, h, h'⟩ => by cases h; exact h'⟩

/-- A composed operation stops where its first part stops, or where its second one does. -/
theorem Res.bind_error {α β : Type} {x : Res α} {f : α → Res β} {e : Stop} :
    (x >>= f) = .error e ↔ x = .error e ∨ ∃ a, x = .ok a ∧ f a = .error e := by
  cases x with
  | error e' => exact ⟨fun h => .inl (by simpa [Bind.bind, Except.bind] using h), fun h => by
      rcases h with h | ⟨_, h, _⟩
      · simpa [Bind.bind, Except.bind] using h
      · cases h⟩
  | ok a => exact ⟨fun h => .inr ⟨a, rfl, h⟩, fun h => by
      rcases h with h | ⟨_, h, h'⟩
      · cases h
      · cases h; exact h'⟩

/-- A trap check passes just when its condition does not hold. -/
@[simp] theorem trapIf_ok {b : Bool} {c : Cause} {info : Word} {u : Unit} : trapIf b c info = .ok u ↔ b = false := by
  cases b <;> simp [trapIf]

/-- A hold check passes just when its condition does not hold. -/
@[simp] theorem holdIf_ok {b : Bool} {h : Hold} {u : Unit} : holdIf b h = .ok u ↔ b = false := by
  cases b <;> simp [holdIf]

/-- A resource can be used just when no mark keeps it. -/
@[simp] theorem Job.need_ok {j : Job} {r : Rsc} {u : Unit} : j.need r = .ok u ↔ j.busy r = none := by
  unfold Job.need; cases j.busy r <;> simp

/-- A resource that is kept is a timing fault: SCHEDULE_MISS where the rules are strict, else a stall (R61, R62). -/
theorem Job.need_busy {j : Job} {r : Rsc} {m : Mark} (h : j.busy r = some m) :
    j.need r = .error (if j.strict then .trap cScheduleMiss m.pc else .hold .latency 0) := by
  unfold Job.need timing; rw [h]

-- The three ends of a word, the two of an event.

/-- A word that answers has its effect. -/
@[simp] theorem finish_ok (s t : State) : finish s (.ok t) = .next { t with cur := { t.cur with out := .done } } := rfl

/-- A word that traps. -/
@[simp] theorem finish_trap (s : State) (c : Cause) (info : Word) : finish s (.error (.trap c info)) = .next (s.takeTrap c info) := rfl

/-- A word that is held. -/
@[simp] theorem finish_hold (s : State) (h : Hold) (info : Nat) :
    finish s (.error (.hold h info)) = .next { s with cur := { s.cur with out := .hold h info } } := rfl

/-- A word always answers a next state: its effect, its trap or its hold, and `cur.out` says which. -/
theorem finish_cases (s t : State) (r : Res State) (h : finish s r = .next t) :
    (∃ u, r = .ok u ∧ t = { u with cur := { u.cur with out := .done } }) ∨
    (∃ c info, r = .error (.trap c info) ∧ t = s.takeTrap c info) ∨
    (∃ k info, r = .error (.hold k info) ∧ t = { s with cur := { s.cur with out := .hold k info } }) := by
  match r, h with
  | .ok u, h => exact .inl ⟨u, rfl, by simpa using h.symm⟩
  | .error (.trap c info), h => exact .inr (.inl ⟨c, info, rfl, by simpa using h.symm⟩)
  | .error (.hold k info), h => exact .inr (.inr ⟨k, info, rfl, by simpa using h.symm⟩)

/-- A trapped word leaves a note of its trap. -/
theorem State.out_takeTrap (s : State) (c : Cause) (info : Word) :
    ∃ pc, (s.takeTrap c info).cur.out = .trapped c info pc := ⟨_, rfl⟩

/-- A word whose note says `done` has answered. -/
theorem finish_done (s t : State) (r : Res State) (h : finish s r = .next t) (hd : t.cur.out = .done) :
    ∃ u, r = .ok u ∧ t = { u with cur := { u.cur with out := .done } } := by
  rcases finish_cases s t r h with h | ⟨c, info, -, rfl⟩ | ⟨k, info, -, rfl⟩
  · exact h
  · obtain ⟨pc, hp⟩ := s.out_takeTrap c info; rw [hp] at hd; cases hd
  · cases hd

/-- Every word answers a next state. -/
theorem finish_next (s : State) (r : Res State) : ∃ t, finish s r = .next t := by
  match r with
  | .ok _ => exact ⟨_, rfl⟩
  | .error (.trap _ _) => exact ⟨_, rfl⟩
  | .error (.hold _ _) => exact ⟨_, rfl⟩

/-- An event that is enabled happens. -/
@[simp] theorem happen_some (s t : State) : happen s (some t) = .next t := rfl

/-- An event that is not enabled leaves the state as it is. -/
@[simp] theorem happen_none (s : State) : happen s none = .next s := rfl

/-- Every event answers a next state. -/
theorem happen_next (s : State) (r : Option State) : ∃ t, happen s r = .next t := ⟨_, rfl⟩

-- Registers.

/-- x0 reads 0 (R191). -/
@[simp] theorem rdX_zero (s : State) : rdX s 0 = .ok ⟨0, none⟩ := rfl

/-- A read of another x register answers what it holds, just when no result for it is on its way (R211, R212). -/
theorem rdX_ok {s : State} {r : BitVec 4} {v : XVal} (h0 : r ≠ 0) : rdX s r = .ok v ↔
    s.cjob.busy (.xreg s.cur.strm r) = none ∧ (s.cjob.outs.any fun g => g.writesX s.cur.strm r) = false ∧
      (s.cjob.kvWait.any fun k => k.strm == s.cur.strm && k.reg == r) = false ∧ s.cstrm.x[r.toFin] = v := by
  unfold rdX
  simp only [h0, if_false, Res.bind_ok, Job.need_ok, holdIf_ok, Except.ok.injEq, exists_const]

/-- p0 reads true (R183). -/
@[simp] theorem rdP_zero (s : State) : rdP s 0 = .ok ⟨true, none⟩ := rfl

/-- A read of another predicate answers what it holds, just when no result for it is on its way. -/
theorem rdP_ok {s : State} {r : BitVec 3} {v : PVal} (h0 : r ≠ 0) : rdP s r = .ok v ↔
    s.cjob.busy (.preg s.cur.strm r) = none ∧ (r == 7 && s.cjob.outs.any fun g => g.writesP s.cur.strm) = false ∧
      (r == 7 && s.cjob.kvWait.any fun k => k.strm == s.cur.strm && !k.noP) = false ∧ s.cstrm.p[r.toFin] = v := by
  unfold rdP
  simp only [h0, if_false, Res.bind_ok, Job.need_ok, holdIf_ok, Except.ok.injEq, exists_const]

/-- A register whose poison would be consumed answers just when it can be read and is clean (R213). -/
theorem useX_ok {s : State} {r : BitVec 4} {v : Word} : useX s r = .ok v ↔ rdX s r = .ok ⟨v, none⟩ := by
  unfold useX
  rw [Res.bind_ok]
  constructor
  · rintro ⟨⟨a, po⟩, h1, h2⟩
    cases po with
    | none => simp only [Except.ok.injEq] at h2; rw [h1, h2]
    | some o => cases h2
  · intro h; exact ⟨_, h, rfl⟩

/-- A poisoned register is POISON_CONSUMED (R213). -/
theorem useX_poison {s : State} {r : BitVec 4} {v : Word} {o : Origin} (h : rdX s r = .ok ⟨v, some o⟩) :
    useX s r = .error (.trap cPoisonConsumed o) := by
  unfold useX; rw [h]; rfl

/-- A result for x0 is discarded (R191). -/
@[simp] theorem wrX_zero (s : State) (v : XVal) (l : Nat) : (wrX s 0 v l) = s.updJob id := rfl

/-- A result for an x register changes the results in flight, their marks and what was owed to the register, and the program
counter and the registers of no stream. -/
theorem Job.stream_wrX (j : Job) (st st' : Strm) (pc : Word) (r : BitVec 4) (v : XVal) (l : Nat) :
    ((j.wrX st pc r v l).stream st').x = (j.stream st').x ∧ ((j.wrX st pc r v l).stream st').p = (j.stream st').p ∧
      ((j.wrX st pc r v l).stream st').pc = (j.stream st').pc ∧ ((j.wrX st pc r v l).stream st').q = (j.stream st').q := by
  unfold Job.wrX
  split
  · exact ⟨rfl, rfl, rfl, rfl⟩
  · by_cases h : st' = st
    · subst h
      have key (j : Job) (r : Rsc) : (j.mark r l pc).stream st' = j.stream st' := rfl
      simp only [key, Job.stream_modStream, Job.claimX, Stream.cancel]
      exact ⟨rfl, rfl, rfl, rfl⟩
    · have key (j : Job) (r : Rsc) : (j.mark r l pc).stream st' = j.stream st' := rfl
      simp only [key, Job.stream_modStream_other _ _ h, Job.claimX]
      exact ⟨rfl, rfl, rfl, rfl⟩

-- Control.

/-- A transfer answers just when its target is aligned, and then the stream stands there (R178). -/
theorem jump_ok {s t : State} {a : Word} : jump s a = .ok t ↔ a &&& 7 = 0 ∧ t = s.updStrm fun u => { u with pc := a } := by
  unfold jump
  simp only [Res.bind_ok, trapIf_ok, bne_eq_false_iff_eq, Except.ok.injEq, exists_const]
  exact and_congr_right fun _ => eq_comm

/-- A misaligned target is ALIGNMENT. -/
theorem jump_misaligned {s : State} {a : Word} (h : a &&& 7 ≠ 0) : jump s a = .error (.trap cAlignment a) := by
  have : (a &&& 7 != 0) = true := by simpa using h
  unfold jump trapIf; rw [this]; rfl

/-- The clock of a return from a handler is the one that stood still (R231). -/
@[simp] theorem Job.st_trapReturn (j : Job) (a : Word) : (j.trapReturn a).st = .running := by
  unfold Job.trapReturn; dsimp only; split <;> rfl

-- Gates.

/-- No earlier acquire of the stream is outstanding. -/
theorem acqGate_ok {s : State} {u : Unit} : acqGate s = .ok u ↔ ∀ g ∈ s.earlier, g.acq = false := by
  unfold acqGate; simp

/-- A release passes just when the stream's rows and matrix words on the way have been performed, and after them the stream has
no earlier access outstanding and its earlier stores, and those that it has acquired, have reached the point of the scope. -/
theorem relGate_ok {s t : State} {sc : Scope} : relGate s sc = .ok t ↔
    performed (fun _ => true) s = .ok t ∧ t.earlier = [] ∧ (∀ p ∈ t.posted, relPoint sc p = true) ∧ t.acquired sc = false := by
  unfold relGate
  simp only [Res.bind_ok, holdIf_ok, Except.ok.injEq, exists_const]
  constructor
  · rintro ⟨u, h, h1, h2, rfl⟩; exact ⟨h, by simpa using h1, by simpa using h2⟩
  · rintro ⟨h, h1, h2⟩; exact ⟨t, h, by simpa using h1, by simpa using h2, rfl⟩

/-- A stream with no row and no matrix word on the way waits for none. -/
theorem performed_ok {s : State} {w : Bool → Bool} (h : s.cjob.onTheWay s.cur.strm s.cur.since w = false) : performed w s = .ok s := by
  unfold performed; simp [h]

/-- A stream with nothing outstanding has nothing earlier outstanding. -/
theorem State.earlier_nil {s : State} (h : (s.cjob.outs.any fun g => g.strm == s.cur.strm) = false) : s.earlier = [] := by
  simp only [State.earlier, List.filter_eq_nil_iff]
  intro g hg
  have := List.any_eq_false.mp h g hg
  simp_all

/-- What is posted before the group is in the buffer. -/
theorem State.mem_posted {s : State} {p : PStore} (h : p ∈ s.posted) : p ∈ s.here.psb := by
  simp only [State.posted, Core.storesOf, List.mem_filter] at h
  exact h.1.1

-- Vector operands.

/-- A tile register reads just when no word in flight will write it and no mark keeps it (R253). -/
theorem rdV_ok {s : State} {r : BitVec 5} {t : Tile} : rdV s r = .ok t ↔
    s.cjob.busy (.vreg r) = none ∧ (s.cjob.ops.any fun o => o.vd == r) = false ∧ s.cjob.v[r.toNat] = t := by
  unfold rdV; simp only [Res.bind_ok, Job.need_ok, holdIf_ok, Except.ok.injEq, exists_const]

/-- A destination can be given a result after L cycles just when no earlier word writes it later (R253). -/
theorem Job.needDst_ok {j : Job} {vd : BitVec 5} {l : Nat} {u : Unit} : j.needDst vd l = .ok u ↔
    (j.marks.find? fun m => m.rsc == .vreg vd && m.h == (j.st == .trapped) && decide (j.now + l < m.due)) = none ∧
      (j.outs.any fun g => g.writesV vd) = false ∧ (j.ops.any fun o => o.vd == vd && decide (o.due ≤ j.now)) = false := by
  unfold Job.needDst
  cases j.marks.find? fun m => m.rsc == .vreg vd && m.h == (j.st == .trapped) && decide (j.now + l < m.due) <;> simp [Bool.or_eq_false_iff]

/-- A word of the arithmetic pipe issues just when the pipe is free and its destination can be written. -/
theorem issueV_ok {s t : State} {vd : BitVec 5} {o l : Nat} {srcs : List VSrc} {rows : List (Nat × VRow)}
    (h : issueV s vd o l srcs rows = .ok t) : s.cjob.busy .vpipe = none ∧ s.cjob.needDst vd l = .ok () ∧ t.mem = (takeSrcs s srcs).mem := by
  unfold issueV at h
  simp only [Res.bind_ok, Job.need_ok, Except.ok.injEq] at h
  obtain ⟨_, h1, _, h2, rfl⟩ := h
  exact ⟨h1, h2, rfl⟩

-- Memory.

/-- Bytes written at their homes keep the canonical form of memory. -/
theorem State.wf_homePut (s : State) (bs : List (Nat × Byte × Option PoU)) (h : s.mem.wf = true) : (s.homePut bs).mem.wf = true := by
  unfold State.homePut
  generalize List.foldl _ s.memPo _ = po
  have : ∀ (l : List (Nat × Byte × Option PoU)) (t : State), t.mem.wf = true →
      (l.foldl (fun (t : State) b =>
        match t.dupAt b.1 with
        | some d => { t with dups := t.dups.map fun (e : Dup) =>
            if e.frame == d.frame then { e with chg := alSet e.chg (b.1 - d.frame) b.2.1 } else e }
        | none => { t with mem := t.mem.put b.1 b.2.1 }) t).mem.wf = true := by
    intro l
    induction l with
    | nil => exact fun t h => h
    | cons b l ih =>
      intro t ht
      refine ih _ ?_
      dsimp only
      split
      · exact ht
      · exact Memory.wf_put ht
  exact this bs _ h

/-- An invalidation that arrives leaves memory as it was. -/
@[simp] theorem State.mem_invalArrives (s : State) (i : Inval) : (s.invalArrives i).mem = s.mem := by
  unfold State.invalArrives State.roundOver
  repeat' (first | rfl | split | dsimp only)

/-- So do those that come before a write. -/
@[simp] theorem State.mem_flushInvals (s : State) (home : Nat) (mask : BitVec 8) : (s.flushInvals home mask).mem = s.mem := by
  have : ∀ (l : List Inval) (t : State), (l.foldl State.invalArrives t).mem = t.mem := by
    intro l
    induction l with
    | nil => exact fun t => rfl
    | cons i l ih => exact fun t => (ih _).trans (t.mem_invalArrives i)
  exact this _ _

/-- A write ordered at its home keeps the canonical form of memory. -/
theorem State.wf_orderAtHome (s : State) (mask : BitVec 8) (bs : List (Nat × Byte × Option PoU)) (h : s.mem.wf = true) :
    (s.orderAtHome mask bs).mem.wf = true := by
  unfold State.orderAtHome
  have : ∀ (l : List Nat) (t : State), t.mem.wf = true →
      (l.foldl (fun (t : State) line =>
        let q := t.seqOf line + 1
        let t : State := { t with
          seqs := alSet t.seqs line q
          dies := Vector.ofFn fun d =>
            if mask.getLsbD d.val then (t.dies[d]).invalidate line q t.ord (t.filling d line) else t.dies[d] }
        { t with dir := match alGet t.dir line with
            | some m => if m &&& ~~~mask == 0 then alDel t.dir line else alSet t.dir line (m &&& ~~~mask)
            | none => t.dir }) t).mem.wf = true := by
    intro l
    induction l with
    | nil => exact fun t h => h
    | cons b l ih => intro t ht; exact ih _ ht
  have before : ∀ (l : List Nat) (t : State), (l.foldl (fun (t : State) h => t.flushInvals h mask) t).mem = t.mem := by
    intro l
    induction l with
    | nil => exact fun t => rfl
    | cons b l ih => exact fun t => (ih _).trans (t.mem_flushInvals b mask)
  exact this _ _ (by rw [before]; exact s.wf_homePut bs h)

/-- What lands in a cycle keeps the canonical form of a scratchpad. -/
theorem Core.wf_commitOne (c : Core) (bs : List (Nat × Byte × Option PoU)) (h : c.spad.wf = true) :
    (c.commitOne bs).spad.wf = true := by
  unfold Core.commitOne
  have : ∀ (l : List (Nat × Byte × Option PoU)) (m : Memory), m.wf = true →
      (l.foldl (fun (m : Memory) b => m.put b.1 b.2.1) m).wf = true := by
    intro l
    induction l with
    | nil => exact fun m h => h
    | cons b l ih => intro m hm; exact ih _ (Memory.wf_put hm)
  exact this bs _ h

end Sys2Proof.Machine
end

