-- ==== Sys2Proof/Laws/Exec.lean ====
section
/-! SUPPORT. Every instruction and event has a meaning that answers a next state: its effect, its exception or its hold. -/

set_option autoImplicit false

namespace Sys2Proof.Machine

/-- No instruction and no event is refused, and none ends in a fault. -/
theorem exec_next (i : Instr) (s : State) : ∃ t, exec i s = .next t := by
  cases i <;> first | exact finish_next s _ | exact happen_next s _ | exact ⟨_, rfl⟩

end Sys2Proof.Machine
end

