-- ==== Sys2Proof/Laws/PerInstr.lean ====
section
/-! SUPPORT. Statements for every instruction, one lemma for each constructor of Instr. -/

set_option autoImplicit false

namespace Sys2Proof.Laws.Encodes

/-- The opcodes that the grid of R195 assigns. -/
def assigned : List Nat :=
  List.range' 0x00 22 ++ List.range' 0x20 9 ++ List.range' 0x30 5 ++ List.range' 0x40 3 ++ List.range' 0x44 24 ++
    List.range' 0x80 13 ++ List.range' 0xC0 7 ++ List.range' 0xC8 19

/-- A word with legal operands is encoded under an opcode that R195 assigns; so no event and no unassigned opcode is one. -/
def Statement (i : Instr) : Prop := WellFormed i = true → (encodeOp i).1.toNat ∈ assigned

/-- A word whose opcode is in the grid. -/
theorem Statement.of_opcode {i : Instr} (h : assigned.elem (encodeOp i).1.toNat = true) : Statement i :=
  fun _ => List.mem_of_elem_eq_true h

/-- What is no word with legal operands. -/
theorem Statement.of_event {i : Instr} (h : WellFormed i = false) : Statement i := fun w => by rw [h] at w; cases w

theorem nop : Statement (.nop) := .of_opcode rfl
theorem br (off : BitVec 29) : Statement (.br off) := .of_opcode rfl
theorem brc (cond : Cond) (xa : BitVec 4) (xb : BitVec 4) (off : BitVec 29) : Statement (.brc cond xa xb off) := .of_opcode rfl
theorem jmpx (xd : BitVec 4) (xa : BitVec 4) : Statement (.jmpx xd xa) := .of_opcode rfl
theorem call (off : BitVec 29) : Statement (.call off) := .of_opcode rfl
theorem ret : Statement (.ret) := .of_opcode rfl
theorem loop (xd : BitVec 4) (imm : BitVec 29) : Statement (.loop xd imm) := .of_opcode rfl
theorem loopv (xd : BitVec 4) (imm : BitVec 29) : Statement (.loopv xd imm) := .of_opcode rfl
theorem lbreak (cond : Cond) (xa : BitVec 4) (xb : BitVec 4) (off : BitVec 29) : Statement (.lbreak cond xa xb off) := .of_opcode rfl
theorem join : Statement (.join) := .of_opcode rfl
theorem waitt (tl : BitVec 3) (xa : BitVec 4) (imm : BitVec 29) : Statement (.waitt tl xa imm) := .of_opcode rfl
theorem waits (ts : BitVec 6) (xa : BitVec 4) (inv : Bool) : Statement (.waits ts xa inv) := .of_opcode rfl
theorem send (t : Strm) (k : BitVec 2) (xa : BitVec 4) : Statement (.send t k xa) := .of_opcode rfl
theorem srd (xd : BitVec 4) (r : SReg) : Statement (.srd xd r) := .of_opcode rfl
theorem swr (r : WReg) (xa : BitVec 4) : Statement (.swr r xa) := .of_opcode rfl
theorem fence (ord : MOrd) (scope : Scope) : Statement (.fence ord scope) := .of_opcode rfl
theorem beacon : Statement (.beacon) := .of_opcode rfl
theorem yield (xa : BitVec 4) (xb : BitVec 4) : Statement (.yield xa xb) := .of_opcode rfl
theorem stampw (xd : BitVec 4) (xa : BitVec 4) : Statement (.stampw xd xa) := .of_opcode rfl
theorem trap (xa : BitVec 4) (imm : BitVec 29) : Statement (.trap xa imm) := .of_opcode rfl
theorem tret (xa : BitVec 4) : Statement (.tret xa) := .of_opcode rfl
theorem nest (xd : BitVec 4) (xa : BitVec 4) : Statement (.nest xd xa) := .of_opcode rfl
theorem add (xd : BitVec 4) (xa : BitVec 4) (xb : BitVec 4) : Statement (.add xd xa xb) := .of_opcode rfl
theorem sub (xd : BitVec 4) (xa : BitVec 4) (xb : BitVec 4) : Statement (.sub xd xa xb) := .of_opcode rfl
theorem and (xd : BitVec 4) (xa : BitVec 4) (xb : BitVec 4) : Statement (.and xd xa xb) := .of_opcode rfl
theorem or (xd : BitVec 4) (xa : BitVec 4) (xb : BitVec 4) : Statement (.or xd xa xb) := .of_opcode rfl
theorem xor (xd : BitVec 4) (xa : BitVec 4) (xb : BitVec 4) : Statement (.xor xd xa xb) := .of_opcode rfl
theorem shl (xd : BitVec 4) (xa : BitVec 4) (xb : BitVec 4) : Statement (.shl xd xa xb) := .of_opcode rfl
theorem shr (xd : BitVec 4) (xa : BitVec 4) (xb : BitVec 4) : Statement (.shr xd xa xb) := .of_opcode rfl
theorem sra (xd : BitVec 4) (xa : BitVec 4) (xb : BitVec 4) : Statement (.sra xd xa xb) := .of_opcode rfl
theorem min (xd : BitVec 4) (xa : BitVec 4) (xb : BitVec 4) : Statement (.min xd xa xb) := .of_opcode rfl
theorem max (xd : BitVec 4) (xa : BitVec 4) (xb : BitVec 4) : Statement (.max xd xa xb) := .of_opcode rfl
theorem minu (xd : BitVec 4) (xa : BitVec 4) (xb : BitVec 4) : Statement (.minu xd xa xb) := .of_opcode rfl
theorem maxu (xd : BitVec 4) (xa : BitVec 4) (xb : BitVec 4) : Statement (.maxu xd xa xb) := .of_opcode rfl
theorem addi (xd : BitVec 4) (xa : BitVec 4) (imm : BitVec 29) : Statement (.addi xd xa imm) := .of_opcode rfl
theorem andi (xd : BitVec 4) (xa : BitVec 4) (imm : BitVec 29) : Statement (.andi xd xa imm) := .of_opcode rfl
theorem ori (xd : BitVec 4) (xa : BitVec 4) (imm : BitVec 29) : Statement (.ori xd xa imm) := .of_opcode rfl
theorem xori (xd : BitVec 4) (xa : BitVec 4) (imm : BitVec 29) : Statement (.xori xd xa imm) := .of_opcode rfl
theorem shli (xd : BitVec 4) (xa : BitVec 4) (sh : BitVec 6) : Statement (.shli xd xa sh) := .of_opcode rfl
theorem shri (xd : BitVec 4) (xa : BitVec 4) (sh : BitVec 6) : Statement (.shri xd xa sh) := .of_opcode rfl
theorem srai (xd : BitVec 4) (xa : BitVec 4) (sh : BitVec 6) : Statement (.srai xd xa sh) := .of_opcode rfl
theorem li (xd : BitVec 4) (imm : BitVec 37) : Statement (.li xd imm) := .of_opcode rfl
theorem lih (xd : BitVec 4) (imm : BitVec 27) : Statement (.lih xd imm) := .of_opcode rfl
theorem mul (xd : BitVec 4) (xa : BitVec 4) (xb : BitVec 4) : Statement (.mul xd xa xb) := .of_opcode rfl
theorem mulh (xd : BitVec 4) (xa : BitVec 4) (xb : BitVec 4) : Statement (.mulh xd xa xb) := .of_opcode rfl
theorem mulhu (xd : BitVec 4) (xa : BitVec 4) (xb : BitVec 4) : Statement (.mulhu xd xa xb) := .of_opcode rfl
theorem div (xd : BitVec 4) (xa : BitVec 4) (xb : BitVec 4) : Statement (.div xd xa xb) := .of_opcode rfl
theorem divu (xd : BitVec 4) (xa : BitVec 4) (xb : BitVec 4) : Statement (.divu xd xa xb) := .of_opcode rfl
theorem rem (xd : BitVec 4) (xa : BitVec 4) (xb : BitVec 4) : Statement (.rem xd xa xb) := .of_opcode rfl
theorem remu (xd : BitVec 4) (xa : BitVec 4) (xb : BitVec 4) : Statement (.remu xd xa xb) := .of_opcode rfl
theorem clz (xd : BitVec 4) (xa : BitVec 4) : Statement (.clz xd xa) := .of_opcode rfl
theorem ctz (xd : BitVec 4) (xa : BitVec 4) : Statement (.ctz xd xa) := .of_opcode rfl
theorem popc (xd : BitVec 4) (xa : BitVec 4) : Statement (.popc xd xa) := .of_opcode rfl
theorem bfx (xd : BitVec 4) (xa : BitVec 4) (pos : BitVec 6) (width : BitVec 7) : Statement (.bfx xd xa pos width) := .of_opcode rfl
theorem bfi (xd : BitVec 4) (xa : BitVec 4) (pos : BitVec 6) (width : BitVec 7) : Statement (.bfi xd xa pos width) := .of_opcode rfl
theorem cmp (cond : Cond) (pd : BitVec 3) (xa : BitVec 4) (xb : BitVec 4) : Statement (.cmp cond pd xa xb) := .of_opcode rfl
theorem cmpi (cond : Cond) (pd : BitVec 3) (xa : BitVec 4) (imm : BitVec 25) : Statement (.cmpi cond pd xa imm) := .of_opcode rfl
theorem pand (pd : BitVec 3) (pa : BitVec 3) (pb : BitVec 3) : Statement (.pand pd pa pb) := .of_opcode rfl
theorem por (pd : BitVec 3) (pa : BitVec 3) (pb : BitVec 3) : Statement (.por pd pa pb) := .of_opcode rfl
theorem pxor (pd : BitVec 3) (pa : BitVec 3) (pb : BitVec 3) : Statement (.pxor pd pa pb) := .of_opcode rfl
theorem pnot (pd : BitVec 3) (pa : BitVec 3) : Statement (.pnot pd pa) := .of_opcode rfl
theorem sel (xd : BitVec 4) (pk : BitVec 3) (xa : BitVec 4) (xb : BitVec 4) : Statement (.sel xd pk xa xb) := .of_opcode rfl
theorem ld (xd : BitVec 4) (xa : BitVec 4) (sel : Sel) (sz : Sz) (sx : Bool) (off : BitVec 25) : Statement (.ld xd xa sel sz sx off) := .of_opcode rfl
theorem st (xd : BitVec 4) (xa : BitVec 4) (sel : Sel) (sz : Sz) (off : BitVec 25) : Statement (.st xd xa sel sz off) := .of_opcode rfl
theorem lda (xd : BitVec 4) (xa : BitVec 4) (sel : Sel) (sz : Sz) (sx : Bool) (scope : Scope) (off : BitVec 23) : Statement (.lda xd xa sel sz sx scope off) := .of_opcode rfl
theorem stl (xd : BitVec 4) (xa : BitVec 4) (sel : Sel) (sz : Sz) (scope : Scope) (off : BitVec 23) : Statement (.stl xd xa sel sz scope off) := .of_opcode rfl
theorem atadd (xd : BitVec 4) (xa : BitVec 4) (xb : BitVec 4) (sel : Sel) (dw : Bool) (ord : MOrd) (scope : Scope) : Statement (.atadd xd xa xb sel dw ord scope) := .of_opcode rfl
theorem atmin (xd : BitVec 4) (xa : BitVec 4) (xb : BitVec 4) (sel : Sel) (dw : Bool) (ord : MOrd) (scope : Scope) : Statement (.atmin xd xa xb sel dw ord scope) := .of_opcode rfl
theorem atmax (xd : BitVec 4) (xa : BitVec 4) (xb : BitVec 4) (sel : Sel) (dw : Bool) (ord : MOrd) (scope : Scope) : Statement (.atmax xd xa xb sel dw ord scope) := .of_opcode rfl
theorem atand (xd : BitVec 4) (xa : BitVec 4) (xb : BitVec 4) (sel : Sel) (dw : Bool) (ord : MOrd) (scope : Scope) : Statement (.atand xd xa xb sel dw ord scope) := .of_opcode rfl
theorem ator (xd : BitVec 4) (xa : BitVec 4) (xb : BitVec 4) (sel : Sel) (dw : Bool) (ord : MOrd) (scope : Scope) : Statement (.ator xd xa xb sel dw ord scope) := .of_opcode rfl
theorem atxor (xd : BitVec 4) (xa : BitVec 4) (xb : BitVec 4) (sel : Sel) (dw : Bool) (ord : MOrd) (scope : Scope) : Statement (.atxor xd xa xb sel dw ord scope) := .of_opcode rfl
theorem atxchg (xd : BitVec 4) (xa : BitVec 4) (xb : BitVec 4) (sel : Sel) (dw : Bool) (ord : MOrd) (scope : Scope) : Statement (.atxchg xd xa xb sel dw ord scope) := .of_opcode rfl
theorem atcas (xd : BitVec 4) (xa : BitVec 4) (xb : BitVec 4) (xc : BitVec 4) (sel : Sel) (dw : Bool) (ord : MOrd) (scope : Scope) : Statement (.atcas xd xa xb xc sel dw ord scope) := .of_opcode rfl
theorem atincb (xd : BitVec 4) (xa : BitVec 4) (xc : BitVec 4) (sel : Sel) (dw : Bool) (ord : MOrd) (scope : Scope) : Statement (.atincb xd xa xc sel dw ord scope) := .of_opcode rfl
theorem atfadd (xd : BitVec 4) (xa : BitVec 4) (xb : BitVec 4) (sel : Sel) (ord : MOrd) (scope : Scope) : Statement (.atfadd xd xa xb sel ord scope) := .of_opcode rfl
theorem vshape (ef : Fmt) (rowsM1 : BitVec 4) : Statement (.vshape ef rowsM1) := .of_opcode rfl
theorem vld (vd : VDst) (sel : Sel) (xa : BitVec 3) (xc : BitVec 3) : Statement (.vld vd sel xa xc) := .of_opcode rfl
theorem vst (vs : VSrc) (sel : Sel) (xa : BitVec 3) (xc : BitVec 3) : Statement (.vst vs sel xa xc) := .of_opcode rfl
theorem vadd (vd : VDst) (va : VSrc) (vb : VSrc) (brb : Bool) (f : VFmt) : Statement (.vadd vd va vb brb f) := .of_opcode rfl
theorem vsub (vd : VDst) (va : VSrc) (vb : VSrc) (brb : Bool) (f : VFmt) : Statement (.vsub vd va vb brb f) := .of_opcode rfl
theorem vmul (vd : VDst) (va : VSrc) (vb : VSrc) (brb : Bool) (f : VFmt) : Statement (.vmul vd va vb brb f) := .of_opcode rfl
theorem vmin (vd : VDst) (va : VSrc) (vb : VSrc) (brb : Bool) (f : VFmt) : Statement (.vmin vd va vb brb f) := .of_opcode rfl
theorem vmax (vd : VDst) (va : VSrc) (vb : VSrc) (brb : Bool) (f : VFmt) : Statement (.vmax vd va vb brb f) := .of_opcode rfl
theorem vabs (vd : VDst) (va : VSrc) (f : VFmt) : Statement (.vabs vd va f) := .of_opcode rfl
theorem vneg (vd : VDst) (va : VSrc) (f : VFmt) : Statement (.vneg vd va f) := .of_opcode rfl
theorem vfma (vd : VDst) (va : VSrc) (vb : VSrc) (vc : VSrc) (brb : Bool) (f : VFmt) : Statement (.vfma vd va vb vc brb f) := .of_opcode rfl
theorem vfms (vd : VDst) (va : VSrc) (vb : VSrc) (vc : VSrc) (brb : Bool) (f : VFmt) : Statement (.vfms vd va vb vc brb f) := .of_opcode rfl
theorem vfnma (vd : VDst) (va : VSrc) (vb : VSrc) (vc : VSrc) (brb : Bool) (f : VFmt) : Statement (.vfnma vd va vb vc brb f) := .of_opcode rfl
theorem vand (vd : VDst) (va : VSrc) (vb : VSrc) (brb : Bool) (ef : Fmt) : Statement (.vand vd va vb brb ef) := .of_opcode rfl
theorem vor (vd : VDst) (va : VSrc) (vb : VSrc) (brb : Bool) (ef : Fmt) : Statement (.vor vd va vb brb ef) := .of_opcode rfl
theorem vxor (vd : VDst) (va : VSrc) (vb : VSrc) (brb : Bool) (ef : Fmt) : Statement (.vxor vd va vb brb ef) := .of_opcode rfl
theorem vnot (vd : VDst) (va : VSrc) (ef : Fmt) : Statement (.vnot vd va ef) := .of_opcode rfl
theorem vshl (vd : VDst) (va : VSrc) (vb : VSrc) (brb : Bool) (ef : Fmt) : Statement (.vshl vd va vb brb ef) := .of_opcode rfl
theorem vshr (vd : VDst) (va : VSrc) (vb : VSrc) (brb : Bool) (ef : Fmt) : Statement (.vshr vd va vb brb ef) := .of_opcode rfl
theorem vsra (vd : VDst) (va : VSrc) (vb : VSrc) (brb : Bool) (ef : Fmt) : Statement (.vsra vd va vb brb ef) := .of_opcode rfl
theorem vcmp (cond : VCond) (vd : VDst) (va : VSrc) (vb : VSrc) (brb : Bool) (ef : Fmt) : Statement (.vcmp cond vd va vb brb ef) := .of_opcode rfl
theorem vsel (vd : VDst) (va : VSrc) (vb : VSrc) (vc : VSrc) (brb : Bool) (ef : Fmt) : Statement (.vsel vd va vb vc brb ef) := .of_opcode rfl
theorem vmov (vd : VDst) (va : VSrc) : Statement (.vmov vd va) := .of_opcode rfl
theorem vbcast (vd : VDst) (va : VSrc) (m : Bool) (ef : Fmt) : Statement (.vbcast vd va m ef) := .of_opcode rfl
theorem vexp2 (vd : VDst) (va : VSrc) (f : VFmt) : Statement (.vexp2 vd va f) := .of_opcode rfl
theorem vexp (vd : VDst) (va : VSrc) (f : VFmt) : Statement (.vexp vd va f) := .of_opcode rfl
theorem vlog2 (vd : VDst) (va : VSrc) (f : VFmt) : Statement (.vlog2 vd va f) := .of_opcode rfl
theorem vrcp (vd : VDst) (va : VSrc) (f : VFmt) : Statement (.vrcp vd va f) := .of_opcode rfl
theorem vrsq (vd : VDst) (va : VSrc) (f : VFmt) : Statement (.vrsq vd va f) := .of_opcode rfl
theorem vsqrt (vd : VDst) (va : VSrc) (f : VFmt) : Statement (.vsqrt vd va f) := .of_opcode rfl
theorem vtanh (vd : VDst) (va : VSrc) (f : VFmt) : Statement (.vtanh vd va f) := .of_opcode rfl
theorem vsigm (vd : VDst) (va : VSrc) (f : VFmt) : Statement (.vsigm vd va f) := .of_opcode rfl
theorem vsilu (vd : VDst) (va : VSrc) (f : VFmt) : Statement (.vsilu vd va f) := .of_opcode rfl
theorem vcvt (vd : VDst) (va : VSrc) (f : VFmt) (p : BitVec 3) : Statement (.vcvt vd va f p) := .of_opcode rfl
theorem vpack (vd : VDst) (va : VSrc) (vb : VSrc) (f : VFmt) : Statement (.vpack vd va vb f) := .of_opcode rfl
theorem vunpack (vd : VDst) (va : VSrc) (f : VFmt) (h : Bool) : Statement (.vunpack vd va f h) := .of_opcode rfl
theorem vredr (fn : RedFn) (vd : VDst) (va : VSrc) (f : VFmt) : Statement (.vredr fn vd va f) := .of_opcode rfl
theorem vredc (fn : RedFn) (vd : VDst) (va : VSrc) (f : VFmt) : Statement (.vredc fn vd va f) := .of_opcode rfl
theorem vtrans (vd : VDst) (va : VSrc) (ef : Fmt) : Statement (.vtrans vd va ef) := .of_opcode rfl
theorem vperm (vd : VDst) (va : VSrc) (vb : VSrc) (brb : Bool) (ef : Fmt) : Statement (.vperm vd va vb brb ef) := .of_opcode rfl
theorem vsort (vd : VDst) (va : VSrc) (desc : Bool) (idx : Bool) (whole : Bool) (ef : Fmt) : Statement (.vsort vd va desc idx whole ef) := .of_opcode rfl
theorem vscan (vd : VDst) (va : VSrc) (excl : Bool) (whole : Bool) (f : VFmt) : Statement (.vscan vd va excl whole f) := .of_opcode rfl
theorem viota (vd : VDst) (xa : BitVec 3) (ef : Fmt) (sat : Bool) : Statement (.viota vd xa ef sat) := .of_opcode rfl
theorem vbucket (vd : VDst) (va : VSrc) (vb : VSrc) (sM1 : BitVec 4) (ef : Fmt) : Statement (.vbucket vd va vb sM1 ef) := .of_opcode rfl
theorem vhist (vd : VDst) (va : VSrc) (acc : Bool) (ef : Fmt) : Statement (.vhist vd va acc ef) := .of_opcode rfl
theorem vmxscale (vd : VDst) (va : VSrc) (ef : Fmt) (rm : RMode) : Statement (.vmxscale vd va ef rm) := .of_opcode rfl
theorem vchscale (vd : VDst) (va : VSrc) (vb : VSrc) (mode : BitVec 2) (ef : Fmt) : Statement (.vchscale vd va vb mode ef) := .of_opcode rfl
theorem vextr (vd : VDst) (va : VSrc) (vb : VSrc) (ef : Fmt) : Statement (.vextr vd va vb ef) := .of_opcode rfl
theorem vins (vd : VDst) (va : VSrc) (vb : VSrc) (ef : Fmt) : Statement (.vins vd va vb ef) := .of_opcode rfl
theorem mma (ad : BitVec 3) (xa : BitVec 4) (xb : BitVec 4) (xs : BitVec 4) (fa : Fmt) (fb : Fmt) (swz : Swz) (ovw : Bool) (neg : Bool) (tl : Option (BitVec 3)) : Statement (.mma ad xa xb xs fa fb swz ovw neg tl) := .of_opcode rfl
theorem mmat (ad : BitVec 3) (xa : BitVec 4) (xb : BitVec 4) (xs : BitVec 4) (fa : Fmt) (fb : Fmt) (swz : Swz) (ovw : Bool) (neg : Bool) (tl : Option (BitVec 3)) : Statement (.mmat ad xa xb xs fa fb swz ovw neg tl) := .of_opcode rfl
theorem aswap (ad : BitVec 2) : Statement (.aswap ad) := .of_opcode rfl
theorem azero (ad : BitVec 3) (tl : Option (BitVec 3)) : Statement (.azero ad tl) := .of_opcode rfl
theorem ald (ad : BitVec 3) (xa : BitVec 4) (xs : BitVec 4) (fa : Fmt) (swz : Swz) (tl : Option (BitVec 3)) : Statement (.ald ad xa xs fa swz tl) := .of_opcode rfl
theorem ast (ad : BitVec 3) (xa : BitVec 4) (xs : BitVec 4) (fa : Fmt) (rm : RMode) (sat : Bool) (tl : Option (BitVec 3)) : Statement (.ast ad xa xs fa rm sat tl) := .of_opcode rfl
theorem avec (ad : BitVec 3) (xa : BitVec 4) (q : BitVec 2) (tl : Option (BitVec 3)) : Statement (.avec ad xa q tl) := .of_opcode rfl
theorem attn (ad : BitVec 3) (xa : BitVec 4) (xb : BitVec 4) (xs : BitVec 4) (fa : Fmt) (fb : Fmt) (swz : Swz) (tl : Option (BitVec 3)) : Statement (.attn ad xa xb xs fa fb swz tl) := .of_opcode rfl
theorem attnf (ad : BitVec 3) (xa : BitVec 4) (xs : BitVec 4) (fa : Fmt) (tl : Option (BitVec 3)) : Statement (.attnf ad xa xs fa tl) := .of_opcode rfl
theorem amass (ad : BitVec 3) (xa : BitVec 4) (xb : BitVec 4) (fa : Fmt) (fb : Fmt) (swz : Swz) (tl : Option (BitVec 3)) : Statement (.amass ad xa xb fa fb swz tl) := .of_opcode rfl
theorem arstat (ad : BitVec 3) (xa : BitVec 4) (xs : BitVec 4) (tl : Option (BitVec 3)) : Statement (.arstat ad xa xs tl) := .of_opcode rfl
theorem alstat (ad : BitVec 3) (xa : BitVec 4) (xs : BitVec 4) (swz : Swz) (tl : Option (BitVec 3)) : Statement (.alstat ad xa xs swz tl) := .of_opcode rfl
theorem abusy (xa : BitVec 4) : Statement (.abusy xa) := .of_opcode rfl
theorem copy (dir : Dir) (xt : BitVec 4) (xm : BitVec 4) (xs : BitVec 4) (t : Tags) : Statement (.copy dir xt xm xs t) := .of_opcode rfl
theorem copyr (xs : BitVec 4) (xm : BitVec 4) (xt : BitVec 4) (t : Tags) : Statement (.copyr xs xm xt t) := .of_opcode rfl
theorem qfill (tgt : Strm) (k : BitVec 2) (xm : BitVec 4) (xt : BitVec 4) (t : Tags) : Statement (.qfill tgt k xm xt t) := .of_opcode rfl
theorem tsinit (ts : BitVec 6) : Statement (.tsinit ts) := .of_opcode rfl
theorem tspost (ts : BitVec 6) (xs : BitVec 4) : Statement (.tspost ts xs) := .of_opcode rfl
theorem tsarrive (xm : BitVec 4) (xs : BitVec 4) (tl : Option (BitVec 3)) (scope : Scope) : Statement (.tsarrive xm xs tl scope) := .of_opcode rfl
theorem tsquery (xt : BitVec 4) (ts : BitVec 6) : Statement (.tsquery xt ts) := .of_opcode rfl
theorem tlquery (xt : BitVec 4) (tl : BitVec 3) (f : BitVec 2) : Statement (.tlquery xt tl f) := .of_opcode rfl
theorem cdecl (xm : BitVec 4) : Statement (.cdecl xm) := .of_opcode rfl
theorem crel (c : BitVec 2) : Statement (.crel c) := .of_opcode rfl
theorem cstat (xt : BitVec 4) (c : BitVec 2) (f : Bool) : Statement (.cstat xt c f) := .of_opcode rfl
theorem wdecl (w : BitVec 3) (xm : BitVec 4) (xs : BitVec 4) (tl : Option (BitVec 3)) (scope : Scope) : Statement (.wdecl w xm xs tl scope) := .of_opcode rfl
theorem wget (xs : BitVec 4) (xm : BitVec 4) (xt : BitVec 4) (t : Tags) : Statement (.wget xs xm xt t) := .of_opcode rfl
theorem wown (xs : BitVec 4) (xm : BitVec 4) (xt : BitVec 4) (t : Tags) : Statement (.wown xs xm xt t) := .of_opcode rfl
theorem wput (xs : BitVec 4) (xt : BitVec 4) (t : Tags) : Statement (.wput xs xt t) := .of_opcode rfl
theorem wdrop (xs : BitVec 4) (xt : BitVec 4) (t : Tags) : Statement (.wdrop xs xt t) := .of_opcode rfl
theorem creduce (fn : CredFn) (xt : BitVec 4) (xs : BitVec 4) (xm : BitVec 4) (t : Tags) : Statement (.creduce fn xt xs xm t) := .of_opcode rfl
theorem cgather (xt : BitVec 4) (xs : BitVec 4) (xm : BitVec 4) (t : Tags) : Statement (.cgather xt xs xm t) := .of_opcode rfl
theorem cbcast (xt : BitVec 4) (xs : BitVec 4) (xm : BitVec 4) (t : Tags) : Statement (.cbcast xt xs xm t) := .of_opcode rfl
theorem cring (xt : BitVec 4) (xs : BitVec 4) (xm : BitVec 4) (t : Tags) : Statement (.cring xt xs xm t) := .of_opcode rfl
theorem cmcast (xt : BitVec 4) (xs : BitVec 4) (xm : BitVec 4) (t : Tags) : Statement (.cmcast xt xs xm t) := .of_opcode rfl
theorem kvappend (xt : BitVec 4) (xm : BitVec 4) (xs : BitVec 4) (t : Tags) : Statement (.kvappend xt xm xs t) := .of_opcode rfl
theorem kvref (xm : BitVec 4) (t : Tags) : Statement (.kvref xm t) := .of_opcode rfl
theorem kvsetRep (xm : BitVec 4) (xs : BitVec 4) (t : Tags) : Statement (.kvsetRep xm xs t) := .of_opcode rfl
theorem kvsetMass (xm : BitVec 4) (xs : BitVec 4) (t : Tags) : Statement (.kvsetMass xm xs t) := .of_opcode rfl
theorem kvfree (xm : BitVec 4) (t : Tags) : Statement (.kvfree xm t) := .of_opcode rfl
theorem roust (xm : BitVec 4) (tl : BitVec 3) (ts : Option (BitVec 6)) (scope : Scope) : Statement (.roust xm tl ts scope) := .of_opcode rfl
theorem scalarResultWrite (core : CoreIx) (st : Strm) : Statement (.scalarResultWrite core st) := .of_event rfl
theorem vectorResultWrite (core : CoreIx) : Statement (.vectorResultWrite core) := .of_event rfl
theorem matrixWordComplete (core : CoreIx) : Statement (.matrixWordComplete core) := .of_event rfl
theorem aswapExchange (core : CoreIx) (acc : BitVec 2) : Statement (.aswapExchange core acc) := .of_event rfl
theorem globalLoadComplete (core : CoreIx) (st : Strm) : Statement (.globalLoadComplete core st) := .of_event rfl
theorem stampwTargetReached (core : CoreIx) (st : Strm) : Statement (.stampwTargetReached core st) := .of_event rfl
theorem heldSubmissionAccept (core : CoreIx) (st : Strm) : Statement (.heldSubmissionAccept core st) := .of_event rfl
theorem commandBegin (core : CoreIx) (storeQ : Bool) : Statement (.commandBegin core storeQ) := .of_event rfl
theorem engineWriteLands (core : CoreIx) (storeQ : Bool) (ix : Nat) (n : Nat) : Statement (.engineWriteLands core storeQ ix n) := .of_event rfl
theorem carouselHeadAdvance (core : CoreIx) (car : BitVec 2) : Statement (.carouselHeadAdvance core car) := .of_event rfl
theorem carouselReleaseEffect (core : CoreIx) (car : BitVec 2) : Statement (.carouselReleaseEffect core car) := .of_event rfl
theorem qfillAppend (core : CoreIx) (ix : Nat) : Statement (.qfillAppend core ix) := .of_event rfl
theorem remoteArrival (core : CoreIx) (storeQ : Bool) (ix : Nat) : Statement (.remoteArrival core storeQ ix) := .of_event rfl
theorem commandComplete (core : CoreIx) (storeQ : Bool) : Statement (.commandComplete core storeQ) := .of_event rfl
theorem commandError (core : CoreIx) (storeQ : Bool) (ix : Nat) : Statement (.commandError core storeQ ix) := .of_event rfl
theorem deferredCommandTrap (core : CoreIx) (st : Strm) : Statement (.deferredCommandTrap core st) := .of_event rfl
theorem storeAtHome (core : CoreIx) (ix : Nat) : Statement (.storeAtHome core ix) := .of_event rfl
theorem acknowledgementAtHome (core : CoreIx) (ix : Nat) : Statement (.acknowledgementAtHome core ix) := .of_event rfl
theorem homeAtomic (core : CoreIx) (st : Strm) : Statement (.homeAtomic core st) := .of_event rfl
theorem invalidationReceived (ix : Nat) : Statement (.invalidationReceived ix) := .of_event rfl
theorem fillReceived (ix : Nat) : Statement (.fillReceived ix) := .of_event rfl
theorem dieCacheEviction (die : DieIx) (line : Nat) : Statement (.dieCacheEviction die line) := .of_event rfl
theorem rdupInvalidationRound (page : Nat) : Statement (.rdupInvalidationRound page) := .of_event rfl
theorem windowRequestAtHome (core : CoreIx) : Statement (.windowRequestAtHome core) := .of_event rfl
theorem windowProbeAtHolder (core : CoreIx) (ix : Nat) : Statement (.windowProbeAtHolder core ix) := .of_event rfl
theorem homeWriteRelease (core : CoreIx) : Statement (.homeWriteRelease core) := .of_event rfl
theorem launchAcceptance : Statement (.launchAcceptance) := .of_event rfl
theorem jobDispatch (die : DieIx) : Statement (.jobDispatch die) := .of_event rfl
theorem dispatchTranslation (core : CoreIx) : Statement (.dispatchTranslation core) := .of_event rfl
theorem jobStart (core : CoreIx) : Statement (.jobStart core) := .of_event rfl
theorem gangStart (seq : Nat) : Statement (.gangStart seq) := .of_event rfl
theorem preemptionRequest (die : DieIx) : Statement (.preemptionRequest die) := .of_event rfl
theorem forcedPreemption (core : CoreIx) : Statement (.forcedPreemption core) := .of_event rfl
theorem preemptionSaveDone (core : CoreIx) : Statement (.preemptionSaveDone core) := .of_event rfl
theorem watchdog (core : CoreIx) : Statement (.watchdog core) := .of_event rfl
theorem jobDone (core : CoreIx) : Statement (.jobDone core) := .of_event rfl
theorem coreFence (core : CoreIx) : Statement (.coreFence core) := .of_event rfl
theorem coresDomainFence (die : DieIx) : Statement (.coresDomainFence die) := .of_event rfl
theorem memoryShellFence (die : DieIx) : Statement (.memoryShellFence die) := .of_event rfl
theorem shellReadmit (die : DieIx) : Statement (.shellReadmit die) := .of_event rfl
theorem firmwareFailure : Statement (.firmwareFailure) := .of_event rfl
theorem frameHandover (frame : Nat) : Statement (.frameHandover frame) := .of_event rfl
theorem uncorrectableEccError (place : EccPlace) : Statement (.uncorrectableEccError place) := .of_event rfl
theorem boundaryFailure (b : Fin 8) : Statement (.boundaryFailure b) := .of_event rfl
theorem spokeFailure (die : DieIx) : Statement (.spokeFailure die) := .of_event rfl
theorem fabricPortDown (port : Fin 18) : Statement (.fabricPortDown port) := .of_event rfl
theorem portTrained (ports : BitVec 18) : Statement (.portTrained ports) := .of_event rfl
theorem packageReset : Statement (.packageReset) := .of_event rfl
theorem flashImageCheck : Statement (.flashImageCheck) := .of_event rfl
theorem bringUp (cfg : BringUpCfg) : Statement (.bringUp cfg) := .of_event rfl
theorem powerLoss : Statement (.powerLoss) := .of_event rfl
theorem overTemperatureTrip : Statement (.overTemperatureTrip) := .of_event rfl
theorem functionLevelReset (fn : Fin 65) : Statement (.functionLevelReset fn) := .of_event rfl
theorem vfRemoval (n : Fin 65) : Statement (.vfRemoval n) := .of_event rfl
theorem submissionDoorbell (fn : Fin 65) (k : Fin 16) (va : Word) : Statement (.submissionDoorbell fn k va) := .of_event rfl
theorem dataWindowRead (fn : Fin 65) (off : BitVec 36) (sz : Sz) : Statement (.dataWindowRead fn off sz) := .of_event rfl
theorem dataWindowWrite (fn : Fin 65) (off : BitVec 36) (sz val : Nat) : Statement (.dataWindowWrite fn off sz val) := .of_event rfl
theorem invlenWrite (fn : Fin 65) (len : Word) : Statement (.invlenWrite fn len) := .of_event rfl
theorem invalidationDone (fn : Fin 65) : Statement (.invalidationDone fn) := .of_event rfl
theorem faultack (fn : Fin 65) (val : Word) : Statement (.faultack fn val) := .of_event rfl
theorem ptegoWrite (val : Word) : Statement (.ptegoWrite val) := .of_event rfl
theorem pteUpdateDone : Statement (.pteUpdateDone) := .of_event rfl
theorem attgoWrite (fn : Fin 65) : Statement (.attgoWrite fn) := .of_event rfl
theorem attestationReady (fn : Fin 65) : Statement (.attestationReady fn) := .of_event rfl
theorem reclenWrite (n : Word) : Statement (.reclenWrite n) := .of_event rfl
theorem recoveryCheckDone : Statement (.recoveryCheckDone) := .of_event rfl
theorem partitionEntryWrite (k : Fin 8) (val : Word) : Statement (.partitionEntryWrite k val) := .of_event rfl
theorem partitionClearDone (k : Fin 8) : Statement (.partitionClearDone k) := .of_event rfl
theorem fabricConfigWrite (val : Word) : Statement (.fabricConfigWrite val) := .of_event rfl
theorem pwrctlWrite (val : Word) : Statement (.pwrctlWrite val) := .of_event rfl
theorem modeChange : Statement (.modeChange) := .of_event rfl
theorem registerWrite (fn : Fin 65) (bar4 : Bool) (off : BitVec 32) (val : Word) : Statement (.registerWrite fn bar4 off val) := .of_event rfl
theorem unassignedOpcode (opc : BitVec 8) (ops : BitVec 41) : Statement (.unassignedOpcode opc ops) := .of_event rfl
theorem submissionTranslationDone (core : CoreIx) (st : Strm) : Statement (.submissionTranslationDone core st) := .of_event rfl
theorem vfEnable (n : Fin 65) : Statement (.vfEnable n) := .of_event rfl
theorem msixVectorUnmask (fn : Fin 65) (vec : Fin 4) : Statement (.msixVectorUnmask fn vec) := .of_event rfl

end Sys2Proof.Laws.Encodes
end

