-- ==== Sys2Proof/Tests/Slice0.lean ====
section
/-! SUPPORT. The model's own tests: worked encodings of the spec, one small step each, the refusals of WellFormed, and for
every obligation with hypotheses a state that meets them. -/

set_option autoImplicit false

namespace Sys2Proof.Tests

open Sys2Proof Sys2Proof.Machine Sys2Proof.Claims

set_option Elab.async false

-- States of the tests.

/-- A running elastic job with all four streams; its records are those of a small launch. -/
def job0 : Job :=
  { Job.zero with
    st := .running, seq := 1, prio := 3
    nest := { NestRec.zero with
      smask := 0xF, ndim := 1, dies := 1, prio := 3, entry := Vector.replicate 4 0x200000, bound := #v[1, 0, 0, 0] }
    strm := Vector.replicate 4 { Stream.zero with started := true, pc := 0x200008 } }

/-- The job with x registers of a stream set. -/
def withX (st : Strm) (l : List (BitVec 4 × Word)) (j : Job) : Job :=
  l.foldl (fun j p => j.modStream st fun t => { t with x := t.x.set p.1.toFin ⟨p.2, none⟩ }) j

/-- A job under lockstep rules. -/
def lock (j : Job) : Job := { j with nest := { j.nest with lockstep := true } }

/-- The package after bring-up with core 0 as given and a word of stream st, at 0x200000, being issued there. -/
def issuing (st : Strm) (c : Core) : State :=
  { State.reset with
    boot := .ready, cores := State.reset.cores.set 0 c
    cur := ⟨0, st, 0x200000, 0x200000, 0x200008, 0x1234, .done, [], [], 1000, 1000⟩ }

/-- The same with a job alone on the core. -/
def runs (st : Strm) (j : Job) : State := issuing st { Core.zero with ctx0 := j }

/-- The package after bring-up with a job on core 0 and no word being issued. -/
def idle0 (j : Job) : State := runs .s j

/-- Die 0 holds translations of pages 1 and 2 to the first frames of LPDDR. -/
def mapped (s : State) : State :=
  s.modDie 0 fun d => { d with
    tlb := [⟨0, 1, 0x10000000000, 0x10000600000, true, true, false⟩, ⟨0, 2, 0x10000200000, 0x10000600008, true, true, false⟩] }

/-- A poisoned register of the issuing stream. -/
def poisonX (st : Strm) (r : BitVec 4) (o : Origin) (j : Job) : Job :=
  j.modStream st fun t => { t with x := t.x.set r.toFin ⟨0, some o⟩ }

/-- An extent of 0x1000 bytes at page 1 with the given rights, in a frame. -/
def extAt (frame : Nat) (rd w : Bool) : Ext := ⟨0x200000, 0x1000, rd, w, [(1, frame, false)]⟩

/-- Extents: e0 in LPDDR, e1 without rights, e2 in die 7's bonded DRAM, the others unused. -/
def withExt (j : Job) : Job :=
  { j with ext := (((Vector.replicate 16 Ext.zero).set 0 (extAt 0x10000000000 true true)).set 1
      (extAt 0x10000000000 false false)).set 2 (extAt 0x5BFFE00000 true true) }

/-- Carousel 3 is declared with turnstiles 8 to 15; its slot 7 is READY and slot 0 is the next. -/
def jCar : Job :=
  let k : Carousel := { Carousel.zero with
    decl := true, autoarm := true, firstts := 8, count := 8, lslot := 0, base := 0x10000, level := 1, tail := 7, head := 0
    slots := (Vector.replicate 8 SlotSt.opened).set 7 .ready }
  { job0 with car := (Vector.replicate 4 Carousel.zero).set 3 k, car0 := (Vector.replicate 4 Carousel.zero).set 3 k }

/-- A span of G0, G1 or another region resolves at once. -/
theorem spanOk_of {s : State} {w : Bool} {a : Word} {n : Nat} (h1 : a.toNat < 2 ^ 24)
    (h2 : (match s.cjob.place a.toNat n with | .at _ => true | _ => false) = true) : SpanOk s w a n := by
  refine ⟨h1, .inr (.inl ?_)⟩
  revert h2
  generalize s.cjob.place a.toNat n = p
  cases p <;> intro h2 <;> first | exact ⟨_, rfl⟩ | cases h2

/-- Fields of a block: value, bytes. -/
def pack (l : List (Nat × Nat)) : List Byte := l.flatMap fun e => leBytes e.2 e.1

/-- One page that the die's translation cache holds. -/
theorem resident_page1 {s : State} {vas : List Nat} {rd w : Bool} (x : Xlat) {page : Nat}
    (h0 : canon s.pkgnum.toNat x.frame = x.frame) (h1 : ((s.die (dieOf s.cur.core)).pin [x.frame]).isSome = true) (va : Nat) (h2 : pageList vas = [(page, va)])
    (h3 : s.lookup (dieOf s.cur.core) s.cjob.nest.part (BitVec.ofNat 64 va) rd w false = .ok x)
    (h4 : ((s.die (dieOf s.cur.core)).tlbFind s.cjob.nest.part (BitVec.ofNat 64 va)).isSome = true) :
    Resident s vas rd w [(page, x)] := by
  have e : ([(page, x)].map fun y => canon s.pkgnum.toNat y.2.frame).eraseDups = [x.frame] := by
    show [canon s.pkgnum.toNat x.frame] = [x.frame]
    rw [h0]
  refine ⟨?_, ?_, ?_⟩
  · rw [h2]; exact .cons ⟨rfl, h4, h3⟩ .nil
  · rw [e]; simp
  · rw [e]; exact h1

/-- What an operation answered, when it did. -/
theorem ok_getD {ε α : Type} {x : Except ε α} (d : α) (h : x.toOption.isSome = true) : x = .ok (x.toOption.getD d) := by
  cases x with
  | error e => cases h
  | ok a => rfl

/-- A table at 0x200000 with one page of 64 tokens, one without pages at 0x200080, and at 0x201000 their pool of one slot. -/
def kvImage : Memory :=
  Memory.write (Memory.write (Memory.write [] 0x10000000000 (pack [(0x201000, 8), (1, 4), (1, 4), (64, 8), (64, 8), (0, 8), (0, 24),
    (2 ^ 62 + 2 * 2 ^ 58 + 63 * 2 ^ 52, 8)]))
    0x10000001000 (pack [(0x400000, 8), (14, 1), (1, 1), (32, 2), (0, 4), (1, 8), (0, 8), (0x202000, 8), (0x202400, 8)]))
    0x10000000080 (pack [(0x201000, 8), (1, 4), (0, 4)])

/-- What is on its way into the scratchpad can land. -/
theorem lands_of {s : State} (h : (performed (fun _ => true) s).toOption.isSome = true) : Lands s := ⟨_, ok_getD s h⟩

/-- The pages that a KV command touches, when they are all found. -/
theorem touches_of {s : State} {c : Cmd} (h : (s.kvLook ⟨s.cur.core, c, none, some s.cur.since⟩ c.part (s.kvRun c)
      (fun _ => .ok ()) lookLimit []).toOption.isSome = true) :
    Touches s c ((s.kvLook ⟨s.cur.core, c, none, some s.cur.since⟩ c.part (s.kvRun c) (fun _ => .ok ()) lookLimit []).toOption.getD ((), [])).2 :=
  ok_getD ((), []) h

/-- A command of job 0 in a queue, not begun. -/
def cmdOf (op : Instr) (xm xs xt : Word) (total : Nat) : Cmd :=
  { ord := 5, seq := 1, op := op, raw := 0x1234, pc := 0x200000, strm := .c, iter := 0, part := 0, xm := xm, xs := xs, xt := xt,
    blk := [], blk2 := [], tl := none, ts := none, phase := false, rphase := [], scope := .pkg, frames := [], holds := [], inst := 0,
    slot := none, rslots := [], begun := false, total := total, pos := 0, tagged := [], fail := none, info := 0, orphan := false,
    src := 0, srcSlot := none, dst := 0, rbase := [], ready := false, data := [], ents := [], pool := [], cnt := 0, full := false,
    refused := false, toks := [], refs := [], words := [], cover := [], acq := 0 }

/-- Partition 0 owns dies 0 and 7; its tables, in LPDDR, map page 1 to the first frame of LPDDR with all rights. -/
def parted (s : State) : State :=
  { s with
    parts := s.parts.set 0 { Partition.zero with valid := true, dies := 0x81, root := 0x10000400 }
    mem := Memory.write (Memory.write (Memory.write (Memory.write s.mem 0x10000400000 (leBytes 8 0x10000401001))
      0x10000401000 (leBytes 8 0x10000402001)) 0x10000402000 (leBytes 8 0x10000403001)) 0x10000403008 (leBytes 8 0x10000000007) }

/-- A matrix word in flight with the given operands. -/
def opOf (i : Instr) (xa xs : Word) (snap : List (Nat × AccRowSt)) (tl : Option (BitVec 3 × Nat)) : MatOp :=
  ⟨1, 0x200000, i, xa, xs, [], [], [], [], [], snap, [], none, 0, tl, 0, true, false, []⟩

/-- A range of memory banks of which the issuing stream sees no poisoned byte. -/
theorem blockIn_of {s : State} {a n m : Nat} (h : RangeIn s a n)
    (h1 : (match ownAt s a n with | .ok c => (c.poison a m).isNone | .error _ => false) = true) : BlockPart s a n m := by
  refine ⟨h, ?_⟩
  revert h1
  cases ownAt s a n with
  | error e => intro h; cases h
  | ok c => exact fun h => ⟨c, rfl, by simpa using h⟩

/-- The package with the memory shell of die 7 out of service. -/
def deadShell7 (s : State) : State := { s with shellsvc := 0x7F }

/-- M = 128, N = 64 and K = 128 in x3, an empty shape in x4, bases in x1 and x2. -/
def jM : Job :=
  { withX .m [(1, 0x3FC000), (2, 0x7FE000), (3, 0x00804080), (4, 0x00004080), (5, 0x10004080)] job0 with
    tl := Vector.replicate 8 ⟨2 ^ 64 - 2, 0, 0, 0, []⟩ }

/-- Core 0 with one command in its store queue. -/
def withSq (c : Cmd) (j : Job) : State := parted (issuing .c { Core.zero with ctx0 := j, sq := [c] })

/-- A COPYR of 16 bytes from 0x3FFFF0 to the same place of core 127. -/
def copyr1 : Cmd := cmdOf (.copyr 1 2 3 ⟨none, none, .pkg⟩) 0x3FFFF0 0x7F3FFFF0 16 1

/-- The header of a nest record: two loops, the second the outer one, two stages, all four streams at page 1. -/
def recHead (flags0 bounds dies maxcores : Nat) : List Byte :=
  pack [(flags0 + 0x02010000 + 0xF00, 8), (bounds, 8), (5, 8), (0, 16), (dies, 1), (maxcores, 1), (0, 6)] ++
    (List.replicate 4 (leBytes 8 0x200000)).flatten ++ pack [(0x100000, 4), (0, 36), (0, 4), (0xFFFFFFFF, 4)]

/-- The record with an operand declaration of the given first word and length. -/
def recB (flags0 bounds dies maxcores w len : Nat) : List Byte :=
  recHead flags0 bounds dies maxcores ++ pack [(w, 8), (len, 8), (1, 16)] ++ List.replicate 480 0

/-- A record that passes every check: priority 3. -/
def recOk : List Byte := recB 0x200C 3 0x81 16 0x200003 0x1000

/-- The launch of that record. -/
def launchOk : Launch := ⟨5, nestOf 0x201000 recOk, 0x81, 30, Vector.replicate 8 0, 0, 0, [], none, []⟩

/-- A dispatched job of partition 0 with one declaration, that of recOk. -/
def jDisp : Job := { job0 with st := .dispatched, nest := nestOf 0x201000 recOk, idx := #v[1, 1, 0, 0] }

/-- The state that a meaning answers. -/
def after (i : Instr) (s : State) : State :=
  match exec i s with
  | .next t => t
  | _ => s

/-- Every meaning answers it. -/
theorem exec_after (i : Instr) (s : State) : exec i s = .next (after i s) := by
  obtain ⟨t, h⟩ := exec_next i s
  rw [after, h]
-- Witnesses: the hypotheses of the statements, met.

/-- x1 = 5 and x2 = 0 in the S stream. -/
def sA : State := runs .s (withX .s [(1, 5), (2, 0), (3, 0x200010), (15, 0x200010)] job0)

theorem witness_AluResults :
    (∃ w, twoOf (.div 4 1 2) = some w ∧ SettledX sA w.a ∧ SettledX sA w.b) ∧
    (∃ w, twoOf (.shli 4 1 63) = none ∧ oneOf (.shli 4 1 63) = some w ∧ SettledX sA w.a) ∧
    ((1 : BitVec 7) ≠ 0 ∧ (63 : BitVec 6).toNat + (1 : BitVec 7).toNat ≤ 64 ∧ SettledX sA 1 ∧ SettledX sA 2) ∧
    ((64 : BitVec 7) ≠ 0 ∧ (0 : BitVec 6).toNat + (64 : BitVec 7).toNat ≤ 64 ∧ SettledX sA 0 ∧ SettledX sA 15) := by
  refine ⟨⟨_, rfl, by decide +kernel, by decide +kernel⟩, ⟨_, rfl, rfl, by decide +kernel⟩, ?_, ?_⟩ <;> decide +kernel

theorem witness_PredicateResult :
    SettledX sA 1 ∧ SettledX sA 2 ∧ SettledP sA 0 ∧ SettledP sA 7 ∧
    ∃ f, plogOf (.pxor 7 1 0) = some (7, 1, 0, f) ∧ SettledP sA 1 := by
  refine ⟨?_, ?_, ?_, ?_, _, rfl, ?_⟩ <;> decide +kernel

theorem witness_RegisterWriteLatency :
    ((0 : BitVec 4) = 0) ∧ ((1 : BitVec 4) ≠ 0 ∧ (0 : Nat) < 1 ∧ (runs .s (lock job0)).cjob.strict = true ∧
      sA.cjob.strict = false ∧ sA.cjob.now + 1 ≤ 1 ∧ (15 : BitVec 4) ≠ 1) := by decide +kernel

theorem witness_ControlTransfers :
    (sA.cur.wpc &&& 7 = 0 ∧ HasX sA 1 5 ∧ HasX sA 2 0 ∧ HasX sA 3 0x200010 ∧ HasX sA 15 0x200010 ∧
      (0x200010 : Word) &&& 7 = 0) ∧
    (∀ st ∈ [Strm.s, Strm.v], let s := runs st (withX st [(1, 1), (2, 2)] job0)
      s.cur.wpc &&& 7 = 0 ∧ HasX s 0 0 ∧ (0 : Word).toNat ≤ 1 ∧ HasX s 1 1 ∧ (1 : Word).toNat ≤ 1 ∧
        HasX s 2 2 ∧ 1 < (2 : Word).toNat) ∧
    (runs .s job0).cur.strm ≠ .v ∧ (runs .v job0).cur.strm = .v := by decide +kernel

/-- x1 to x4 = 2, 3, 4, 1; every timeline has ISSUED = 3 and DONE = 2, timeline 7 has failed at number 3. -/
def jB : Job :=
  let t : Vector Timeline 8 := (Vector.replicate 8 (⟨3, 2, 0, 0, []⟩ : Timeline)).set 7 ⟨3, 2, 3, 0x11, []⟩
  { withX .s [(1, 2), (2, 3), (3, 4), (4, 1)] job0 with
    tl := t, tl0 := t
    ts := (((Vector.replicate 64 Turnstile.zero).set 1 { Turnstile.zero with st := .armed, phase := true }).set 2
      { Turnstile.zero with st := .poisoned }).set 63 { Turnstile.zero with st := .overrun } }

theorem witness_WaitWords : let s := runs .s jB
    (HasX s 1 2 ∧ ((2 : Word) + (0 : BitVec 29).signExtend 64).toNat ≤ (s.cjob.tl[0]).issued ∧
      ((2 : Word) + (0 : BitVec 29).signExtend 64).toNat ≤ (s.cjob.tl0[0]).done ∧ (s.cjob.tl0[0]).failnum = 0 ∧
      ((2 : Word) + (0 : BitVec 29).signExtend 64).toNat < (s.cjob.tl0[7]).failnum) ∧
    (HasX s 4 1 ∧ (s.cjob.ts[0]).st = .idle ∧ (s.cjob.ts[0]).phase = !xor ((1 : Word).getLsbD 0) false ∧
      (s.cjob.ts[1]).st = .armed ∧ (s.cjob.ts[1]).phase = !xor ((1 : Word).getLsbD 0) true) ∧
    (HasX s 0 0 ∧ (0 : Word).toNat ≤ s.gcc) ∧
    (((3 : Word) + (0 : BitVec 29).signExtend 64).toNat ≤ (s.cjob.tl[0]).issued ∧
      (s.cjob.tl0[0]).done < ((4 : Word) + (0x1FFFFFFF : BitVec 29).signExtend 64).toNat ∧ HasX s 3 4 ∧ s.cjob.mops = []) ∧
    (s.cstrm.held = none ∧ (s.cjob.ts[1]).phase = xor ((1 : Word).getLsbD 0) false) ∧
    (s.gcc < (1 : Word).toNat) ∧
    ((s.cjob.tl[0]).issued < ((4 : Word) + (0 : BitVec 29).signExtend 64).toNat) ∧
    (HasX s 2 3 ∧ ((3 : Word) + (0 : BitVec 29).signExtend 64).toNat ≤ (s.cjob.tl[7]).issued ∧ (s.cjob.tl0[7]).failnum ≠ 0 ∧
      (s.cjob.tl0[7]).failnum ≤ ((3 : Word) + (0 : BitVec 29).signExtend 64).toNat) ∧
    ((s.cjob.ts[2]).st = .poisoned ∧ (s.cjob.ts[63]).st = .overrun) := by decide +kernel

/-- A lockstep job with a matrix word in flight that holds number 3 of timeline 0. -/
theorem witness_WaitWords_holder : let s := runs .s (lock { jB with mops := [opOf (.azero 1 none) 0 0 [] (some (0, 3))] })
    HasX s 2 3 ∧ s.cjob.strict = true ∧ ((3 : Word) + (0 : BitVec 29).signExtend 64).toNat ≤ (s.cjob.tl[0]).issued ∧
      (s.cjob.tl0[0]).failnum = 0 ∧ ∃ o ∈ s.cjob.mops, ∃ m, o.tl = some (0, m) ∧ m ≤ 3 ∧ ¬ o.due < s.cjob.jc := by
  refine ⟨by decide +kernel, by decide +kernel, by decide +kernel, by decide +kernel, _, .head _, 3, rfl, ?_, ?_⟩ <;> decide +kernel

/-- A stream of which nothing is on its way has nothing to wait for. -/
theorem written_of {s : State} (h1 : ∀ g ∈ s.earlier, g.writes = false) (h2 : ∀ p ∈ s.posted, p.rdup = false)
    (h3 : s.cjob.onTheWay s.cur.strm s.cur.since id = false) : Written s s := ⟨h1, h2, by simp [performed, h3]⟩

/-- A queue of n entries that can be popped. -/
def queueOf (n : Nat) : List QEnt := List.replicate n ⟨⟨7, none⟩, 0⟩

/-- Queue 0 of every stream but V holds three entries, queue 3 four; V's queues 0 and 3 likewise. -/
def jQ : Job :=
  { withX .s [(1, 9)] job0 with
    strm := Vector.replicate 4 { Stream.zero with started := true, x := Vector.replicate 16 ⟨9, none⟩, q := #v[queueOf 3, [], [], queueOf 4] }
    vq := #v[List.replicate 3 ⟨Tile.zero, 0⟩, [], [], List.replicate 4 ⟨Tile.zero, 0⟩] }

theorem witness_QueueWords : let s := runs .s jQ; let l := runs .s (lock jQ)
    let one := runs .s { jQ with nest := { jQ.nest with smask := 1 } };
    (HasX one 1 9 ∧ one.cjob.inMask .c = false) ∧
    (HasX s 1 9 ∧ s.cjob.inMask .m = true ∧ Strm.m ≠ .v ∧
      ((s.cjob.stream .m).q[0]).length + (s.cjob.stream .m).popped[0] < 4 ∧
      4 ≤ ((s.cjob.stream .m).q[3]).length + (s.cjob.stream .m).popped[3] ∧ s.cjob.strict = false) ∧
    (HasX l 1 9 ∧ l.cjob.inMask .m = true ∧ 4 ≤ ((l.cjob.stream .m).q[3]).length + (l.cjob.stream .m).popped[3] ∧
      l.cjob.strict = true) ∧
    (s.cjob.inMask .v = true ∧ (s.cjob.vq[0]).length + s.cjob.vpopped[0] + s.cjob.vqRes[0] < 4) ∧
    (4 ≤ (s.cjob.vq[3]).length + s.cjob.vpopped[3] + s.cjob.vqRes[3] ∧ l.cjob.inMask .v = true ∧
      4 ≤ (l.cjob.vq[3]).length + l.cjob.vpopped[3] + l.cjob.vqRes[3]) ∧
    (Written s s ∧ Written l l ∧ Free s) ∧
    (let w := runs .s { jQ with moves := [⟨999, .s, 9, 0, 0, some [], none, none, 0⟩] };
      HasX w 1 9 ∧ w.cjob.inMask .m = true ∧ w.cjob.strict = false ∧ w.cjob.onTheWay w.cur.strm w.cur.since id = true) ∧
    (HeadIs s 0 ⟨7, none⟩ ∧ HeadIs { s with cur := { s.cur with qheads := [(0, ⟨8, none⟩)] } } 0 ⟨8, none⟩) ∧
    (NoHead s 1 ∧ NoHead l 1 ∧ NoHead (runs .s { jQ with strm := Vector.replicate 4 { Stream.zero with q := Vector.replicate 4 [⟨⟨7, none⟩, 1⟩] } }) 0) := by
  refine ⟨by decide +kernel, by decide +kernel, by decide +kernel, by decide +kernel, by decide +kernel,
    ⟨written_of (by decide +kernel) (by decide +kernel) (by decide +kernel),
      written_of (by decide +kernel) (by decide +kernel) (by decide +kernel), by decide +kernel⟩, by decide +kernel,
    ⟨.inr ⟨by decide +kernel, ⟨⟨7, none⟩, 0⟩, queueOf 2, by decide +kernel, by decide +kernel, rfl⟩, .inl (by decide +kernel)⟩,
    ⟨by decide +kernel, ?_⟩, ⟨by decide +kernel, ?_⟩, ⟨by decide +kernel, ?_⟩⟩
  · exact fun e l h => (List.cons_ne_nil e l h.symm).elim
  · exact fun e l h => (List.cons_ne_nil e l h.symm).elim
  · intro e l h
    have h1 : e = ⟨⟨7, none⟩, 1⟩ := (List.cons.inj h).1.symm
    rw [h1]; decide +kernel

theorem witness_SpecialRegisters :
    ((runs .v job0).cur.strm = .v ∧ (runs .m job0).cur.strm ≠ .v ∧ (runs .s job0).cur.strm = .s ∧ (runs .c job0).cur.strm ≠ .s) ∧
    (HasX (runs .s (withX .s [(1, 0xC10)] job0)) 1 0xC10 ∧ HasX (runs .s (withX .s [(1, 0x1011)] job0)) 1 0x1011) ∧
    (((0xC10 : Word).toNat < 4096 ∧ (0xC10 : Word).toNat / 32 % 8 = 0 ∧ 1 ≤ (0xC10 : Word).toNat % 32 ∧
      (0xC10 : Word).toNat % 32 ≤ 16 ∧ (0xC10 : Word).toNat / 256 ≤ 12) ∧ ¬ (0xC11 : Word).toNat % 32 ≤ 16) ∧
    (((0x1010 : Word).toNat < 8192 ∧ (0x1010 : Word).toNat / 32 % 8 = 0 ∧ (0x1010 : Word).toNat / 256 ≤ 16 ∧
      (0x1010 : Word).toNat % 32 + (0x1010 : Word).toNat / 256 ≤ 32) ∧ ¬ (0x1011 : Word).toNat % 32 + (0x1011 : Word).toNat / 256 ≤ 32) ∧
    ((8 : Word).toNat % 8 = 0 ∧ ¬ (7 : Word).toNat % 8 = 0) := by decide +kernel

/-- Words that write a register of V or trapvec from the wrong stream, and one that reads a queue in V. -/
theorem witness_SpecialRegisters_streams : ∀ p ∈ [(Strm.m, Instr.swr .trapvec 1), (.s, .swr .vrb 1), (.v, .srd 1 (.qpop 3)), (.v, .srd 1 (.qpeek 0))],
    decode (encode ⟨0, true, 0, false, p.2⟩) = .ok ⟨0, true, 0, false, p.2⟩ ∧ streamOk p.1 (encode ⟨0, true, 0, false, p.2⟩) = true := by
  decide +kernel

/-- A job that is in its trap handler. -/
def jH : Job := { withX .s [(1, 0x200010)] job0 with st := .trapped, trapvec := 0x201000, trapResume := 0x200008 }

theorem witness_SystemWords :
    (let s := runs .c job0; let g : GAcc := ⟨.c, .load .d false, 1, 0x200000, 0, 8, false, true, .core, 999, none⟩;
      let p : PStore := ⟨999, .c, 1, 0, 0, 0, [1], true, false, false, 0⟩;
      let t := runs .c { job0 with outs := [g] };
      let u := issuing .c { Core.zero with ctx0 := job0, psb := [p] };
      let m := runs .v { job0 with moves := [⟨999, .v, 9, 0, 0, some [1], none, none, 0⟩] };
      (s.earlier = [] ∧ Free s ∧ (∀ p ∈ s.posted, relPoint .core p = true) ∧ s.acquired .core = false ∧
        s.acquires.acquired .core = false) ∧ t.earlier ≠ [] ∧
        (u.earlier = [] ∧ Free u ∧ ∃ p ∈ u.posted, relPoint .core p = false) ∧
        (m.cjob.strict = false ∧ ∃ k ∈ m.cjob.moves, k.strm = m.cur.strm ∧ k.ord < m.cur.since)) ∧
    ((runs .s job0).cjob.st ≠ .trapped ∧ (∃ st, (((runs .s job0).updStrm fun u => { u with joined := true }).cjob.stream st).started = true ∧
      (((runs .s job0).updStrm fun u => { u with joined := true }).cjob.stream st).joined = false)) ∧
    (let j : Job := { job0 with strm := Vector.replicate 4 { Stream.zero with started := true, joined := true } };
      ∀ st, (((runs .s j).updStrm fun u => { u with joined := true }).cjob.stream st).started = true →
        (((runs .s j).updStrm fun u => { u with joined := true }).cjob.stream st).joined = true) ∧
    (let s := runs .s (withX .s [(1, 0x7FF000), (2, 0x1000)] job0);
      HasX s 1 0x7FF000 ∧ HasX s 2 0x1000 ∧ (0x7FF000 : Word).toNat + (0x1000 : Word).toNat ≤ 0x800000 ∧ s.cjob.preq = none) ∧
    (let s := (runs .s (withX .s [(1, 4095), (2, 2)] { job0 with preq := some ⟨2, true, 0⟩ })).modDie 0 fun d => { d with slots := [.free] };
      HasX s 1 4095 ∧ HasX s 2 2 ∧ (4095 : Word).toNat + (2 : Word).toNat ≤ 0x800000 ∧ s.cjob.preq = some ⟨2, true, 0⟩ ∧
        s.cjob.nest.gang = false ∧ (s.die (dieOf s.cur.core)).slots.findIdx? (· == .free) = some 0) ∧
    (let s := (runs .s (withX .s [(1, 4095), (2, 2)] { job0 with preq := some ⟨2, true, 0⟩, saving := some ⟨3, false, 0, 0⟩ }));
      HasX s 1 4095 ∧ HasX s 2 2 ∧ s.cjob.nest.gang = false ∧ s.cjob.saving = some ⟨3, false, 0, 0⟩) ∧
    (let s := runs .s jH;
      s.cjob.late = [] ∧ s.cjob.st = .trapped ∧ HasX s 1 0x200010 ∧ (0x200010 : Word).toNat % 8 = 0 ∧ HasX s 0 0 ∧ (s.cjob.stream .s).pend = [] ∧ s.cjob.outs = [] ∧
        s.cjob.kvWait = []) ∧
    (let s := runs .s (jH.modStream .s fun u => { u with pend := [⟨false, 2, ⟨1, none⟩, 1⟩] });
      s.cjob.st = .trapped ∧ HasX s 1 0x200010 ∧ s.cjob.handlerBusy = true) ∧
    (let j : Job := { jH with tret := some 0x200010 }; j.tret = some 0x200010 ∧ j.st = .trapped) := by
  refine ⟨by decide +kernel, ⟨by decide +kernel, .v, by decide +kernel, by decide +kernel⟩, ?_, by decide +kernel, by decide +kernel,
    by decide +kernel, by decide +kernel, by decide +kernel, by decide +kernel⟩
  intro j st; cases st <;> decide +kernel

/-- A NEST record in the second half of page 1 and the first bytes of page 2. -/
theorem witness_SystemWords_nest : let s := mapped (runs .s (withX .s [(1, 0x3FFF00)] job0))
    ∃ l t, HasX s 1 0x3FFF00 ∧ s.cjob.outs = [] ∧ (s.here.psb = [] ∧ Free s) ∧ recordPlaces s 0x3FFF00 = .ok (l, t) ∧
      (recordBytes t 0x3FFF00 l).2 = none := by
  refine ⟨_, _, by decide +kernel, by decide +kernel, by decide +kernel, rfl, by decide +kernel⟩

theorem witness_PreciseTraps :
    HasX (runs .s (withX .s [(1, 0x200004), (15, 0x200001)] job0)) 1 0x200004 ∧ (0x200004 : Word) &&& 7 ≠ 0 ∧
    HasX (runs .s (withX .s [(1, 0x200004), (15, 0x200001)] job0)) 15 0x200001 ∧ (0x200001 : Word) &&& 7 ≠ 0 ∧
    (let s := runs .c (poisonX .c 15 0x2000000000000040 job0);
      SettledX s 15 ∧ (xv s 15).po = some 0x2000000000000040 ∧ Instr.ret = .ret) ∧
    (runs .s jH).cjob.st = .trapped ∧ (runs .s job0).cjob.st ≠ .trapped := by decide +kernel

theorem witness_TrapEntryAndReturn :
    (∀ st ∈ strms, let s := runs st { job0 with trapvec := 0x201000 };
      let d := s.job s.cur.core;
      isSystem cAlignment = false ∧ d.st ≠ .trapped ∧ d.trapvec ≠ 0 ∧ d.inMask .s = true ∧ (d.stream .s).joined = false) ∧
    (∀ j ∈ [job0, jH], let s := runs .s j;
      let d := s.job s.cur.core;
      isSystem cSoftware = false ∧ (d.trapvec = 0 ∨ d.st = .trapped) ∧ d.st ≠ .none) := by
  constructor <;> decide +kernel

/-- x1 = 0x7FFFF8, x2 = 0xFF8, x3 = 1, x4 = 0x1000, x5 = -8; x6 and x7 name the last word of the spill space and of the overflow
page, x8 the consumed slot of carousel 3, x9 the slot it produces next, x10 the last turnstile image, x11 and x12 a carousel that
is not declared and the ninth slot of carousel 3. -/
def jC : Job :=
  { withExt (withX .s [(1, 0x7FFFF8), (2, 0xFF8), (3, 1), (4, 0x1000), (5, 0xFFFFFFFFFFFFFFF8), (6, 0xFFFFFFFFFF000FF8),
      (7, 0xFFFFFFFFFF200FF8), (8, 0xB80000), (9, 0xB00FF8), (10, 0xC003F8), (11, 0x800000), (12, 0xB08000), (13, 0xC00400),
      (14, 0xFFFFFFFFFF201000)] jCar) with
    nest := { job0.nest with carve := 0x1000, ovfva := 0x400000 }, ovf := [(2, 0x10000200000, false)] }

/-- The last tile of the scratchpad is a window copy in a state. -/
def copyIn (st : WinSt) (s : State) : State := s.modCore 0 fun c => { c with copies := [⟨0x7FF, 1, 0, st, []⟩] }

/-- What holds of every copy of some tiles. -/
theorem copies_of {s : State} {l : List Nat} {p : WinCopy → Prop} [DecidablePred p]
    (h : (l.all fun t => match s.here.copyAt t with | some w => decide (p w) | none => true) = true) :
    ∀ t ∈ l, ∀ w, s.here.copyAt t = some w → p w := by
  intro t ht w hw
  have := List.all_eq_true.mp h t ht
  simpa [hw] using this

/-- A stream's own release waits for nothing when nothing is posted and nothing acquired. -/
theorem canRelease_of {s : State} {rel : Option Scope} (h : s.posted = []) (h2 : ∀ sc, s.acquired sc = false) : CanRelease s rel :=
  fun sc _ => ⟨fun _ hp => (List.not_mem_nil (h ▸ hp)).elim, h2 sc⟩

/-- A stream that has nothing on its way, on a core where nothing lands, sees the scratchpad as it stands. -/
theorem ownAt_of {s : State} {a n : Nat} (h1 : (match ownAt s a n with | .ok c => decide (c = s.here) | .error _ => false) = true) :
    ownAt s a n = .ok s.here := by
  revert h1
  cases ownAt s a n with
  | error e => intro h; cases h
  | ok c => intro h; rw [of_decide_eq_true h]

theorem witness_LoadWords :
    (let s := runs .s jC;
      (∃ w, loadOf (.ld 6 1 .loc .d false 0) = some w ∧ HasX s w.a 0x7FFFF8 ∧
        InScratch s w.sel (0x7FFFF8 + w.off) (widthOf w.sz) 0x7FFFF8 none ∧ Readable s 0x7FFFF8 8 ∧ Quiet s ∧ NoStall s 0x7FFFF8 8 ∧
        s.cur.strm ≠ .m ∧ (∀ own, ownAt s 0x7FFFF8 8 = .ok own → own.poison 0x7FFFF8 8 = none) ∧ ownAt s 0x7FFFF8 8 = .ok s.here) ∧
      InScratch s .loc 0xFFFFFFFFFF000FF8 8 0x7FFFF8 none ∧ HasX s 6 0xFFFFFFFFFF000FF8 ∧
      InScratch s .loc 0xB80000 8 0x17000 none ∧ HasX s 8 0xB80000) ∧
    (let s := issuing .s { Core.zero with ctx0 := jC, spadPo := [(0xFFFFF, .raw cEcc)] };
      ownAt s 0x7FFFF8 8 = .ok s.here ∧ s.here.poison 0x7FFFF8 8 = some (.raw cEcc)) ∧
    Readable (copyIn .o (runs .s jC)) 0x7FFFF8 8 ∧
    (∃ w, loadOf (.ld 6 10 .loc .d false 0) = some w ∧ HasX (runs .s jC) w.a 0xC003F8 ∧ w.sel = .loc ∧
      ((0xC003F8 : Word) + w.off).toNat = 0xC00000 + 16 * (63 : BitVec 6).toNat + 8 ∧ 8 + widthOf w.sz ≤ 16) ∧
    (Free (runs .s jC) ∧ (∀ l ∈ (runs .s jC).here.landing, l.rank ≠ rankOf (runs .s jC).cur.strm)) ∧
    (let l := Sys2Proof.Machine.landing (rankOf .s) 999 0x1000 [7] none 0 [1];
      let s := issuing .s { Core.zero with ctx0 := jC, landing := [l] };
      s.here.landing = [l] ∧ l.rank = rankOf s.cur.strm ∧ l.ord < s.cur.since ∧ s.cjob.moves = [] ∧ s.here.spad.wf = true ∧
        l.bytes.getLast? = some (0x1000, 7, none)) ∧
    (∀ st ∈ [true, false], ∃ (w : LoadW) (j : Job), loadOf (.lda 6 2 (.ext 0) .d false .pkg 0) = some w ∧
      HasX (runs .s j) w.a 0xFF8 ∧ InGlobal (runs .s j) w.sel (0xFF8 + w.off) (widthOf w.sz) true false 0x200FF8 0x10000000FF8 false ∧
      Quiet (runs .s j) ∧ (runs .s j).cjob.strict = st) ∧
    (HasX (runs .s jC) 7 0xFFFFFFFFFF200FF8 ∧
      InGlobal (runs .s jC) .loc 0xFFFFFFFFFF200FF8 8 true false 0x5FFFF8 0x100003FFFF8 false) := by
  refine ⟨⟨⟨_, rfl, by decide +kernel, ⟨by decide +kernel, by decide +kernel, .inl (by decide +kernel)⟩,
    copies_of (by decide +kernel), by decide +kernel, by decide +kernel, by decide +kernel,
    fun own h => by rw [ownAt_of (by decide +kernel)] at h; cases h; decide +kernel, ownAt_of (by decide +kernel)⟩, ⟨rfl, by decide +kernel, .inr (.inl (by decide +kernel))⟩, by decide +kernel,
    ⟨rfl, by decide +kernel, .inr (.inr ⟨by decide +kernel, by decide +kernel, some (3, 7), by decide +kernel⟩)⟩, by decide +kernel⟩,
    ⟨ownAt_of (by decide +kernel), by decide +kernel⟩, copies_of (by decide +kernel), ⟨_, rfl, by decide +kernel⟩, by decide +kernel, by decide +kernel,
    fun st _ => ?_, by decide +kernel, .inr ⟨0x10000200000, by decide +kernel⟩⟩
  cases st
  · exact ⟨_, jC, rfl, by decide +kernel, .inl ⟨0, extAt 0x10000000000 true true, 0x10000000000, by decide +kernel⟩,
      by decide +kernel, by decide +kernel⟩
  · exact ⟨_, lock jC, rfl, by decide +kernel, .inl ⟨0, extAt 0x10000000000 true true, 0x10000000000, by decide +kernel⟩,
      by decide +kernel, by decide +kernel⟩

theorem witness_StoreWords :
    (∀ st ∈ [WinSt.e, .m], let s := copyIn st (runs .s jC);
      ∃ w, storeOf (.stl 3 1 .loc .d .core 0) = some w ∧ HasX s w.a 0x7FFFF8 ∧ HasX s w.d 1 ∧
        InScratch s w.sel (0x7FFFF8 + w.off) (widthOf w.sz) 0x7FFFF8 none ∧ Writable s 0x7FFFF8 8 ∧ Quiet s ∧ Free s ∧
        CanRelease s w.rel ∧ NoStall s 0x7FFFF8 8) ∧
    (InScratch (runs .s jC) .loc 0xFFFFFFFFFF000FF8 8 0x7FFFF8 none ∧ HasX (runs .s jC) 9 0xB00FF8 ∧
      InScratch (runs .s jC) .loc 0xB00FF8 8 0x10FF8 (some (3, 0))) ∧
    (let c := (copyIn .e (runs .s jC)).here;
      c.copies = [⟨0x7FF, 1, 0, .e, []⟩] ∧ 0x7FF ∈ tilesOf 0x7FFFF8 8) ∧
    (∃ w, storeOf (.st 3 2 (.ext 2) .d 0) = some w ∧ HasX (runs .s jC) w.a 0xFF8 ∧ HasX (runs .s jC) w.d 1 ∧
      InExtent (runs .s jC) w.sel (0xFF8 + w.off) (widthOf w.sz) false true 0x200FF8 0x5BFFE00FF8 false ∧ Quiet (runs .s jC) ∧
      Free (runs .s jC) ∧ CanRelease (runs .s jC) w.rel ∧ (runs .s jC).here.psbUsed < 16 ∧
      (runs .s jC).homeDead 0x5BFFE00FF8 = false ∧ (deadShell7 (runs .s jC)).homeDead 0x5BFFE00FF8 = true) ∧
    (∀ st ∈ [true, false], ∃ (w : StoreW) (j : Job), storeOf (.st 3 7 .loc .d 0) = some w ∧
      let s := runs .s j;
      HasX s w.a 0xFFFFFFFFFF200FF8 ∧ HasX s w.d 1 ∧
      InOverflow s w.sel (0xFFFFFFFFFF200FF8 + w.off) (widthOf w.sz) 0x5FFFF8 0x100003FFFF8 false ∧ Quiet s ∧ Free s ∧
      CanRelease s w.rel ∧ s.here.psbUsed < 16 ∧ s.homeDead 0x100003FFFF8 = false ∧ s.cjob.strict = st) := by
  refine ⟨?_, ⟨⟨rfl, by decide +kernel, .inr (.inl (by decide +kernel))⟩, by decide +kernel, rfl, by decide +kernel,
    .inr (.inr ⟨by decide +kernel, by decide +kernel, none, by decide +kernel⟩)⟩, by decide +kernel,
    ⟨_, rfl, by decide +kernel, by decide +kernel, ⟨2, extAt 0x5BFFE00000 true true, 0x5BFFE00000, by decide +kernel⟩,
      by decide +kernel, by decide +kernel, canRelease_of (by decide +kernel) (fun sc => by cases sc <;> decide +kernel), by decide +kernel⟩, fun st _ => ?_⟩
  · intro st h
    simp only [List.mem_cons, List.not_mem_nil, or_false] at h
    rcases h with rfl | rfl <;>
      exact ⟨_, rfl, by decide +kernel, by decide +kernel, ⟨by decide +kernel, by decide +kernel, .inl (by decide +kernel)⟩,
        fun t ht => ⟨copies_of (l := tilesOf 0x7FFFF8 8) (by decide +kernel) t ht, .inl rfl⟩, by decide +kernel, by decide +kernel,
        canRelease_of (by decide +kernel) (fun sc => by cases sc <;> decide +kernel), by decide +kernel⟩
  · cases st
    · exact ⟨_, jC, rfl, by decide +kernel, by decide +kernel, ⟨0x10000200000, by decide +kernel⟩, by decide +kernel,
        by decide +kernel, canRelease_of (by decide +kernel) (fun sc => by cases sc <;> decide +kernel), by decide +kernel⟩
    · exact ⟨_, lock jC, rfl, by decide +kernel, by decide +kernel, ⟨0x10000200000, by decide +kernel⟩, by decide +kernel,
        by decide +kernel, canRelease_of (by decide +kernel) (fun sc => by cases sc <;> decide +kernel), by decide +kernel⟩

theorem witness_AtomicWords :
    (let s := runs .s jC;
      (∃ w, atomOf (.atincb 6 1 3 .loc true .acqrel .core) = some w ∧ HasX s w.a 0x7FFFF8 ∧ HasX s w.b 0 ∧
        HasX s w.c 1 ∧ w.dw = true ∧ w.aop = 8 ∧ InScratch s w.sel 0x7FFFF8 8 0x7FFFF8 none ∧ Writable s 0x7FFFF8 8 ∧ Quiet s ∧
        Free s ∧ CanRelease s w.rel ∧ NoStall s 0x7FFFF8 8 ∧ s.here.poison 0x7FFFF8 8 = none ∧ s.here.landing = []) ∧
      InScratch s .loc 0xFFFFFFFFFF000FF8 8 0x7FFFF8 none ∧ InScratch s .loc 0xB00FF8 8 0x10FF8 (some (3, 0)) ∧
      Writable s 0x10FF8 8) ∧
    (∃ w, atomOf (.atcas 6 2 1 3 (.ext 0) true .acq .die) = some w ∧ HasX (runs .s (lock jC)) w.a 0xFF8 ∧
      HasX (runs .s (lock jC)) w.b 0x7FFFF8 ∧ HasX (runs .s (lock jC)) w.c 1 ∧ w.dw = true ∧
      InGlobal (runs .s (lock jC)) w.sel 0xFF8 8 true true 0x200FF8 0x10000000FF8 false ∧ Quiet (runs .s (lock jC)) ∧
      Free (runs .s (lock jC)) ∧ CanRelease (runs .s (lock jC)) w.rel ∧ (runs .s (lock jC)).cjob.strict = true) ∧
    InGlobal (runs .s jC) .loc 0xFFFFFFFFFF200FF8 8 true true 0x5FFFF8 0x100003FFFF8 false := by
  refine ⟨⟨⟨_, rfl, by decide +kernel, by decide +kernel, by decide +kernel, rfl, rfl, ⟨by decide +kernel, by decide +kernel,
      .inl (by decide +kernel)⟩, fun t ht => ⟨copies_of (l := tilesOf 0x7FFFF8 8) (by decide +kernel) t ht, .inl rfl⟩,
      by decide +kernel, by decide +kernel, canRelease_of (by decide +kernel) (fun sc => by cases sc <;> decide +kernel), by decide +kernel⟩,
    ⟨rfl, by decide +kernel, .inr (.inl (by decide +kernel))⟩, ⟨rfl, by decide +kernel,
      .inr (.inr ⟨by decide +kernel, by decide +kernel, none, by decide +kernel⟩)⟩,
    fun t ht => ⟨copies_of (l := tilesOf 0x10FF8 8) (by decide +kernel) t ht, .inl rfl⟩⟩,
    ⟨_, rfl, by decide +kernel, by decide +kernel, by decide +kernel, rfl,
      .inl ⟨0, extAt 0x10000000000 true true, 0x10000000000, by decide +kernel⟩, by decide +kernel, by decide +kernel,
      canRelease_of (by decide +kernel) (fun sc => by cases sc <;> decide +kernel), by decide +kernel⟩, .inr ⟨0x10000200000, by decide +kernel⟩⟩

theorem witness_MemoryTraps : let s := runs .s jC;
    (∃ w, loadOf (.ld 6 3 .loc .h true 0) = some w ∧ HasX s w.a 1 ∧ Quiet s ∧ ((1 : Word) + w.off).toNat % widthOf w.sz ≠ 0) ∧
    (∃ w, storeOf (.st 15 3 (.ext 0) .d 6) = some w ∧ HasX s w.a 1 ∧ HasX s w.d 0 ∧ ((1 : Word) + w.off).toNat % widthOf w.sz ≠ 0) ∧
    (∃ w, atomOf (.atfadd 6 3 1 .loc .rlx .core) = some w ∧ HasX s w.a 1 ∧ HasX s w.b 0x7FFFF8 ∧ HasX s w.c 0 ∧
      (1 : Word).toNat % (if w.dw then 8 else 4) ≠ 0) ∧
    (∃ w, storeOf (.st 6 4 (.ext 0) .b 0) = some w ∧ HasX s w.a 0x1000 ∧ w.sel = .ext 0 ∧ ((0x1000 : Word) + w.off).toNat % widthOf w.sz = 0 ∧
      (s.cjob.ext[0]).len.toNat < ((0x1000 : Word) + w.off).toNat + widthOf w.sz) ∧
    (∃ w, loadOf (.ld 6 4 (.ext 0) .b false 0) = some w ∧ HasX s w.a 0x1000 ∧
      (s.cjob.ext[0]).len.toNat < ((0x1000 : Word) + w.off).toNat + widthOf w.sz) ∧
    ((s.cjob.ext[3]).len = 0 ∧ HasX s 5 0xFFFFFFFFFFFFFFF8 ∧ ((0xFFFFFFFFFFFFFFF8 : Word) + (0 : Word)).toInt < 0 ∧
      (0xFFFFFFFFFFFFFFF8 : Word).toNat % 8 = 0 ∧ (s.cjob.ext[1]).w = false ∧ (s.cjob.ext[1]).rd = false) ∧
    (Nowhere s .loc 0xC00400 8 ∧ HasX s 13 0xC00400 ∧ Nowhere s .loc 0xFFFFFFFFFF201000 8 ∧ HasX s 14 0xFFFFFFFFFF201000 ∧
      HasX s 11 0x800000 ∧ (0x800000 : Word).toNat = 0x800000 + 0x100000 * (0 : Fin 4).val + 0 ∧ CarBad s.cjob.car0[(0 : Fin 4)] 0 8 ∧
      HasX s 12 0xB08000 ∧ (0xB08000 : Word).toNat = 0x800000 + 0x100000 * (3 : Fin 4).val + 0x8000 ∧
      CarBad s.cjob.car0[(3 : Fin 4)] 0x8000 8 ∧ HasX s 10 0xC003F8 ∧ (0xC003F8 : Word).toNat % 8 = 0) ∧
    (¬ Readable (copyIn .i s) 0x7FFFF8 8 ∧ InScratch (copyIn .i s) .loc 0x7FFFF8 8 0x7FFFF8 none) ∧
    (∀ st ∈ [WinSt.s, .o, .i], (copyIn st s).here.copyAt 0x7FF = some ⟨0x7FF, 1, 0, st, []⟩ ∧ 0x7FF ∈ tilesOf 0x7FFFF8 8) ∧
    (let p := runs .s (poisonX .s 4 0x2200000000000123 jC);
      SettledX p 4 ∧ (xv p 4).po = some 0x2200000000000123 ∧ HasX p 3 1 ∧
        (storeOf (.st 4 3 .loc .d 0)).map StoreW.d = some 4 ∧ (atomOf (.atadd 6 3 4 .loc true .rlx .core)).map AtomW.b = some 4 ∧
        (atomOf (.atcas 6 3 2 4 .loc true .rlx .core)).map AtomW.c = some 4) := by
  refine ⟨⟨_, rfl, ?_⟩, ⟨_, rfl, ?_⟩, ⟨_, rfl, ?_⟩, ⟨_, rfl, ?_⟩, ⟨_, rfl, ?_⟩, ?_, ⟨by decide +kernel, by decide +kernel,
    by decide +kernel⟩, ⟨fun h => ?_, rfl, by decide +kernel, .inl (by decide +kernel)⟩, fun st _ => ?_, ?_⟩
  · decide +kernel
  · decide +kernel
  · decide +kernel
  · decide +kernel
  · decide +kernel
  · decide +kernel
  · exact h 0x7FF (by decide +kernel) ⟨0x7FF, 1, 0, .i, []⟩ (by decide +kernel) rfl
  · cases st <;> decide +kernel
  · decide +kernel

/-- A job whose V stream works on two rows of FP32: x1 = 0x3FFF00, x2 = 0x80, x3 = 0xF00, queue 0 holds a tile. -/
def jV : Job :=
  { withExt (withX .v [(1, 0x3FFF00), (2, 0x80), (3, 0xF00), (4, 8)] job0) with
    vsEf := 0, vsRows := 2, vq := #v[[⟨Tile.zero, 0⟩], [], [], []] }

/-- The tile of zeros is in register r. -/
theorem readsV_reg (r : BitVec 5) (w : Nat) (h1 : (runs .v jV).cjob.busy (.vreg r) = none) :
    ReadsV (runs .v jV) w (.reg r) ((runs .v jV).cjob.v[r.toNat]) := ⟨h1, rfl, rfl⟩

theorem witness_VectorLanes : let s := runs .v jV
    (∃ x ts, lanesOf (rowsOn s) (.vabs (.reg 31) (.reg 0) ⟨.fp32, .rne, false⟩) = some x ∧
      List.Forall₂ (fun v t => ReadsV s x.w v.1 t) x.srcs ts ∧ CanIssueV s (dstReg s.cjob x.d) x.l) ∧
    (∃ x ts, lanesOf (rowsOn s) (.vadd (.rot 3) (.pop 0) (.splat 2) true ⟨.i8, .rne, true⟩) = some x ∧
      List.Forall₂ (fun v t => ReadsV s x.w v.1 t) x.srcs ts ∧ CanIssueV s (dstReg s.cjob x.d) x.l) ∧
    (∃ x ts, lanesOf (rowsOn s) (.vfnma (.reg 1) (.reg 0) (.reg 1) (.peek 0) false ⟨.bf16, .rz, false⟩) = some x ∧
      List.Forall₂ (fun v t => ReadsV s x.w v.1 t) x.srcs ts ∧ CanIssueV s (dstReg s.cjob x.d) x.l) := by
  refine ⟨⟨_, _, rfl, .cons (readsV_reg 0 _ (by decide +kernel)) .nil, by decide +kernel⟩,
    ⟨_, _, rfl, .cons ⟨by decide +kernel, _, [], rfl, by decide +kernel, rfl⟩ (.cons ⟨by decide +kernel, rfl⟩ .nil), by decide +kernel⟩,
    ⟨_, _, rfl, .cons (readsV_reg 0 _ (by decide +kernel)) (.cons (readsV_reg 1 _ (by decide +kernel))
      (.cons ⟨by decide +kernel, _, [], rfl, by decide +kernel, rfl⟩ .nil)), by decide +kernel⟩⟩

theorem witness_VectorRows : let s := runs .v jV
    (∃ x old ts, movedOf (rowsOn s) (.vins (.reg 2) (.reg 0) (.reg 1) .i32) = some x ∧
      List.Forall₂ (fun v t => ReadsV s v.2 v.1 t) x.srcs ts ∧ ReadsV s 64 (.reg (dstReg s.cjob x.d)) old ∧
      CanIssueV s (dstReg s.cjob x.d) x.l) ∧
    (∃ x ts, movedOf 16 (.vtrans (.reg 2) (.reg 0) .fp32) = some x ∧ List.Forall₂ (fun v t => ReadsV s v.2 v.1 t) x.srcs ts ∧
      x.keeps = false ∧ CanIssueV s (dstReg s.cjob x.d) x.l) ∧
    (∃ x old ts, sourceOf s = some .fp32 ∧ convertedOf (rowsOn s) .fp32 (.vcvt (.reg 2) (.reg 0) ⟨.e4m3, .ru, true⟩ 3) = some x ∧
      List.Forall₂ (fun v t => ReadsV s v.2 v.1 t) x.srcs ts ∧ ReadsV s 64 (.reg (dstReg s.cjob x.d)) old ∧
      CanIssueV s (dstReg s.cjob x.d) x.l) ∧
    (SettledX s ((0 : BitVec 1) ++ (1 : BitVec 3)) ∧ CanIssueV s (dstReg s.cjob (.reg 31)) (occW (rowsOn s) Fmt.i32.width + 3)) := by
  refine ⟨⟨_, _, _, rfl, .cons (readsV_reg 0 _ (by decide +kernel)) (.cons (readsV_reg 1 _ (by decide +kernel)) .nil),
      readsV_reg 2 _ (by decide +kernel), by decide +kernel⟩,
    ⟨_, _, rfl, .cons (readsV_reg 0 _ (by decide +kernel)) .nil, rfl, by decide +kernel⟩,
    ⟨_, _, _, rfl, rfl, .cons (readsV_reg 0 _ (by decide +kernel)) .nil, readsV_reg 2 _ (by decide +kernel), by decide +kernel⟩, ?_⟩
  decide +kernel

/-- A mark of a resource that lasts until cycle d. -/
def markOf (r : Rsc) (d : Nat) : Mark := ⟨r, d, 0x1FFFF8, false⟩

theorem witness_VectorTraps :
    (let s := runs .v { jV with marks := [markOf (.vreg 0) 1] }; s.cjob.busy (.vreg 0) ≠ none) ∧
    (let s := runs .v { jV with marks := [markOf .vpipe 1] };
      s.cjob.busy (.vreg 0) = none ∧ (s.cjob.ops.any fun o => o.vd == 0) = false ∧ s.cjob.busy .vpipe ≠ none ∧
        s.cjob.strict = false ∧ (runs .v (lock { jV with marks := [markOf .vpipe 1] })).cjob.strict = true) ∧
    (let s := runs .v { jV with marks := [markOf (.vreg 1) 5] };
      s.cjob.busy (.vreg 0) = none ∧ (s.cjob.ops.any fun o => o.vd == 0) = false ∧ s.cjob.busy .vpipe = none ∧
        ∃ m ∈ s.cjob.marks, m.rsc = .vreg 1 ∧ (m.h = true ↔ s.cjob.st = .trapped) ∧ s.cjob.now + (upTo (rowsOn s) 4 + 3) < m.due) ∧
    (∀ src, sourceOf (runs .v jV) = some src →
      convertedOf (rowsOn (runs .v jV)) src (.vpack (.reg 1) (.reg 0) (.reg 0) ⟨.e4m3, .rne, false⟩) = none) ∧
    (∀ src, sourceOf (runs .v jV) = some src →
      convertedOf (rowsOn (runs .v jV)) src (.vchscale (.reg 1) (.reg 0) (.reg 0) 2 .bf16) = none ∧ (2 : BitVec 2) ≠ 3) ∧
    rowsOn (runs .v { jV with vsRows := 15 }) ≠ 16 ∧
    (let s := runs .v jV;
      HasX s ((0 : BitVec 1) ++ (4 : BitVec 3)) 8 ∧ HasX s ((0 : BitVec 1) ++ (2 : BitVec 3)) 0x80 ∧ s.cjob.busy .mempipe = none ∧ Quiet s ∧
        (8 : Word).toNat % 16 ≠ 0 ∧ (0x80 : Word).toNat % 16 = 0) ∧
    (let s := runs .v (poisonX .v 7 0x2000000000000010 jV);
      SettledX s ((0 : BitVec 1) ++ (7 : BitVec 3)) ∧ (xv s ((0 : BitVec 1) ++ (7 : BitVec 3))).po = some 0x2000000000000010 ∧
        s.cjob.busy .mempipe = none ∧
        poisonOf [(xv s ((0 : BitVec 1) ++ (2 : BitVec 3))).po, (xv s ((0 : BitVec 1) ++ (7 : BitVec 3))).po] = some 0x2000000000000010 ∧
        Quiet s ∧ (∀ m ∈ s.cjob.marks, m.rsc = .vreg (dstReg s.cjob (.reg 0)) → (m.h = true ↔ s.cjob.st = .trapped) →
          m.due ≤ s.cjob.now + (upTo (rowsOn s) 4 + 4)) ∧ (s.cjob.outs.any fun g => g.writesV (dstReg s.cjob (.reg 0))) = false ∧
        ∀ o ∈ s.cjob.ops, o.vd = dstReg s.cjob (.reg 0) → s.cjob.now < o.due) := by
  refine ⟨by decide +kernel, by decide +kernel, ⟨by decide +kernel, by decide +kernel, by decide +kernel,
    markOf (.vreg 1) 5, by decide +kernel⟩, ?_, ?_, by decide +kernel, by decide +kernel, by decide +kernel⟩
  · intro src h; cases h; rfl
  · intro src h; cases h; exact ⟨rfl, by decide⟩

/-- A job with one vector word in flight, due in job cycle 8, that writes rows 0 and 15 of v31. -/
def jOp : Job := { job0 with jc := 8, ops := [⟨1, 31, [(0, ⟨1, none⟩), (15, ⟨2, none⟩)], 8⟩] }

theorem witness_VectorResultWrite :
    (∃ o, jOp.ops = [o] ∧ o.due ≤ jOp.jc ∧ jOp.st ≠ .trapped ∧ (jOp.moves.any fun m => m.ord == o.ord && m.data.isNone) = false ∧
      jOp.outs = [] ∧ (0 : Fin 32).val ≠ o.vd.toNat ∧ (∀ p ∈ o.rows, p.1 ≠ (1 : Fin 16).val) ∧
      o.rows.getLast? = some ((15 : Fin 16).val, ⟨2, none⟩)) ∧
    ∃ o, ({ jOp with jc := 7 } : Job).ops = [o] ∧ ({ jOp with jc := 7 } : Job).now < o.due := by
  refine ⟨⟨_, rfl, by decide +kernel⟩, _, rfl, by decide +kernel⟩

theorem witness_VectorMemoryRows : let s := runs .v jV
    (HasX s ((0 : BitVec 1) ++ (1 : BitVec 3)) 0x3FFF00 ∧ HasX s ((0 : BitVec 1) ++ (2 : BitVec 3)) 0x80 ∧
      (0x3FFF00 : Word).toNat % 16 = 0 ∧ (0x80 : Word).toNat % 16 = 0 ∧
      (∀ r, r < rowsOn s → RowInScratch s ((0x3FFF00 : Word) + BitVec.ofNat 64 r * 0x80).toNat) ∧ rowsOn s ≤ 16 ∧
      s.cjob.busy .mempipe = none ∧ Quiet s ∧ s.cjob.traffic = [] ∧
      (∀ m ∈ s.cjob.marks, m.rsc = .vreg (dstReg s.cjob (.rot 0)) → (m.h = true ↔ s.cjob.st = .trapped) →
        m.due ≤ s.cjob.now + (upTo (rowsOn s) 4 + 4)) ∧ (s.cjob.outs.any fun g => g.writesV (dstReg s.cjob (.rot 0))) = false ∧
      ∀ o ∈ s.cjob.ops, o.vd = dstReg s.cjob (.rot 0) → s.cjob.now < o.due) ∧
    (∃ t, ReadsV s 64 (.reg 0) t ∧ ∀ r, r < rowsOn s → (t.row r).po = none) ∧
    (HasX s ((0 : BitVec 1) ++ (3 : BitVec 3)) 0xF00 ∧ 0 < rowsOn s ∧ s.here.psb = [] ∧
      ∀ w, ∀ r, r < rowsOn s → RowInExtent s (.ext 0) ((0xF00 : Word) + BitVec.ofNat 64 r * 0x80) w (0x200F00 + BitVec.ofNat 64 r * 0x80)
        (0x10000000F00 + r * 0x80) false ∧ s.homeDead (0x10000000F00 + r * 0x80) = false) := by
  refine ⟨by decide +kernel, ⟨_, readsV_reg 0 _ (by decide +kernel), by decide +kernel⟩, by decide +kernel, by decide +kernel,
    by decide +kernel, fun w r hr => ?_⟩
  have hr : r < 2 := hr
  have : r = 0 ∨ r = 1 := by omega
  rcases this with rfl | rfl <;> cases w <;>
    exact ⟨⟨0, extAt 0x10000000000 true true, 0x10000000000, by decide +kernel⟩, by decide +kernel⟩

theorem witness_ElementFormats :
    (4 ∈ [4, 8, 16, 32, 64] ∧ 255 < 1024 / 4 ∧ 64 ∈ [4, 8, 16, 32, 64] ∧ 15 < 1024 / 64) ∧
    (Fmt.i8.isInt = true ∧ 255 < 2 ^ Fmt.i8.width ∧ Fmt.u4.isInt = true ∧ 15 < 2 ^ Fmt.u4.width) := by decide

/-- Nothing is in flight: no timing condition of the matrix engine keeps a word from issuing. -/
theorem mFree_quiet {s : State} (h : s.cjob.marks = [] ∧ s.cjob.aswap = [] ∧ s.cjob.traffic = [] ∧ s.cjob.outs = [] ∧ s.cjob.mops = [] ∧
    s.cjob.moves = [] ∧ s.cjob.late = []) (p : List Rsc)
    (c r : List (BitVec 3)) (ch : Bool) : MFree s p c r ch := by
  obtain ⟨h1, h2, h3, h4, h5, h6, h7⟩ := h
  refine ⟨fun x _ => by simp [Job.busy, h1], ?_, ?_, ?_, ?_, .inr h3, ?_, ?_⟩ <;> simp [h1, h2, h3, h4, h5, h6, h7, State.earlier]

theorem witness_MatrixProductIssue : let s := runs .m jM
    (HasX s 1 0x3FC000 ∧ HasX s 2 0x7FE000 ∧ HasX s 3 0x00804080 ∧ (0x00804080 : Word).toNat < 2 ^ 32 ∧ shM 0x00804080 = 128 ∧
      shN 0x00804080 = 64 ∧ shK 0x00804080 = 128 ∧ AlignedTo .plain 128 (0x3FC000 : Word).toNat ∧ AlignedTo .sk16 128 (0x3FC000 : Word).toNat ∧
      AlignedTo .plain 128 (0x7FE000 : Word).toNat ∧ TlFree s (some 7)) ∧
    (RangeIn s (0x3FC000 : Word).toNat (panelSize .e4m3 128 128) ∧ RangeIn s (0x3FC000 : Word).toNat (128 * 16 * Fmt.e4m3.width) ∧
      RangeIn s (0x7FE000 : Word).toNat (panelSize .e4m3 64 128) ∧ ¬ (inG1 (0x3FC000 : Word).toNat ↔ inG1 (0x7FE000 : Word).toNat) ∧
      TagsAre s .plain (0x3FC000 : Word).toNat (panelSize .e4m3 128 128) ∧ TagsAre s .plain (0x7FE000 : Word).toNat (panelSize .e4m3 64 128)) ∧
    (HasX s 4 0x00004080 ∧ shK 0x00004080 = 0) ∧
    (HasX s 5 0x10004080 ∧ shK 0x10004080 = 4096 ∧ shK 0x10004080 % 32 = 0) ∧ MFree s [arrayFor 7] [7] [] true := by
  refine ⟨?_, ?_, ?_, ?_, mFree_quiet (by decide +kernel) _ _ _ _⟩ <;> decide +kernel

theorem witness_AccumulatorWords_moves :
    (TlFree (runs .m jM) (some 0) ∧ (∀ c r ch, MFree (runs .m jM) [.xf] c r ch)) ∧
    (let s := runs .m (withX .m [(1, 0x3F8000), (2, 0x00004080)] jM);
      HasX s 1 0x3F8000 ∧ HasX s 2 0x00004080 ∧ shM 0x00004080 = 128 ∧ shN 0x00004080 = 64 ∧ pitchOf 0x00004080 256 = 256 ∧
        AlignedTo .sk32 4 (0x3F8000 : Word).toNat ∧ RangeIn s (0x3F8000 : Word).toNat (127 * 256 + 256) ∧
        TagsAre s .plain (0x3F8000 : Word).toNat (127 * 256 + 256) ∧ RowsClean (s.cjob.bankV 0) 128) ∧
    (let s := runs .m (withX .m [(1, 0x7FFC00), (2, 0x00000080)] jM);
      HasX s 1 0x7FFC00 ∧ HasX s 2 0x00000080 ∧ shN 0x00000080 = 0 ∧ shM 0x00000080 = 128 ∧ pitchOf 0x00000080 8 = 8 ∧
        RangeIn s (0x7FFC00 : Word).toNat (127 * 8 + 8) ∧ (0x7FFC00 : Word).toNat % 4 = 0 ∧ AlignedTo .plain 4 (0x7FFC00 : Word).toNat ∧
        TagsAre s .plain (0x7FFC00 : Word).toNat (127 * 8 + 8) ∧ RowsClean (s.cjob.bankV 7) 128) ∧
    (let s := runs .m (withX .m [(1, 0x3E0000), (2, 0x10000000080), (3, 15)] jM);
      HasX s 1 0x3E0000 ∧ HasX s 2 0x10000000080 ∧ (0x10000000080 : Word).toNat < 2 ^ 48 ∧ shN 0x10000000080 = 0 ∧
        shM 0x10000000080 = 128 ∧ (0x10000000080 : Word).toNat / 2 ^ 32 = 256 ∧ pitchOf 0x10000000080 1024 = 1024 ∧ AccsFit 4 256 ∧
        RangeIn s (0x3E0000 : Word).toNat (127 * 1024 + 1024) ∧ (∀ c ∈ accsFor 4 256, RowsClean (s.cjob.bankV c) 128) ∧
        HasX s 3 15 ∧
        (s.cjob.vq[0]).length + s.cjob.vpopped[0] + s.cjob.vqRes[0] < 4) := by
  refine ⟨⟨by decide +kernel, mFree_quiet (by decide +kernel) _⟩, ?_, ?_, ?_⟩ <;> decide +kernel

theorem witness_AccumulatorWords_exchange :
    ((∀ p ∈ (runs .m jM).cjob.aswap, p.1 ≠ 3) ∧ ∀ m ∈ (runs .m jM).cjob.marks, Live (runs .m jM) m → m.rsc ≠ .accSwap 3) ∧
    (∃ j : Job, j.aswap = [(3, 1, 0x200000)] ∧ (∀ m ∈ j.marks, j.now < m.due → (m.h = true ↔ j.st = .trapped) →
      (∀ c, m.rsc ≠ .accOwn ((0 : BitVec 1) ++ (3 : BitVec 2)) c) ∧ m.rsc ≠ .accRead ((0 : BitVec 1) ++ (3 : BitVec 2)))) ∧
    (∃ j : Job, j.aswap = [(3, 1, 0x200000)] ∧ ∃ m ∈ j.marks, j.now < m.due ∧ (m.h = true ↔ j.st = .trapped) ∧
      m.rsc = .accRead ((0 : BitVec 1) ++ (3 : BitVec 2))) := by
  refine ⟨by decide +kernel, ⟨{ jM with aswap := [(3, 1, 0x200000)] }, rfl, by decide +kernel⟩,
    { jM with jc := 4, aswap := [(3, 1, 0x200000)], marks := [⟨.accRead 3, 5, 0, false⟩] }, rfl, ⟨.accRead 3, 5, 0, false⟩, by decide +kernel⟩

/-- A scratchpad with an attention descriptor at 0x1000: one row, D = 32, 64 tokens, a token mask. -/
def coreA (j : Job) : Core :=
  { Core.zero with ctx0 := j, spad := Memory.write [] 0x1004 [1, 1, 32, 0, 64, 4] }

/-- ADESC 0x1000 and Q 0x3FFF80; PD 0x2000 and K 0x400000; V 0x7FE000. -/
def sAttn : State := issuing .m (coreA (withX .m [(1, 0x10003FFF80), (2, 0x2000400000), (3, 0x7FE000)] jM))

theorem witness_AttentionIssue : let s := sAttn
    (HasX s 1 0x10003FFF80 ∧ HasX s 2 0x2000400000 ∧ HasX s 3 0x7FE000 ∧ (0x10003FFF80 : Word).toNat % 2 ^ 24 = 0x3FFF80 ∧
      (0x10003FFF80 : Word).toNat / 2 ^ 24 = 0x1000 ∧ (0x2000400000 : Word).toNat % 2 ^ 24 = 0x400000 ∧
      (0x2000400000 : Word).toNat / 2 ^ 24 = 0x2000 ∧ (0x10003FFF80 : Word).toNat < 2 ^ 48 ∧ (0x2000400000 : Word).toNat < 2 ^ 48) ∧
    (BlockIn s 0x1000 32 ∧ aDescOk (seenAt s 0x1000 32) = true ∧ (aDesc (seenAt s 0x1000 32)).mask / 4 % 2 = 1 ∧
      BlockIn s (0x2000 + 0x140) 256 ∧ BlockIn s (0x2000 + 0x40) 256 ∧ AlignedTo .plain 128 0x3FFF80 ∧ AlignedTo .plain 128 0x400000 ∧
      AlignedTo .plain 128 0x7FE000 ∧ TlFree s none ∧ Fmt.e4m3.width = 8 ∧ Fmt.e4m3.width = Fmt.e5m2.width) ∧
    (let d := aDesc (seenAt s 0x1000 32)
     d.rows * (128 * upTo (d.d * 8) 1024) = 128 ∧ 64 * (128 * upTo (d.d * 8) 1024) = 8192 ∧ AccsFit 7 d.d) ∧
    (RangeIn s 0x3FFF80 128 ∧ RangeIn s 0x400000 8192 ∧ RangeIn s 0x7FE000 8192 ∧ ¬ (inG1 0x3FFF80 ↔ inG1 0x400000) ∧
      ¬ (inG1 0x3FFF80 ↔ inG1 0x7FE000) ∧ TagsAre s .plain 0x3FFF80 128 ∧ TagsAre s .plain 0x400000 8192 ∧
      TagsAre s .plain 0x7FE000 8192) ∧
    (∀ p c r ch, MFree s p c r ch) := by
  refine ⟨by decide +kernel, ⟨blockIn_of (by decide +kernel) (by decide +kernel), by decide +kernel, by decide +kernel,
    blockIn_of (by decide +kernel) (by decide +kernel), blockIn_of (by decide +kernel) (by decide +kernel), by decide +kernel⟩,
    by decide +kernel, by decide +kernel, mFree_quiet (by decide +kernel)⟩

theorem witness_MatrixResults :
    (∃ o : MatOp, o.op = (if true then Instr.mmat 1 2 3 4 .i8 .u8 .plain true true none else .mma 1 2 3 4 .i8 .u8 .plain true true none) ∧
      o.tl = none ∧ shM o.xs = 128 ∧ shN o.xs = 64 ∧ (127 : Nat) < 128 ∧ (63 : Nat) < 64) ∧
    (∃ o : MatOp, o.op = .azero 7 none ∧ o.tl = none ∧ (0 : BitVec 3) ≠ 7) ∧
    (∃ o : MatOp, o.op = .ald 7 1 2 .bf16 .plain none ∧ o.tl = none ∧ shM o.xs ≤ 128 ∧ shN o.xs ≤ 64) ∧
    (∃ o : MatOp, o.op = .avec 7 1 3 none ∧ o.tl = none ∧ o.xa.toNat < 16 ∧
      o.snap = (List.range 16).map (fun r => (16 * (o.xa.toNat % 8) + r, (jM.bankV 7).at (16 * (o.xa.toNat % 8) + r)))) ∧
    (∃ o : MatOp, o.tl = some (7, 1)) := by
  refine ⟨⟨opOf (.mmat 1 2 3 4 .i8 .u8 .plain true true none) 0 0x00014080 [] none, by decide⟩,
    ⟨opOf (.azero 7 none) 0 0 [] none, rfl, rfl, by decide⟩,
    ⟨opOf (.ald 7 1 2 .bf16 .plain none) 0 0x00004080 [] none, by decide⟩,
    ⟨opOf (.avec 7 1 3 none) 15 0 ((List.range 16).map fun r => (16 * 7 + r, (jM.bankV 7).at (16 * 7 + r))) none, rfl, rfl, by decide, rfl⟩,
    ⟨opOf (.azero 7 (some 7)) 0 0 [] (some (7, 1)), rfl⟩⟩

theorem witness_MatrixTraps : let s := runs .m jM
    (HasX s 1 0x3FC000 ∧ HasX s 2 0x7FE000 ∧ HasX s 3 0x00804080 ∧ ¬ (2 ^ 32 : Nat) < 2 ^ 32 ∧
      ¬ AlignedTo .plain 128 (0x3FC040 : Word).toNat ∧ ¬ AlignedTo .sk4 128 (0x3FC080 : Word).toNat ∧
      (inG1 (0x3FC000 : Word).toNat ↔ inG1 (0 : Word).toNat) ∧ RangeIn s (0 : Word).toNat (panelSize .e4m3 64 128) ∧
      ¬ TagsAre s .sk4 (0x3FC000 : Word).toNat (panelSize .e4m3 128 128)) ∧
    (let b : AccBank := AccBank.zero.set 127 { AccRowSt.zero with po := some 0x2000000000000000 };
      let s := runs .m { withX .m [(1, 0x7FFC00), (2, 0x80)] jM with accV := jM.accV.set 0 b };
      HasX s 1 0x7FFC00 ∧ HasX s 2 0x80 ∧ (0x80 : Word).toNat < 2 ^ 16 ∧ shN 0x80 = 0 ∧ (127 : Fin 128).val < shM 0x80 ∧
        RangeIn s (0x7FFC00 : Word).toNat ((shM 0x80 - 1) * 8 + 8) ∧ ((s.cjob.bankV 0)[(127 : Fin 128)]).po = some 0x2000000000000000 ∧
        ∀ q : Fin 128, q < 127 → ((s.cjob.bankV 0)[q]).po = none) ∧
    (∀ l ∈ [true, false], ∀ a ∈ [(3 : BitVec 3), 4], let j := { withX .m [(1, 15)] jM with marks := [⟨.accOwn a true, 1, 0x1FFFF8, false⟩] };
      let s := runs .m (if l then lock j else j);
      HasX s 1 15 ∧ s.cjob.busy .xf = none ∧ s.cjob.aswap = [] ∧
        s.cjob.marks = [⟨.accOwn a true, 1, 0x1FFFF8, false⟩] ∧ Live s ⟨.accOwn a true, 1, 0x1FFFF8, false⟩ ∧ s.cjob.strict = l) ∧
    (∀ l ∈ [true, false], ∀ a ∈ [(3 : BitVec 3), 4], let j := { jM with marks := [⟨.accRead a, 1, 0x1FFFF8, false⟩] };
      let s := runs .m (if l then lock j else j);
      s.cjob.busy .xf = none ∧ s.cjob.aswap = [] ∧ s.cjob.marks = [⟨.accRead a, 1, 0x1FFFF8, false⟩] ∧
        Live s ⟨.accRead a, 1, 0x1FFFF8, false⟩ ∧ s.cjob.strict = l) ∧
    ((runs .m { jM with aswap := [(3, 1, (0x1FFFF8 : Word).toNat)] }).cjob.aswap = [(3, 1, (0x1FFFF8 : Word).toNat)]) := by
  refine ⟨?_, ?_, ?_, ?_, ?_⟩ <;> decide +kernel

theorem witness_Turnstiles_words :
    (let j : Job := { job0 with car := jCar.car };
      ∀ k ∈ [(7 : BitVec 6).toNat, (16 : BitVec 6).toNat], ∀ c : Fin 4, ((runs .s j).cjob.car[c]).decl = true →
        k < ((runs .s j).cjob.car[c]).firstts ∨ ((runs .s j).cjob.car[c]).firstts + ((runs .s j).cjob.car[c]).count ≤ k) ∧
    (∀ k ∈ [(8 : BitVec 6).toNat, (15 : BitVec 6).toNat], ((runs .s jCar).cjob.car[3]).decl = true ∧
      ((runs .s jCar).cjob.car[3]).firstts ≤ k ∧ k < ((runs .s jCar).cjob.car[3]).firstts + ((runs .s jCar).cjob.car[3]).count) ∧
    (let s := runs .c (withX .c [(1, 0x7FFFFFFFFF), (2, 0x8000000000)] job0);
      HasX s 1 0x7FFFFFFFFF ∧ (0x7FFFFFFFFF : Word).toNat < 2 ^ 39 ∧ HasX s 2 0x8000000000 ∧ 2 ^ 39 ≤ (0x8000000000 : Word).toNat) := by
  refine ⟨?_, ?_, ?_⟩ <;> decide +kernel

/-- A turnstile with posts and arrivals of the present cycle. -/
def tsOf (st : TsState) (b : Int) (post : Option Nat) (arr : Nat) : Turnstile := ⟨st, false, b, 0, post, arr, false, none, false, false⟩

theorem witness_Turnstiles_cycle :
    ({ tsOf .armed 5 none 5 with init := true } : Turnstile).init = true ∧
    ((tsOf .poisoned 0 (some 1) 1).init = false ∧ ¬ ((tsOf .poisoned 0 (some 1) 1).st = .idle ∨ (tsOf .poisoned 0 (some 1) 1).st = .armed)) ∧
    (({ tsOf .idle 0 none 0 with badPhase := true } : Turnstile).badPhase = true ∧ (tsOf .idle 0 none 0).st = .idle) ∧
    (({ tsOf .armed 1 none 0 with err := some 0x40 } : Turnstile).err = some 0x40 ∧ (tsOf .armed 1 none 0).badPhase = false) ∧
    (let t := tsOf .armed (2 ^ 39 - 1) (some 1) 0;
      ¬ (-(2 ^ 39) ≤ t.balance + t.post.getD 0 - t.arr ∧ t.balance + t.post.getD 0 - t.arr ≤ 2 ^ 39 - 1)) ∧
    (let t := tsOf .idle (-(2 ^ 39) + 1) none 1;
      (-(2 ^ 39) ≤ t.balance + t.post.getD 0 - t.arr ∧ t.balance + t.post.getD 0 - t.arr ≤ 2 ^ 39 - 1) ∧ t.st = .idle ∧ t.post = none) ∧
    (let t := tsOf .idle 0 (some 1) 0; t.post ≠ none ∧ 0 < t.balance + t.post.getD 0 - t.arr) ∧
    (let t := tsOf .armed 1 none 1; t.st = .armed ∧ t.balance + t.post.getD 0 - t.arr = 0) ∧
    (let t := tsOf .armed 0 (some 0) 1; t.balance + t.post.getD 0 - t.arr < 0) := by decide

theorem witness_CarouselWords :
    (let s := issuing .s { Core.zero with
        ctx0 := withX .s [(1, 0x3FFFF0)] job0, spad := Memory.write [] 0x3FFFF0 (leBytes 8 0x78800010000 ++ leBytes 8 3) };
      HasX s 1 0x3FFFF0 ∧ (0x3FFFF0 : Word).toNat % 16 = 0 ∧ BlockIn s (0x3FFFF0 : Word).toNat 16 ∧
        little ((bytesAt s 0x3FFFF0 16).take 8) < 2 ^ 43 ∧ little ((bytesAt s 0x3FFFF0 16).drop 8) = 3 ∧ s.carouselInUse s.cur.core 3 = false) ∧
    (let w := 0x78800010000; let s := issuing .s { Core.zero with
        ctx0 := withX .s [(1, 0x1000)] job0, spad := Memory.write [] 0x1000 (leBytes 8 w ++ leBytes 8 3) };
      HasX s 1 0x1000 ∧ BlockIn s (0x1000 : Word).toNat 16 ∧ little ((bytesAt s 0x1000 16).take 8) = w ∧ w < 2 ^ 43 ∧ w / 2 ^ 27 % 32 = 0 ∧
        little ((bytesAt s 0x1000 16).drop 8) < 4 ∧ s.cjob.declBad 3 (carouselOf (bytesAt s 0x1000 16)) = false ∧
        s.carouselInUse s.cur.core 3 = false) ∧
    (2 ^ 43 ≤ 2 ^ 43 ∧ 2 ^ 27 / 2 ^ 27 % 32 ≠ 0 ∧ 4 ≤ 4) ∧
    (let k := (runs .s jCar).cjob.car[3]; k.decl = true ∧ k.rel.length < min k.level ((runs .s jCar).cjob.car0[3]).level) ∧
    (let k := (runs .s jCar).cjob.car[0]; k.decl = false) ∧
    (let c := jCar.car[3]; 0 < c.level ∧ c.tail < 8 ∧ 0 < c.count ∧ c.slot c.tail ≠ .poisoned ∧
      c.head < 8 ∧ c.level < c.count ∧ c.slot c.head = .opened) := by
  refine ⟨⟨by decide +kernel, by decide +kernel, blockIn_of (by decide +kernel) (by decide +kernel), by decide +kernel⟩,
    ⟨by decide +kernel, blockIn_of (by decide +kernel) (by decide +kernel), by decide +kernel⟩, ?_, ?_, ?_, ?_⟩ <;> decide +kernel

/-- A tensor map of one dimension, 4,096 bytes of U8 at 0x200000, of which the last 16 are copied. -/
def mapPlain : List Byte :=
  pack [(0x200000, 8), (1, 1), (9, 1), (0, 1), (0, 1), (0, 2), (0, 1), (0, 1), (0, 4), (4096, 4), (0, 60), (16, 2), (0, 26)]

/-- A KV-indirect map of one token of E4M3 with 32 columns. -/
def mapKv : List Byte :=
  pack [(0x200000, 8), (4, 1), (3, 1), (0, 1), (2, 1), (0, 2), (0, 1), (0, 1), (0, 4), (32, 4), (64, 4), (1, 4), (2, 4), (0, 48),
    (32, 2), (1, 2), (1, 2), (1, 2), (0, 20)]

/-- A job whose copy words have their blocks at x2 and x3 and whose scratchpad holds them; the maps' pages are translated. -/
def copying (m o : List Byte) (x1 : Word) : State :=
  let s := mapped (issuing .c { Core.zero with
    ctx0 := withX .c [(1, x1), (2, 0x3FFF90), (3, 0x7FFFE4)] job0
    spad := Memory.write (Memory.write [] 0x3FFF90 m) 0x7FFFE4 o })
  { s with mem := kvImage }

theorem witness_CopySubmission_copy :
    let s := copying mapPlain (leBytes 4 4080) 0x7FFFF0; let m := tmapOf (bytesAt s 0x3FFF90 112) (bytesAt s 0x7FFFE4 28)
    ∃ xl, HasX s 2 0x3FFF90 ∧ HasX s 3 0x7FFFE4 ∧ HasX s 1 0x7FFFF0 ∧ BlockIn s (0x3FFF90 : Word).toNat 112 ∧
      BlockPart s (0x7FFFE4 : Word).toNat 28 (4 * min 7 (fieldAt (bytesAt s 0x3FFF90 112) 8 1)) ∧ (∀ st, firstFault (m.faults (bytesAt s 0x3FFF90 112) st) = none) ∧ m.trapDim = none ∧
      (0x7FFFF0 : Word).toNat % (if m.swz = 0 then 16 else 4096) = 0 ∧ (∀ st, SpanOk s (!st) 0x7FFFF0 m.bytes) ∧
      m.kvind = false ∧
      (∀ st, CanSubmit s st (some 7)) ∧ ∀ rd w, Resident s m.vas rd w xl := by
  refine ⟨[(1, ⟨0x10000000000, 0x10000600000, true, true, false⟩)], by decide +kernel, by decide +kernel, by decide +kernel,
    blockIn_of (by decide +kernel) (by decide +kernel), blockIn_of (by decide +kernel) (by decide +kernel), by decide +kernel,
    by decide +kernel, by decide +kernel, fun st => spanOk_of (by decide +kernel) (by decide +kernel), by decide +kernel, by decide +kernel, fun rd w => ?_⟩
  exact resident_page1 ⟨0x10000000000, 0x10000600000, true, true, false⟩ (by decide +kernel) (by decide +kernel) 0x200FF0 (by decide +kernel) (by cases rd <;> cases w <;> decide +kernel) (by decide +kernel)

theorem witness_CopySubmission_sends :
    (let s := runs .s (withX .s [(1, 0x8017FFFF0 - 0x800000000), (2, 0x7FFFF0), (3, 16), (4, 0), (5, 0x7F000010)] job0);
      HasX s 2 0x7FFFF0 ∧ HasX s 5 0x7F000010 ∧ HasX s 3 16 ∧ HasX s 4 0 ∧ locatorOk 0x7F000010 = true ∧ (0x7FFFF0 : Word).toNat % 16 = 0 ∧
        (locator 0x7F000010).loc % 16 = 0 ∧ SpanOk s false 0x7FFFF0 0 ∧ (16 : Word) ≠ 0 ∧ (∀ x ∈ tilesOf 0x7FFFF0 16, s.here.tag x = 0) ∧
        CanSubmit s true (some 0)) ∧
    (let s := runs .s (withX .s [(2, 0x3FFFF8), (3, 1), (4, 4096), (5, 0x800000 - 2048)] job0);
      HasX s 2 0x3FFFF8 ∧ HasX s 3 1 ∧ 1 ≤ (1 : Word).toNat ∧ HasX s 4 4096 ∧ (4096 : Word).toNat ≤ 4096 ∧ s.cjob.inMask .m = true ∧
        (0x3FFFF8 : Word).toNat % 8 = 0 ∧ s.cjob.inMask .v = true ∧ HasX s 5 0x7FF800 ∧ (0x7FF800 : Word).toNat % 16 = 0 ∧
        CanSubmit s false none) ∧
    (let s := runs .s (withX .s [(2, 0x7FC003F0), (3, 0x7FFFFFFFFF)] job0);
      HasX s 2 0x7FC003F0 ∧ HasX s 3 0x7FFFFFFFFF ∧ locatorOk 0x7FC003F0 = true ∧ (0x7FFFFFFFFF : Word).toNat < 2 ^ 39 ∧
        0xC00000 ≤ (locator 0x7FC003F0).loc ∧ (locator 0x7FC003F0).loc < 0xC00400 ∧ (locator 0x7FC003F0).loc % 16 = 0 ∧ CanSubmit s true none ∧ Lands s) := by
  refine ⟨?_, ?_, ?_⟩
  · refine ⟨?_, ?_, ?_, ?_, ?_, ?_, ?_, ⟨?_, .inl rfl⟩, ?_⟩ <;> decide +kernel
  · decide +kernel
  · exact ⟨by decide +kernel, by decide +kernel, by decide +kernel, by decide +kernel, by decide +kernel, by decide +kernel,
      by decide +kernel, by decide +kernel, lands_of (by decide +kernel)⟩

theorem witness_CopySubmission_spans :
    SpanOk (runs .s (withX .s [(1, 1)] job0)) false 0x7FFFF0 16 ∧ SpanOk (runs .s (withX .s [(1, 1)] job0)) false 0x3FFFF8 8 ∧
    SpanOk (runs .s (withX .s [(1, 1)] job0)) false 0x7FF800 2048 :=
  ⟨spanOk_of (by decide +kernel) (by decide +kernel), spanOk_of (by decide +kernel) (by decide +kernel),
    spanOk_of (by decide +kernel) (by decide +kernel)⟩

/-- The state of a KV-indirect copy, its map, its table and its pool. -/
def sKv : State := copying mapKv (leBytes 28 0) 0x7FFFE0
def mKv : TMap := tmapOf mapKv (leBytes 28 0)
def tKv : KvTable := ⟨0x200000, 0x201000, 1, 1, 64, 64, 0⟩
def pKv : Pool := ⟨0x201000, 0x400000, 14, 1, 32, 1, 0, 0x202000, 0x202400⟩
def eKv : Word := 0x4BF0000000000000

/-- The copy by which the objects are read. -/
def byKv : KvBy := copyBy sKv .ld 1 2 3 ⟨none, none, .pkg⟩ 0x3FFF90 0x7FFFE4 0x7FFFE0 (bytesAt sKv 0x3FFF90 112) (bytesAt sKv 0x7FFFE4 28)

/-- What the three steps of its submission find: the table and its pool, the entries, the holds. -/
def see1 : Res ((KvTable × Pool × List Byte) × List KvPg) :=
  sKv.kvLook byKv byKv.cmd.part (sKv.kvHead 0 0x200000) (fun e => kvTrap sKv (.error e)) lookLimit []
def look1 : (KvTable × Pool × List Byte) × List KvPg := see1.toOption.getD ((tKv, pKv, []), [])
def see2 : Res (List (Nat × Word) × List KvPg) :=
  sKv.kvLook byKv byKv.cmd.part (sKv.kvEnts 0 mKv 0x200000 tKv pKv) (fun e => kvTrap sKv (.error e)) lookLimit look1.2
def look2 : List (Nat × Word) × List KvPg := see2.toOption.getD ([], [])
def see3 : Res ((State × List (Nat × Nat × Nat)) × List KvPg) :=
  sKv.kvLook byKv byKv.cmd.part (sKv.kvHolds 0 false tKv pKv [0]) (fun e => kvTrap sKv (.error e)) lookLimit look2.2
def look3 : (State × List (Nat × Nat × Nat)) × List KvPg := see3.toOption.getD ((sKv, []), [])

/-- Each of them answers. -/
theorem saw1 : Looks sKv byKv (sKv.kvHead 0 0x200000) [] look1.2 (tKv, pKv, look1.1.2.2) := by
  have e : (look1.1.1, look1.1.2.1) = (tKv, pKv) := by decide +kernel
  have h : see1 = .ok look1 := ok_getD _ (by decide +kernel)
  unfold see1 at h
  rw [Looks, h]
  generalize look1 = l at e
  obtain ⟨⟨k, p, b⟩, l⟩ := l
  cases e
  rfl
theorem saw2 : Looks sKv byKv (sKv.kvEnts 0 mKv 0x200000 tKv pKv) look1.2 look2.2 look2.1 := by
  have h : see2 = .ok look2 := ok_getD _ (by decide +kernel)
  unfold see2 at h
  rw [Looks, h]
theorem saw3 : Looks sKv byKv (sKv.kvHolds 0 false tKv pKv [0]) look2.2 look3.2 (look3.1.1, look3.1.2) := by
  have h : see3 = .ok look3 := ok_getD _ (by decide +kernel)
  unfold see3 at h
  rw [Looks, h]

theorem witness_CopySubmission_kv : let n := byKv
    let ents := look2.1.filter fun x => entSt x.2 != 0
    ∃ head, HasX sKv 2 0x3FFF90 ∧ HasX sKv 3 0x7FFFE4 ∧ HasX sKv 1 0x7FFFE0 ∧ BlockIn sKv (0x3FFF90 : Word).toNat 112 ∧
      BlockPart sKv (0x7FFFE4 : Word).toNat 28 (4 * min 7 (fieldAt (bytesAt sKv 0x3FFF90 112) 8 1)) ∧
      tmapOf (bytesAt sKv 0x3FFF90 112) (bytesAt sKv 0x7FFFE4 28) = mKv ∧
      firstFault (mKv.faults mapKv false) = none ∧ mKv.trapDim = none ∧ SpanOk sKv true 0x7FFFE0 mKv.bytes ∧ mKv.kvind = true ∧
      mKv.base % 64 = 0 ∧ CanSubmit sKv false none ∧ Resident sKv [mKv.base] true false head ∧
      sKv.tableHeld ((head.map fun x => canon sKv.pkgnum.toNat (x.2.frame + mKv.base % 0x200000)).headD 0) = false ∧
      Looks sKv n (sKv.kvHead 0 0x200000) [] look1.2 (tKv, pKv, look1.1.2.2) ∧ firstFault (mKv.kvFaults pKv) = none ∧
      Looks sKv n (sKv.kvEnts 0 mKv 0x200000 tKv pKv) look1.2 look2.2 look2.1 ∧ ents = [(0, eKv)] ∧
      (∀ x, x < mKv.count → ∃ cs, mKv.coords x = some cs ∧ (kvHeld ents cs).isSome = true) ∧
      (ents.map fun x => entSlot x.2).eraseDups = [0] ∧
      Looks sKv n (sKv.kvHolds 0 false tKv pKv [0]) look2.2 look3.2 (look3.1.1, look3.1.2) ∧ Pinnable look3.1.1 look3.2 := by
  have he : (look2.1.filter fun x => entSt x.2 != 0) = [(0, eKv)] := by decide +kernel
  have hc : ∀ x : Fin 32, (match mKv.coords x.val with | some cs => (kvHeld [(0, eKv)] cs).isSome | none => false) = true := by
    decide +kernel
  refine ⟨[(1, ⟨0x10000000000, 0x10000600000, true, true, false⟩)],
    ?_, ?_, ?_, blockIn_of ?_ ?_, blockIn_of ?_ ?_, ?_, ?_, ?_, spanOk_of ?_ ?_, ?_, ?_, ?_,
    resident_page1 ⟨0x10000000000, 0x10000600000, true, true, false⟩ ?_ ?_ 0x200000 ?_ ?_ ?_, ?_, saw1, ?_, saw2, he,
    fun x hx => ?held, ?slots, saw3, ?_⟩
  case held =>
    rw [he]
    have := hc ⟨x, hx⟩
    revert this
    cases mKv.coords x with
    | none => intro h; cases h
    | some cs => exact fun h => ⟨cs, rfl, h⟩
  case slots => rw [he]; decide
  all_goals decide +kernel

theorem witness_CopySubmission_scope : scopeRank copyr1.scope ≤ 2 ∧ (runs .c job0).sendsTo 0 copyr1 ≠ [] := by decide +kernel

/-- A core with a scratchpad image at 0x3FFFC0 (64 bytes) and a job with x1 = 0x3FFFC0. -/
def blockAt (b : List Byte) (j : Job) : State :=
  mapped (issuing .c { Core.zero with ctx0 := withX .c [(1, 0x3FFFC0)] j, spad := Memory.write [] 0x3FFFC0 b })

/-- A collective block: cores 0 and 1 of package 0, the given channel and count. -/
def collBlock (chan count : Nat) : List Byte :=
  pack [(3, 16), (0, 2), (1, 2), (chan, 1), (0, 1), (0, 2), (0, 4), (0, 4), (count, 8), (0, 24)]

theorem witness_WindowWords :
    (let s := runs .c (withX .c [(1, 0x7FF000), (2, 0x1000), (3, 0)] job0);
      HasX s 1 0x7FF000 ∧ HasX s 2 0x1000 ∧ HasX s 3 0 ∧ (0x7FF000 : Word).toNat % 4096 = 0 ∧ (0x1000 : Word).toNat % 4096 = 0 ∧
        (0x7FF000 : Word).toNat + (0x1000 : Word).toNat ≤ 0x800000 ∧ (s.here.winAfter.getD (7 : BitVec 3).toNat ⟨0, 0⟩).len = 0 ∧
        (∀ r ∈ s.here.winAfter, r.len = 0 ∨ (0x800000 : Nat) ≤ r.base ∨ r.base + r.len ≤ 0x7FF000) ∧ s.here.copies = [] ∧
        CanSubmit s true (some 7)) ∧
    (let s := runs .c (withX .c [(1, 0x7FF000), (2, 0x13FF000), (3, 1)] job0);
      HasX s 1 0x7FF000 ∧ HasX s 2 0x13FF000 ∧ HasX s 3 1 ∧ locatorOk 0x13FF000 = true ∧ (locator 0x13FF000).loc = 0x3FF000 ∧
        0x7FF000 + 1 * 4096 ≤ 0x800000 ∧
        ¬ (s.localName (locator 0x13FF000) = true ∧ (locator 0x13FF000).core = s.cur.core) ∧ s.here.inWindow (0x7FF000 / 4096) = false ∧
        s.here.copyAt (0x7FF000 / 4096) = none ∧ s.here.copies.length + 1 ≤ 512 ∧ CanSubmit s false none) ∧
    (let s := issuing .c { Core.zero with ctx0 := withX .c [(1, 0x7FF000), (3, 1)] job0, copies := [⟨0x7FF, 1, 0x3FF, .s, []⟩] };
      HasX s 1 0x7FF000 ∧ HasX s 3 1 ∧ (0x7FF000 : Word).toNat < 2 ^ 24 ∧ 1 ≤ (1 : Word).toNat ∧ (1 : Word).toNat ≤ 512 ∧
        (0x7FF000 : Word).toNat + (1 : Word).toNat * 4096 ≤ 0x800000 ∧
        (s.here.copyAt (0x7FF000 / 4096 + 0)).isSome = true ∧ CanSubmit s true none ∧ Lands s) ∧
    (let s := runs .c (withX .c [(1, 0x3FF000), (2, 0x7FF000), (3, 2)] job0);
      HasX s 1 0x3FF000 ∧ HasX s 2 0x7FF000 ∧ HasX s 3 2 ∧ (0x3FF000 : Word).toNat < 0x400000 ∧
        0x400000 < (0x3FF000 : Word).toNat + (2 : Word).toNat * 4096 ∧ 0x800000 < (0x7FF000 : Word).toNat + (2 : Word).toNat * 4096 ∧
        (0x7FF000 : Word).toNat < 2 ^ 24) := by
  refine ⟨?_, ?_, ⟨?_, ?_, ?_, ?_, ?_, ?_, ?_, ?_, lands_of ?_⟩, ?_⟩ <;> decide +kernel

theorem witness_CollectiveWords :
    (let s := blockAt (collBlock 13 4) (withX .c [(2, 0x7FFFF0), (3, 0x3FFF00)] job0); let b := bytesAt s 0x3FFFC0 64
      HasX s 1 0x3FFFC0 ∧ HasX s 2 0x7FFFF0 ∧ HasX s 3 0x3FFF00 ∧ BlockIn s (0x3FFFC0 : Word).toNat 64 ∧
        s.collBad s.cur.core (.creduce .sum 3 2 1 ⟨none, none, .pod⟩) b = false ∧ fieldAt b 0x14 1 < 14 ∧
        memberBits (.creduce .sum 3 2 1 ⟨none, none, .pod⟩) b % 128 = 0 ∧ memberBytes (.creduce .sum 3 2 1 ⟨none, none, .pod⟩) b = 16 ∧
        resultBytes (.creduce .sum 3 2 1 ⟨none, none, .pod⟩) b = 16 ∧ SpanOk s false 0x7FFFF0 16 ∧ SpanOk s true 0x3FFF00 16 ∧ CanSubmit s true none) ∧
    (let s := blockAt (collBlock 13 64) (withX .c [(2, 0x7FFFC0), (3, 0x3FFF00)] job0); let b := bytesAt s 0x3FFFC0 64
      HasX s 2 0x7FFFC0 ∧ s.collBad s.cur.core (.cring 3 2 1 ⟨none, none, .pod⟩) b = false ∧
        memberBits (.cring 3 2 1 ⟨none, none, .pod⟩) b % 512 = 0 ∧ countOf b = 64 ∧ (0x3FFF00 : Word).toNat + 64 ≤ 0x400000) ∧
    (let s := blockAt (collBlock 15 4) { job0 with nest := { job0.nest with prio := 7 } };
      s.collBad s.cur.core (.cbcast 3 2 1 ⟨none, none, .pod⟩) (bytesAt s 0x3FFFC0 64) = false ∧ s.cjob.nest.prio = 7) ∧
    (collOf (.cring 3 2 1 ⟨none, none, .pod⟩)).isSome = true := by
  refine ⟨⟨?_, ?_, ?_, blockIn_of ?_ ?_, ?_, ?_, ?_, ?_, ?_, spanOk_of ?_ ?_, spanOk_of ?_ ?_, ?_⟩, ?_, ?_, rfl⟩ <;> decide +kernel

/-- The same with a table, its pool and its translations there. -/
def kvAt (b : List Byte) (j : Job) : State := { blockAt b j with mem := kvImage }

theorem witness_KvSubmission :
    (let s := kvAt (pack [(0x200000, 8), (0x340, 8)]) (withX .c [(2, 1)] job0); let b := bytesAt s 0x3FFFC0 16
      let c := { s.command (.kvappend 3 1 2 ⟨none, none, .pkg⟩) none .pkg 0x3FFFC0 1 0 with blk := b, total := 1 }
      HasX s 1 0x3FFFC0 ∧ HasX s 2 1 ∧ BlockIn s (0x3FFFC0 : Word).toNat 16 ∧
        (∀ k, k < 1 → fieldAt b (16 * k) 8 % 64 = 0 ∧ fieldAt b (16 * k + 8) 8 < 1024 ∧ 1 ≤ fieldAt b (16 * k + 8) 8 % 256 ∧
          fieldAt b (16 * k + 8) 8 % 256 ≤ 64) ∧ CanSubmit s true none ∧ ∃ l, Touches s c l ∧ Pinnable s l ∧ l ≠ []) ∧
    (let s := kvAt (pack [(0x200080, 8), (0x200000, 8), (0, 4), (4096, 4), (0, 8)]) job0; let b := bytesAt s 0x3FFFC0 32
      let c := { s.command (.kvref 1 ⟨none, none, .pkg⟩) none .pkg 0x3FFFC0 0 0 with blk := b, src := 0x3FFFC0, total := 1 }
      HasX s 1 0x3FFFC0 ∧ BlockIn s (0x3FFFC0 : Word).toNat 32 ∧
        kvOf b (.kvref 1 ⟨none, none, .pkg⟩) = some (1, none, ⟨none, none, .pkg⟩, 1) ∧
        fieldAt b 0 8 % 64 = 0 ∧ fieldAt b 0x14 4 = 4096 ∧ fieldAt b 8 8 % 64 = 0 ∧ fieldAt b 0x18 4 = 0 ∧ CanSubmit s true none ∧
        ∃ l, Touches s c l ∧ Pinnable s l ∧ l ≠ []) ∧
    (let s := kvAt (pack [(0x200000, 8), (0, 8), (0, 4), (1, 4), (5, 8)]) (withX .c [(2, 0xFFFFFF)] job0); let b := bytesAt s 0x3FFFC0 32
      let c := { s.command (.kvsetRep 1 2 ⟨none, none, .pkg⟩) none .pkg 0x3FFFC0 0xFFFFFF 0 with blk := b, src := 0x3FFFC0, total := 1 }
      HasX s 2 0xFFFFFF ∧ (0xFFFFFF : Word).toNat < 2 ^ 24 ∧
        kvOf b (.kvsetRep 1 2 ⟨none, none, .pkg⟩) = some (1, some 2, ⟨none, none, .pkg⟩, 1) ∧
        fieldAt b 0x14 4 = 1 ∧ fieldAt b 8 8 = 0 ∧ fieldAt b 0x18 4 = 5 ∧ ∃ l, Touches s c l ∧ Pinnable s l ∧ l ≠ []) ∧
    (let s := kvAt (pack [(0x200000, 8)]) job0; let b := bytesAt s 0x3FFFC0 32
      let c := { s.command (.roust 1 7 none .pkg) none .pkg 0x3FFFC0 0 0 with blk := b, src := 0x3FFFC0, total := 1 }
      BlockIn s (0x3FFFC0 : Word).toNat 32 ∧ fieldAt b 0x14 4 = 0 ∧ CanSubmit s true (some 7) ∧
        ∃ l, Touches s c l ∧ Pinnable s l ∧ l ≠ []) := by
  refine ⟨⟨?_, ?_, blockIn_of ?_ ?_, ?_, ?_, _, touches_of ?_, ?_⟩,
    ⟨?_, blockIn_of ?_ ?_, ?_, ?_, ?_, ?_, ?_, ?_, _, touches_of ?_, ?_⟩, ⟨?_, ?_, ?_, ?_, ?_, ?_, _, touches_of ?_, ?_⟩,
    blockIn_of ?_ ?_, ?_, ?_, _, touches_of ?_, ?_⟩ <;> decide +kernel

theorem witness_SubmissionStops :
    (let s := runs .c (withX .c [(1, 0x1000000), (2, 0xFFFFFF), (3, 0x80000000), (4, 0x10), (6, 0xC00400), (7, 0xFFFFF0)] job0);
      HasX s 1 0x1000000 ∧ 2 ^ 24 ≤ (0x1000000 : Word).toNat ∧ HasX s 2 0xFFFFFF ∧ (0xFFFFFF : Word).toNat < 2 ^ 24 ∧
        HasX s 3 0x80000000 ∧ locatorOk 0x80000000 = false ∧ (0xFFFFFF : Word).toNat % 16 ≠ 0 ∧ HasX s 4 0x10 ∧ locatorOk 0x10 = true ∧
        HasX s 6 0xC00400 ∧ 0xC00400 ≤ (0xC00400 : Word).toNat ∧ HasX s 7 0xFFFFF0 ∧ (0xFFFFF0 : Word).toNat % 16 = 0) ∧
    (let s := issuing .c { Core.zero with ctx0 := withX .c [(2, 0x10), (3, 0x10), (4, 0)] job0, sqFreed := 16 };
      HasX s 2 0x10 ∧ HasX s 3 0x10 ∧ HasX s 4 0 ∧ (locator 0x10).loc % 16 = 0 ∧ Quiet s ∧ s.cjob.late = [] ∧
        (∀ p ∈ s.here.psb, p.rdup = false) ∧ 16 ≤ s.here.taken true) ∧
    (let s := blockAt (collBlock 14 4) (withX .c [(2, 0x7FFFF0), (3, 0x3FFF00)] job0);
      collOf (.cbcast 3 2 1 ⟨none, none, .pod⟩) = some (3, 2, 1, ⟨none, none, .pod⟩, true) ∧ HasX s 1 0x3FFFC0 ∧ HasX s 2 0x7FFFF0 ∧
        HasX s 3 0x3FFF00 ∧ BlockIn s (0x3FFFC0 : Word).toNat 64 ∧
        s.collBad s.cur.core (.cbcast 3 2 1 ⟨none, none, .pod⟩) (bytesAt s 0x3FFFC0 64) = false ∧
        14 ≤ fieldAt (bytesAt s 0x3FFFC0 64) 0x14 1 ∧ s.cjob.nest.prio ≠ 7) ∧
    (let s := runs .c (poisonX .c 1 0x2000000000000040 job0); SettledX s 1 ∧ (xv s 1).po = some 0x2000000000000040) := by
  refine ⟨?_, ?_, ⟨?_, ?_, ?_, ?_, blockIn_of ?_ ?_, ?_⟩, ?_⟩ <;> decide +kernel

/-- Core 0 with the given job. -/
def core0 (j : Job) : State := runs .s j

/-- An outstanding access of the S stream. -/
def accOf (k : GKind) (reg : BitVec 5) (len : Nat) (val : Option (List Byte × Option Origin)) : GAcc :=
  ⟨.s, k, reg, 0x200000, 0x10000000000, len, false, true, .core, 3, val⟩

theorem witness_ResultEvents :
    (JobRuns (core0 job0) 0) ∧
    (∃ o, let j : Job := { jM with jc := 4, mops := [o] }
      JobRuns (core0 j) 0 ∧ ((core0 j).job 0).mops = [o] ∧ o.due ≤ ((core0 j).job 0).now ∧ o.fin = false ∧
        o.massHeld ((core0 j).heldTile 0) ((core0 j).core 0) = false) ∧
    (let s := core0 { jM with jc := 4, aswap := [(3, 1, 0x200000)], marks := [⟨.accOwn 3 false, 3, 0, false⟩] };
      JobRuns s 0 ∧ (s.job 0).aswap = [(3, 1, 0x200000)] ∧ ∀ m ∈ (s.job 0).marks, (s.job 0).now < m.due →
        (m.h = true ↔ (s.job 0).st = .trapped) →
        (∀ c, m.rsc ≠ .accOwn ((0 : BitVec 1) ++ (3 : BitVec 2)) c) ∧ m.rsc ≠ .accRead ((0 : BitVec 1) ++ (3 : BitVec 2))) ∧
    (let g := accOf (.load .h true) ((0 : BitVec 1) ++ (15 : BitVec 4)) 2 (some ([0xFF, 0xFF], none)); let s := core0 { job0 with outs := [g] };
      ((s.job 0).nest.lockstep = false ∨ (s.job 0).cycDone = false) ∧ (s.job 0).outs = [g] ∧ g.strm = .s ∧ g.kind = .load .h true ∧ g.reg = (0 : BitVec 1) ++ (15 : BitVec 4) ∧ (15 : BitVec 4) ≠ 0 ∧
        g.val = some ([0xFF, 0xFF], none) ∧ [(0xFF : Byte), 0xFF].length = widthOf .h) ∧
    (let g := accOf (.atomic 0 true 1 0) 0 8 none; let s := core0 { job0 with outs := [g] };
      (s.job 0).outs = [g] ∧ g.kind = .atomic 0 true 1 0 ∧ g.val = none ∧ g.len = 8 ∧ (s.core 0).psb = [] ∧ s.homeDead g.pa = false ∧
        s.homePo g.pa g.len = none ∧ s.dups = [] ∧ s.mem.wf = true ∧ (∀ m, alGet s.homeOrder (g.pa / 256) = some m → m ≤ (0 : Nat)) ∧
        (alGet s.holders (g.pa / 0x200000)).getD [] = [] ∧ s.rdWrites = []) := by
  refine ⟨?_, ⟨{ opOf (.azero 1 none) 0 0 [] none with due := 4, fin := false }, ?_⟩, ?_, ?_, ?_⟩ <;> decide +kernel

/-- The S stream of core 0 held so. -/
def heldBy (k : Hold) (x : Nat) : State :=
  core0 (job0.modStream .s fun t => { t with held := some (k, x) })

theorem witness_HoldEndEvents :
    ((((heldBy .stamp 0).job 0).stream .s).held = some (.stamp, 0) ∧ 0 ≤ (heldBy .stamp 0).gcc) ∧
    ((((heldBy .queueFull 0).job 0).stream .s).held = some (.queueFull, 0)) ∧
    (let s := parted (heldBy .translation 1);
      ((s.job 0).stream .s).held = some (.translation, 1) ∧
        s.walk (s.job 0).nest.part (BitVec.ofNat 64 (1 * 0x200000)) false false false =
          .ok ⟨0x10000000000, 0x10000403008, true, true, false⟩) ∧
    (let s := parted (core0 job0); let table (k : Nat) : Nat := 0x10000400000 + 0x1000 * (3 - k);
      let ea (k : Nat) : Nat := table k + 0x200000 / 2 ^ (21 + 9 * k) % 512 * 8;
      let e (k : Nat) : Word := BitVec.ofNat 64 (little (s.homeBytes (ea k) 8));
      (∃ p, s.partOf job0.nest.part = some p ∧ table 3 = p.root.toNat * 4096) ∧
      (∀ k, k < 3 → table k = (e (k + 1) &&& 0x000FFFFFFFFFF000).toNat) ∧
      (∀ k, k < 4 → canon s.pkgnum.toNat (ea k) = ea k ∧ s.isDram (ea k) = true ∧ s.homeDead (ea k) = false ∧
        s.homePo (ea k) 8 = none ∧ (e k).getLsbD 0 = true) ∧
      (∀ k, k < 4 → 1 ≤ k → e k &&& 0xFFF0000000000FFE = 0) ∧ e 0 &&& 0xFFF00000001FFFD0 = 0 ∧
      s.frameBad (e 0 &&& 0x000FFFFFFFE00000).toNat false ((e 0).getLsbD 5) = false) := by
  refine ⟨?_, ?_, ?_, ⟨_, rfl, ?_⟩, ?_, ?_, ?_, ?_, ?_⟩ <;> decide +kernel

theorem witness_CommandEvents_begin : let s := withSq copyr1 job0
    ∃ c1 s1 c2 s2 c3 s3 c4, (s.core 0).nextToBegin true = some copyr1 ∧ copyr1.fail = none ∧ s.leaves 0 copyr1 = false ∧
      twoSided copyr1.op = false ∧ (s.core 0).jobOf copyr1.seq copyr1.iter = some job0 ∧ job0.saving = none ∧
      beginSource (s.core 0) job0 copyr1 = .ok c1 ∧ beginTarget s 0 job0 c1 = .ok (s1, c2) ∧ beginFar s1 0 c2 = .ok (s2, c3) ∧
      beginOwn s2 0 job0 c3 = .ok (s3, c4) := by
  refine ⟨_, _, _, _, _, _, _, by decide +kernel, by decide +kernel, by decide +kernel, by decide +kernel, by decide +kernel,
    by decide +kernel, ok_getD copyr1 (by decide +kernel), ok_getD (withSq copyr1 job0, copyr1) (by decide +kernel),
    ok_getD (withSq copyr1 job0, copyr1) (by decide +kernel), ok_getD (withSq copyr1 job0, copyr1) (by decide +kernel)⟩

/-- A TSARRIVE of core 0 to turnstile 63 of core m, not begun. -/
def arriveAt (m : Nat) : Cmd := cmdOf (.tsarrive 1 2 none .pkg) (BitVec.ofNat 64 (0xC003F0 + m * 2 ^ 24)) 7 0 1

theorem witness_CommandEvents_local :
    (∀ c ∈ [cmdOf (.wdecl 7 1 2 none .pkg) 0x7FF000 0x1000 0 1, cmdOf (.wget 1 2 3 ⟨none, none, .pkg⟩) 0x7FF000 0x7F3FF000 1 1,
        arriveAt 0, cmdOf (.qfill .v 3 1 2 ⟨none, none, .pkg⟩) 0x3FF800 0 1 1],
      let s := withSq c job0
      (s.core 0).queue true = [c] ∧ c.begun = false ∧ c.fail = none ∧ c.frames = [] ∧ (s.core 0).jobOf c.seq c.iter = some job0 ∧
        job0.saving = none ∧ s.localName (locator c.xm) = true ∧ s.released 0 job0 c = true ∧
        (c.xm.toNat + c.xt.toNat * 2048 ≤ 0x400000 ∨ c.xt.toNat ≤ 1)) ∧
    (let c := arriveAt 0; let s := withSq c { job0 with outs := [⟨.m, .load .b true, 1, 0, 0, 1, false, true, .core, 3, none⟩] };
      (∀ g ∈ (s.job 0).outs, g.strm ≠ c.strm) ∧ ∀ m, ∀ p ∈ (s.core m).psb, relPoint c.scope p = true) ∧
    (let c : Cmd := { arriveAt 0 with begun := true }; let s := withSq c job0;
      (s.core 0).sq = [c] ∧ c.pos < c.total ∧ c.fail = none ∧ c.rslots = [] ∧ s.localName (locator c.xm) = true ∧ (locator c.xm).core = 0 ∧
        locTs (locator c.xm).loc = some 63) ∧
    (let c : Cmd := { arriveAt 127 with begun := true }; let s := withSq c job0;
      (s.core 0).sq = [c] ∧ c.total ≠ 0 ∧ c.rphase = [] ∧ s.localName (locator c.xm) = true ∧ (locator c.xm).core = 127 ∧
        s.corePart 127 c.part = true ∧ s.coreUp 127 = true) := by decide +kernel

theorem witness_CommandEvents_run :
    (let c : Cmd := { copyr1 with begun := true, src := 0x3FFFF0, rphase := [(127, false)], rbase := [(127, 0x3FFFF0)] };
      let s := withSq c job0;
      ((s.core 0).queue true)[0]? = some c ∧ c.begun = true ∧ c.pos < c.total ∧ c.fail = none ∧
        (match s.landUnit 0 true true c with | .done _ => true | _ => false) = true) ∧
    (let c : Cmd := { cmdOf (.qfill .m 3 1 2 ⟨none, none, .pkg⟩) 0x3FFFF8 0 1 1 with begun := true, src := 0x3FFFF8 };
      let j := { job0 with strm := Vector.replicate 4 { Stream.zero with started := true, q := #v[[], [], [], List.replicate 3 ⟨⟨7, none⟩, 0⟩] } };
      let s := issuing .c { Core.zero with ctx0 := j, lq := [c] };
      (s.core 0).lq[0]? = some c ∧ Strm.m ≠ .v ∧ c.begun = true ∧ c.pos < c.total ∧ c.fail = none ∧ c.tagged ≠ [s.gcc + 1] ∧
        (s.core 0).jobOf c.seq c.iter = some j ∧ ((j.stream .m).q[3]).length + (j.stream .m).popped[3] < 4 ∧
        c.src + 8 * (c.pos + 1) ≤ 0xC00000 ∧ (∀ w ∈ (s.cmdView 0 c).copies, w.st ≠ .i) ∧ (∀ m ∈ (s.jobFor 0 c).moves, m.strm ≠ c.strm) ∧
        (s.jobFor 0 c).mops = [] ∧ ∀ l ∈ (s.core 0).landing, l.rank ≠ rankOf c.strm) ∧
    (let j : Job := job0.modStream .s fun t => { t with tried := 1 }
      let all : Job := { j with strm := j.strm.map fun (t : Stream) => { t with tried := 1 } }
      (core0 all).turnsDone 0 = true) ∧
    (let c : Cmd := { copyr1 with begun := true }; let s := withSq c job0;
      ((s.core 0).queue true)[0]? = some c ∧ c.total ≠ 0 ∧
      ((s.sendsTo 0 c).find? fun d => d.1 == s.pkgnum.toNat && d.2.1 != 0 && !(c.rphase.any fun p => p.1 == d.2.1.val)) =
        some (0, 127, 0x3FFFF0, 16) ∧ s.corePart 127 c.part = true ∧ s.coreUp 127 = true) ∧
    (let c : Cmd := { copyr1 with begun := true, pos := 1, tl := some (7, 1) }; let s := withSq c job0;
      (∀ m, (s.core m).inbox = []) ∧ c.holds = [] ∧ (s.core 0).jobOf c.seq c.iter = some job0 ∧ ((s.core 0).queue true).head? = some c ∧ c.begun = true ∧ c.total ≤ c.pos ∧ c.fail = none ∧ twoSided c.op = false ∧ isKv c.op = false) ∧
    (let c : Cmd := { copyr1 with fail := some cDieFenced }; let s := withSq c job0;
      c.holds = [] ∧ c.tl = none ∧ c.ts = none ∧ c.orphan = false ∧ (s.core 0).jobOf c.seq c.iter = some job0 ∧
      ((s.core 0).queue true)[0]? = some c ∧ c.fail = some cDieFenced ∧ cDieFenced ≠ cPageProtection ∧ cDieFenced ≠ cLinkDown) ∧
    (let s := core0 { job0 with owed := [(5, .s, cEcc, 0, 0)] };
      (s.job 0).owed = [(5, .s, cEcc, 0, 0)] ∧ ((s.job 0).stream .s).started = true ∧ ((s.job 0).stream .s).joined = false ∧
        (s.job 0).st = .running ∧ (s.job 0).nest.lockstep = false ∧ (s.job 0).traps = [] ∧ (s.job 0).stop = none ∧ (s.job 0).wdog = none ∧ (s.job 0).watch = none ∧
        (∀ u ∈ strms, s.tried 0 u = false)) ∧
    (let s := core0 { job0 with owed := [(5, .s, cIllegalOperand, 0, 0)], trapvec := 0x201000 };
      (s.job 0).owed = [(5, .s, cIllegalOperand, 0, 0)] ∧ (s.job 0).outs = [] ∧ (s.job 0).trapvec ≠ 0 ∧
        (s.job 0).nest.smask.getLsbD 0 = true ∧ ((s.job 0).stream .s).joined = false ∧ (∀ u ∈ strms, s.tried 0 u = false) ∧
        cIllegalOperand ∉ [cPageNotPresent, cPageProtection, cPinExhausted, cDieFenced, cLinkDown, cEcc]) := by
  refine ⟨?_, ?_, ?_, ?_, ?_, ?_, ?_, ?_⟩ <;> decide +kernel

theorem witness_TimelineAndCarouselEvents :
    (let t : Timeline := ⟨5, 2, 0, 0, []⟩; t.failnum = 0 ∧ t.above = [] ∧ t.done < 3 ∧ t.done < 5) ∧
    (let t : Timeline := ⟨5, 2, 4, 0x11, []⟩; t.failnum ≠ 0 ∧ t.done < t.failnum ∧ 3 < t.failnum ∧ t.failnum ≤ 4) ∧
    (let t : Timeline := ⟨5, 2, 0, 0, [4]⟩; t.done < 4 ∧ 4 ≤ (t.complete 3).done) ∧
    (let k : Carousel := { jCar.car[3] with slots := (jCar.car[3]).slots.set 0 .complete };
      let s := core0 { jCar with car := jCar.car.set 3 k, car0 := jCar.car.set 3 k }; let c := (s.job 0).car[(3 : BitVec 2).toFin];
      c.decl = true ∧ c.slot c.head = .complete ∧ ((s.job 0).car0[(3 : BitVec 2).toFin]).head = c.head ∧ c.level < c.count) ∧
    (let k : Carousel := { jCar.car[3] with rel := [some 4] };
      let s := core0 { jCar with car := jCar.car.set 3 k }; let c := (s.job 0).car[(3 : BitVec 2).toFin];
      c.rel = some 4 :: [] ∧ (∀ m ∈ (s.job 0).moves, 4 ≤ m.ord) ∧ (∀ m ∈ (s.job 0).mops, 4 ≤ m.ord) ∧ (∀ l ∈ (s.job 0).late, 4 ≤ l.ord) ∧
        (∀ d ∈ (s.core 0).lq ++ (s.core 0).sq, 4 ≤ d.ord) ∧ s.slotInUse 0 (3 : BitVec 2).toNat 4 = false ∧ 0 < c.level ∧ c.tail < 8 ∧ 0 < c.count ∧ c.slot c.tail ≠ .poisoned ∧
        c.autoarm = true ∧ c.firstts + c.tail < 64) := by
  refine ⟨?_, ?_, ?_, ?_, ?_⟩ <;> decide +kernel

/-- A store of core 0 in its posted-store buffer. -/
def storeP (home : Bool) (pa : Nat) : PStore := ⟨7, .s, 1, 0, 0, pa, [0xAA, 0xBB], false, false, home, 0⟩

/-- Core 0 with one store in its buffer. -/
def withPsb (p : PStore) : State := parted (issuing .s { Core.zero with ctx0 := job0, psb := [p] })

theorem witness_StoreAndFillEvents :
    (let p := storeP false 0x10000000010; let s := withPsb p;
      (s.core 0).psb[0]? = some p ∧ p.atHome = false ∧ s.behind 0 p = false ∧ s.homeDead p.pa = false ∧ p.rdup = false) ∧
    (let p := storeP false 0x5BFFE00FF8; let s := deadShell7 (withPsb p);
      (s.core 0).psb[0]? = some p ∧ s.behind 0 p = false ∧ s.homeDead p.pa = true) ∧
    (let p := storeP true 0x10000000010; let s := withPsb p;
      (s.core 0).psb[0]? = some p ∧ p.atHome = true ∧ p.wait = 0 ∧ p.rdup = false ∧ s.earlierAtHome p = false ∧ s.homeDead p.pa = false ∧
        s.dups = [] ∧ s.mem.wf = true) ∧
    (let i : Inval := ⟨7, 0x100, 1, 7, 0, 0⟩; let s : State := { core0 job0 with invals := [i] };
      s.invals = [i] ∧ i.inc = s.homeInc (i.line * 256)) ∧
    (let i : Inval := ⟨7, 0x100, 1, 7, 0xFFFFFFFF, 0⟩; let s : State := { core0 job0 with invals := [i] };
      s.invals = [i] ∧ (i.inc - s.homeInc (i.line * 256)).msb = true) ∧
    (let f : Fill := ⟨7, 0x100, true, List.replicate 256 0, [], 1, 0, 0⟩; let s : State := { core0 job0 with fills := [f] };
      s.fills = [f] ∧ f.sent = true ∧ f.inc = s.homeInc (f.line * 256) ∧
        ∀ a ∈ (s.die f.die).ackSeq, a.1 = f.line → (f.seq - a.2.1).msb = false) ∧
    (let f : Fill := ⟨7, 0x100, true, List.replicate 256 0, [], 1, 0, 0⟩;
      let s : State := ({ core0 job0 with fills := [f] } : State).modDie 7 fun d => { d with ackSeq := [(0x100, 2, 0)] };
      s.fills = [f] ∧ f.sent = true ∧ f.inc = s.homeInc (f.line * 256) ∧
        (0x100, 2, 0) ∈ (s.die f.die).ackSeq ∧ 0x100 = f.line ∧ (f.seq - 2).msb = true) ∧
    (let s := (core0 job0).modDie 7 fun d => { d with lines := [⟨0x100, List.replicate 256 0, [], 0⟩] };
      ((s.die 7).find 0x100).isSome = true) := by
  refine ⟨?_, ?_, ?_, ?_, ?_, ?_, ?_, ?_⟩ <;> decide +kernel

theorem witness_WindowAndDuplicateEvents :
    (let p : PStore := { storeP true 0x10000000010 with rdup := true }; let w : RdWrite := ⟨0x80000, 0, 7, false, [], 0, 0, 0xFF, .store, none⟩;
      let s : State := { withPsb p with rdWrites := [w], holders := [(0x80000, [1])] };
      s.rdWrites = [w] ∧ w.started = false ∧ s.dups = [] ∧ ((s.core 0).psb.find? fun p => p.ord == 7) = some p) ∧
    (let w : RdWrite := ⟨0x80000, 0, 7, false, [], 0, 0, 0xFF, .bytes [(0x10000000010, 0xAA, none)] none, none⟩;
      let s : State := { core0 job0 with rdWrites := [w], holders := [(0x80000, [1])], dir := [(0x100000000, 0x81)] };
      s.rdWrites = [w] ∧ w.started = false ∧ w.kind ≠ .store ∧ s.writerThere w = true ∧ s.dups = [] ∧
        linesOf (s.writeSpan w).1 (s.writeSpan w).2 = [0x100000000] ∧ s.sharers 0x100000000 &&& w.mask &&& s.shellsvc = 0x81) ∧
    (let w : RdWrite := ⟨0x80000, 0, 7, false, [], 0, 0, 0xFF, .atomic 0 true 1 0 0x10000000010, none⟩;
      let d : Dup := ⟨0x8010000000000, 0x10000000000, 0, [], []⟩;
      let s : State := { core0 { job0 with outs := [⟨.s, .atomic 0 true 1 0, 1, 0, 0x10000000010, 8, false, true, .core, 7, none⟩] } with
        rdWrites := [w], dups := [d] };
      s.rdWrites = [w] ∧ w.started = false ∧ s.writerThere w = true ∧ s.dupAt (0x80000 * 0x200000) = some d) ∧
    (let bs : List (Nat × Byte × Option PoU) := [(0x10000000010, 0xAA, none)];
      let w : RdWrite := ⟨0x80000, 0, 7, true, [], 0, 0, 0xFF, .bytes bs (some (1, 5)), none⟩;
      let s : State := { core0 job0 with rdWrites := [w] };
      s.rdWrites = [w] ∧ w.started = true ∧ w.wait = [] ∧ w.dies = 0 ∧ w.kind = .bytes bs (some (1, 5)) ∧ s.invals = []) ∧
    (let c : Cmd := { cmdOf (.wdecl 7 1 2 none .pkg) 0x7FF000 0x1000 0 1 with begun := true }; let s := withSq c job0;
      (s.core 0).windowCmd false = none ∧ (s.core 0).windowCmd true = some c ∧ c.xs ≠ 0 ∧ (6 : Fin 8) ≠ (7 : BitVec 3).toFin) ∧
    (let c : Cmd := { cmdOf (.wget 1 2 3 ⟨none, none, .pkg⟩) 0x7F3FF000 0x7FF000 1 1 with begun := true };
      let s := (parted (issuing .c { Core.zero with ctx0 := job0, lq := [c] })).modCore 127 fun k =>
        { k with win := k.win.set 7 ⟨0x3FF000, 0x1000⟩ };
      (s.core 0).windowCmd false = some c ∧ (locator c.xm).core = 127 ∧ s.localName (locator c.xm) = true ∧ s.corePart 127 c.part = true ∧
        s.coreUp 127 = true ∧ (s.core 0).copyAt (c.xs.toNat / 4096 + c.pos) = none ∧ (s.core 0).copies.length < 512 ∧
        (s.core 127).inWindow ((locator c.xm).loc / 4096 + c.pos) = true ∧ (s.core 127).winReqs = [] ∧
        s.winNeeds 0 127 ((locator c.xm).loc / 4096 + c.pos) false = [] ∧
        ∀ m, (s.core m).landing = [] ∧ (s.core m).inbox = []) ∧
    (let r : WinReq := ⟨2, 0x3FF, 0x7FF, true, [1], 0, 0⟩; let s := (core0 job0).modCore 0 fun k => { k with winReqs := [r] };
      r.inc = (s.die (dieOf r.req)).incarn ∧ (s.core 1).landing = [] ∧ (s.core 0).winReqs = [r] ∧ r.probes = 1 :: [] ∧ (1 : CoreIx) ≠ 0) ∧
    (∀ st ∈ [WinSt.s, .e, .o, .m], let w : WinCopy := ⟨0x7FF, 0, 0x3FF, st, []⟩;
      let s := (core0 job0).modCore 1 fun k => { k with copies := [w] };
      (s.core 1).copies = [w] ∧ w.home = 0 ∧ w.homeTile = 0x3FF ∧ (1 : CoreIx) ≠ 0 ∧ w.st = st) ∧
    (let s := heldBy .homeWrite 0x3FF; ((s.job 0).stream .s).held = some (.homeWrite, 0x3FF) ∧ (s.job 0).moves = [] ∧ (s.job 0).mops = [] ∧
      s.winHolders 0 0x3FF = [] ∧ s.heldTile 0 0x3FF = false) ∧
    (let s := (heldBy .homeWrite 0x3FF).modCore 1 fun k => { k with copies := [⟨0x7FF, 0, 0x3FF, .s, []⟩] };
      s.winHolders 0 0x3FF ≠ [] ∧ s.winQuiet 0 0x3FF = true) := by
  refine ⟨?_, ?_, ?_, ?_, ?_, ?_, ?_, ?_, ?_, ?_⟩ <;> decide +kernel

/-- A submission of partition 0 that a job of core 127 makes. -/
def subOf (b : List Byte) : Submission := ⟨9, none, some 127, some 0, 0x201000, some b, false, none⟩

/-- The package with that submission waiting. -/
def submitted (b : List Byte) : State := { parted (idle0 job0) with logn := 12, subs := [subOf b] }

theorem witness_LaunchAcceptance_taken : let s := submitted recOk; let s0 : State := { s with subs := [] }
    let r := nestOf 0x201000 recOk
    s.subs = subOf recOk :: [] ∧ s.writesAhead (subOf recOk) = false ∧ (subOf recOk).part = some 0 ∧ s0.submits 0 = true ∧ s.logn ≠ 0 ∧
      (subOf recOk).bytes = some recOk ∧ s0.check 0 0x201000 recOk = .ok r ∧ r.iterations = 30 ∧ r.prio = 3 ∧ r.dies = 0x81 := by
  decide +kernel

theorem witness_LaunchAcceptance_waits :
    let w : RdWrite := ⟨0x80000, 0, 7, false, [], 0, 0, 0xFF, .bytes [(0x10000000010, 0xAA, none)] none, none⟩
    let s : State := { submitted recOk with rdWrites := [w] }
    s.subs = subOf recOk :: [] ∧ s.writesAhead (subOf recOk) = true := by decide +kernel

theorem witness_LaunchAcceptance_refused :
    (let b := recB 0x200C 3 0xFF 16 0x200003 0x1000; let s0 : State := { submitted b with subs := [] };
      (submitted b).writesAhead (subOf b) = false ∧
      s0.submits 0 = true ∧ (subOf b).bytes = some b ∧ s0.check 0 0x201000 b = .error 3) ∧
    ((0x201020 : Word).toNat % 64 ≠ 0) ∧
    (ShapeBad (nestOf 0x201000 (recB 0x000C 3 0x81 16 0x200003 0x1000))) ∧
    (ShapeBad (nestOf 0x201000 (recB 0x200C 3 0x81 17 0x200003 0x1000))) ∧
    (let b := recB 0x200C 3 0x81 16 0x200000 0x1000;
      badBytes 0x201000 b = false ∧ (nestOf 0x201000 b).bad = false ∧ badOperands b = true) ∧
    (let s := submitted recOk; let r := nestOf 0x201000 recOk;
      badBytes 0x201000 recOk = false ∧ r.bad = false ∧ badOperands recOk = false ∧ r.part = 0 ∧ r.dies &&& ~~~(0x81 : BitVec 8) = 0 ∧
        (s.partOf 0).map Partition.dies = some 0x81 ∧ r.prio ≠ 7 ∧ r.gang = false ∧ r.dies &&& (s.diesvc &&& s.shellsvc) ≠ 0) ∧
    (let b := recB 0x201C 3 0x81 16 0x200003 0x1000; (nestOf 0x201000 b).prio = 7 ∧ badBytes 0x201000 b = false ∧
      ((submitted b).partOf 0).map Partition.priv = some false) ∧
    (let s : State := { submitted recOk with shellsvc := 0x7E }; (nestOf 0x201000 recOk).dies &&& (s.diesvc &&& s.shellsvc) = 0) := by
  refine ⟨?_, ?_, .inl ?_, .inr (.inr (.inr (.inr (.inl ?_)))), ?_, ?_, ?_, ?_⟩ <;> decide +kernel

theorem witness_IterationOrder :
    (launchOk.dies ≠ 0 ∧ 29 < launchOk.total) ∧ (14 < launchOk.share 7 ∧ launchOk.iter 7 14 = 29 ∧ launchOk.nest.gang = false) ∧
    (launchOk.nest.bad = false ∧ 29 < launchOk.nest.iterations ∧ 1 < launchOk.nest.ndim) := by decide +kernel

/-- A saved job of die 7 in slot 15. -/
def parked7 : Parked := ⟨7, 15, { job0 with iter := 3 }, ⟨[], [], []⟩, [], [], 0⟩

theorem witness_JobDispatch :
    (let s : State := { parted State.reset with boot := .ready, launches := [launchOk] };
      s.best 7 = some (.fresh launchOk) ∧ s.candCore 7 (.fresh launchOk) = some 112 ∧ launchOk.nest.gang = false ∧
        s.parked = [] ∧ launchOk.left 7 ≠ 0 ∧ s.crowded 7 launchOk.seq launchOk.nest = false ∧ s.hasRoom 112 = true ∧
        s.coreFor 7 = some 112 ∧ s.coreUp 112 = true ∧ s.reservedBy 112 = []) ∧
    (let s : State := { parted State.reset with boot := .ready, parked := [parked7] };
      s.best 7 = some (.again parked7 3) ∧ s.candCore 7 (.again parked7 3) = some 112 ∧ s.cands 7 ≠ []) ∧
    ((Core.zero).job.st = .none ∧ (Core.zero).other.st = .none) := by decide +kernel

/-- A gang of one job. -/
def gang1 : Launch := { launchOk with total := 1, nest := { launchOk.nest with gang := true, lockstep := true, gangmask := 0x8000, dies := 0x80 } }

/-- The pages of that job. -/
def pagesD : List (List PageX) := [⟨1, ⟨0x10000000000, 0x10000403008, true, true, false⟩, true, false⟩] :: List.replicate 15 []

theorem witness_JobTranslationAndStart_pages :
    (let s := parted (idle0 jDisp); Waits s 0 jDisp ∧ jDisp.xlated = false ∧ (∀ d ∈ jDisp.nest.decl.toList, d.pin = false) ∧
      s.jobPages jDisp = .ok (pagesD, []) ∧
        (∀ p ∈ (pagesD.flatten ++ [] : List PageX), s.place (canon s.pkgnum.toNat p.x.frame) = .lpddr) ∧
        (let frames := ((pagesD.flatten ++ [] : List PageX).map fun p => canon s.pkgnum.toNat p.x.frame).eraseDups;
         frames.length = 1 ∧ ((s.die (dieOf 0)).pin frames).isSome = true)) ∧
    (let j : Job := { jDisp with nest := nestOf 0x201000 (recB 0x200C 3 0x81 16 0x3FFFC3 0x1000) }; let s := parted (idle0 j);
      Waits s 0 j ∧ j.xlated = false ∧ s.pageGone j.nest.part = false ∧ s.jobPages j = .error (cPageNotPresent, 0x400000)) ∧
    (let j : Job := { jDisp with nest := nestOf 0x201000 (recB 0x200C 3 0x81 16 0x01FFFFFFFFFFFFC1 0x1000) }; let s := parted (idle0 j);
      Waits s 0 j ∧ j.xlated = false ∧ s.jobPages j = .error (cPageProtection, 0x0200000000000000) ∧ cPageProtection ≠ cPageNotPresent) ∧
    ((∀ k : Fin 4, jDisp.nest.ndim ≤ k.val → jDisp.idx[k] = 0) ∧ jDisp.nest.ndim ≤ 4) ∧
    (let j : Job := { jDisp with nest := { jDisp.nest with decl := Vector.replicate 16 { jDisp.nest.decl[1] with len := 0 }, ovfva := 0 } }
     (∀ d ∈ j.nest.decl.toList, d.len = 0) ∧ j.nest.ovfva = 0) := by
  refine ⟨?_, ?_, ?_, ?_, ?_⟩ <;> decide +kernel

theorem witness_JobTranslationAndStart_start :
    (let j : Job := { jDisp with xlated := true }; let s := parted (idle0 j);
      Waits s 0 j ∧ j.nest.gang = false ∧ s.savedOf j = none ∧ (s.core 0).other.st = .none) ∧
    (let j : Job := { jDisp with xlated := true }; let s := parted (issuing .s { Core.zero with ctx0 := j, ctx1 := { jDisp with seq := 9 } });
      Waits s 0 j ∧ (s.core 0).other.st = .dispatched ∧ s.fixed (s.core 0).other = false) ∧
    (let j : Job := { jDisp with xlated := true }; let s := parted (issuing .s { Core.zero with ctx0 := jDisp, ctx1 := j });
      (s.core 0).job.st = .dispatched ∧ s.fixed (s.core 0).job = false ∧ (s.core 0).job.xlated = false ∧ (s.core 0).other.st = .dispatched ∧
        (s.core 0).other.xlated = true ∧ (s.core 0).other.nest.gang = false ∧ s.savedOf (s.core 0).other = none) ∧
    (let j : Job := { jDisp with xlated := true }; let s := parted (issuing .s { Core.zero with ctx0 := { job0 with st := .draining }, ctx1 := j });
      (s.core 0).job.st = .draining ∧ (s.core 0).bare = true ∧ (s.core 0).other.st = .dispatched ∧ (s.core 0).other.xlated = true ∧
        (s.core 0).other.nest.gang = false ∧ s.savedOf (s.core 0).other = none) ∧
    (let j : Job := { jDisp with xlated := true, seq := 5, nest := gang1.nest }; let s : State := { parted (idle0 j) with launches := [gang1] };
      s.launches.find? (fun l => l.seq == 5) = some gang1 ∧ gang1.nest.gang = true ∧ s.gangCan gang1 = true ∧ gang1.gangAt = none) ∧
    (∀ g ∈ [0, 1], let l := { gang1 with gangAt := some g }; let j : Job := { jDisp with xlated := true, seq := 5, nest := gang1.nest };
      let s : State := { parted (idle0 j) with launches := [l] };
      s.launches.find? (fun l => l.seq == 5) = some l ∧ s.gangCan l = true ∧ l.gangAt = some g ∧ s.gcc = 0 ∧ s.parked = [] ∧
        (s.core 0).ctx0.seq = 5 ∧ (s.core 0).ctx0.st = .dispatched ∧ (s.core 0).ctx1.st = .none) := by
  refine ⟨?_, ?_, ?_, ?_, ?_, ?_⟩ <;> decide +kernel

/-- Every core of die 0 holds two running jobs; that of core 15 is the least. -/
def fullDie : State :=
  { parted { State.reset with cores := Vector.ofFn fun n : Fin 128 =>
      { Core.zero with ctx0 := if n.val = 15 then job0 else { job0 with prio := 4 }, ctx1 := job0 } } with
    boot := .ready, launches := [{ launchOk with nest := { launchOk.nest with prio := 6 } }] }

theorem witness_Preemption_request :
    (let s := fullDie; let l : Launch := { launchOk with nest := { launchOk.nest with prio := 6 } };
      (∀ m, dieOf m = 0 → s.hasRoom m = false) ∧ s.waiters 0 = [l] ∧ s.effPrio l.nest.prio l.atWall = 6 ∧ s.victim 0 6 = some 15 ∧
        (∀ m, (s.job m).preq = none) ∧ (s.job 15).nest.gang = false ∧ (s.job 15).alive = true ∧ (s.job 15).prio < 6 ∧
        (s.job 15).saving = none) ∧
    (let l : Launch := { launchOk with nest := { launchOk.nest with prio := 7 } };
      let s := ({ fullDie with launches := [l] } : State).modJob 15 fun j => { j with preq := some ⟨9, false, 0⟩ };
      (∀ m, dieOf m = 0 → s.hasRoom m = false) ∧ s.waiters 0 = [l] ∧ s.effPrio l.nest.prio l.atWall = 7 ∧ s.victim 0 7 = some 15 ∧
        (s.job 15).preq = some ⟨9, false, 0⟩ ∧ (∀ m q, m ≠ 15 → (s.job m).preq ≠ some q) ∧ 9 ≠ l.seq) := by
  refine ⟨by decide +kernel, by decide +kernel, by decide +kernel, by decide +kernel, by decide +kernel, by decide +kernel, fun m q h e => ?_,
    by decide⟩
  have : ∀ m : CoreIx, m ≠ 15 → (((({ fullDie with launches := [{ launchOk with nest := { launchOk.nest with prio := 7 } }] } : State).modJob 15
      fun j => { j with preq := some ⟨9, false, 0⟩ }).job m).preq) = none := by decide +kernel
  rw [this m h] at e
  cases e

/-- A job whose streams have had their turn in cycle 0. -/
def tried1 (j : Job) : Job := { j with strm := j.strm.map fun (t : Stream) => { t with tried := 1 } }

theorem witness_Preemption_saves :
    (let q : PreReq := ⟨5, true, 0⟩; let s : State := ({ idle0 (tried1 { job0 with preq := some q }) with wall := 1080000 } : State).modDie 0 fun d =>
        { d with slots := [.saved 2 0, .free] };
      (s.job 0).preq = some q ∧ q.lvl7 = true ∧ max 1 s.grace.toNat * 21600 ≤ s.wall - q.since ∧ s.stoppable 0 = true ∧ s.groupsDone 0 = true ∧
        (s.job 0).nest.gang = false ∧ (s.die (dieOf 0)).freeSlot = some 1) ∧
    (let sv : Saving := ⟨15, false, 0, 2048⟩; let c := cmdOf (.qfill .m 3 1 2 ⟨none, none, .pkg⟩) 0x3FFFF8 0 1 1;
      let s := issuing .c { Core.zero with ctx0 := { job0 with saving := some sv }, lq := [c] }; let j := s.job 0;
      j.saving = some sv ∧ j.st ≠ .none ∧ j.cycDone = false ∧ j.outs = [] ∧ (s.core 0).psb = [] ∧ (s.core 0).sq = [] ∧
        (s.core 0).lq = [c] ∧ c.of j = true ∧ c.begun = false ∧
        j.traps = [] ∧ j.stop = none ∧ j.wdog = none ∧ j.moves = [] ∧ j.late = [] ∧ j.ops = [] ∧ j.mops = [] ∧ (s.core 0).torn = true ∧
        j.alive = true) := by
  decide +kernel

/-- A job with the given beacon interval and budget, both clocks at 21,600. -/
def jWatch (persist : Bool) (b u : BitVec 32) : Job :=
  { job0 with nest := { job0.nest with persist := persist, beaconUs := b, budgetUs := u }, beacon := 21600, runtime := 21600 }

theorem witness_JobEnds :
    (∀ st ∈ [JState.running, .frozen, .trapped], let j := ((idle0 { jWatch true 1 0 with st := st }).job 0);
      j.st = st ∧ j.nest.persist = true ∧ j.nest.beaconUs.toNat * 21600 ≤ j.beacon) ∧
    (∀ p ∈ [true, false], let j := ((idle0 (jWatch p 2 1)).job 0);
      j.st = .running ∧ ¬ (j.nest.persist = true ∧ j.nest.beaconUs.toNat * 21600 ≤ j.beacon) ∧ j.nest.budgetUs ≠ 0 ∧
        j.nest.budgetUs.toNat * 21600 ≤ j.runtime) ∧
    (let j := ((idle0 (jWatch true 2 2)).job 0);
      ¬ (j.nest.persist = true ∧ j.nest.beaconUs.toNat * 21600 ≤ j.beacon) ∧
        ¬ (j.nest.budgetUs ≠ 0 ∧ j.nest.budgetUs.toNat * 21600 ≤ j.runtime)) ∧
    (let j := ((idle0 { job0 with wdog := some 1 }).job 0); j.wdog = some 1 ∧ j.alive = true) ∧
    (∀ st ∈ [JState.suspended, .draining, .dispatched, .none], ((idle0 { job0 with st := st }).job 0).st = st) ∧
    (let l : Launch := { launchOk with seq := 1, ended := 28 }; let s : State := { parted (idle0 { job0 with st := .draining }) with launches := [l], logn := 12 };
      (s.core 0).job.st = .draining ∧ (s.core 0).torn = true ∧ (s.core 0).lq = [] ∧ (s.core 0).sq = [] ∧ (s.core 0).psb = [] ∧
      (s.core 0).job.outs = [] ∧ (s.core 0).job.moves = [] ∧ (s.core 0).job.late = [] ∧ (s.core 0).job.ops = [] ∧ (s.core 0).job.mops = [] ∧
      (∀ st ∈ strms, ((s.core 0).job.stream st).pend = []) ∧
      s.drained 0 (s.core 0).job = true ∧ (s.core 0).bare = true ∧ (∀ l ∈ s.launches, l.seq = (s.core 0).job.seq → l.ended + 1 < l.total) ∧ s.logn ≠ 0) ∧
    (let j : Job := { job0 with nest := { job0.nest with donets := 0x7FC003F0, donecnt := 1 } }; let s := parted (idle0 j);
      j.nest.donets ≠ 0 ∧ j.nest.donecnt ≠ 0 ∧ locTs (locator j.nest.donets).loc = some 63 ∧ s.localName (locator j.nest.donets) = true ∧
        s.coreUp (locator j.nest.donets).core = true ∧ s.corePart (locator j.nest.donets).core j.nest.part = true) ∧
    (job0.nest.donets = 0) ∧
    (let s := issuing .s { Core.zero with ctx0 := { job0 with st := .draining }, copies := [⟨0x7FF, 1, 0x3FF, .s, []⟩] };
      (s.core 0).job.st = .draining ∧ (s.core 0).torn = false ∧ ∀ c ∈ (s.core 0).lq ++ (s.core 0).sq, isWindow c.op = false) := by
  refine ⟨?_, ?_, ?_, ?_, ?_, ?_, ?_, ?_, ?_⟩ <;> decide +kernel

/-- The package after bring-up, seen by the host: partition 7 belongs to VF 64 and has the tables of partition 0. -/
def hosted : State :=
  let s := parted (idle0 job0)
  { s with
    parts := s.parts.set 7 { Partition.zero with valid := true, dies := 0x02, owner := 64, id := 0x1234, root := 0x10000400 }
    fns := s.fns.set 64 { FnPage.zero with present := true } }

theorem witness_Fencing :
    (let s := idle0 job0; s.boot = .ready ∧ s.coresvc.getLsbD (127 : CoreIx).val = true ∧ s.diesvc.getLsbD (7 : DieIx).val = true ∧
      s.shellsvc.getLsbD (7 : DieIx).val = true) ∧
    (let s : State := { idle0 job0 with coresvc := 0, diesvc := 0x7F };
      s.coresvc.getLsbD (127 : CoreIx).val = false ∧ s.diesvc.getLsbD (7 : DieIx).val = false) ∧
    (let s : State := { deadShell7 (idle0 job0) with jrnlBase := 0x10000000 };
      s.boot = .ready ∧ s.shellsvc.getLsbD (7 : DieIx).val = false ∧ 0x10000000000 ≤ s.jrnlBase.toNat * 4096 ∧
        ∀ e ∈ s.dups, 0x10000000000 ≤ e.frame) := by decide +kernel

theorem witness_LinkEvents :
    (let s := idle0 job0; s.boot = .ready ∧ s.ringup.getLsbD (7 : Fin 8).val = true ∧ s.ringup = 0xFF) ∧
    (let s : State := { idle0 job0 with ringup := 0x7F };
      (∀ k : Fin 8, k ≠ 7 → s.ringup.getLsbD k.val = true) ∧ s.ringup.getLsbD (7 : Fin 8).val = false) ∧
    (let s : State := { withSq { copyr1 with begun := true, xt := 0x008000007F3FFFF0 } job0 with portup := 0x20000 };
      s.boot = .ready ∧ s.portup.getLsbD (17 : Fin 18).val = true ∧ ∀ k : Fin 18, k ≠ 17 → s.portup.getLsbD k.val = false) ∧
    (let s : State := { idle0 job0 with fabDone := true, porten := 0x3FFFF }; s.fabDone = true ∧ (0x20000 : BitVec 18) &&& s.porten ≠ 0) := by
  decide +kernel

/-- A message of package 5 in incarnation 1 that is about to come. -/
def messaged (part : BitVec 16) (inc : Word) (ask : FabricAsk) : State :=
  { parted (idle0 job0) with turns := [.fabric ⟨5, 1, part, ask⟩], fabricInc := [(5, inc.setWidth 32)] }

theorem witness_LinkEvents_fabric :
    (∀ ask ∈ [FabricAsk.register 1, .read 0xBFFFFFF00 256 9, .read 0x10000000000 16 9, .arrive 15 63 16 7 true, .arrive 15 63 16 7 false],
      let s := messaged 0 1 ask;
      s.power = true ∧ s.boot = .ready ∧ s.turns = [.fabric ⟨5, 1, 0, ask⟩] ∧ alGet s.fabricInc 5 = some 1 ∧ ((1 : BitVec 32) - 1).msb = false ∧
        (s.partOf 0).map Partition.dies = some 0x81 ∧ (∀ d ∈ s.addressed ask, (0x81 : BitVec 8).getLsbD d.val = true) ∧ s.coreUp 15 = true ∧
        s.farPhases = []) ∧
    (let s := messaged 0 1 (.read 0xBFFFFFF00 256 9); let s2 : State := { s with turns := [], fabricInc := alSet s.fabricInc 5 1 };
      (s2.peerRead ⟨5, 1, 0, .read 0xBFFFFFF00 256 9⟩ (canon s.pkgnum.toNat 0xBFFFFFF00) 256).isSome = true) ∧
    (let f : FarPhase := ⟨5, 7, 15, 63, true⟩; let s : State := { messaged 0 1 (.arrive 15 63 16 7 false) with farPhases := [f] };
      s.farPhases = [f] ∧ f.pkg = 5 ∧ f.cmd = 7 ∧ f.core = 15 ∧ f.ts = 63 ∧ f.phase ≠ ((s.job 15).ts[63]).phase) ∧
    ((messaged 9 1 (.arrive 15 63 16 7 true)).partOf 9 = none) ∧
    ((messaged 0 1 (.arrive 16 63 16 7 true)).addressed (.arrive 16 63 16 7 true) = some 1 ∧ (0x81 : BitVec 8).getLsbD (1 : DieIx).val = false) ∧
    (alGet (messaged 0 2 (.register 1)).fabricInc 5 = some 2 ∧ ((1 : BitVec 32) - 2).msb = true) := by
  refine ⟨?_, ?_, ?_, ?_, ?_, ?_⟩ <;> decide +kernel

theorem witness_MemoryFaultEvents :
    ((idle0 job0).isDram 0x5BFFE00FF8 = true) ∧ (0x7FFFFF < 0x800000) ∧
    ((idle0 job0).boot = .ready ∧ (idle0 job0).coresvc.getLsbD (127 : CoreIx).val = true) := by decide +kernel

theorem witness_ResetAndPower :
    ((idle0 job0).recLen.bind (idle0 job0).recovery = none) ∧
    (let s : State := { idle0 job0 with recLen := some 0x2001 }; s.recLen.bind s.recovery = none) ∧
    (let s : State := { idle0 job0 with power := false }; s.power = false ∧ s.turns = [] ∧ s.nextTurn.1 ≠ .event .packageReset) ∧
    (({ idle0 job0 with turns := [.event .packageReset] } : State).turns = .event .packageReset :: []) ∧
    (({ idle0 job0 with boot := .load } : State).boot = .load ∧ (idle0 job0).boot = .ready) := by decide +kernel

/-- A firmware image of one byte whose key is all zeros. -/
def image1 : List Byte := pack [(0x4B514657, 4), (0xFFFFFFFF, 4), (1, 8)] ++ List.replicate 0x1FF1 0

/-- The image passes wherever the fuses and the signature check, which the spec leaves to the chip, let it. -/
theorem witness_BootEvents_image (h1 : sha3 ((image1.drop 0x10).take 2592) = Config.fusedKeyDigest)
    (h2 : Config.fusedMinSvn ≤ 0xFFFFFFFF)
    (h3 : mlDsaVerify ((image1.drop 0x10).take 2592) (sha3 (image1.take 16 ++ (image1.drop 0x2000).take 1))
      ((image1.drop 0xA30).take 4627) = true) :
    imagePasses image1 = true := by
  have hl : image1.length = 0x2001 := by
    show (pack [(0x4B514657, 4), (0xFFFFFFFF, 4), (1, 8)] ++ List.replicate 0x1FF1 (0 : Byte)).length = 0x2001
    rw [List.length_append, List.length_replicate]; rfl
  have e0 : fieldAt image1 0 4 = 0x4B514657 := by decide +kernel
  have e4 : fieldAt image1 4 4 = 0xFFFFFFFF := by decide +kernel
  have e8 : imageBody image1 = 1 := by decide +kernel
  simp only [imagePasses, e0, e4, e8, h1, hl]
  simp [h2, h3]

/-- A bring-up with a journal at the end of LPDDR, in which shell 7 and core 0 fail. -/
def cfg1 : BringUpCfg :=
  { jrnlBase := 0x1FFFF000, logn := 18, saveBase := Vector.ofFn fun d => BitVec.ofNat 31 (d.val * 24576 + 24504)
    saveSlots := Vector.replicate 8 16, shellFail := 0x80, coreFail := 1 }

theorem witness_BootEvents :
    ((State.reset).boot = .check) ∧ (imagePasses State.reset.flash = true ∨ imagePasses State.reset.flash = false) ∧
    (let c := cfg1;
      ({ State.reset with boot := .load } : State).boot = .load ∧ bringUpOk c = true ∧ bringUpOk { c with shellFail := 0 } = true) ∧
    (({ State.reset with boot := .wait } : State).recLen = none) ∧
    (({ State.reset with boot := .wait, recLen := some 0x2001 } : State).recLen = some 0x2001) := by
  refine ⟨?_, Bool.eq_false_or_eq_true _, ?_, ?_, ?_⟩ <;> decide +kernel

theorem witness_FunctionEvents :
    ((State.reset).boot ≠ .ready) ∧
    (let s := hosted; s.boot = .ready ∧ (s.fns[(64 : Fin 65)]).present = true ∧ (s.fns[(0 : Fin 65)]).present = true ∧
      (s.fns[(63 : Fin 65)]).present = false ∧ (s.fns[(64 : Fin 65)]).substat[(15 : Fin 16)] ≠ 0x4000000000000000 ∧
      (s.fns[(64 : Fin 65)]).attstat ≠ 1) ∧
    (let s := hosted; let u : State := { s with fns := Vector.replicate 65 { FnPage.zero with present := true } };
      (u.parts[(7 : Fin 8)]).valid = true ∧ (u.parts[(7 : Fin 8)]).owner.toNat < 65 ∧ 63 < (u.parts[(7 : Fin 8)]).owner.toNat ∧
        ∀ g : Fin 65, g.val = (u.parts[(7 : Fin 8)]).owner.toNat → (u.fns[g]).present = true) ∧
    (let s : State := { hosted with fns := hosted.fns.set 64 { FnPage.zero with present := true, attstat := 1, substat := Vector.replicate 16 0x4000000000000000 } };
      (s.fns[(64 : Fin 65)]).attstat = 1 ∧ (s.fns[(64 : Fin 65)]).substat[(15 : Fin 16)] = 0x4000000000000000) := by decide +kernel

theorem witness_HostMemoryEvents_window :
    (let s := hosted; let l := (List.range 8).map fun i => (0x100001FFFF8 + i, (none : Option Nat));
      s.boot = .ready ∧ (s.fns[(64 : Fin 65)]).present = true ∧ (s.windowBytes 64 0x3FFFF8 (widthOf .d) false).map Prod.fst = some l ∧
        ∀ e ∈ l, s.isDram e.1 = true ∧ canon s.pkgnum.toNat e.1 = e.1 ∧ s.homeDead e.1 = false ∧ s.homePo e.1 1 = none) ∧
    (let s := hosted; (s.windowBytes 64 0x3FFFF9 (widthOf .d) false).isNone = true ∧
      (s.windowBytes 64 0x3FFFF9 (widthOf .d) true).isNone = true) ∧
    (let s := hosted; let l := (List.range 32).map fun i => (0x100001FFFE0 + i, some 0x10000403008);
      s.dups = [] ∧ s.holders = [] ∧ s.rdWrites = [] ∧ s.mem.wf = true ∧
        (s.windowBytes 64 0x3FFFE0 32 true).map Prod.fst = some l ∧
        (∀ i, i < 32 → 32 * (0x100001FFFE0 / 32) + i ∈ l.map Prod.fst) ∧ (l.map Prod.fst).Nodup ∧ ∀ e ∈ l, s.homeDead e.1 = false ∧ s.isDram e.1 = true ∧ canon s.pkgnum.toNat e.1 = e.1) ∧
    (({ hosted with phys := true } : State).phys = true ∧
      (hosted.isDram 0x5FFFFFFFFF = true ∧ hosted.isDram 0x6000000000 = false)) ∧
    (let s : State := { hosted with phys := true, fns := hosted.fns.set 0 { FnPage.zero with present := true, dwbase := 0x10000000000 } };
      s.boot = .ready ∧ (s.fns[(0 : Fin 65)]).present = true ∧ (s.fns[(0 : Fin 65)]).dwbase.toNat + (0xFF8 : BitVec 36).toNat = 0x10000000FF8 ∧
        ∀ i : Fin 8, s.isDram (0x10000000FF8 + i.val) = true ∧ canon s.pkgnum.toNat (0x10000000FF8 + i.val) = 0x10000000FF8 + i.val ∧
          s.homeDead (0x10000000FF8 + i.val) = false ∧ s.homePo (0x10000000FF8 + i.val) 1 = none) := by
  refine ⟨?_, ?_, ?_, ?_, ?_⟩ <;> decide +kernel

theorem witness_HostMemoryEvents_tables :
    ((hosted.fns[(64 : Fin 65)]).inv = none) ∧
    (let s : State := { hosted with fns := hosted.fns.set 64 { FnPage.zero with present := true, inv := some (0x200000, 0x200000) } };
      (s.fns[(64 : Fin 65)]).inv = some (0x200000, 0x200000) ∧ (s.fnPart 64).isSome = true) ∧
    (let s : State := { hosted with parts := hosted.parts.set 7 { hosted.parts[7] with faults := [2] } };
      s.fnSlot 64 = some 7 ∧ (s.parts[(7 : Fin 8)]).faults = 2 :: [] ∧ (0x400001 : Word).toNat / 2 ^ 21 % 2 ^ 36 = 2 ∧
        (0x400002 : Word).toNat % 4 = 2 ∧ (0x600001 : Word).toNat / 2 ^ 21 % 2 ^ 36 ≠ 2 ∧
        ∀ n run, ((s.core n).ctx run).nest.part ≠ (s.parts[(7 : Fin 8)]).id) ∧
    (let j : Job := { jDisp with faultPage := some 2, nest := { jDisp.nest with part := 0x1234 } };
      let s : State := { hosted with cores := hosted.cores.set 0 { Core.zero with ctx0 := j } };
      (s.core 0).job.st = .dispatched ∧ (s.core 0).job.nest.part = (hosted.parts[(7 : Fin 8)]).id ∧ (s.core 0).job.faultPage = some 2) ∧
    (let s : State := { hosted with pteAddr := 0xC00000000 }; s.pteBusy = none ∧ s.isDram s.pteAt = false) ∧
    (let s : State := { hosted with pteAddr := 0x2000080601, pteBusy := some 0 };
      s.isDram s.pteAt = true ∧ s.pteWaits = false ∧ s.homeDead (canon s.pkgnum.toNat s.pteAt) = false ∧
        (({ s with pteHeld := true } : State).pteHeld = true)) ∧
    (let s := ({ hosted with pteAddr := 0x2000080601, pteBusy := some 0 } : State).modDie 7 fun d => { d with pinned := [(0x10000000000, 1)] };
      s.isDram s.pteAt = true ∧ s.pteWaits = true) := by
  refine ⟨?_, ?_, ?_, ?_, ?_, ?_, ?_⟩ <;> decide +kernel

theorem witness_ConfigurationEvents :
    ((hosted.parts[(7 : Fin 8)]).valid = true ∧ (hosted.parts[(6 : Fin 8)]).valid = false ∧ (0x8000000000000000 : Word).toNat / 2 ^ 63 = 1) ∧
    (∃ i : Fin 8, i ≠ 6 ∧ (hosted.parts[i]).valid = true ∧ (hosted.parts[i]).dies &&& (0x80 : BitVec 8) ≠ 0) ∧
    (∀ i : Fin 8, i ≠ 6 → ¬((hosted.parts[i]).valid = true ∧ ((hosted.parts[i]).dies &&& (0x40 : BitVec 8) ≠ 0 ∨
      (hosted.parts[i]).id = 0x105 ∨ (0x3F : BitVec 8) ≠ 0xFF ∧ (hosted.parts[i]).owner = 0x3F))) ∧
    (let s : State := { hosted with parts := hosted.parts.set 7 { hosted.parts[7] with clearing := true } };
      (s.parts[(7 : Fin 8)]).clearing = true ∧ (s.parts[(7 : Fin 8)]).faults = [] ∧ ∀ l ∈ s.launches, l.nest.part ≠ 0x1234) ∧
    (∃ l ∈ ({ hosted with launches := [launchOk] } : State).launches, l.nest.part = (hosted.parts[(0 : Fin 8)]).id) ∧
    (hosted.fabDone = false ∧ ({ hosted with fabDone := true } : State).fabDone = true) ∧
    (hosted.pend = none ∧ BitVec.ofNat 2 1 ≠ hosted.pmode ∧ (1 : Word).toNat % 4 ≠ 3) ∧
    (let s : State := { hosted with pend := some (1, 2), preq := 2 }; s.pend = some (1, 2) ∧ s.gcc < 1 ∧
      ({ s with gcc := 1 } : State).gcc = 1 ∧ s.preq = 2) := by
  refine ⟨?_, ?_, ?_, ?_, ?_, ?_, ?_, ?_⟩ <;> decide +kernel

theorem witness_RegisterWrites : hosted.boot = .ready ∧ (hosted.fns[(0 : Fin 65)]).present = true ∧
    (hosted.fns[(64 : Fin 65)]).present = true ∧ (hosted.fns[(64 : Fin 65)]).attstat ≠ 1 := by decide +kernel

theorem witness_RegisterWordsFrame :
    (∀ i ∈ [Instr.add 15 0 15, .li 15 0, .cmp .eq 7 0 15], destOf i ≠ none) ∧
    (let s := runs .s job0; exec (.add 15 0 15) s = .next (after (.add 15 0 15) s) ∧ (after (.add 15 0 15) s).cur.out = .done) := by
  refine ⟨?_, exec_after .., ?_⟩
  · intro i hi; simp only [List.mem_cons, List.not_mem_nil, or_false] at hi
    rcases hi with rfl | rfl | rfl <;> exact nofun
  · decide +kernel

/-- Die 0 after a word has been placed at page 1, about to issue it. -/
def fetching (w : Word) : State := State.reset.withFetchWord 64 w.toNat

/-- A guarded ADD x3, x1, x2 with STP, and the plain one. -/
def addW (guarded : Bool) : IWord := ⟨0, true, if guarded then 7 else 0, false, .add 3 1 2⟩

/-- That state without its turn, the stream having tried. -/
def fetch2 (g : Bool) : State :=
  ({ fetching (encode (addW g)) with turns := [] } : State).modJob 0 fun j =>
    j.modStream .s fun t => { t with tried := (fetching (encode (addW g))).gcc + 1 }

/-- Where it fetches, what it fetches, and the state its meaning is given. -/
def fetchPc (g : Bool) : Word := (((fetch2 g).job 0).stream .s).pc
def fetched (g : Bool) : Word × State := ((fetch2 g).fetchWord 0 (fetchPc g)).toOption.getD (0, fetch2 g)
def fetch4 (g : Bool) : State := ready (fetched g).2 0 .s (fetchPc g) (fetched g).1

theorem witness_StepRunsDecoded_issue (g : Bool) : let s := fetching (encode (addW g)); let j := (fetch2 g).job 0
    s.power = true ∧ s.boot = .ready ∧ s.turns = .issue 0 .s :: [] ∧ ({ s with turns := [] } : State).canIssue 0 .s = true ∧
      (∀ m ∈ j.moves, m.strm = .s → j.now < m.due) ∧ j.mops = [] ∧
      (fetch2 g).fetchWord 0 (fetchPc g) = .ok ((fetched g).1, (fetched g).2) ∧ GroupOf j .s (fetched g).1 (addW g) ∧
      guardOf (fetch4 g) (addW g) = .ok (!g) ∧ (after (.add 3 1 2) (fetch4 g)).cur.out = .done := by
  refine ⟨?_, ?_, ?_, ?_, ?_, ?_, ok_getD (0, fetch2 g) ?_, ?_, ?_, ?_⟩ <;> revert g <;> decide +kernel

/-- A lockstep job of which only stream S runs, its turn its cycle. -/
def lockOf : State :=
  let s := fetching (encode (addW false))
  { s.modJob 0 (fun j => { lock j with strm := (Vector.replicate 4 Stream.zero).set 0 (j.stream .s) }) with turns := [.cycle 0] }

/-- Stream S alone is started. -/
def onlyS (j : Job) : Bool := [Strm.s, .v, .m, .c].all fun u => (j.stream u).started == decide (u = .s)

theorem witness_StepRunsDecoded_cycle : let s := lockOf; let s1 : State := { s with turns := [] }; let j := s1.job 0
    let pc := (j.stream .s).pc
    let s2 := strms.foldl (fun (u : State) k => u.try_ 0 k) (s1.modJob 0 fun j => { j with st := .running, freeze := [] })
    s.power = true ∧ s.boot = .ready ∧ s.turns = .cycle 0 :: [] ∧ s1.lockMay 0 = true ∧ j.owed = [] ∧
      (j.nest.lockstep = true ∧ j.st = .running ∧ j.cycDone = false ∧ j.thawAt ≠ s.gcc + 1 ∧ j.saving = none ∧ j.stop = none ∧
        j.traps = [] ∧ j.freeze = [] ∧ s1.tried 0 .s = false) ∧
      onlyS j = true ∧ (j.stream .s).joined = false ∧
      (match s2.fetchWord 0 pc with
       | .ok (r, s3) => let t := after (.add 3 1 2) (ready s3 0 .s pc r)
           decide (GroupOf j .s r (addW false) ∧ guardOf (ready s3 0 .s pc r) (addW false) = .ok true ∧
             t.cur.out = .done ∧ onlyS (t.job 0) = true ∧ (t.job 0).traps = [] ∧
             (clashes j.traffic ((t.job 0).traffic.drop j.traffic.length)).2 = [])
       | .error _ => false) = true := by
  decide +kernel

theorem witness_StepRunsDecoded_guard : let s := fetch4 true; let w := addW true
    SettledP s w.pg ∧ (pv s w.pg).po = none := by decide +kernel

theorem witness_MemoryFrame :
    ((encodeOp (.st 15 1 .loc .d 0)).1 < 0xC0) ∧ ((storeOf (.st 15 1 .loc .d 0)).isSome = true) ∧
    (let s := runs .s (withX .s [(1, 0x3FFFF8), (15, 0x0123456789ABCDEF)] job0); let t := after (.st 15 1 .loc .d 0) s;
      Free s ∧ t.cur.out = .done ∧ t.here.landing.length = 1 ∧
        (match s.target s.cur.core ⟨false, true, false⟩ .loc ((xv s 1).v + 0) 8 with | .ok (.loc _) => true | _ => false) = true) ∧
    (let s := mapped (issuing .s { Core.zero with ctx0 := withExt (withX .s [(1, 0xFF8), (15, 0x0123456789ABCDEF)] job0) });
      let t := after (.st 15 1 (.ext 0) .d 0) s;
      Free s ∧ t.cur.out = .done ∧ t.here.psb.length = 1 ∧
        (match s.target s.cur.core ⟨false, true, false⟩ (.ext 0) ((xv s 1).v + 0) 8 with | .ok (.glob _ _ _) => true | _ => false) = true) ∧
    (let c : Core := { Core.zero with landing := [⟨0, 0, false, false, 0, [], [(0x3FFFF8, 0xEF, none)], []⟩] }; c.spad.wf = true) := by
  refine ⟨?_, ?_, ?_, ?_, ?_⟩ <;> decide +kernel

theorem witness_RoundTrip :
    let w : IWord := ⟨511, true, 7, true, .li 15 0x1FFFFFFFF⟩
    WellFormed w.op = true ∧ decode (encode w) = .ok w := by decide +kernel

theorem witness_MemoryInvariant : let s : State := { idle0 job0 with turns := [.tick] }
    s.memWf = true ∧ (match step s with | .next t => t.memWf | _ => false) = true := by decide +kernel

theorem witness_CounterAndService : let s : State := { idle0 job0 with turns := [.tick] }
    s.nextTurn.1 = .tick ∧ (match step s with | .next t => t.gcc == s.gcc + 1 && t.coresvc.getLsbD 127 | _ => false) = true := by
  decide +kernel

-- Words written out from the field layouts of R177, R186 to R199, and of R214, R237, R245, R252, R256, R276, R317, R318, R354.

/-- Each word, with STP and no guard, decodes to its instruction. -/
def reads (l : List (Word × Instr)) : Bool :=
  l.all fun e => match decode e.1 with
    | .ok w => w.op == e.2 && w.stp && w.slk == 0 && w.pg == 0 && !w.pn
    | .error _ => false

theorem test_decodes_control : reads [
  (0x0020000000000000, .nop),
  (0x0020200010000000, .br 0x10000000),
  (0x0020412CA0000003, .brc .geu 9 6 3),
  (0x0020618A00000000, .jmpx 12 5),
  (0x002080000FFFFFFF, .call 0x0FFFFFFF),
  (0x0020A00000000000, .ret),
  (0x0020C1601FFFFFFE, .loop 11 0x1FFFFFFE),
  (0x0020E08012345678, .loopv 4 0x12345678),
  (0x002100788ABCDEF1, .lbreak .ltu 3 12 0x0ABCDEF1),
  (0x0021200000000000, .join)] = true := by decide +kernel

theorem test_decodes_waits : reads [
  (0x0021400EBFFFFFFF, .waitt 5 7 0x1FFFFFFF),
  (0x0021600600000047, .waits 7 3 true),
  (0x0021601A0000003F, .waits 63 13 false),
  (0x002180120E000000, .send .c 2 9),
  (0x0021800605000000, .send .v 1 3),
  (0x0021A0C00000000C, .srd 6 .trapinfo),
  (0x0021A0C000000012, .srd 6 .incarnation),
  (0x0021A02000000023, .srd 1 (.qpop 3)),
  (0x0021A04000000025, .srd 2 (.qpeek 1)),
  (0x0021C01C00000007, .swr .vring 14),
  (0x0021C00200000008, .swr .trapvec 1),
  (0x0021E00000002C00, .fence .rel .pod),
  (0x0021E00000001800, .fence .acq .pkg),
  (0x0022000000000000, .beacon),
  (0x0022200960000000, .yield 4 11),
  (0x0022410600000000, .stampw 8 3),
  (0x0022600410000001, .trap 2 0x10000001),
  (0x0022801A00000000, .tret 13),
  (0x0022A14C00000000, .nest 10 6)] = true := by decide +kernel

theorem test_decodes_arithmetic : reads [
  (0x002401C3E0000000, .add 14 1 15),
  (0x002401C5C1000000, .sub 14 2 14),
  (0x002401C7A2000000, .and 14 3 13),
  (0x002401C983000000, .or 14 4 12),
  (0x002401CB64000000, .xor 14 5 11),
  (0x002401CD45000000, .shl 14 6 10),
  (0x002401CF26000000, .shr 14 7 9),
  (0x002401D107000000, .sra 14 8 8),
  (0x002401D2E8000000, .min 14 9 7),
  (0x002401D4C9000000, .max 14 10 6),
  (0x002401D6AA000000, .minu 14 11 5),
  (0x002401D88B000000, .maxu 14 12 4),
  (0x002421281F000000, .addi 9 4 0x1F000000),
  (0x0024212A3F000001, .andi 9 5 0x1F000001),
  (0x0024212C5F000002, .ori 9 6 0x1F000002),
  (0x0024212E7F000003, .xori 9 7 0x1F000003),
  (0x002420B680000021, .shli 5 11 33),
  (0x002420B8A0000022, .shri 5 12 34),
  (0x002420BAC0000023, .srai 5 13 35),
  (0x002441B234567890, .li 13 0x1234567890),
  (0x002460E007654321, .lih 7 0x7654321)] = true := by decide +kernel

theorem test_decodes_products : reads [
  (0x00248058E0000000, .mul 2 12 7),
  (0x0024807901000000, .mulh 3 12 8),
  (0x0024809922000000, .mulhu 4 12 9),
  (0x002480B943000000, .div 5 12 10),
  (0x002480D964000000, .divu 6 12 11),
  (0x002480F985000000, .rem 7 12 12),
  (0x00248119A6000000, .remu 8 12 13),
  (0x0024A14200000000, .clz 10 1),
  (0x0024A14420000000, .ctz 10 2),
  (0x0024A14640000000, .popc 10 3),
  (0x0024A078600007A2, .bfx 3 12 34 30),
  (0x0024A07880001000, .bfi 3 12 0 64),
  (0x0024C16D86000000, .cmp .ge 5 11 6),
  (0x0024C0AC29FFFFFE, .cmpi .ltu 2 11 0x1FFFFFE),
  (0x0024E0E2C0000000, .pand 7 1 6),
  (0x0024E0E4A1000000, .por 7 2 5),
  (0x0024E0E682000000, .pxor 7 3 4),
  (0x0024E06A03000000, .pnot 3 5),
  (0x00250129A6000000, .sel 9 6 4 13)] = true := by decide +kernel

theorem test_decodes_memory : reads [
  (0x0026008C2B000000, .ld 4 6 (.ext 2) .w true 0x1000000),
  (0x0026002500000005, .ld 1 2 .loc .b false 5),
  (0x00262186FDFFFFF8, .st 12 3 (.ext 15) .d 0x1FFFFF8),
  (0x002640B497400001, .lda 5 10 (.ext 9) .h true .pkg 0x400001),
  (0x002660B509FFFFFC, .stl 5 10 .loc .w .pod 0x7FFFFC),
  (0x00268123C0308400, .atadd 9 1 14 (.ext 3) false .rlx .die),
  (0x00268125A041D800, .atmin 9 2 13 (.ext 4) true .acq .pkg),
  (0x002681278052AC00, .atmax 9 3 12 (.ext 5) false .rel .pod),
  (0x002681296063F000, .atand 9 4 11 (.ext 6) true .acqrel .core),
  (0x0026812B40748400, .ator 9 5 10 (.ext 7) false .rlx .die),
  (0x0026812D2085D800, .atxor 9 6 9 (.ext 8) true .acq .pkg),
  (0x0026812F0096AC00, .atxchg 9 7 8 (.ext 9) false .rel .pod),
  (0x002680246907F800, .atcas 1 2 3 4 .loc true .acqrel .pkg),
  (0x0026808C0E389400, .atincb 4 6 7 (.ext 3) false .acq .die),
  (0x002681F0E009AC00, .atfadd 15 8 7 (.ext 0) .rel .pod)] = true := by decide +kernel

theorem test_decodes_vector_moves : reads [
  (0x0028000000000C0F, .vshape .e8m0 15),
  (0x0028217EE8660000, .vld (.rot 7) .loc 7 3),
  (0x0028411644EA0000, .vst (.pop 2) (.ext 9) 2 5),
  (0x002841BE00620000, .vst (.splat 7) (.ext 0) 0 1),
  (0x002A00FCE0000000, .vmov (.reg 31) (.peek 3)),
  (0x0029E01D00000201, .vbcast (.reg 3) (.rot 0) true .fp16),
  (0x002A202460000900, .vtrans (.reg 4) (.pop 3) .u8),
  (0x002A4028C3800310, .vperm (.reg 5) (.reg 6) (.reg 7) true .e4m3),
  (0x002A604120000703, .vsort (.reg 8) (.reg 9) true true false .i16),
  (0x002A604120000104, .vsort (.reg 8) (.reg 9) false false true .bf16),
  (0x002A8051600000A5, .vscan (.reg 10) (.reg 11) true true ⟨.fp32, .rd, true⟩),
  (0x002A805160000601, .vscan (.reg 10) (.reg 11) true false ⟨.i32, .rne, false⟩),
  (0x002AA166A0000820, .viota (.rot 4) 5 .i8 true),
  (0x002AC061A700040B, .vbucket (.reg 12) (.reg 13) (.reg 14) 11 .e5m2),
  (0x002AE07A00000701, .vhist (.reg 15) (.reg 16) true .i16),
  (0x002B008A400005C0, .vmxscale (.reg 17) (.reg 18) .e2m1 .ru),
  (0x002B209A8A800102, .vchscale (.reg 19) (.reg 20) (.reg 21) 2 .bf16),
  (0x002B40B2EC000A00, .vextr (.reg 22) (.reg 23) (.reg 24) .i4),
  (0x002B60CB58000B00, .vins (.reg 25) (.reg 26) (.splat 0) .u4)] = true := by decide +kernel

theorem test_decodes_vector_arithmetic : reads [
  (0x002880041B800010, .vadd (.reg 0) (.pop 0) (.splat 7) true ⟨.fp32, .rne, false⟩),
  (0x0028800C3B001160, .vsub (.reg 1) (.pop 1) (.splat 6) false ⟨.bf16, .rz, true⟩),
  (0x002880145A802290, .vmul (.reg 2) (.pop 2) (.splat 5) true ⟨.fp16, .rd, false⟩),
  (0x0028801C7A0033E0, .vmin (.reg 3) (.pop 3) (.splat 4) false ⟨.e4m3, .ru, true⟩),
  (0x0028802419804410, .vmax (.reg 4) (.pop 0) (.splat 3) true ⟨.e5m2, .rne, false⟩),
  (0x0028814C80005A20, .vabs (.rot 1) (.peek 0) ⟨.i4, .rne, true⟩),
  (0x0028814CA0006B20, .vneg (.rot 1) (.peek 1) ⟨.u4, .rne, true⟩),
  (0x0028A14890640100, .vfma (.rot 1) (.reg 4) (.pop 0) (.splat 2) false ⟨.bf16, .rne, false⟩),
  (0x0028A008418812F0, .vfms (.reg 1) (.reg 2) (.reg 3) (.reg 4) true ⟨.fp16, .ru, true⟩),
  (0x0028A00841DC2040, .vfnma (.reg 1) (.reg 2) (.reg 3) (.rot 6) false ⟨.fp32, .rz, false⟩),
  (0x0028C00021000600, .vand (.reg 0) (.reg 1) (.reg 2) false .i32),
  (0x0028C00841801710, .vor (.reg 1) (.reg 2) (.reg 3) true .i16),
  (0x0028C01062002800, .vxor (.reg 2) (.reg 3) (.reg 4) false .i8),
  (0x0028C020A3004A00, .vshl (.reg 4) (.reg 5) (.reg 6) false .i4),
  (0x0028C028C3805B10, .vshr (.reg 5) (.reg 6) (.reg 7) true .u4),
  (0x0028C030E4006600, .vsra (.reg 6) (.reg 7) (.reg 8) false .i32),
  (0x0028C0F3A0003900, .vnot (.reg 30) (.reg 29) .u8),
  (0x0028E00104800000, .vcmp .eq (.reg 0) (.reg 8) (.reg 9) false .fp32),
  (0x0028E00904801110, .vcmp .ne (.reg 1) (.reg 8) (.reg 9) true .bf16),
  (0x0028E01104802200, .vcmp .lt (.reg 2) (.reg 8) (.reg 9) false .fp16),
  (0x0028E01904803310, .vcmp .le (.reg 3) (.reg 8) (.reg 9) true .e4m3),
  (0x0028E02104804400, .vcmp .gt (.reg 4) (.reg 8) (.reg 9) false .e5m2),
  (0x0028E02904805010, .vcmp .ge (.reg 5) (.reg 8) (.reg 9) true .fp32),
  (0x0028E03104806100, .vcmp .unord (.reg 6) (.reg 8) (.reg 9) false .bf16),
  (0x0029000841880700, .vsel (.reg 1) (.reg 2) (.reg 3) (.reg 4) false .i16)] = true := by decide +kernel

theorem test_decodes_vector_functions : reads [
  (0x0029200A80000100, .vexp2 (.reg 1) (.reg 20) ⟨.bf16, .rne, false⟩),
  (0x00292012A0001260, .vexp (.reg 2) (.reg 21) ⟨.fp16, .rz, true⟩),
  (0x0029201AC0002180, .vlog2 (.reg 3) (.reg 22) ⟨.bf16, .rd, false⟩),
  (0x00292022E00032E0, .vrcp (.reg 4) (.reg 23) ⟨.fp16, .ru, true⟩),
  (0x0029202B00004100, .vrsq (.reg 5) (.reg 24) ⟨.bf16, .rne, false⟩),
  (0x0029203320005260, .vsqrt (.reg 6) (.reg 25) ⟨.fp16, .rz, true⟩),
  (0x0029203B40006180, .vtanh (.reg 7) (.reg 26) ⟨.bf16, .rd, false⟩),
  (0x00292043600072E0, .vsigm (.reg 8) (.reg 27) ⟨.fp16, .ru, true⟩),
  (0x0029204B80008100, .vsilu (.reg 9) (.reg 28) ⟨.bf16, .rne, false⟩),
  (0x0029400840000AA7, .vcvt (.reg 1) (.reg 2) ⟨.i4, .rd, true⟩ 7),
  (0x0029600841800340, .vpack (.reg 1) (.reg 2) (.reg 3) ⟨.e4m3, .rz, false⟩),
  (0x0029800840000001, .vunpack (.reg 1) (.reg 2) ⟨.fp32, .rne, false⟩ true),
  (0x0029A005000000C0, .vredr .sum (.reg 0) (.rot 0) ⟨.fp32, .ru, false⟩),
  (0x0029C04800000720, .vredc .sum (.reg 9) (.reg 0) ⟨.i16, .rne, true⟩),
  (0x0029A00D20001180, .vredr .max (.reg 1) (.rot 1) ⟨.bf16, .rd, false⟩),
  (0x0029C05020001720, .vredc .max (.reg 10) (.reg 1) ⟨.i16, .rne, true⟩),
  (0x0029A01540002240, .vredr .min (.reg 2) (.rot 2) ⟨.fp16, .rz, false⟩),
  (0x0029C05840002720, .vredc .min (.reg 11) (.reg 2) ⟨.i16, .rne, true⟩),
  (0x0029A01D60003300, .vredr .argmax (.reg 3) (.rot 3) ⟨.e4m3, .rne, false⟩),
  (0x0029C06060003720, .vredc .argmax (.reg 12) (.reg 3) ⟨.i16, .rne, true⟩),
  (0x0029A025800044C0, .vredr .argmin (.reg 4) (.rot 4) ⟨.e5m2, .ru, false⟩),
  (0x0029C06880004720, .vredc .argmin (.reg 13) (.reg 4) ⟨.i16, .rne, true⟩)] = true := by decide +kernel

theorem test_decodes_matrix : reads [
  (0x00300159CD551F10, .mma 5 6 7 3 .e2m1 .e2m1 .sk32 true true (some 7)),
  (0x0030204920D08000, .mmat 1 2 4 8 .e4m3 .e5m2 .sk8 false false none),
  (0x003040C000000000, .aswap 3),
  (0x003061C000000900, .azero 7 (some 1)),
  (0x003081A429804000, .ald 6 9 10 .i32 .sk4 none),
  (0x0030A16C31C00AE0, .ast 5 11 12 .i16 .ru true (some 2)),
  (0x0030A16C30400040, .ast 5 11 12 .bf16 .rz false none),
  (0x0030C13400000B02, .avec 4 13 2 (some 3)),
  (0x0030E0867844C000, .attn 2 1 9 14 .bf16 .bf16 .sk16 none),
  (0x003100203D000C00, .attnf 0 8 15 .e5m2 (some 4)),
  (0x00312056810C0D00, .amass 1 5 10 .e5m2 .e4m3 .plain (some 5)),
  (0x003140DC18000E00, .arstat 3 7 6 (some 6)),
  (0x003160900C010000, .alstat 2 4 3 .sk32 none),
  (0x0031802400000000, .abusy 9)] = true := by decide +kernel

theorem test_decodes_copies : reads [
  (0x003800468480E000, .copy .ld 4 2 3 ⟨some 1, some 8, .pkg⟩),
  (0x003800ACE3F07001, .copy .st 7 5 6 ⟨none, some 63, .pod⟩),
  (0x0038219BC0506000, .copyr 13 12 14 ⟨none, some 5, .pkg⟩),
  (0x003841207C068000, .qfill .v 2 9 3 ⟨some 7, none, .core⟩),
  (0x00384120601F5000, .qfill .c 3 9 3 ⟨none, some 1, .die⟩),
  (0x0038600002500000, .tsinit 37),
  (0x0038800C01500000, .tspost 21 6),
  (0x0038A0920800B000, .tsarrive 4 9 (some 2) .pod),
  (0x0038C00103F00000, .tsquery 8 63),
  (0x00390000B8020000, .tlquery 5 6 2),
  (0x003921E000000000, .cdecl 15),
  (0x0039400000030000, .crel 3),
  (0x0039600040060000, .cstat 2 2 true),
  (0x003980F010059000, .wdecl 5 7 8 (some 4) .die),
  (0x0039A064A490E000, .wget 2 3 5 ⟨some 1, some 9, .pkg⟩),
  (0x0039C064A0000000, .wown 2 3 5 ⟨none, none, .core⟩)] = true := by decide +kernel

theorem test_decodes_collectives : reads [
  (0x0039E00D2E10D000, .wput 6 9 ⟨some 3, some 33, .die⟩),
  (0x003A001680207000, .wdrop 11 4 ⟨none, some 2, .pod⟩),
  (0x003A202B2280E000, .creduce .sum 9 5 1 ⟨some 0, some 40, .pkg⟩),
  (0x003A204D4691E000, .creduce .max 10 6 2 ⟨some 1, some 41, .pkg⟩),
  (0x003A206F6AA2E000, .creduce .merge 11 7 3 ⟨some 2, some 42, .pkg⟩),
  (0x003A402D40007000, .cgather 10 6 1 ⟨none, some 0, .pod⟩),
  (0x003A604F60107000, .cbcast 11 7 2 ⟨none, some 1, .pod⟩),
  (0x003A807180207000, .cring 12 8 3 ⟨none, some 2, .pod⟩),
  (0x003AA093A0307000, .cmcast 13 9 4 ⟨none, some 3, .pod⟩),
  (0x003AC04A8400A000, .kvappend 4 2 5 ⟨some 1, none, .pkg⟩),
  (0x003AE12000405000, .kvref 9 ⟨none, some 4, .die⟩),
  (0x003B00700860E000, .kvsetRep 3 8 ⟨some 2, some 6, .pkg⟩),
  (0x003B007800012000, .kvsetMass 3 12 ⟨none, none, .pkg⟩),
  (0x003B21C018008000, .kvfree 14 ⟨some 6, none, .core⟩),
  (0x003B40A00910D000, .roust 5 2 (some 17) .die),
  (0x0022C1FFFFFFFFFF, .unassignedOpcode 0x16 0x1FFFFFFFFFF),
  (0x0038E00000000005, .unassignedOpcode 0xC7 5)] = true := by decide +kernel

-- Terms that are no words with legal operands (R188, R189, R250, R251, R265, R318 and the words' own descriptions).

/-- One term for each check of WellFormed, and an event: all are refused. -/
theorem test_ill_formed : ([
  .lbreak .eq 1 2 0, .lbreak .eq 1 2 0x10000000, .bfx 1 2 0 0, .bfi 1 2 1 64, .ld 1 2 .loc .d true 0, .lda 1 2 .loc .d true .die 0,
  .vadd (.reg 1) (.reg 2) (.reg 3) false ⟨.e2m1, .rne, false⟩, .vmul (.reg 1) (.reg 2) (.reg 3) false ⟨.i32, .rz, false⟩,
  .vabs (.reg 1) (.reg 2) ⟨.e8m0, .rne, false⟩, .vfma (.reg 1) (.reg 2) (.reg 3) (.reg 4) false ⟨.i4, .ru, true⟩,
  .vand (.reg 1) (.reg 2) (.reg 3) false .e2m1, .vnot (.reg 1) (.reg 2) .e8m0, .vcmp .eq (.reg 1) (.reg 2) (.reg 3) false .e2m1,
  .vsel (.reg 1) (.reg 2) (.reg 3) (.reg 4) false .e8m0, .vbcast (.reg 1) (.reg 2) false .e2m1,
  .vexp (.reg 1) (.reg 2) ⟨.fp32, .rz, false⟩, .vsilu (.reg 1) (.reg 2) ⟨.fp32, .rne, true⟩, .vtanh (.reg 1) (.reg 2) ⟨.e4m3, .rne, false⟩,
  .vlog2 (.reg 1) (.reg 2) ⟨.i32, .rne, false⟩, .vcvt (.reg 1) (.reg 2) ⟨.e2m1, .rne, false⟩ 0, .vpack (.reg 1) (.reg 2) (.reg 3) ⟨.e8m0, .rne, false⟩,
  .vunpack (.reg 1) (.reg 2) ⟨.e2m1, .rne, false⟩ false, .vredr .sum (.reg 1) (.reg 2) ⟨.i8, .rd, false⟩,
  .vredc .argmax (.reg 1) (.reg 2) ⟨.e2m1, .rne, false⟩, .vtrans (.reg 1) (.reg 2) .e8m0, .vperm (.reg 1) (.reg 2) (.reg 3) false .i4,
  .vsort (.reg 1) (.reg 2) false false false .u4, .vscan (.reg 1) (.reg 2) false false ⟨.u8, .ru, false⟩, .viota (.reg 1) 0 .fp32 false,
  .vbucket (.reg 1) (.reg 2) (.reg 3) 0 .i4, .vhist (.reg 1) (.reg 2) false .fp32, .vhist (.reg 1) (.reg 2) false .i4,
  .vmxscale (.reg 1) (.reg 2) .e5m2 .rne, .vchscale (.reg 1) (.reg 2) (.reg 3) 0 .bf16, .vchscale (.reg 1) (.reg 2) (.reg 3) 1 .i8,
  .vchscale (.reg 1) (.reg 2) (.reg 3) 2 .e5m2, .vchscale (.reg 1) (.reg 2) (.reg 0) 3 .bf16, .vextr (.reg 1) (.reg 2) (.reg 3) .fp16,
  .vins (.reg 1) (.reg 2) (.reg 3) .e8m0, .mma 0 1 2 3 .bf16 .fp16 .plain false false none, .mmat 0 1 2 3 .i4 .i4 .plain false false none,
  .ald 0 1 2 .e4m3 .plain none, .ast 0 1 2 .u8 .rne false none, .attn 0 1 2 3 .i8 .i8 .plain none, .attnf 0 1 2 .i32 none,
  .amass 0 1 2 .e2m1 .e2m1 .plain none, .tlquery 1 2 3, .unassignedOpcode 0x16 0, .jobDispatch 0] : List Instr).all (fun i => !WellFormed i) =
    true := by decide +kernel

/-- Words with a field that must be zero set, or a field outside its values, are refused by name. -/
theorem test_illegal_operands : ([
  0x0020000000000001, -- NOP, bit 0
  0x0020202000000000, -- BR, xa
  0x00204020E0000005, -- BRC, COND 7
  0x0024006240000001, -- ADD, bit 0
  0x002420AC80000040, -- SHLI by 64
  0x0021402EA0000000, -- WAITT, xd
  0x0021400F00000000, -- WAITT, FN4 bit 3
  0x0021600E00000080, -- WAITS, bit 7
  0x0021A0C000000013, -- SRD 0x13
  0x0021C00C00000009, -- SWR trapcause
  0x0024C0AC68000005, -- CMPI, xb
  0x0024E10240000000, -- PAND, bit 3 of pd
  0x0026008D18000000, -- LD, SEL 17
  0x0026208C0A000000, -- ST, SX
  0x0026808C0E385400, -- ATINCB, SZ 1
  0x0026808CAE389400, -- ATINCB, xb
  0x0026808CA039C000, -- ATFADD, SZ 3
  0x0028800F01000000, -- VADD, va 56
  0x0028810021000000, -- VADD to q0
  0x0028800841805000, -- VABS, vb
  0x0028200E10600000, -- VLD, bit 5 of vb
  0x0028200900600000, -- VLD, va no x register
  0x002A600840000008, -- VSORT, MOD 8
  0x00300159CCCD4000, -- MMA, SWZ 5
  0x00300159CCCC6000, -- MMA, AM 2
  0x00300159CCCC4004, -- MMA, FLAGS 4
  0x0030410000000000, -- ASWAP a4
  0x0030604000000100, -- AZERO, TL without TLE
  0x0038004680000002, -- COPY, FLAGS 2
  0x0038204684000000, -- COPYR, TL without TLE
  0x0038600000101000, -- TSINIT, SCOPE
  0x0038A0920850F000, -- TSARRIVE, TSE
  0x00390000B8030000, -- TLQUERY 3
  0x0039400000040000, -- CREL 4
  0x003B007008028000, -- KVSET 2
  0x003B40A001104000] : List Word).all (fun w => decode w == .error .illegalOperand) = true := by decide +kernel -- ROUST without TLE

/-- Opcodes and function codes that are not assigned decode to the row that stands for them. -/
theorem test_unassigned : ([
  0x0022C00000000000, -- 0x16
  0x002400000C000000, -- ALU 12
  0x00242000E0000000, -- ALUI 7
  0x00268000000A0000, -- ATOM 10
  0x0028800000007000, -- VARITH 7
  0x0029A00000005000, -- VREDR 5
  0x0031A00000000000, -- 0x8D
  0x0038E00000000000, -- 0xC7
  0x003A200000030000, -- CREDUCE 3
  0x003B600000000000] : List Word).all (fun w => match decode w with
    | .ok x => x.op == .unassignedOpcode (w >>> 45).toNat (w.setWidth 41)
    | .error _ => false) = true := by decide +kernel -- 0xDB

-- Numbers worked out in the notes on arithmetic (10) and the chapters' examples.

/-- 460.0, 500.0, 0.3125 and 0.005 in E4M3, without and with SAT, and towards zero. -/
theorem test_e4m3 :
    ([0x43E60000, 0x43FA0000, 0x3EA00000, 0x3BA3D70A].map (cvt .fp32 .e4m3 .rne false) = [0x7E, 0x7F, 0x2A, 0x03]) ∧
    ([0x43E60000, 0x43FA0000, 0x3EA00000, 0x3BA3D70A].map (cvt .fp32 .e4m3 .rne true) = [0x7E, 0x7E, 0x2A, 0x03]) ∧
    ([0x43FA0000, 0x3BA3D70A].map (cvt .fp32 .e4m3 .rz true) = [0x7E, 0x02]) := by decide +kernel

/-- The MX block of 0.6875, 0.09375, -0.3125 and 0.0625: scale 0x7C, codes 7, 2, 12, 1. -/
theorem test_mx_block : mxForm .rne ([0x3F300000, 0x3DC00000, 0xBEA00000, 0x3D800000].map (fvOf .fp32)) = (0x7C, [7, 2, 12, 1]) := by
  decide +kernel

/-- The INT4 channels of the notes: scales 0.5 and 0x3E12, codes 7, 2, -2, 0. -/
theorem test_int4_channel :
    (i4Scale ([0x40600000, 0x3F400000, 0xBFA00000, 0x3E800000].map (fvOf .fp32)) = 0x3F00) ∧
    ([0x40600000, 0x3F400000, 0xBFA00000, 0x3E800000].map (fun c => i4Quant (fvOf .fp32 c) 0x3F00) = [7, 2, 14, 0]) ∧
    (i4Scale [fvOf .fp32 0x3F800000] = 0x3E12) ∧ (i4Quant (fvOf .fp32 0x3F800000) 0x3E12 = 7) := by decide +kernel

/-- The two groups of an MMA: 2^24 + 16 exactly, then a tie that goes back. -/
theorem test_group_sum :
    groupSum 0x4B800000 [List.replicate 32 (fvOf .e4m3 0x30), [fvOf .e4m3 0x38]] = 0x4B800008 := by decide +kernel

/-- SK16 holds logical offset 0xAE5 at 0xB85 (R89). -/
theorem test_swizzle : swzOff .sk16 0xAE5 = 0xB85 ∧ swzOff .sk16 0x1AE5 = 0x1B85 := by decide +kernel

/-- The carousel of 05: producer offset 0x12340 is slot 0 at 0x502340, consumer offset 0x10010 slot 2 at 0x520010. -/
theorem test_carousel :
    let k : Carousel := { Carousel.zero with
      decl := true, autoarm := true, firstts := 8, count := 4, lslot := 4, base := 0x500000, level := 2, tail := 1, head := 3 }
    (k.resolve 0x12340 8).map (fun r => (r.1, r.2.2)) = some (true, 0, 0x502340) ∧
      (k.resolve 0x90010 8).map (fun r => (r.1, r.2.2)) = some (false, 2, 0x520010) := by decide +kernel

/-- Core 9 of die 5 in package 37 reads coord as 0x2559; turnstile 3 of core 0 of package 5 is 0x00000805_00C00030. -/
theorem test_names : coordReg 37 89 = 0x2559 ∧ locator 0x0000080500C00030 = ⟨true, 5, 0, 0xC00030⟩ ∧ locTs 0xC00030 = some 3 ∧
    locatorOk 0x0000080500C00030 = true := by decide +kernel

/-- The record's FLAGS 0x0000000500_01250C: partition 5, two loops, the inner one dimension 0, streams S and M, priority 3. -/
theorem test_flags :
    let r := nestOf 0 (leBytes 8 0x000000050001250C ++ List.replicate 632 0)
    r.part = 5 ∧ r.ndim = 2 ∧ r.smask = 5 ∧ r.prio = 3 ∧ r.dim 0 = 1 ∧ r.dim 1 = 0 ∧ r.lockstep = false ∧ r.gang = false := by
  decide +kernel

-- One step each.

/-- The value of the newest result of stream S after a word. -/
def newest (i : Instr) (s : State) : Option Word := ((after i s).cstrm.pend.getLast?).map fun e => e.val.v

/-- x1 = -2^63, x2 = -1, x3 = 7, x6 = 0xF0. -/
def sNum : State := runs .s (withX .s [(1, 0x8000000000000000), (2, 0xFFFFFFFFFFFFFFFF), (3, 7), (6, 0xF0)] job0)

/-- Corners of R233 to R237: wraps, sign fill, division by 0 and of -2^63 by -1, high products, empty counts. -/
theorem test_scalar_corners :
    newest (.sub 4 1 3) sNum = some 0x7FFFFFFFFFFFFFF9 ∧ newest (.sra 4 1 3) sNum = some 0xFF00000000000000 ∧
    newest (.shl 4 2 2) sNum = some 0x8000000000000000 ∧ newest (.min 4 1 3) sNum = some 0x8000000000000000 ∧
    newest (.minu 4 1 3) sNum = some 7 ∧ newest (.mulh 4 2 3) sNum = some 0xFFFFFFFFFFFFFFFF ∧ newest (.mulhu 4 2 3) sNum = some 6 ∧
    newest (.div 4 1 2) sNum = some 0x8000000000000000 ∧ newest (.div 4 3 0) sNum = some 0xFFFFFFFFFFFFFFFF ∧
    newest (.rem 4 1 2) sNum = some 0 ∧ newest (.rem 4 2 3) sNum = some 0xFFFFFFFFFFFFFFFF ∧ newest (.remu 4 2 3) sNum = some 1 ∧
    newest (.clz 4 0) sNum = some 64 ∧ newest (.ctz 4 1) sNum = some 63 := by decide +kernel

theorem test_constants :
    newest (.addi 4 3 0x1FFFFFFE) sNum = some 5 ∧ newest (.li 4 0x1FFFFFFFFF) sNum = some 0xFFFFFFFFFFFFFFFF ∧
    newest (.lih 3 0x4000001) sNum = some 0x8000002000000007 ∧ newest (.bfx 4 6 4 4) sNum = some 0xF ∧
    newest (.bfi 6 3 4 4) sNum = some 0x70 ∧ newest (.srd 4 .coord) sNum = some 0 := by decide +kernel

/-- LOOP with a counter of 2 goes back and leaves 1; with 1 it falls through and leaves 0 (R217). -/
theorem test_loop :
    (let t := after (.loop 3 0x1FFFFFFF) (runs .s (withX .s [(3, 2)] job0)); t.cstrm.pc = 0x1FFFF8 ∧ t.cstrm.pend.map (fun e => e.val.v) = [1]) ∧
    (let t := after (.loop 3 0x1FFFFFFF) (runs .s (withX .s [(3, 1)] job0)); t.cstrm.pc = 0x200008 ∧ t.cstrm.pend.map (fun e => e.val.v) = [0]) := by
  decide +kernel

/-- SEND M q0 x3 puts x3 in M's queue (14); a fifth entry is held in elastic mode and overflows in lockstep mode (R223). -/
theorem test_send :
    ((((after (.send .m 0 3) sNum).cjob.stream .m).q[0]).map (fun e => e.val.v) = [7]) ∧
    (let j := { job0 with strm := Vector.replicate 4 { Stream.zero with started := true, q := Vector.replicate 4 (List.replicate 4 ⟨⟨0, none⟩, 0⟩) } };
      (after (.send .m 0 3) (runs .s j)).cur.out = .hold .stream 0 ∧
        (match (after (.send .m 0 3) (runs .s (lock j))).cur.out with | .trapped c i _ => c == cQueueOverflow && i == 8 | _ => false) = true) := by
  decide +kernel

/-- SEND after a vector store of its own group is not held back, after one of an earlier group it is (R119, R182). -/
theorem test_send_after_store :
    let at_ (ord : Nat) := (after (.send .m 0 3) (runs .v { withX .v [(3, 7)] job0 with moves := [⟨ord, .v, 9, 0, 0, some [], none, none, 0⟩] })).cur.out
    at_ 1000 = .done ∧ at_ 999 = .hold .order 0 := by decide +kernel

/-- A TRET beside a result of its handler is kept until that result is written (R231). -/
theorem test_tret_waits :
    let j := (jH.modStream .s fun u => { u with pend := [⟨false, 2, ⟨1, none⟩, 1⟩] })
    let k := ((after (.tret 0) (runs .s j)).job 0)
    k.st = .trapped ∧ k.tret = some 0x200008 ∧ k.tretDue.st = .trapped ∧
      (k.modStream .s fun u => { u with pend := [] }).tretDue.st = .running := by decide +kernel

/-- A turnstile's image: 32 bytes posted and 32 arrived complete phase 0, and phase 1 begins (R103). -/
theorem test_turnstile :
    let t := after (.tspost 7 3) (runs .s (withX .s [(3, 32)] job0))
    (t.cjob.ts[7]).post = some 32 ∧ (t.cjob.ts[7]).phase = 0 := by decide +kernel

/-- A trap reaches the handler: S stands at trapvec, the job is TRAPPED with its cause, address and stream (R370). -/
theorem test_trap :
    let s := runs .s { withX .s [(2, 5)] job0 with trapvec := 0x200100 }
    (after (.trap 2 3) s).cur.out = .trapped cSoftware 8 0x200000 ∧
      (let t := (s.trapAt 0 ⟨.s, cSoftware, 8, 0x200000, 0x200008, false⟩).job 0;
        t.st = .trapped ∧ t.trapcause = cSoftware ∧ t.trappc = 0x200000 ∧ t.trapstrm = .s ∧ t.trapinfo = 8 ∧ (t.stream .s).pc = 0x200100) := by
  decide +kernel

/-- The step that the host asks for: the word that is placed runs, from reset. -/
theorem test_step_runs :
    (match step (State.reset.withFetchWord 64 0x0024006240000000) with
     | .next t => ((t.job 0).stream .s).pc == 0x200008 && ((t.job 0).stream .s).pend.map (fun e => e.reg) == [3]
     | _ => false) = true := by decide +kernel

end Sys2Proof.Tests
end

section
/-! What a step keeps: the canonical form of every memory (R2), the clock, and that no core comes back into service. The relation, its
rules for the updates of the state, and its reading on results that may fail or be absent. The files from here on elaborate one proof
at a time: proofs that wait for one another would each hold a stack of their own. -/

set_option autoImplicit false
set_option Elab.async false

namespace Sys2Proof

/-- Cells that are dropped leave the rest in its form. -/
theorem Memory.wfFrom_filter (p : Nat × Byte → Bool) : ∀ {m : Memory} {lo : Nat}, m.wfFrom lo = true → Memory.wfFrom lo (m.filter p) = true
  | [], _, h => h
  | (a, b) :: m, lo, h => by
    simp only [Memory.wfFrom, Bool.and_eq_true, decide_eq_true_eq, bne_iff_ne] at h
    obtain ⟨⟨hlo, hb⟩, hm⟩ := h
    have ih := Memory.wfFrom_filter p hm
    by_cases hp : p (a, b) = true
    · simp_all [Memory.wfFrom]
    · simpa [hp] using Memory.wfFrom_mono (by omega) ih

/-- A memory of which cells are dropped stays in its form. -/
theorem Memory.wf_filter {m : Memory} (p : Nat × Byte → Bool) (h : m.wf = true) : Memory.wf (m.filter p) = true := Memory.wfFrom_filter p h

/-- A fold of writes keeps the canonical form. -/
theorem Memory.wf_foldl {α : Type} {f : Memory → α → Memory} (hf : ∀ m a, m.wf = true → (f m a).wf = true) {m : Memory} (h : m.wf = true)
    (l : List α) : (l.foldl f m).wf = true :=
  List.foldlRecOn l f h fun m hm a _ => hf m a hm

namespace Machine

-- The relation.

/-- What `Keeps` says of the parts of a state that it speaks of. -/
structure KeptParts (s₀ : State) (mem : Memory) (cores : Vector Core 128) (parked : List Parked) (gcc : Nat) (svc : BitVec 128) : Prop where
  wf : s₀.memWf = true → mem.wf = true ∧ (∀ n : CoreIx, (cores[n]).spad.wf = true) ∧ ∀ p ∈ parked, p.img.bytes.wf = true
  gcc : gcc = s₀.gcc
  svc : ∀ n : CoreIx, svc.getLsbD n.val = true → s₀.coresvc.getLsbD n.val = true

/-- t keeps what s₀ has: the canonical form of every memory, the clock, and each core that is out of service. -/
def Keeps (s₀ t : State) : Prop := KeptParts s₀ t.mem t.cores t.parked t.gcc t.coresvc

variable {s₀ s t : State}

/-- The canonical form of a state, memory by memory. -/
theorem State.memWf_iff : s.memWf = true ↔
    s.mem.wf = true ∧ (∀ n : CoreIx, (s.core n).spad.wf = true) ∧ ∀ p ∈ s.parked, p.img.bytes.wf = true := by
  have hc : (∀ c ∈ s.cores.toList, Core.memWf c = true) ↔ ∀ n : CoreIx, (s.core n).spad.wf = true := by
    constructor
    · exact fun h n => h _ (by simp [State.core])
    · intro h c hc
      obtain ⟨i, hi, rfl⟩ := List.mem_iff_getElem.mp hc
      simpa [Core.memWf, State.core] using h ⟨i, by simpa using hi⟩
  simp only [State.memWf, Bool.and_eq_true, List.all_eq_true, hc, and_assoc]

theorem Keeps.refl (s : State) : Keeps s s := ⟨State.memWf_iff.mp, rfl, fun _ h => h⟩

theorem Keeps.memWf (h : Keeps s₀ s) (h0 : s₀.memWf = true) : s.memWf = true := State.memWf_iff.mpr (KeptParts.wf h h0)

theorem Keeps.mem_wf (h : Keeps s₀ s) (h0 : s₀.memWf = true) : s.mem.wf = true := (KeptParts.wf h h0).1

theorem Keeps.spad_wf (h : Keeps s₀ s) (h0 : s₀.memWf = true) (n : CoreIx) : (s.core n).spad.wf = true := (KeptParts.wf h h0).2.1 n

theorem Keeps.img_wf (h : Keeps s₀ s) (h0 : s₀.memWf = true) {p : Parked} (hp : p ∈ s.parked) : p.img.bytes.wf = true := (KeptParts.wf h h0).2.2 p hp

theorem Keeps.gcc_eq (h : Keeps s₀ s) : s.gcc = s₀.gcc := KeptParts.gcc h

theorem Keeps.coresvc_le (h : Keeps s₀ s) (n : CoreIx) : s.coresvc.getLsbD n.val = true → s₀.coresvc.getLsbD n.val = true := KeptParts.svc h n

/-- A state whose clock and service bits are those of one that keeps, in its form again. -/
theorem Keeps.of_memWf (h : Keeps s₀ s) (hw : s₀.memWf = true → t.memWf = true) (hg : t.gcc = s.gcc) (hv : t.coresvc = s.coresvc) :
    Keeps s₀ t :=
  ⟨fun h0 => State.memWf_iff.mp (hw h0), hg.trans h.gcc_eq, hv ▸ h.coresvc_le⟩

-- Updates of the state.

/-- The fields other than the memories, the cores, the clock and the service bits are free. -/
theorem Keeps.update (h : Keeps s₀ t) {power boot fails wall pmode preq pend diesvc shellsvc pkgnum defectsig grace ageint saveBase saveSlots
    jrnlBase logn jrnlNext parts porten fabPkg fabDone portup ringup incarn memPo seqs dir regions fills invals rdWrites dups holders
    launches subs fns phys pteAddr pteData pteBad pteHeld pteBusy pcieOut flash recLen fwDigest fwSvn fabricOut fabricIn fabricInc
    farPhases holdRounds homeOrder kvWaits dies turns cur ord free} :
    Keeps s₀ ⟨t.gcc, power, boot, fails, wall, pmode, preq, pend, diesvc, shellsvc, pkgnum, t.coresvc, defectsig, grace, ageint, saveBase,
      saveSlots, jrnlBase, logn, jrnlNext, parts, porten, fabPkg, fabDone, portup, ringup, incarn, t.mem, memPo, seqs, dir, regions, fills,
      invals, rdWrites, dups, holders, launches, subs, t.parked, fns, phys, pteAddr, pteData, pteBad, pteHeld, pteBusy, pcieOut, flash,
      recLen, fwDigest, fwSvn, fabricOut, fabricIn, fabricInc, farPhases, holdRounds, homeOrder, kvWaits, dies, t.cores, turns, cur, ord,
      free⟩ := h

theorem Keeps.setMem (h : Keeps s₀ s) {m : Memory} (hm : s.mem.wf = true → m.wf = true) : Keeps s₀ { s with mem := m } :=
  ⟨fun h0 => ⟨hm (h.mem_wf h0), h.spad_wf h0, fun _ => h.img_wf h0⟩, h.gcc_eq, h.coresvc_le⟩

theorem Keeps.setCores (h : Keeps s₀ s) {cs : Vector Core 128} (hc : ∀ n : CoreIx, (cs[n]).spad = (s.core n).spad) :
    Keeps s₀ { s with cores := cs } :=
  ⟨fun h0 => ⟨h.mem_wf h0, fun n => (hc n).symm ▸ h.spad_wf h0 n, fun _ => h.img_wf h0⟩, h.gcc_eq, h.coresvc_le⟩

/-- A change of every core that leaves the scratchpads. -/
theorem Keeps.mapCores (h : Keeps s₀ s) {f : Core → Core} (hf : ∀ c, (f c).spad = c.spad := by intro c; rfl) :
    Keeps s₀ { s with cores := s.cores.map f } :=
  h.setCores fun n => by simpa [State.core] using hf _

theorem Keeps.setParked (h : Keeps s₀ s) {l : List Parked} (hl : ∀ p ∈ l, ∃ q ∈ s.parked, p.img.bytes = q.img.bytes) :
    Keeps s₀ { s with parked := l } :=
  ⟨fun h0 => ⟨h.mem_wf h0, h.spad_wf h0, fun p hp => by obtain ⟨q, hq, e⟩ := hl p hp; exact e ▸ h.img_wf h0 hq⟩, h.gcc_eq, h.coresvc_le⟩

theorem Keeps.filterParked (h : Keeps s₀ s) {p : Parked → Bool} : Keeps s₀ { s with parked := s.parked.filter p } :=
  h.setParked fun q hq => ⟨q, (List.mem_filter.mp hq).1, rfl⟩

theorem Keeps.addParked (h : Keeps s₀ s) {p : Parked} (hp : s₀.memWf = true → p.img.bytes.wf = true) :
    Keeps s₀ { s with parked := s.parked ++ [p] } :=
  ⟨fun h0 => ⟨h.mem_wf h0, h.spad_wf h0, fun q hq => by
    rcases List.mem_append.mp hq with hq | hq
    · exact h.img_wf h0 hq
    · rw [List.mem_singleton.mp hq]; exact hp h0⟩, h.gcc_eq, h.coresvc_le⟩

theorem Keeps.setCore (h : Keeps s₀ s) {n : CoreIx} {c : Core} (hc : s₀.memWf = true → c.spad.wf = true) : Keeps s₀ (s.setCore n c) := by
  refine ⟨fun h0 => ⟨h.mem_wf h0, fun m => ?_, fun _ => h.img_wf h0⟩, h.gcc_eq, h.coresvc_le⟩
  show ((s.setCore n c).core m).spad.wf = true
  by_cases hm : m = n
  · subst hm; rw [State.core_setCore]; exact hc h0
  · rw [State.core_setCore_other _ _ hm]; exact h.spad_wf h0 m

/-- A core is put back with the scratchpad that it had. -/
theorem Keeps.setCore_spad (h : Keeps s₀ s) {n : CoreIx} {c : Core} (hc : c.spad = (s.core n).spad) : Keeps s₀ (s.setCore n c) :=
  h.setCore fun h0 => hc ▸ h.spad_wf h0 n

theorem Keeps.modCore (h : Keeps s₀ s) {n : CoreIx} {f : Core → Core} (hf : ∀ c, (f c).spad = c.spad := by intro c; rfl) :
    Keeps s₀ (s.modCore n f) :=
  h.setCore_spad (hf _)

theorem Keeps.setJob (h : Keeps s₀ s) {n : CoreIx} {j : Job} : Keeps s₀ (s.setJob n j) := h.setCore_spad (by simp)

theorem Keeps.modJob (h : Keeps s₀ s) {n : CoreIx} {f : Job → Job} : Keeps s₀ (s.modJob n f) := h.setJob

theorem Keeps.updJob (h : Keeps s₀ s) {f : Job → Job} : Keeps s₀ (s.updJob f) := h.modJob

theorem Keeps.updStrm (h : Keeps s₀ s) {f : Stream → Stream} : Keeps s₀ (s.updStrm f) := h.updJob

theorem Keeps.modDie (h : Keeps s₀ s) {d : DieIx} {f : Die → Die} : Keeps s₀ (s.modDie d f) := h.update

theorem Keeps.flip (h : Keeps s₀ s) {n : CoreIx} : Keeps s₀ (s.flip n) := h.modCore

-- Branches and folds.

theorem Keeps.ite {c : Prop} [Decidable c] (hs : Keeps s₀ s) (ht : Keeps s₀ t) : Keeps s₀ (if c then s else t) := by
  split
  · exact hs
  · exact ht

theorem Keeps.foldl {α : Type} {f : State → α → State} {l : List α} (h : Keeps s₀ s) (hf : ∀ t a, Keeps s₀ t → Keeps s₀ (f t a)) :
    Keeps s₀ (l.foldl f s) :=
  List.foldlRecOn l f h fun t ht a _ => hf t a ht

-- Results that may fail.

/-- The value that a computation answers, if it answers one, has the property. -/
def Ends {ε α : Type} (P : α → Prop) : Except ε α → Prop
  | .ok a => P a
  | .error _ => True

theorem Ends.error {ε α : Type} {P : α → Prop} {e : ε} : Ends P (.error e) := trivial

theorem Ends.ok {ε α : Type} {P : α → Prop} {a : α} (h : P a) : Ends (ε := ε) P (.ok a) := h

theorem Ends.of_ok {ε α : Type} {P : α → Prop} {r : Except ε α} {a : α} (h : Ends P r) (e : r = .ok a) : P a := by rw [e] at h; exact h

theorem Ends.bind {ε α β : Type} {P : β → Prop} {Q : α → Prop} {x : Except ε α} {f : α → Except ε β} (hx : Ends Q x)
    (hf : ∀ a, Q a → Ends P (f a)) : Ends P (x >>= f) := by
  cases x with
  | error e => trivial
  | ok a => exact hf a hx

/-- A check, or a value of which nothing need be known. -/
theorem Ends.skip {ε α β : Type} {P : β → Prop} {x : Except ε α} {f : α → Except ε β} (hf : ∀ a, Ends P (f a)) : Ends P (x >>= f) := by
  cases x with
  | error e => trivial
  | ok a => exact hf a

theorem Ends.ite {ε α : Type} {P : α → Prop} {c : Prop} [Decidable c] {x y : Except ε α} (hx : Ends P x) (hy : Ends P y) :
    Ends P (if c then x else y) := by
  split
  · exact hx
  · exact hy

/-- A computation that goes on from one of two places. -/
theorem Ends.bindIte {ε α β : Type} {P : β → Prop} {Q : α → Prop} {p : Prop} [Decidable p] {x y : Except ε α} {f : α → Except ε β}
    (hx : Ends Q x) (hy : Ends Q y) (hf : ∀ a, Q a → Ends P (f a)) : Ends P (if p then x >>= f else y >>= f) :=
  .ite (.bind hx hf) (.bind hy hf)

/-- The same, when nothing need be known of what it goes on with. -/
theorem Ends.skipIte {ε α β : Type} {P : β → Prop} {p : Prop} [Decidable p] {x y : Except ε α} {f : α → Except ε β}
    (hf : ∀ a, Ends P (f a)) : Ends P (if p then x >>= f else y >>= f) := .ite (.skip hf) (.skip hf)

theorem Ends.foldl {ε α β : Type} {P : β → Prop} {f : Except ε β → α → Except ε β} {r : Except ε β} {l : List α} (h : Ends P r)
    (hf : ∀ r a, Ends P r → Ends P (f r a)) : Ends P (l.foldl f r) :=
  List.foldlRecOn l f h fun r hr a _ => hf r a hr

/-- The value that is there, if one is, has the property. -/
def Gives {α : Type} (P : α → Prop) : Option α → Prop
  | some a => P a
  | none => True

theorem Gives.of_some {α : Type} {P : α → Prop} {o : Option α} {a : α} (h : Gives P o) (e : o = some a) : P a := by rw [e] at h; exact h

theorem Gives.ite {α : Type} {P : α → Prop} {c : Prop} [Decidable c] {x y : Option α} (hx : Gives P x) (hy : Gives P y) :
    Gives P (if c then x else y) := by
  split
  · exact hx
  · exact hy

theorem Gives.map {α β : Type} {P : β → Prop} {f : α → β} {o : Option α} (h : ∀ a, P (f a)) : Gives P (o.map f) := by
  cases o with
  | none => trivial
  | some a => exact h a

/-- The state itself stands in for one that is absent. -/
theorem Keeps.getD {o : Option State} (ho : Gives (Keeps s₀) o) (h : Keeps s₀ s) : Keeps s₀ (o.getD s) := by
  cases o with
  | none => exact h
  | some t => exact ho

-- Answers.

/-- The state that an answer leads to, if it leads to one, keeps. -/
def Keeps.Answers (s₀ : State) : Answer → Prop
  | .next t => Keeps s₀ t
  | _ => True

theorem Keeps.Answers.of_next {a : Answer} (h : Keeps.Answers s₀ a) (e : a = .next t) : Keeps s₀ t := by rw [e] at h; exact h

theorem Keeps.Answers.ite {p : Prop} [Decidable p] {a b : Answer} (ha : Keeps.Answers s₀ a) (hb : Keeps.Answers s₀ b) :
    Keeps.Answers s₀ (if p then a else b) := by
  split
  · exact ha
  · exact hb

theorem Keeps.happen (h : Keeps s₀ s) {o : Option State} (ho : Gives (Keeps s₀) o) : Keeps.Answers s₀ (happen s o) := Keeps.getD ho h

end Machine
end Sys2Proof
end

section
/-! What the operations of a core do to its scratchpad: nothing, but for what lands when the cycle ends (07 R118). -/

set_option autoImplicit false
set_option Elab.async false

namespace Sys2Proof.Machine

variable {c : Core} {j : Job} {held : Nat → Bool}

-- What lands.

/-- What lands at the end of a cycle keeps the canonical form of the scratchpad. -/
theorem Core.wf_commit (h : c.spad.wf = true) : c.commit.spad.wf = true := by
  have land : ∀ (l : List Land) (d : Core), d.spad.wf = true →
      (l.foldl (fun (d : Core) l => d.commitOne (l.prevail c.landing)) d).spad.wf = true := fun l d hd =>
    List.foldlRecOn (motive := fun d : Core => d.spad.wf = true) l _ hd fun d hd _ _ => d.wf_commitOne _ hd
  unfold Core.commit
  refine List.foldlRecOn (motive := fun d : Core => d.spad.wf = true) _ _ (land _ _ h) fun d hd tile _ => ?_
  split
  · exact hd
  · exact hd

theorem Core.wf_endCycle (units : Nat) (h : c.spad.wf = true) : (c.endCycle units).spad.wf = true := Core.wf_commit h

-- Changes of a core beside its scratchpad.

@[simp] theorem Core.spad_setQueue (store : Bool) (q : List Cmd) : (c.setQueue store q).spad = c.spad := by
  unfold Core.setQueue; split <;> rfl

@[simp] theorem Core.spad_setCtx (run : Bool) : (c.setCtx run j).spad = c.spad := by
  unfold Core.setCtx; split <;> simp

@[simp] theorem Core.spad_fetched (line : Nat) : (c.fetched line).spad = c.spad := by
  unfold Core.fetched; split <;> rfl

@[simp] theorem Core.spad_reveal (run : Bool) : (c.reveal run).spad = c.spad := rfl

@[simp] theorem Core.spad_hide (run : Bool) : (c.hide run).spad = c.spad := rfl

@[simp] theorem Core.spad_setCopy (tile : Nat) (st : WinSt) (dirty : List Nat) : (c.setCopy tile st dirty).spad = c.spad := rfl

theorem Core.spad_spot : c.spot.1.spad = c.spad := by
  unfold Core.spot
  split
  · rfl
  · split <;> rfl

@[simp] theorem Core.spad_place (fresh : Bool) : (c.place j fresh).spad = c.spad := by
  unfold Core.place
  generalize hr : c.spot = r
  have hs : r.1.spad = c.spad := hr ▸ c.spad_spot
  rcases r with ⟨d, run⟩
  cases fresh <;> cases run <;> simpa using hs

@[simp] theorem Core.spad_openInbox : c.openInbox.spad = c.spad := by
  unfold Core.openInbox
  split
  · rfl
  · split
    · simp
    · rfl

-- Words in flight: the scratchpad is read, and what is written joins what lands.

theorem spad_performMove (m : Move) (a : Nat) (slot : Option (Nat × Nat)) : (performMove c j m a slot).1.spad = c.spad := by
  unfold performMove; split <;> rfl

theorem spad_moveOne (r : Core × Job) (m : Move) : (moveOne held r m).1.spad = r.1.spad := by
  unfold moveOne
  split
  · rfl
  · rfl
  · rfl
  · exact spad_performMove ..

/-- A fold of operations that leave the scratchpad leaves it. -/
theorem spad_foldl {α : Type} {f : Core × Job → α → Core × Job} (hf : ∀ r a, (f r a).1.spad = r.1.spad) (r : Core × Job) (l : List α) :
    (l.foldl f r).1.spad = r.1.spad :=
  List.foldlRecOn (motive := fun q => q.1.spad = r.1.spad) l f rfl fun q hq a _ => (hf q a).trans hq

theorem spad_moveSome (which : Move → Bool) : (moveSome held c j which).1.spad = c.spad := spad_foldl spad_moveOne _ _

theorem spad_moveDue (all : Bool) : (moveDue held c j all).1.spad = c.spad := spad_moveSome _

theorem spad_lateOne (r : Core × Job) (l : Late) : (lateOne r l).1.spad = r.1.spad := by
  unfold lateOne; dsimp only; split <;> rfl

theorem spad_lateDue : (lateDue c j).1.spad = c.spad := spad_foldl spad_lateOne _ _

theorem spad_landAmass (o : MatOp) (fa fb : Fmt) : (landAmass c j o fa fb).1.spad = c.spad := by
  unfold landAmass; split <;> rfl

theorem spad_finishMat (gcc : Nat) (o : MatOp) : (finishMat gcc c j o).1.spad = c.spad := by
  have amass (fa fb : Fmt) : (if o.landed then (c, j) else landAmass c j o fa fb).1.spad = c.spad := by
    split
    · rfl
    · exact spad_landAmass ..
  unfold finishMat
  dsimp only
  split <;> split <;> first | rfl | exact amass _ _

theorem spad_matrixDue (gcc : Nat) : (matrixDue held gcc c j).1.spad = c.spad := spad_foldl (fun _ _ => spad_finishMat ..) _ _

theorem spad_work (gcc : Nat) : (work held gcc c j).1.spad = c.spad :=
  (spad_matrixDue _).trans (spad_lateDue.trans (spad_moveDue _))

theorem spad_matAhead (which : MatOp → Bool) : (matAhead held c j which).1.spad = c.spad := by
  refine spad_foldl (fun r o => ?_) _ _
  dsimp only
  split
  · exact spad_landAmass ..
  · rfl

/-- The cycles that a job is drained for land what they write, and nothing else. -/
theorem wf_drainCycles (gcc : Nat) : ∀ (n : Nat) (c : Core) (j : Job), c.spad.wf = true → (drainCycles held gcc n c j).1.spad.wf = true
  | 0, _, _, h => h
  | n + 1, _, _, h => wf_drainCycles gcc n _ _ (Core.wf_commit ((congrArg Memory.wf (spad_work gcc)).trans h))

end Sys2Proof.Machine
end

section
/-! The operations of global memory, the journal, the save slots and the KV tables keep (07 R123, R137 to R145; 24 R388 to R391; 23
R385; 21 R341 to R365). -/

set_option autoImplicit false
set_option Elab.async false

namespace Sys2Proof.Machine

variable {s₀ s t : State} {n m : CoreIx} {d : DieIx} {st : Strm} {part : BitVec 16} {mask : BitVec 8} {line pa : Nat} {p : PStore}
  {bs : List (Nat × Byte × Option PoU)}

-- Writes at their homes.

theorem Keeps.homePut (h : Keeps s₀ s) : Keeps s₀ (s.homePut bs) := by
  unfold State.homePut
  refine Keeps.foldl (h.update) fun t b ht => ?_
  split
  · exact ht.update
  · exact ht.setMem Memory.wf_put

theorem Keeps.roundOver (h : Keeps s₀ s) {ord : Nat} : Keeps s₀ (s.roundOver ord) := by
  unfold State.roundOver
  split
  · exact .ite h h.update
  · exact h

theorem Keeps.invalArrives (h : Keeps s₀ s) {i : Inval} : Keeps s₀ (s.invalArrives i) := by
  unfold State.invalArrives
  refine .ite h (.ite h.modDie (Keeps.roundOver ?_))
  exact (h.modDie.mapCores).update

theorem Keeps.flushInvals (h : Keeps s₀ s) {home : Nat} : Keeps s₀ (s.flushInvals home mask) :=
  h.update.foldl fun _ _ ht => ht.invalArrives

theorem Keeps.orderAtHome (h : Keeps s₀ s) : Keeps s₀ (s.orderAtHome mask bs) :=
  (h.homePut.foldl fun _ _ ht => ht.flushInvals).foldl fun _ _ ht => ht.update.update

-- Fills and stores.

theorem Keeps.addSharer (h : Keeps s₀ s) : Keeps s₀ (s.addSharer d line) := by
  unfold State.addSharer
  split
  · exact h.update
  · exact .ite h.update h.update

theorem Keeps.sendFill (h : Keeps s₀ s) {f : Fill} : Keeps s₀ (s.sendFill f) := h.update.addSharer

theorem Keeps.releaseFills (h : Keeps s₀ s) : Keeps s₀ s.releaseFills := h.foldl fun _ _ ht => .ite ht ht.sendFill

theorem Keeps.requestFill (h : Keeps s₀ s) : Keeps s₀ (s.requestFill d line) := .ite h h.update.releaseFills

theorem Keeps.retire (h : Keeps s₀ s) : Keeps s₀ (s.retire n p) := h.modCore.update

theorem Keeps.orderStore (h : Keeps s₀ s) : Keeps s₀ (s.orderStore n p) :=
  .ite h.retire.releaseFills (h.homePut.foldl fun _ _ ht => ht.update.modDie).retire.releaseFills

theorem Keeps.rdTurn (h : Keeps s₀ s) {w : RdWrite} : Keeps s₀ (s.rdTurn pa w).1 := by
  unfold State.rdTurn
  split
  · exact h
  · split
    · split
      · exact h.update
      · exact h
    · exact h.update

theorem Keeps.orderInTurn (h : Keeps s₀ s) {reply : Option (Nat × Nat)} : Keeps s₀ (s.orderInTurn mask part pa bs reply) :=
  .ite h.update h.orderAtHome

theorem Keeps.orderNow (h : Keeps s₀ s) : Keeps s₀ (s.orderNow n p) := (h.flushInvals.foldl fun _ _ ht => ht.update).orderStore

theorem Keeps.setDirty (h : Keeps s₀ s) {entry : Nat} : Keeps s₀ (s.setDirty part entry) := .ite h h.orderAtHome

-- The journal.

theorem Keeps.msix (h : Keeps s₀ s) {fn : Fin 65} {vec : Fin 4} : Keeps s₀ (s.msix fn vec) := .ite h.update h.update

theorem Keeps.msixPart (h : Keeps s₀ s) {vec : Fin 4} : Keeps s₀ (s.msixPart part vec) := by
  unfold State.msixPart
  split
  · exact h.msix
  · exact h

theorem Keeps.journal (h : Keeps s₀ s) {e : JEnt} : Keeps s₀ (s.journal e) :=
  .ite h (.ite h.orderAtHome.update.msixPart (.ite h.orderAtHome.update.msix h.orderAtHome.update))

-- Save slots.

/-- A slot is written over what it held. -/
theorem Keeps.writeSlot (h : Keeps s₀ s) {k : Nat} {segs : List (Nat × List Byte)} {img : SpadImg} : Keeps s₀ (s.writeSlot d k segs img) := by
  have hw : s.mem.wf = true → (s.writeSlot d k segs img).mem.wf = true := fun hm =>
    Memory.wf_foldl (fun _ _ h => Memory.wf_put h) (Memory.wf_foldl (fun _ _ h => Memory.wf_put h)
      (Memory.wf_foldl (fun _ _ h => Memory.wf_write h) (Memory.wf_filter _ hm) _) _) _
  exact (h.setMem hw).update

theorem Keeps.patchSlot (h : Keeps s₀ s) {k : Nat} {segs : List (Nat × List Byte)} : Keeps s₀ (s.patchSlot d k segs) :=
  h.setMem fun hm => Memory.wf_foldl (fun _ _ h => Memory.wf_write h) hm _

-- KV tables.

theorem Keeps.engineWrite (h : Keeps s₀ s) : Ends (Keeps s₀) (s.engineWrite part bs) := by
  unfold State.engineWrite
  split
  · exact .error
  · exact .ok h.orderAtHome

variable {b : KvBy} {va : Word} {pool : Pool} {table : KvTable} {i : Nat}

theorem Keeps.markPage (h : Keeps s₀ s) : Keeps s₀ (s.markPage b part va) := by
  unfold State.markPage
  refine .ite h ?_
  split
  · exact .ite h.setDirty h
  · exact h

theorem Keeps.touch (h : Keeps s₀ s) : Keeps s₀ (s.touch b part va) := by
  unfold State.touch
  refine .ite h ?_
  split
  · exact h
  · dsimp only
    split
    · exact h
    · exact h.modDie.modCore

theorem Keeps.touchRun (h : Keeps s₀ s) {a len : Nat} : Keeps s₀ (s.touchRun b part a len) := h.foldl fun _ _ ht => ht.touch

theorem Keeps.modReps (h : Keeps s₀ s) {f : List (Nat × List (Byte × Option PoU)) → List (Nat × List (Byte × Option PoU))} :
    Keeps s₀ (s.modReps f) := h.mapCores

theorem Keeps.kvWrite (h : Keeps s₀ s) {l : List Byte} : Ends (Keeps s₀) (s.kvWrite b part va l) :=
  .skip fun _ => .bind h.touch.markPage.engineWrite fun _ ht => .ok ht.modReps

theorem Keeps.popSlot (h : Keeps s₀ s) : Ends (Keeps s₀ ·.2) (s.popSlot b part pool) :=
  .skip fun _ => .skip fun _ => .skip fun _ => .skip fun _ => .bind h.kvWrite fun _ ht => .ok ht

theorem Keeps.pushSlot (h : Keeps s₀ s) : Ends (Keeps s₀) (s.pushSlot b part pool i) :=
  .skip fun _ => .bind h.kvWrite fun _ ht => ht.kvWrite

theorem Keeps.addRef (h : Keeps s₀ s) : Ends (Keeps s₀) (s.addRef b part pool i) :=
  .skip fun _ => .skip fun _ => h.kvWrite

theorem Keeps.dropRef (h : Keeps s₀ s) : Ends (Keeps s₀) (s.dropRef b part pool i) :=
  .skip fun _ => .bind h.kvWrite fun _ ht => .ite ht.pushSlot (.ok ht)

theorem Keeps.unref (h : Keeps s₀ s) : Ends (Keeps s₀) (s.unref b part pool i) := .skip fun _ => h.dropRef

theorem Keeps.kvTry (h : Keeps s₀ s) {r : CRes State} (hr : Ends (Keeps s₀) r) : Keeps s₀ (s.kvTry r) := by
  unfold State.kvTry
  split
  · exact hr
  · exact h

theorem Keeps.dropHold (h : Keeps s₀ s) {hold : Nat × Nat × Nat} : Keeps s₀ (s.dropHold b part hold) :=
  .ite ((h.kvTry h.engineWrite).kvTry (.skip fun _ => .skip fun _ => .skip fun _ => (h.kvTry h.engineWrite).pushSlot))
    (h.kvTry h.engineWrite)

end Sys2Proof.Machine
end

section
/-! What becomes of commands, jobs and traps keeps (17 R278 to R284; 03 R54, R73 to R77; 23 R370 to R385). -/

set_option autoImplicit false
set_option Elab.async false

namespace Sys2Proof.Machine

variable {s₀ s t : State} {n m : CoreIx} {d : DieIx} {st : Strm} {part : BitVec 16} {c : Cmd} {cause : Cause} {info : Word} {store run : Bool}

-- Commands.

theorem Keeps.modJobOf (h : Keeps s₀ s) {seq iter : Nat} {f : Job → Job} : Keeps s₀ (s.modJobOf n seq iter f) := by
  have hp : ∀ p ∈ s.parked.map (fun p : Parked => if p.job.is seq iter then { p with job := f p.job } else p),
      ∃ q ∈ s.parked, p.img.bytes = q.img.bytes := by
    simp only [List.mem_map]
    rintro _ ⟨q, hq, rfl⟩
    exact ⟨q, hq, by split <;> rfl⟩
  exact .ite (h.setCore_spad rfl) (.ite (h.setCore_spad rfl) (h.setParked hp))

theorem Keeps.modArrive (h : Keeps s₀ s) {k : BitVec 6} {f : Turnstile → Turnstile} : Keeps s₀ (s.modArrive n c m k f) :=
  .ite h.modJobOf h.modJob

theorem Keeps.poisonArrivals (h : Keeps s₀ s) : Keeps s₀ (s.poisonArrivals n c cause) := .ite h (h.foldl fun _ _ ht => ht.modArrive)

theorem Keeps.countFill (h : Keeps s₀ s) : Keeps s₀ (s.countFill n c) := by
  unfold State.countFill
  split
  · exact h
  · exact h.foldl fun _ _ ht => .ite ht.modJobOf ht.modJob

theorem Keeps.uncount (h : Keeps s₀ s) {gone : List Nat} : Keeps s₀ (s.uncount n gone) := h.mapCores

theorem Keeps.modCmd (h : Keeps s₀ s) {ord : Nat} {f : Cmd → Cmd} : Keeps s₀ (s.modCmd n store ord f) := h.modCore (by simp)

theorem Keeps.dropHolds (h : Keeps s₀ s) {b : KvBy} {l : List (Nat × Nat × Nat)} :
    Keeps s₀ (l.foldl (fun (t : State) hold => t.dropHold b part hold) s) := h.foldl fun _ _ ht => ht.dropHold

theorem Keeps.dropCmd (h : Keeps s₀ s) : Keeps s₀ (s.dropCmd n store c) :=
  (h.modCore fun k => by cases store <;> simp [Core.setQueue]).dropHolds.modDie

theorem Keeps.failCmd (h : Keeps s₀ s) : Keeps s₀ (s.failCmd n store c cause info) := h.poisonArrivals.dropCmd.modJobOf

theorem Keeps.discardCmd (h : Keeps s₀ s) : Keeps s₀ (s.discardCmd n store c cause) := h.poisonArrivals.countFill.dropCmd.modJobOf

theorem Keeps.completeCmd (h : Keeps s₀ s) : Keeps s₀ (s.completeCmd n store c) := h.dropCmd.modJobOf

-- Accesses in flight.

variable {g : GAcc} {aop : BitVec 4} {dw : Bool} {b k : Word} {ans : Option (List Byte × Bool)}

theorem Keeps.homeAtomic (h : Keeps s₀ s) {mask : BitVec 8} {pa : Nat} : Keeps s₀ (s.homeAtomic mask pa aop dw b k ans).1 := h.orderAtHome

theorem Keeps.atomicNow (h : Keeps s₀ s) {j : Job} : Keeps s₀ (s.atomicNow j g aop dw b k ans).1 := by
  unfold State.atomicNow
  split
  · exact h
  · exact h.homeAtomic

theorem Keeps.endAccess (h : Keeps s₀ s) {r : List Byte × Option Origin} : Keeps s₀ (s.endAccess n g r) := by
  unfold State.endAccess
  dsimp only
  split
  · exact .ite h.setJob h.setJob
  · exact h.setJob

theorem Keeps.orderAll (h : Keeps s₀ s) {l : List PStore} : Keeps s₀ (l.foldl (fun (t : State) p => t.orderNow n p) s) :=
  h.foldl fun _ _ ht => ht.orderNow

theorem Keeps.answerNow (h : Keeps s₀ s) : Keeps s₀ (s.answerNow n g) := by
  unfold State.answerNow
  refine .ite h ?_
  split
  · exact h.endAccess
  · generalize g.kind = kind
    cases kind with
    | atomic =>
      dsimp only
      exact h.orderAll.atomicNow.update.endAccess
    | nest => exact h
    | spill => exact h.endAccess
    | load => exact h.endAccess
    | vrow => exact h.endAccess

-- A job comes to its end.

theorem Keeps.hide (h : Keeps s₀ s) : Keeps s₀ (s.hide n run) := h.modCore

/-- What is in flight is performed: the cycles of a running job land what they write. -/
theorem Keeps.drain (h : Keeps s₀ s) : Keeps s₀ (s.drain n) := by
  unfold State.drain
  have h1 : Keeps s₀ ((s.job n).outs.foldl (fun (t : State) g => t.answerNow n g) s) := h.foldl fun _ _ ht => ht.answerNow
  refine h1.setCore fun h0 => ?_
  have hw := h1.spad_wf h0 n
  rw [Core.spad_setJob]
  split
  · rw [spad_foldl fun _ _ => spad_finishMat .., spad_moveDue]; exact hw
  · exact wf_drainCycles _ _ _ _ hw

theorem Keeps.capture (h : Keeps s₀ s) {j : Job} {jst : JState} {cmds : List Cmd} : Keeps s₀ (s.capture n j jst cmds).1 := by
  unfold State.capture
  dsimp only
  split
  · exact h
  · exact h.writeSlot.modDie.update

theorem Keeps.launchEnd (h : Keeps s₀ s) {seq cnt : Nat} : Keeps s₀ (s.launchEnd seq cnt) := by
  unfold State.launchEnd
  split
  · exact h
  · refine .ite (Keeps.update ?_) h.update
    refine h.foldl fun t p ht => ?_
    split
    · exact ht.modDie
    · exact ht

theorem Keeps.drainCtx (h : Keeps s₀ s) : Keeps s₀ (s.drainCtx n run) := .ite h.drain h.modCore.drain.modCore

/-- The commands of a job that have not begun are discarded. -/
theorem Keeps.discardUnbegun (h : Keeps s₀ s) {l : List Cmd} :
    Keeps s₀ (l.foldl (fun (t : State) d => if d.begun then t else t.discardCmd n store d cause) s) :=
  h.foldl fun _ _ ht => .ite ht ht.discardCmd

theorem Keeps.fenceJob (h : Keeps s₀ s) {wd : Option Nat} {trap : Option (Strm × Word)} : Keeps s₀ (s.fenceJob n run cause wd trap info) := by
  unfold State.fenceJob
  dsimp only
  refine .ite h ?_
  refine Keeps.launchEnd (Keeps.journal (Keeps.modCore (Keeps.capture ?_) fun k => ?_))
  · have hd {x : State} (hx : Keeps s₀ x) : ∀ o : Option Saving, Keeps s₀ (match o with
        | some sv => x.modDie (dieOf n) fun d => { d with slots := d.slots.set sv.slot .free }
        | none => x)
      | some _ => hx.modDie
      | none => hx
    exact hd (Keeps.ite h h.drainCtx).discardUnbegun.discardUnbegun.uncount.modCore.modDie _
  · split <;> simp

theorem Keeps.discardParked (h : Keeps s₀ s) {p : Parked} : Keeps s₀ (s.discardParked p n c cause) :=
  h.poisonArrivals.countFill.modJobOf.dropHolds.modDie

theorem Keeps.fenceParked (h : Keeps s₀ s) {p : Parked} {core : Option CoreIx} : Keeps s₀ (s.fenceParked p n core cause info) :=
  ((h.foldl fun _ _ ht => ht.discardParked).uncount).filterParked.patchSlot.modDie.update.journal.launchEnd

-- Traps.

theorem Keeps.faultRequest (h : Keeps s₀ s) {page : Nat} : Keeps s₀ (s.faultRequest part page) := by
  unfold State.faultRequest
  split
  · exact h
  · split
    · exact .ite h (.ite h.update.msixPart h.update)
    · exact h

variable {note : TrapNote}

theorem Keeps.suspend (h : Keeps s₀ s) : Keeps s₀ (s.suspend n note) :=
  .ite h.hide.modJob.journal.faultRequest h.hide.modJob.journal.fenceJob

theorem Keeps.deliver (h : Keeps s₀ s) : Keeps s₀ (s.deliver n note) :=
  .ite (.ite h.modJob.drain.modJob h.modJob.drain.suspend) (.ite h.modJob.drain.modJob.modCore h.modJob.drain.fenceJob)

theorem Keeps.stopDue (h : Keeps s₀ s) : Keeps s₀ (s.stopDue n) := by
  unfold State.stopDue
  split
  · exact h
  · exact .ite h.drain (.ite h.drain.suspend h.drain.modJob)

theorem Keeps.takeTrap (h : Keeps s₀ s) : Keeps s₀ (s.takeTrap cause info) := h.deliver.update

/-- A word that answers a state that keeps keeps, and so does one that traps or is held. -/
theorem Keeps.finish (h : Keeps s₀ s) {r : Res State} (hr : Ends (Keeps s₀) r) : Keeps.Answers s₀ (finish s r) :=
  match r, hr with
  | .ok _, hr => Keeps.update hr
  | .error (.trap _ _), _ => h.takeTrap
  | .error (.hold _ _), _ => h.update

end Sys2Proof.Machine
end

section
/-! Scalar words, loads and stores keep (12 R214 to R232; 13 R223 to R232; 14 R241 to R248). -/

set_option autoImplicit false
set_option Elab.async false

namespace Sys2Proof.Machine

variable {s₀ s t : State} {n m : CoreIx} {d : DieIx} {st : Strm} {va : Word} {a len : Nat} {xd xa xb xc : BitVec 4} {sel : Sel}

-- Order.

/-- What is ahead of a word is performed on the way: it lands with the cycle. -/
theorem Keeps.performed (h : Keeps s₀ s) {which : Bool → Bool} : Ends (Keeps s₀) (performed which s) := by
  unfold Machine.performed
  exact .ite (.ok h) (.ite .error (.ite .error
    (.ok (h.setCore_spad ((Core.spad_setJob _ _).trans ((spad_matAhead _).trans (spad_moveSome _)))))))

theorem Keeps.relGate (h : Keeps s₀ s) {sc : Scope} : Ends (Keeps s₀) (relGate s sc) :=
  .bind h.performed fun _ ht => .skip fun _ => .skip fun _ => .ok ht

theorem Keeps.sendGate (h : Keeps s₀ s) : Ends (Keeps s₀) (sendGate s) := .skip fun _ => .skip fun _ => h.performed

theorem Keeps.await (h : Keeps s₀ s) {g : GAcc} : Keeps s₀ (s.await g) := h.updJob

theorem Keeps.acquires (h : Keeps s₀ s) : Keeps s₀ s.acquires := h.updJob

-- Registers.

theorem Keeps.wrX (h : Keeps s₀ s) {v : XVal} {l : Nat} : Keeps s₀ (wrX s xd v l) := h.updJob

theorem Keeps.wrP (h : Keeps s₀ s) {pd : BitVec 3} {v : PVal} {l : Nat} : Keeps s₀ (wrP s pd v l) := h.updJob

theorem Keeps.scalar1 (h : Keeps s₀ s) {f : Word → Word} : Ends (Keeps s₀) (scalar1 s xd xa f) := .skip fun _ => .ok h.wrX

theorem Keeps.scalar2 (h : Keeps s₀ s) {l : Nat} {f : Word → Word → Word} : Ends (Keeps s₀) (scalar2 s xd xa xb l f) :=
  .skip fun _ => .skip fun _ => .ok h.wrX

theorem Keeps.pred2 (h : Keeps s₀ s) {pd pa pb : BitVec 3} {f : Bool → Bool → Bool} : Ends (Keeps s₀) (pred2 s pd pa pb f) :=
  .skip fun _ => .skip fun _ => .ok h.wrP

-- Control.

theorem Keeps.jump (h : Keeps s₀ s) : Ends (Keeps s₀) (jump s va) := .skip fun _ => .ok h.updStrm

theorem Keeps.branchIf (h : Keeps s₀ s) {cond : Cond} {off : BitVec 29} : Ends (Keeps s₀) (branchIf cond xa xb off s) :=
  .skip fun _ => .skip fun _ => .ite h.jump (.ok h)

theorem Keeps.loopBack (h : Keeps s₀ s) {imm : BitVec 29} : Ends (Keeps s₀ ·.1) (loopBack xd imm s) :=
  .skip fun _ => .ite (.ok h.wrX) (.bind h.wrX.jump fun _ ht => .ok ht)

theorem Keeps.waitTimeline (h : Keeps s₀ s) {k : BitVec 3} {i : Nat} : Ends (Keeps s₀) (waitTimeline s k i) := by
  refine .skip fun _ => .skip fun _ => ?_
  dsimp only
  split
  · exact .error
  · exact .skip fun _ => .ok h.acquires

theorem Keeps.waitTurnstile (h : Keeps s₀ s) {k : BitVec 6} {phase : Bool} : Ends (Keeps s₀) (waitTurnstile s k phase) := by
  unfold Machine.waitTurnstile
  refine .ite (.ok h.acquires) ?_
  dsimp only
  split
  · exact .error
  · exact .ite (.ok h.acquires) .error

theorem Keeps.takeHead (h : Keeps s₀ s) {k : BitVec 2} {v : XVal} {pop : Bool} : Keeps s₀ (takeHead s k v pop) :=
  .ite h.update.acquires.updStrm h.update.acquires

theorem Keeps.takeSlot (h : Keeps s₀ s) {sv : Saving} : Keeps s₀ (s.takeSlot n sv) := h.modDie.modJob

theorem Keeps.recordPlaces (h : Keeps s₀ s) : Ends (Keeps s₀ ·.2) (recordPlaces s va) := by
  refine .foldl (.ok h) fun r page hr => .bind hr fun ⟨l, t⟩ ht => ?_
  dsimp only
  split
  · exact .ite .error (.ok ht.modDie)
  · exact .error

-- Loads, stores and atomics.

theorem Keeps.scalarTraffic (h : Keeps s₀ s) : Ends (Keeps s₀ ·.1) (scalarTraffic s a len) := .skip fun _ => .ok h.setJob

theorem Keeps.later (h : Keeps s₀ s) {l : Loc} {p7 : Bool} {op : LateOp} {lat : Nat} : Keeps s₀ (s.later l len xd p7 op lat) :=
  h.updJob.update

theorem Keeps.ask (h : Keeps s₀ s) : Keeps s₀ (s.ask d a len) := h.foldl fun _ _ ht => ht.requestFill

theorem Keeps.loadWord (h : Keeps s₀ s) {sz : Sz} {sx acq : Bool} {scope : Scope} {off : Word} :
    Ends (Keeps s₀) (loadWord xd xa sel sz sx acq scope off s) := by
  refine .skip fun x => ?_
  dsimp only
  split
  · exact .ok h.wrX
  · refine .skip fun _ => .skip fun _ => .skip fun g => ?_
    split
    · exact .ok h.wrX
    · exact .ok h.wrX
    · refine .skip fun view => .bind h.scalarTraffic fun r hr => .ok ?_
      have ha : Keeps s₀ (if acq then r.1.updJob fun j => j.acquire r.1.cur.strm r.1.ord else r.1) := .ite hr.updJob hr
      exact .ite ha.wrX ha.later
    · exact .skip fun _ => .ok (Keeps.await (.ite h.updJob.update h.updJob.update.ask))

theorem Keeps.post (h : Keeps s₀ s) {bs : List Byte} {rdup more : Bool} : Keeps s₀ (s.post a bs rdup more) := .ite h h.modCore.update

theorem Keeps.storeAt (h : Keeps s₀ s) {bs : List Byte} {g : Target} : Ends (Keeps s₀) (storeAt s bs g) := by
  cases g with
  | loc l =>
    refine .skip fun _ => .bind h.scalarTraffic fun r hr => .ok (Keeps.update (.ite (Keeps.modCore ?_) hr.updJob.updJob))
    split
    · exact hr.updJob.updJob
    · exact hr.updJob
  | glob => exact .skip fun _ => .skip fun _ => .ok h.post
  | image => exact .ok h
  | poison => exact .ok h

theorem Keeps.awaitSpill (h : Keeps s₀ s) {g : Target} : Keeps s₀ (s.awaitSpill sel g) := by
  unfold State.awaitSpill
  split
  · exact .ite h.update.await h
  · exact h

theorem Keeps.storeWord (h : Keeps s₀ s) {sz : Sz} {rel : Option Scope} {off : Word} : Ends (Keeps s₀) (storeWord xd xa sel sz rel off s) := by
  refine .skip fun _ => .skip fun _ => .skip fun _ => .skip fun _ => .skip fun g => ?_
  cases rel with
  | some sc => exact .bind h.relGate fun _ ht => .bind ht.storeAt fun _ hu => .ok hu.awaitSpill
  | none => exact .bind (.ok h) fun _ ht => .bind ht.storeAt fun _ hu => .ok hu.awaitSpill

theorem Keeps.localAtomic (h : Keeps s₀ s) {aop : BitVec 4} {dw : Bool} {b c : Word} {acq : Bool} {l : Loc} :
    Ends (Keeps s₀) (localAtomic s xd aop dw b c acq l) := by
  refine .skip fun view => .bind h.scalarTraffic fun ⟨u, late⟩ hu => ?_
  have ha : Keeps s₀ (if acq then u.updJob fun j => j.acquire s.cur.strm u.ord else u) := .ite hu.updJob hu
  dsimp only
  generalize (if acq then u.updJob fun j => j.acquire s.cur.strm u.ord else u) = v at ha ⊢
  exact .ite (.ok ha.later)
    (.ok (.ite (ha.setCore_spad (by rfl)).updJob.update.wrX.wrP (ha.setCore_spad (by rfl)).updJob.update.wrX))

theorem Keeps.atomicWord (h : Keeps s₀ s) {aop : BitVec 4} {dw : Bool} {ord : MOrd} {scope : Scope} :
    Ends (Keeps s₀) (atomicWord xd xa xb xc sel aop dw ord scope s) := by
  refine .skip fun _ => .skip fun _ => .skip fun _ => .skip fun _ => .skip fun _ => .skip fun g => ?_
  cases g with
  | loc l => exact .ite (.bind h.relGate fun _ ht => ht.localAtomic) (.bind (.ok h) fun _ ht => ht.localAtomic)
  | glob =>
    exact .ite (.bind h.relGate fun _ ht => .skip fun _ => .ok ht.updJob.update.await)
      (.bind (.ok h) fun _ ht => .skip fun _ => .ok ht.updJob.update.await)
  | image => exact .ite (.bind h.relGate fun _ ht => .ok ht) (.bind (.ok h) fun _ ht => .ok ht)
  | poison => exact .ite (.bind h.relGate fun _ ht => .ok ht) (.bind (.ok h) fun _ ht => .ok ht)

end Sys2Proof.Machine
end

section
/-! Vector and matrix words keep (15 R249 to R275; 19 R315 to R340): what they write is on its way to the end of a later cycle. -/

set_option autoImplicit false
set_option Elab.async false

namespace Sys2Proof.Machine

variable {s₀ s t : State} {vd : VDst} {va vb vc : VSrc} {brb : Bool} {w o l : Nat} {f : VFmt} {ef : Fmt}

-- The arithmetic pipe.

theorem Keeps.takeSrcs (h : Keeps s₀ s) {srcs : List VSrc} : Keeps s₀ (takeSrcs s srcs) := by
  have hq : Keeps s₀ ((srcs.filterMap headOf).eraseDups.foldl (fun (t : State) q =>
      match alGet t.cur.vheads q.toNat, t.cjob.vq[q.toFin] with
      | none, e :: _ => { t with cur := { t.cur with vheads := alSet t.cur.vheads q.toNat e.tile } }
      | _, _ => t) s) := h.foldl fun t q ht => by
    split
    · exact ht.update
    · exact ht
  exact Keeps.foldl (.ite hq hq.acquires) fun _ _ ht => ht.updJob

theorem Keeps.issueV (h : Keeps s₀ s) {r : BitVec 5} {srcs : List VSrc} {rows : List (Nat × VRow)} :
    Ends (Keeps s₀) (issueV s r o l srcs rows) :=
  .skip fun _ => .skip fun _ => .ok h.takeSrcs.updJob.update

theorem Keeps.map1 (h : Keeps s₀ s) {g : Nat → Nat} : Ends (Keeps s₀) (map1 vd va w o l g s) := .skip fun _ => h.issueV

theorem Keeps.map2 (h : Keeps s₀ s) {g : Nat → Nat → Nat} : Ends (Keeps s₀) (map2 vd va vb brb w o l g s) :=
  .skip fun _ => .skip fun _ => h.issueV

theorem Keeps.map3 (h : Keeps s₀ s) {g : Nat → Nat → Nat → Nat} : Ends (Keeps s₀) (map3 vd va vb vc brb w o l g s) :=
  .skip fun _ => .skip fun _ => .skip fun _ => h.issueV

theorem Keeps.arithWord (h : Keeps s₀ s) {op : VAr} : Ends (Keeps s₀) (arithWord op vd va vb brb f s) := h.map2

theorem Keeps.fmaWord (h : Keeps s₀ s) {negp negc : Bool} : Ends (Keeps s₀) (fmaWord negp negc vd va vb vc brb f s) := h.map3

theorem Keeps.logicWord (h : Keeps s₀ s) {op : VLg} : Ends (Keeps s₀) (logicWord op vd va vb brb ef s) := h.map2

theorem Keeps.sfuWord (h : Keeps s₀ s) {fn : Sfu} : Ends (Keeps s₀) (sfuWord fn vd va f s) := h.map1

-- Words of the arithmetic pipe with operands of their own.

theorem Keeps.execVmov (h : Keeps s₀ s) : Keeps.Answers s₀ (execVmov vd va s) := h.finish (.skip fun _ => h.issueV)

theorem Keeps.execVbcast (h : Keeps s₀ s) {m : Bool} : Keeps.Answers s₀ (execVbcast vd va m ef s) := h.finish (.skip fun _ => h.issueV)

theorem Keeps.execVcvt (h : Keeps s₀ s) {p : BitVec 3} : Keeps.Answers s₀ (execVcvt vd va f p s) := by
  refine h.finish (.skip fun _ => .skip fun _ => .skip fun _ => .skip fun _ => ?_)
  exact .ite (.skip fun _ => h.issueV) (.skip fun _ => h.issueV)

theorem Keeps.execVpack (h : Keeps s₀ s) : Keeps.Answers s₀ (execVpack vd va vb f s) :=
  h.finish (.skip fun _ => .skip fun _ => .skip fun _ => .skip fun _ => .skip fun _ => h.issueV)

theorem Keeps.execVunpack (h : Keeps s₀ s) {hi : Bool} : Keeps.Answers s₀ (execVunpack vd va f hi s) :=
  h.finish (.skip fun _ => .skip fun _ => .skip fun _ => .skip fun _ => h.issueV)

theorem Keeps.execVmxscale (h : Keeps s₀ s) {rm : RMode} : Keeps.Answers s₀ (execVmxscale vd va ef rm s) :=
  h.finish (.skip fun _ => .skip fun _ => .skip fun _ => h.issueV)

theorem Keeps.execVchscale (h : Keeps s₀ s) {mode : BitVec 2} : Keeps.Answers s₀ (execVchscale vd va vb mode ef s) :=
  h.finish (.skip fun _ => .skip fun _ => .skip fun _ => .ite h.issueV (.skip fun _ => h.issueV))

theorem Keeps.execVredr (h : Keeps s₀ s) {fn : RedFn} : Keeps.Answers s₀ (execVredr fn vd va f s) := h.finish (.skip fun _ => h.issueV)

theorem Keeps.execVredc (h : Keeps s₀ s) {fn : RedFn} : Keeps.Answers s₀ (execVredc fn vd va f s) := h.finish (.skip fun _ => h.issueV)

theorem Keeps.execVtrans (h : Keeps s₀ s) : Keeps.Answers s₀ (execVtrans vd va ef s) :=
  h.finish (.skip fun _ => .skip fun _ => h.issueV)

theorem Keeps.execVperm (h : Keeps s₀ s) : Keeps.Answers s₀ (execVperm vd va vb brb ef s) :=
  h.finish (.skip fun _ => .skip fun _ => h.issueV)

theorem Keeps.execVsort (h : Keeps s₀ s) {desc idx whole : Bool} : Keeps.Answers s₀ (execVsort vd va desc idx whole ef s) :=
  h.finish (.skip fun _ => .skip fun _ => .ite h.issueV h.issueV)

theorem Keeps.execVscan (h : Keeps s₀ s) {excl whole : Bool} : Keeps.Answers s₀ (execVscan vd va excl whole f s) :=
  h.finish (.skip fun _ => .ite h.issueV h.issueV)

theorem Keeps.execViota (h : Keeps s₀ s) {xa : BitVec 3} {sat : Bool} : Keeps.Answers s₀ (execViota vd xa ef sat s) :=
  h.finish (.skip fun _ => h.issueV)

theorem Keeps.execVbucket (h : Keeps s₀ s) {k : BitVec 4} : Keeps.Answers s₀ (execVbucket vd va vb k ef s) :=
  h.finish (.skip fun _ => .skip fun _ => h.issueV)

theorem Keeps.execVhist (h : Keeps s₀ s) {acc : Bool} : Keeps.Answers s₀ (execVhist vd va acc ef s) :=
  h.finish (.skip fun _ => .ite (.skip fun _ => h.issueV) (.skip fun _ => h.issueV))

theorem Keeps.execVextr (h : Keeps s₀ s) : Keeps.Answers s₀ (execVextr vd va vb ef s) :=
  h.finish (.skip fun _ => .skip fun _ => h.issueV)

theorem Keeps.execVins (h : Keeps s₀ s) : Keeps.Answers s₀ (execVins vd va vb ef s) :=
  h.finish (.skip fun _ => .skip fun _ => .skip fun _ => h.issueV)

-- Rows of memory.

theorem Keeps.issueLoad (h : Keeps s₀ s) {r : BitVec 5} {rows : List (Nat × RowTo)} : Ends (Keeps s₀) (issueLoad s r rows) :=
  .skip fun _ => .skip fun _ => .skip fun _ => .ok (h.setJob.update.foldl fun _ _ ht => ht.ask.await)

theorem Keeps.storeRow (h : Keeps s₀ s) {tile : Tile} {r : Nat × RowTo} : Keeps s₀ (storeRow tile s r) := by
  unfold Machine.storeRow
  dsimp only
  split
  · exact h.updJob
  · exact h.updJob
  · exact h.foldl fun _ _ ht => ht.post
  · exact h

theorem Keeps.execVld (h : Keeps s₀ s) {sel : Sel} {xa xc : BitVec 3} : Keeps.Answers s₀ (execVld vd sel xa xc s) := by
  refine h.finish (.skip fun _ => .skip fun _ => .skip fun _ => .skip fun _ => ?_)
  dsimp only
  split
  · exact h.issueLoad
  · exact .skip fun _ => h.issueLoad

theorem Keeps.execVst (h : Keeps s₀ s) {sel : Sel} {xa xc : BitVec 3} : Keeps.Answers s₀ (execVst va sel xa xc s) := by
  refine h.finish (.skip fun _ => .skip fun _ => .skip fun _ => .skip fun _ => .skip fun _ => .skip fun _ => ?_)
  split
  · exact .error
  · refine .skip fun _ => .skip fun _ => .skip fun _ => .ok ?_
    have hs : ∀ {j : Job} {srcs : List VSrc} {tile : Tile} {rows : List (Nat × RowTo)},
        Keeps s₀ (rows.foldl (Machine.storeRow tile) (Machine.takeSrcs (s.putJob j) srcs)) := fun {_ _ _ _} =>
      (Keeps.setJob h).takeSrcs.foldl fun _ _ ht => ht.storeRow
    split
    · exact hs.update.awaitSpill
    · exact hs.update

-- The matrix engine.

variable {i : Instr} {ad : BitVec 3} {xa xb xs : BitVec 4} {fa fb : Fmt} {z : Swz} {tl : Option (BitVec 3)} {trans : Bool}

theorem Keeps.issueM (h : Keeps s₀ s) {word : MWord} {op : MatOp} {moves : List Move} : Ends (Keeps s₀) (issueM s word tl op moves) := by
  refine .skip fun _ => .ite ?_ ?_
  · exact .skip fun _ => .skip fun _ => .skip fun _ => .ok h.setJob.update
  · exact .skip fun _ => .skip fun _ => .skip fun _ => .skip fun _ => .ok h.setJob.update

theorem Keeps.mmaWord (h : Keeps s₀ s) : Ends (Keeps s₀) (mmaWord i trans ad xa xb xs fa fb z tl s) :=
  .skip fun _ => .skip fun _ => .skip fun _ => .skip fun _ => .skip fun _ => .skip fun _ => .skip fun _ => .skip fun _ => .skip fun _ =>
    h.issueM

theorem Keeps.execAswap (h : Keeps s₀ s) {acc : BitVec 2} : Keeps.Answers s₀ (execAswap acc s) := by
  refine h.finish ?_
  split
  · exact .error
  · exact .ok h.updJob.update

theorem Keeps.execAld (h : Keeps s₀ s) : Keeps.Answers s₀ (execAld ad xa xs fa z tl s) :=
  h.finish (.skip fun _ => .skip fun _ => .skip fun _ => .skip fun _ => .skip fun _ => h.issueM)

theorem Keeps.execAst (h : Keeps s₀ s) {rm : RMode} {sat : Bool} : Keeps.Answers s₀ (execAst ad xa xs fa rm sat tl s) :=
  h.finish (.skip fun _ => .skip fun _ => .skip fun _ => .skip fun _ => .ite (.skip fun _ => h.issueM) h.issueM)

theorem Keeps.execAvec (h : Keeps s₀ s) {q : BitVec 2} : Keeps.Answers s₀ (execAvec ad xa q tl s) :=
  h.finish (.skip fun _ => .skip fun _ => .skip fun _ => .ite .error (.bind h.issueM fun _ ht => .ok ht.updJob))

theorem Keeps.execArstat (h : Keeps s₀ s) : Keeps.Answers s₀ (execArstat ad xa xs tl s) :=
  h.finish (.skip fun _ => .skip fun _ => .skip fun _ => .skip fun _ => .skip fun _ => h.issueM)

theorem Keeps.execAlstat (h : Keeps s₀ s) : Keeps.Answers s₀ (execAlstat ad xa xs z tl s) :=
  h.finish (.skip fun _ => .skip fun _ => .skip fun _ => .skip fun _ => .skip fun _ => h.issueM)

theorem Keeps.execAbusy (h : Keeps s₀ s) : Keeps.Answers s₀ (execAbusy xa s) := h.finish (.ok h.wrX)

theorem Keeps.execAttn (h : Keeps s₀ s) : Keeps.Answers s₀ (execAttn ad xa xb xs fa fb z tl s) :=
  h.finish (.skip fun _ => .skip fun _ => .skip fun _ => .skip fun _ => h.issueM)

theorem Keeps.execAmass (h : Keeps s₀ s) : Keeps.Answers s₀ (execAmass ad xa xb fa fb z tl s) :=
  h.finish (.skip fun _ => .skip fun _ => .skip fun _ => h.issueM)

theorem Keeps.execAttnf (h : Keeps s₀ s) : Keeps.Answers s₀ (execAttnf ad xa xs fa tl s) :=
  h.finish (.skip fun _ => .skip fun _ => .skip fun _ => .skip fun _ => .skip fun _ => .skip fun _ => .skip fun _ => h.issueM)

end Sys2Proof.Machine
end

section
/-! Control words keep (12 R214 to R232). -/

set_option autoImplicit false
set_option Elab.async false

namespace Sys2Proof.Machine

variable {s₀ s t : State} {xd xa xb : BitVec 4} {off imm : BitVec 29}

theorem Keeps.execNop (h : Keeps s₀ s) : Keeps.Answers s₀ (execNop s) := h.finish (.ok h)

theorem Keeps.execBr (h : Keeps s₀ s) : Keeps.Answers s₀ (execBr off s) := h.finish h.jump

theorem Keeps.execJmpx (h : Keeps s₀ s) : Keeps.Answers s₀ (execJmpx xd xa s) := h.finish (.skip fun _ => h.wrX.jump)

theorem Keeps.execCall (h : Keeps s₀ s) : Keeps.Answers s₀ (execCall off s) := h.finish h.wrX.jump

theorem Keeps.execRet (h : Keeps s₀ s) : Keeps.Answers s₀ (execRet s) := h.finish (.skip fun _ => h.jump)

theorem Keeps.execLoop (h : Keeps s₀ s) : Keeps.Answers s₀ (execLoop xd imm s) := h.finish (.bind h.loopBack fun _ ht => .ok ht)

theorem Keeps.execLoopv (h : Keeps s₀ s) : Keeps.Answers s₀ (execLoopv xd imm s) :=
  h.finish (.bind h.loopBack fun _ ht => .ite (.ok ht.updJob) (.ok ht))

theorem Keeps.execJoin (h : Keeps s₀ s) : Keeps.Answers s₀ (execJoin s) :=
  h.finish (.skip fun _ => .ite (.ok h.updStrm.updJob) (.ok h.updStrm))

theorem Keeps.execWaitt (h : Keeps s₀ s) {tl : BitVec 3} : Keeps.Answers s₀ (execWaitt tl xa imm s) :=
  h.finish (.skip fun _ => h.waitTimeline)

theorem Keeps.execWaits (h : Keeps s₀ s) {ts : BitVec 6} {inv : Bool} : Keeps.Answers s₀ (execWaits ts xa inv s) :=
  h.finish (.skip fun _ => h.waitTurnstile)

theorem Keeps.execStampw (h : Keeps s₀ s) : Keeps.Answers s₀ (execStampw xd xa s) := h.finish (.skip fun _ => .ite .error (.ok h.wrX))

theorem Keeps.execSend (h : Keeps s₀ s) {st : Strm} {k : BitVec 2} : Keeps.Answers s₀ (execSend st k xa s) :=
  h.finish (.skip fun _ => .skip fun _ => .bind h.sendGate fun _ ht => .ite .error (.ok ht.updJob))

theorem Keeps.execSrd (h : Keeps s₀ s) {r : SReg} : Keeps.Answers s₀ (execSrd xd r s) := by
  refine h.finish ?_
  split
  · exact .skip fun _ => .ok h.takeHead.wrX
  · exact .skip fun _ => .ok h.takeHead.wrX
  · exact .ok h.wrX

theorem Keeps.execSwr (h : Keeps s₀ s) {r : WReg} : Keeps.Answers s₀ (execSwr r xa s) :=
  h.finish (.skip fun _ => .skip fun _ => .ok h.updJob)

theorem Keeps.execFence (h : Keeps s₀ s) {ord : MOrd} {scope : Scope} : Keeps.Answers s₀ (execFence ord scope s) := by
  refine h.finish (.skip fun _ => ?_)
  have rest : ∀ {u : State}, Keeps s₀ u → Ends (Keeps s₀)
      (if ordRel ord then Machine.relGate (if ordAcq ord then u.acquires else u) scope else .ok (if ordAcq ord then u.acquires else u)) :=
    fun hu => .ite (Keeps.ite hu.acquires hu).relGate (.ok (.ite hu.acquires hu))
  exact .ite (.bind h.performed fun _ ht => rest ht) (rest h)

theorem Keeps.execBeacon (h : Keeps s₀ s) : Keeps.Answers s₀ (execBeacon s) := h.finish (.ok h.updJob)

theorem Keeps.execYield (h : Keeps s₀ s) : Keeps.Answers s₀ (execYield xa xb s) := by
  refine h.finish (.skip fun _ => .skip fun _ => .skip fun _ => ?_)
  split
  · exact .ite (.ok h) (.ok h.takeSlot)
  · exact .ok h

theorem Keeps.execUnassignedOpcode (h : Keeps s₀ s) {opc : BitVec 8} {ops : BitVec 41} :
    Keeps.Answers s₀ (execUnassignedOpcode opc ops s) := h.finish .error

theorem Keeps.execTrap (h : Keeps s₀ s) : Keeps.Answers s₀ (execTrap xa imm s) := h.finish (.skip fun _ => .error)

theorem Keeps.execTret (h : Keeps s₀ s) : Keeps.Answers s₀ (execTret xa s) :=
  h.finish (.skip fun _ => .skip fun _ => .skip fun _ => .ok h.updJob)

theorem Keeps.execNest (h : Keeps s₀ s) : Keeps.Answers s₀ (execNest xd xa s) := by
  refine h.finish (.skip fun _ => .skip fun _ => .bind h.relGate fun _ ht => .bind ht.recordPlaces fun r hr => ?_)
  obtain ⟨frames, u⟩ := r
  dsimp only at hr ⊢
  cases (Machine.recordBytes u _ frames).2 with
  | some o => exact .error
  | none => exact .ok hr.updJob.update.await

theorem Keeps.execVshape (h : Keeps s₀ s) {ef : Fmt} {rowsM1 : BitVec 4} : Keeps.Answers s₀ (execVshape ef rowsM1 s) :=
  h.finish (.ok h.updJob)

theorem Keeps.execLi (h : Keeps s₀ s) {i : BitVec 37} : Keeps.Answers s₀ (execLi xd i s) := h.finish (.ok h.wrX)

theorem Keeps.execCmp (h : Keeps s₀ s) {cond : Cond} {pd : BitVec 3} : Keeps.Answers s₀ (execCmp cond pd xa xb s) :=
  h.finish (.skip fun _ => .skip fun _ => .ok h.wrP)

theorem Keeps.execCmpi (h : Keeps s₀ s) {cond : Cond} {pd : BitVec 3} {i : BitVec 25} : Keeps.Answers s₀ (execCmpi cond pd xa i s) :=
  h.finish (.skip fun _ => .ok h.wrP)

theorem Keeps.execSel (h : Keeps s₀ s) {pk : BitVec 3} : Keeps.Answers s₀ (execSel xd pk xa xb s) :=
  h.finish (.skip fun _ => .skip fun _ => .skip fun _ => .ok h.wrX)

end Sys2Proof.Machine
end

section
/-! Commands as they are submitted keep (17 R276 to R288; 21 R356, R357). -/

set_option autoImplicit false
set_option Elab.async false

namespace Sys2Proof.Machine

variable {s₀ s t : State} {c : Cmd} {store w : Bool} {tl : Option (BitVec 3)} {i : Instr} {xt xm xs : BitVec 4} {tags : Tags}

theorem Keeps.setDirtyAll (h : Keeps s₀ s) {part : BitVec 16} {l : List Nat} :
    Keeps s₀ (l.foldl (fun (t : State) e => t.setDirty part e) s) := h.foldl fun _ _ ht => ht.setDirty

theorem Keeps.setDirtyIf (h : Keeps s₀ s) {part : BitVec 16} {l : List Nat} :
    Keeps s₀ (if w then l.foldl (fun (t : State) e => t.setDirty part e) s else s) := .ite h.setDirtyAll h

theorem Keeps.addCmd (h : Keeps s₀ s) {n : CoreIx} : Keeps s₀ (s.modCore n fun k => k.setQueue store (k.queue store ++ [c])) :=
  h.modCore fun _ => Core.spad_setQueue _ _

theorem Keeps.acceptCmd (h : Keeps s₀ s) {xl : List (Nat × Xlat)} : Ends (Keeps s₀) (acceptCmd s store c tl xl w) := by
  refine .skip fun _ => ?_
  dsimp only
  split
  · exact .error
  · cases tl with
    | none => exact .ok h.modDie.setDirtyIf.addCmd.update
    | some k => exact .skip fun _ => .ok h.modDie.setDirtyIf.addCmd.updJob.update

theorem Keeps.submitLocal (h : Keeps s₀ s) : Ends (Keeps s₀) (submitLocal s store c tl) := .skip fun _ => .skip fun _ => h.acceptCmd

theorem Keeps.submitVas (h : Keeps s₀ s) {vas : List Nat} {rd : Bool} : Ends (Keeps s₀) (submitVas s store c tl vas rd w) :=
  .skip fun _ => .skip fun _ => .skip fun _ => h.acceptCmd

theorem Keeps.acceptKv (h : Keeps s₀ s) {l : List KvPg} : Ends (Keeps s₀) (acceptKv s store c tl l) :=
  .skip fun _ => h.setDirtyAll.acceptCmd

/-- What a run answers whatever pages are known, it answers when they are looked up. -/
theorem Ends.kvLook {α : Type} {P : α → Prop} {b : KvBy} {part : BitVec 16} {run : KvBy → CRes α} {fail : Cause × Word → Res α}
    (hr : ∀ b, Ends P (run b)) (hf : ∀ e, Ends P (fail e)) : ∀ k l, Ends (P ·.1) (s.kvLook b part run fail k l)
  | 0, _ => .error
  | k + 1, l => by
    unfold State.kvLook
    split
    case h_1 e => exact (hr _).of_ok e
    case h_2 =>
      refine .ite ?_ (.ite .error (.bind (hf _) fun _ ha => .ok ha))
      split
      · exact Ends.kvLook hr hf k _
      · exact .error

theorem Keeps.kvHolds (h : Keeps s₀ s) {part : BitVec 16} {tab : KvTable} {pool : Pool} {slots : List Nat} {b : KvBy} :
    Ends (Keeps s₀ ·.1) (s.kvHolds part store tab pool slots b) := by
  have hf : Ends (ε := Cause × Word) (Keeps s₀ ·.1) (slots.foldl (fun (r : CRes (State × List (Nat × Nat × Nat))) i => do
      let (u, l) ← r
      let u ← u.addRef b part pool i
      .ok (u, l ++ [(tab.poolVa.toNat, i, ← s.kvAddr b part (pool.descVa i) true)])) (.ok (s, []))) :=
    .foldl (.ok h) fun _ _ hr => .bind hr fun _ ht => .bind ht.addRef fun _ hu => .skip fun _ => .ok hu
  exact .skip fun _ => .skip fun _ => .ite hf (.skip fun _ => hf)

theorem Keeps.submitKv (h : Keeps s₀ s) {m : TMap} : Ends (Keeps s₀) (submitKv s store c tl m) := by
  refine .skip fun _ => .skip fun _ => .skip fun _ => .skip fun _ => .skip fun _ => .skip fun r => ?_
  dsimp only
  split
  · exact .error
  · exact .skip fun _ => .skip fun _ => .bind (.kvLook (fun _ => h.kvHolds) (fun _ => .error) _ _) fun _ hr => hr.acceptKv

theorem Keeps.submitTables (h : Keeps s₀ s) : Ends (Keeps s₀) (submitTables s store c tl) :=
  .skip fun _ => .skip fun _ => .skip fun _ => h.acceptKv

-- The words.

theorem Keeps.effCopy (h : Keeps s₀ s) {dir : Dir} : Ends (Keeps s₀) (effCopy dir xt xm xs tags i s) := by
  refine .skip fun _ => .skip fun _ => .skip fun _ => .skip fun _ => .skip fun _ => .skip fun _ => .skip fun _ => .skip fun _ => ?_
  dsimp only
  split
  · exact .error
  split
  · exact .error
  · exact .skip fun _ => .skip fun _ => .skip fun _ => .ite h.submitKv h.submitVas

theorem Keeps.effCopyr (h : Keeps s₀ s) : Ends (Keeps s₀) (effCopyr xs xm xt tags s) := by
  refine .skip fun _ => .skip fun _ => .skip fun _ => .skip fun _ => .skip fun _ => .skip fun _ => .skip fun _ => .skip fun _ =>
    .skip fun _ => .skip fun _ => .ite h.submitLocal ?_
  split
  · exact .skip fun _ => h.submitLocal
  · exact h.submitLocal

theorem Keeps.effQfill (h : Keeps s₀ s) {tgt : Strm} {k : BitVec 2} : Ends (Keeps s₀) (effQfill tgt k xm xt tags s) :=
  .skip fun _ => .skip fun _ => .skip fun _ => .skip fun _ => .skip fun _ => .skip fun _ => .skip fun _ => h.submitLocal

theorem Keeps.effWget (h : Keeps s₀ s) : Ends (Keeps s₀) (effWget i xs xm xt tags s) :=
  .skip fun _ => .skip fun _ => .skip fun _ => .skip fun _ => .skip fun _ => .skip fun _ => .skip fun _ => .skip fun _ =>
    .skip fun _ => .skip fun _ => h.submitLocal

theorem Keeps.effWput (h : Keeps s₀ s) : Ends (Keeps s₀) (effWput i xs xt tags s) := by
  refine .skip fun _ => .skip fun _ => .skip fun _ => .skip fun _ => .skip fun _ => .skip fun _ => ?_
  split
  · exact .error
  · exact .bind h.performed fun _ ht => ht.submitLocal

theorem Keeps.effColl (h : Keeps s₀ s) : Ends (Keeps s₀) (effColl i xt xs xm tags s) := by
  refine .skip fun _ => .skip fun _ => .skip fun _ => .skip fun _ => .skip fun _ => .skip fun _ => .skip fun _ => .skip fun _ =>
    .skip fun _ => .skip fun _ => .skip fun _ => .skip fun _ => .skip fun _ => ?_
  exact .ite (.skip fun _ => .bind h.submitLocal fun _ ht => .ite (.ok ht.updJob) (.ok ht))
    (.skip fun _ => .bind h.submitLocal fun _ ht => .ite (.ok ht.updJob) (.ok ht))

theorem Keeps.effKvset (h : Keeps s₀ s) {xs : Option (BitVec 4)} {units : List Byte → Nat} :
    Ends (Keeps s₀) (effKvset i xm xs tags units s) := by
  refine .skip fun _ => ?_
  cases xs
  all_goals
    refine .skip fun _ => .skip fun _ => .skip fun _ => .skip fun _ => ?_
    split
    · exact .skip fun _ => h.submitTables
    · exact .skip fun _ => h.submitTables

theorem Keeps.execTsinit (h : Keeps s₀ s) {ts : BitVec 6} : Keeps.Answers s₀ (execTsinit ts s) := by
  refine h.finish ?_
  split
  · exact .error
  · exact .ok h.updJob

theorem Keeps.execTspost (h : Keeps s₀ s) {ts : BitVec 6} : Keeps.Answers s₀ (execTspost ts xs s) :=
  h.finish (.skip fun _ => .skip fun _ => .ok h.updJob)

theorem Keeps.execTsarrive (h : Keeps s₀ s) {scope : Scope} : Keeps.Answers s₀ (execTsarrive xm xs tl scope s) :=
  h.finish (.skip fun _ => .skip fun _ => .skip fun _ => .skip fun _ => .bind h.performed fun _ ht => ht.submitLocal)

theorem Keeps.execTsquery (h : Keeps s₀ s) {ts : BitVec 6} : Keeps.Answers s₀ (execTsquery xt ts s) := h.finish (.ok h.wrX)

theorem Keeps.execTlquery (h : Keeps s₀ s) {k : BitVec 3} {f : BitVec 2} : Keeps.Answers s₀ (execTlquery xt k f s) :=
  h.finish (.ok h.wrX)

theorem Keeps.execCdecl (h : Keeps s₀ s) : Keeps.Answers s₀ (execCdecl xm s) :=
  h.finish (.skip fun _ => .skip fun _ => .skip fun _ => .skip fun _ => .skip fun _ => .ok h.updJob)

theorem Keeps.execCrel (h : Keeps s₀ s) {car : BitVec 2} : Keeps.Answers s₀ (execCrel car s) := h.finish (.skip fun _ => .ok h.updJob)

theorem Keeps.execCstat (h : Keeps s₀ s) {car : BitVec 2} {f : Bool} : Keeps.Answers s₀ (execCstat xt car f s) := h.finish (.ok h.wrX)

theorem Keeps.execWdecl (h : Keeps s₀ s) {k : BitVec 3} {scope : Scope} : Keeps.Answers s₀ (execWdecl k xm xs tl scope s) :=
  h.finish (.skip fun _ => .skip fun _ => .skip fun _ => .skip fun _ => .skip fun _ => h.submitLocal)

theorem Keeps.execKvappend (h : Keeps s₀ s) : Keeps.Answers s₀ (execKvappend xt xm xs tags s) :=
  h.finish (.skip fun _ => .skip fun _ => .skip fun _ => .skip fun _ => .skip fun _ => .skip fun _ =>
    .bind h.submitTables fun _ ht => .ok ht.updJob)

theorem Keeps.execRoust (h : Keeps s₀ s) {k : BitVec 3} {ts : Option (BitVec 6)} {scope : Scope} :
    Keeps.Answers s₀ (execRoust xm k ts scope s) :=
  h.finish (.skip fun _ => .skip fun _ => .skip fun _ => .skip fun _ => .skip fun _ => h.submitTables)

end Sys2Proof.Machine
end

section
/-! KV commands at work keep (21 R356 to R370): they write global memory, and mark what they change. -/

set_option autoImplicit false
set_option Elab.async false

namespace Sys2Proof.Machine

variable {s₀ s t src : State} {b : KvBy} {part : BitVec 16} {va : Word} {pool : Pool} {tab : KvTable} {bs : List Byte} {c : Cmd}

theorem Keeps.kvSetEntry (h : Keeps s₀ s) {p : Nat} {e : Word} : Ends (Keeps s₀) (s.kvSetEntry b part va p e) := h.kvWrite

theorem Keeps.kvSetHeader (h : Keeps s₀ s) : Ends (Keeps s₀) (s.kvSetHeader b part tab) := .bind h.kvWrite fun _ ht => ht.kvWrite

theorem Keeps.kvExtend (h : Keeps s₀ s) {e : Word} {k : Nat} : Ends (Keeps s₀) (s.kvExtend b part pool tab e k) :=
  .bind h.kvWrite fun _ ht => .bind ht.kvWrite fun _ hu => hu.kvSetEntry

theorem Keeps.kvNewPage (h : Keeps s₀ s) {f cnt pos : Nat} : Ends (Keeps s₀) (s.kvNewPage b part pool tab f cnt pos) :=
  .bind h.popSlot fun _ ht => .skip fun _ => .bind ht.kvWrite fun _ hu => .bind hu.kvWrite fun _ hv => .bind hv.kvWrite fun _ hw =>
    hw.kvSetEntry

/-- A fold of steps of a command, with what they count. -/
theorem Keeps.foldlRes {α β : Type} {f : CRes (State × β) → α → CRes (State × β)} {r : CRes (State × β)} {l : List α}
    (h : Ends (Keeps s₀ ·.1) r) (hf : ∀ r a, Ends (Keeps s₀ ·.1) r → Ends (Keeps s₀ ·.1) (f r a)) : Ends (Keeps s₀ ·.1) (l.foldl f r) :=
  .foldl h hf

theorem Keeps.kvRef (h : Keeps s₀ s) : Ends (Keeps s₀) (s.kvRef b part bs) := by
  refine .skip fun _ => .skip fun _ => .skip fun _ => .skip fun _ => .bind (Keeps.foldlRes (.ok h) fun r _ hr => ?_)
    fun _ ht => ht.kvSetHeader
  refine .bind hr fun ⟨u, sum⟩ hu => .skip fun e => ?_
  split
  · exact .bind (Keeps.kvSetEntry hu) fun _ hv => .ok hv
  · exact .bind (Keeps.addRef hu) fun _ hv => .bind hv.kvSetEntry fun _ hw => .bind hw.kvSetEntry fun _ hx => .ok hx

theorem Keeps.kvFree (h : Keeps s₀ s) : Ends (Keeps s₀) (s.kvFree b part bs) := by
  refine .skip fun _ => .skip fun _ => .skip fun _ => .bind (Keeps.foldlRes (.ok h) fun r _ hr => ?_)
    fun _ ht => .skip fun _ => ht.kvSetHeader
  refine .bind hr fun ⟨u, sum⟩ hu => .skip fun e => ?_
  split
  · exact .ok hu
  · exact .bind (Keeps.unref hu) fun _ hv => .bind hv.kvSetEntry fun _ hw => .ok hw

theorem Keeps.kvAddWord (h : Keeps s₀ s) {pa a : Nat} : Ends (Keeps s₀) (s.kvAddWord b part pa a) := h.modReps.engineWrite

theorem Keeps.kvAddMass (h : Keeps s₀ s) {base k : Nat} : Ends (Gives (Keeps s₀)) (s.kvAddMass b part bs base k) := by
  refine .skip fun _ => .skip fun _ => .skip fun _ => .ite (.ok trivial) (.skip fun _ => .skip fun _ => .ite (.ok trivial) ?_)
  exact .bind (.foldl (.ok h.touch.markPage) fun _ _ hr => .bind hr fun _ ht => ht.kvAddWord) fun _ ht => .ok ht

theorem Keeps.kvAddMasses (h : Keeps s₀ s) {base : Nat} : Ends (Keeps s₀ ·.1) (s.kvAddMasses b part bs base) := by
  refine .foldl (.ok h) fun r k hr => .bind hr fun u hu => .bind hu.kvAddMass fun o ho => ?_
  cases o with
  | some t => exact .ok ho
  | none => exact .ok hu

/-- The state that an entry of a sequence list leads to, if its tokens are appended, keeps. -/
def Keeps.Serves (s₀ : State) : Append → Prop
  | .served t => Keeps s₀ t
  | .refused _ => True

theorem Keeps.kvAppend (h : Keeps s₀ s) {a f : Nat} : Ends (Keeps.Serves s₀) (s.kvAppend b part va a f) := by
  refine .skip fun tab => .skip fun pool => .skipIte fun last => .skipIte fun one => ?_
  exact .ite (.ok trivial) (.ite (.ok trivial) (.bindIte (.ok h) h.kvExtend fun _ hu => .bindIte hu.kvNewPage (.ok hu) fun _ hv =>
    .bind hv.kvSetHeader fun _ hw => .ok hw))

/-- The state that a page of KVSET rep leads to, if it is replaced, keeps. -/
def Keeps.Acts (s₀ : State) : KvPage → Prop
  | .acted t => Keeps s₀ t
  | .skip => True
  | .stop => True

theorem Keeps.kvReplace (h : Keeps s₀ s) {base k : Nat} : Ends (Keeps.Acts s₀) (s.kvReplace b part c base k) :=
  .skip fun _ => .skip fun _ => .skip fun _ => .ite (.ok trivial) (.ite (.ok trivial) (.skip fun _ => .skip fun _ =>
    .bind h.popSlot fun _ ht => .skip fun _ => .bind ht.touch.markPage.engineWrite fun _ hu => .bind hu.kvWrite fun _ hv =>
      .bind hv.kvSetEntry fun _ hw => .bind hw.unref fun _ hx => .ok hx))

theorem Keeps.roustPins (h : Keeps s₀ s) {ents : List (Nat × Word)} : Keeps s₀ (s.roustPins b part va ents) := by
  unfold State.roustPins
  split
  · exact h
  · exact h.touchRun.touch.foldl fun _ _ ht => ht.touch.touch

theorem Keeps.roustPage (h : Keeps s₀ s) {owner tag k slot gen : Nat} {ents : List (Nat × Word)} {page : List Token} {decay : Nat → Nat}
    {massOf : Token → Nat} : Ends (Keeps s₀) (s.roustPage src b part pool va owner tag k ents slot gen page decay massOf) :=
  .skip fun _ => .skip fun _ => .bind h.touch.markPage.engineWrite fun _ ht => .bind ht.kvWrite fun _ hu => .bind hu.kvWrite fun _ hv =>
    .bind hv.kvWrite fun _ hw => hw.kvSetEntry

theorem Keeps.carryReps (h : Keeps s₀ s) {moves : List (Nat × Nat)} {decay : Nat → Nat} : Keeps s₀ (s.carryReps src moves decay) :=
  h.setCores fun n => by simp [State.core]

theorem Keeps.roustApply (h : Keeps s₀ s) : Ends (Keeps s₀ ·.1) (s.roustApply b c) := by
  refine .skip fun _ => .skip fun _ => .ite (.ok h) (.ite (.ok h) (.skip fun _ => .skip fun _ =>
    .bind (Keeps.foldlRes (.ok h) fun _ _ hr => .bind hr fun _ ht => .ite (.bind ht.popSlot fun _ hu => .ok hu) (.ok ht)) fun _ ht =>
    .bind (Ends.foldl (.ok ht) fun _ _ hr => .bind hr fun _ hu => ?_) fun _ hu => .skip fun _ =>
    .bind (Ends.foldl (.ok hu.carryReps) fun _ _ hr => .bind hr fun _ hv => ?_) fun _ hw =>
    .bind hw.kvSetHeader fun _ hx => .ok hx))
  · dsimp only
    split
    · exact hu.kvWrite
    · exact hu.roustPage
    · exact .skip fun _ => hu.roustPage
  · exact .bindIte hv.unref (.ok hv) fun _ hw => .ite hw.kvSetEntry (.ok hw)

theorem Keeps.kvStep (h : Keeps s₀ s) : Ends (Keeps s₀ ·.1) (s.kvStep b c) := by
  unfold State.kvStep
  dsimp only
  split
  · refine .bind h.kvAppend fun r hr => ?_
    cases r with
    | served t => exact .ok hr
    | refused => exact .ok h
  · exact .bind h.kvRef fun _ ht => .ok ht
  · exact .bind h.kvFree fun _ ht => .ok ht
  · exact .bind h.kvAddMasses fun _ ht => .ok ht
  · refine .bind h.kvReplace fun r hr => ?_
    cases r with
    | acted t => exact .ok hr
    | skip => exact .ok h
    | stop => exact .ok h
  · exact .bind h.roustApply fun _ ht => .ok ht
  · exact .ok h

theorem Keeps.kvSteps : ∀ {k : Nat} {s : State} {c : Cmd}, Keeps s₀ s → Ends (Keeps s₀) (s.kvSteps b k c)
  | 0, _, _, h => .ok h
  | _ + 1, _, _, h => .ite (.ok h) (.bind h.kvStep fun _ ht => Keeps.kvSteps ht)

end Sys2Proof.Machine
end

section
/-! Windows and the writes of engines keep (07 R132 to R147; 17 R284 to R309): what lands is on its way to the end of the cycle. -/

set_option autoImplicit false
set_option Elab.async false

namespace Sys2Proof.Machine

variable {s₀ s t : State} {n m home : CoreIx} {c : Cmd} {store own far : Bool} {a k tile : Nat} {bs : List (Byte × Option PoU)}
  {cause : Cause} {info : Word}

theorem Keeps.fetchWord (h : Keeps s₀ s) {va : Word} : Ends (Keeps s₀ ·.2) (s.fetchWord n va) := by
  unfold State.fetchWord
  dsimp only
  split
  · exact .error
  · refine .ite .error ?_
    split
    · exact .ok (h.modDie.modCore fun _ => Core.spad_fetched _)
    · exact .error
    · exact .error

-- Windows.

theorem Keeps.landMerge (h : Keeps s₀ s) {l : Land} : Keeps s₀ (s.landMerge n home l) := by
  unfold State.landMerge
  split
  · exact .ite h.modCore h.setJob.modCore
  · exact h.modCore

theorem Keeps.winMerge (h : Keeps s₀ s) {w : WinCopy} : Keeps s₀ (s.winMerge n w) := .ite h h.landMerge

theorem Keeps.winProbe (h : Keeps s₀ s) : Keeps s₀ (s.winProbe n home tile own) := by
  unfold State.winProbe
  split
  · exact h
  · refine .ite (Keeps.modCore (.ite h.winMerge h)) ?_
    split
    · exact h.modCore
    · exact h.modCore
    · exact h

theorem Keeps.arriveOwn (h : Keeps s₀ s) : Keeps s₀ (s.arriveOwn n c k) := h.modJobOf

theorem Keeps.winSettle (h : Keeps s₀ s) {homeTile : Nat} : Keeps s₀ (s.winSettle n home homeTile tile own) := by
  have hb : Keeps s₀ (State.winSettle.bindIt n home homeTile tile own s) := h.modCore
  unfold State.winSettle
  split
  · split
    · exact hb
    · exact .ite h.modCore h
    · exact .ite h.modCore h
    · exact h
    · exact h
  · exact hb

theorem Keeps.winPut (h : Keeps s₀ s) : Keeps s₀ (s.winPut n tile) := by
  unfold State.winPut
  split
  · exact h
  · split
    · exact h.winMerge.modCore
    · exact h.winMerge.modCore
    · exact h

theorem Keeps.winDrop (h : Keeps s₀ s) : Keeps s₀ (s.winDrop n tile) := by
  unfold State.winDrop
  split
  · exact h
  · exact Keeps.modCore (.ite h.winMerge h)

theorem Keeps.winRecall (h : Keeps s₀ s) : Keeps s₀ (s.winRecall home tile) := h.foldl fun _ _ ht => ht.winProbe

theorem Keeps.tearWindows (h : Keeps s₀ s) : Keeps s₀ (s.tearWindows n) :=
  ((h.foldl fun _ _ ht => .ite ht ht.winDrop).foldl fun _ _ ht => .ite ht.winRecall ht).modCore

theorem Keeps.winFence (h : Keeps s₀ s) : Keeps s₀ (s.winFence n) :=
  (h.foldl fun _ _ ht => .ite ht.modCore ht).modCore.mapCores

-- Writes of engines.

theorem Keeps.landAt (h : Keeps s₀ s) {tag : BitVec 4} {tiles whole : List Nat} : Gives (Keeps s₀) (s.landAt n m far a bs tag tiles whole) := by
  have put : ∀ {u : State} {l : Land}, Keeps s₀ u → Keeps s₀ (u.modCore m fun c => (c.winWrite a bs.length).land l) :=
    fun hu => hu.modCore
  unfold State.landAt
  refine .ite (put h) ?_
  split
  · trivial
  · exact put h.setJob

/-- The state that a write of an engine leads to, if it does not end the command, keeps. -/
def Keeps.Writes (s₀ : State) : Wrote → Prop
  | .done t => Keeps s₀ t
  | .wait t => Keeps s₀ t
  | .bad _ _ => True

theorem Keeps.Writes.bad : Keeps.Writes s₀ (.bad cause info) := trivial

theorem Keeps.Writes.of_done {w : Wrote} (hw : Keeps.Writes s₀ w) (e : w = .done t) : Keeps s₀ t := by rw [e] at hw; exact hw

theorem Keeps.Writes.of_wait {w : Wrote} (hw : Keeps.Writes s₀ w) (e : w = .wait t) : Keeps s₀ t := by rw [e] at hw; exact hw

theorem Keeps.Writes.ite {p : Prop} [Decidable p] {v w : Wrote} (hv : Keeps.Writes s₀ v) (hw : Keeps.Writes s₀ w) :
    Keeps.Writes s₀ (if p then v else w) := by
  split
  · exact hv
  · exact hw

theorem Keeps.Writes.andThen {w : Wrote} {f : State → Wrote} (hw : Keeps.Writes s₀ w) (hf : ∀ t, Keeps s₀ t → Keeps.Writes s₀ (f t)) :
    Keeps.Writes s₀ (w.andThen f) := by
  cases w with
  | done t => exact hf t hw
  | wait t => exact hw
  | bad cause info => exact .bad

theorem Keeps.landOn (h : Keeps s₀ s) {tag : BitVec 4} {tiles whole : List Nat} :
    Keeps.Writes s₀ (s.landOn n m far a bs tag tiles whole) := by
  refine .ite .bad (.ite h (.ite (h.foldl fun _ _ ht => ht.winRecall) ?_))
  split
  case h_1 e => exact (h.landAt.of_some e : Keeps s₀ _)
  case h_2 => exact h

theorem Keeps.physWrite (h : Keeps s₀ s) {ord pa : Nat} {part : BitVec 16} {incarn : BitVec 32} {stamp last : Bool} {whole : List Nat} :
    Keeps.Writes s₀ (s.physWrite n ord part incarn stamp last pa bs whole) := by
  have dram : Keeps.Writes s₀ (
      let put := (List.range bs.length).zip bs |>.map fun e => (pa + e.1, e.2)
      let (s, now) := s.rdTurn pa (s.turnOf n ord pa part (.engine put))
      if now.isNone then .wait s
      else match s.engineWrite part put with
      | .ok t => .done { t with memPo := whole.foldl (fun l u => alSet l (u / 32) none) t.memPo }
      | .error (c, info) => .bad c info) := by
    refine .ite h.rdTurn ?_
    split
    case h_1 e => exact (h.rdTurn.engineWrite.of_ok e).update
    case h_2 => exact .bad
  unfold State.physWrite
  cases s.place pa with
  | bonded => exact dram
  | lpddr => exact dram
  | aper => exact .ite .bad (.ite .bad h.landOn)
  | peer => exact h.update
  | mgmt => exact .bad
  | reserved => exact .bad

-- Units.

theorem Keeps.keepRead (h : Keeps s₀ s) : Keeps s₀ (s.keepRead n store c) := h.modCmd

theorem Keeps.advance (h : Keeps s₀ s) {tiles : List Nat} : Keeps s₀ (s.advance n store c tiles) := h.modCmd

theorem Keeps.arriveFar (h : Keeps s₀ s) {ts : BitVec 6} : Keeps s₀ (s.arriveFar n m c ts k) := by
  unfold State.arriveFar
  split
  · exact .ite h.modJobOf h.modJob
  · exact .ite h.modJobOf h.modJob

theorem Keeps.landCopyIn (h : Keeps s₀ s) : Keeps.Writes s₀ (s.landCopyIn n c) := by
  unfold State.landCopyIn
  dsimp only
  split
  · exact .bad
  · exact h.keepRead.landOn.andThen fun _ ht => ht.arriveOwn.keepRead.advance

theorem Keeps.elemWrite (h : Keeps s₀ s) {map : TMap} {e : Nat} : Keeps.Writes s₀ (s.elemWrite n c map e bs) := by
  unfold State.elemWrite
  split
  · exact h
  · exact h.physWrite.andThen fun _ ht => ht.keepRead

theorem Keeps.landCopyOut (h : Keeps s₀ s) : Keeps.Writes s₀ (s.landCopyOut n c) := by
  unfold State.landCopyOut
  dsimp only
  split
  · exact .bad
  · refine Keeps.Writes.andThen (List.foldlRecOn _ _ h.keepRead fun w hw e _ => ?_) fun _ ht => ht.arriveOwn.advance
    exact hw.andThen fun _ ht => ht.elemWrite

theorem Keeps.sendOne (h : Keeps s₀ s) {pkg : Nat} {tag : BitVec 4} : Keeps.Writes s₀ (s.sendOne n c pkg m a tag bs) := by
  refine .ite h.update ?_
  split
  · exact h
  · refine h.landOn.andThen fun t ht => ?_
    split
    · exact ht.arriveFar
    · exact .ite ht.arriveFar ht

theorem Keeps.sendTo (h : Keeps s₀ s) {d : Nat × CoreIx × Nat × Nat} {tag : BitVec 4} : Keeps.Writes s₀ (s.sendTo n c d tag bs) := by
  refine .ite h ?_
  split
  case h_1 e => exact Keeps.modCmd (h.sendOne.of_done e)
  case h_2 e => exact (h.sendOne.of_wait e : Keeps s₀ _)
  case h_3 =>
    split
    · exact h.modCmd
    · exact .bad

/-- Every destination has its turn, whatever became of those before it. -/
theorem Keeps.sendAll (h : Keeps s₀ s) {tag : BitVec 4} {ds : List (Nat × CoreIx × Nat × Nat)} {all : Except (Option (Cause × Word)) Unit} :
    Keeps s₀ (ds.foldl (fun (r : State × Except (Option (Cause × Word)) Unit) d =>
      match r.1.sendTo n c d tag bs with
      | .done t => (t, r.2)
      | .wait t => (t, match r.2 with | .ok () => .error none | e => e)
      | .bad cause info => (r.1, .error (some (cause, info)))) (s, all)).1 := by
  induction ds generalizing s all with
  | nil => exact h
  | cons d ds ih =>
    rw [List.foldl_cons]
    cases e : s.sendTo n c d tag bs with
    | done t => exact ih (h.sendTo.of_done e)
    | wait t => exact ih (h.sendTo.of_wait e)
    | bad => exact ih h

theorem Keeps.landSend (h : Keeps s₀ s) : Keeps.Writes s₀ (s.landSend n c) := by
  unfold State.landSend
  dsimp only
  split
  · exact h.keepRead.sendAll
  · exact .bad
  · exact h.keepRead.sendAll.modCmd.advance

theorem Keeps.landResult (h : Keeps s₀ s) : Keeps.Writes s₀ (s.landResult n c) := h.landOn.andThen fun _ ht => ht.arriveOwn.advance

theorem Keeps.landTsarrive (h : Keeps s₀ s) : Keeps.Writes s₀ (s.landTsarrive n c) := by
  refine Keeps.advance (.ite ?_ h.update)
  split
  · exact h.arriveFar
  · exact h

theorem Keeps.kvQueue (h : Keeps s₀ s) : Keeps s₀ (s.kvQueue n c) := .ite h h.update

theorem Keeps.kvLeave (h : Keeps s₀ s) : Keeps s₀ (s.kvLeave n c) := h.update

theorem Keeps.landKv (h : Keeps s₀ s) : Keeps.Writes s₀ (s.landKv n c) := by
  unfold State.landKv
  split
  case h_1 e => exact Keeps.modCmd (h.kvStep.of_ok e)
  case h_2 =>
    split
    · exact .bad
    · exact h

theorem Keeps.landKvTurn (h : Keeps s₀ s) : Keeps.Writes s₀ (s.landKvTurn n c) := .ite h.kvQueue h.kvLeave.landKv

theorem Keeps.landUnit (h : Keeps s₀ s) {first : Bool} : Keeps.Writes s₀ (s.landUnit n store first c) := by
  unfold State.landUnit
  split
  · exact h.landCopyIn
  · exact h.landCopyOut
  · exact .ite h.landSend h
  · exact .ite h.landSend h
  · exact .ite h.landSend h
  · exact .ite h.landTsarrive h
  · exact .ite h.landResult h
  · exact .ite h.landResult h
  · exact .ite h.landResult h
  · exact .ite h.landKvTurn h

theorem Keeps.landUnits {ix : Nat} : ∀ {k : Nat} {s : State}, Keeps s₀ s → Keeps s₀ (s.landUnits n store ix k)
  | 0, _, h => h
  | k + 1, s, h => by
    unfold State.landUnits
    split
    · exact h
    next c _ =>
      refine .ite h ?_
      split
      case h_1 e => exact Keeps.landUnits (h.landUnit.of_done e)
      case h_2 e => exact h.landUnit.of_wait e
      case h_3 => exact h.modCmd

end Sys2Proof.Machine
end

section
/-! Commands begin, reach other cores and end, and that keeps (17 R280 to R284, R291, R304, R309; 21 R350). -/

set_option autoImplicit false
set_option Elab.async false

namespace Sys2Proof.Machine

variable {s₀ s t : State} {n : CoreIx} {j : Job} {c : Cmd} {store : Bool} {ix : Nat} {cause : Cause} {info : Word}

theorem Keeps.collEnd (h : Keeps s₀ s) : Keeps s₀ (s.collEnd n c cause info) := by
  refine h.foldl fun t m ht => ?_
  split
  · exact .ite ht.modCmd ht
  · exact .ite ht.modCore ht

theorem Keeps.collGather (h : Keeps s₀ s) : Keeps s₀ (s.collGather c) := by
  refine .ite (Keeps.update (h.foldl fun t m ht => ?_)) h
  split
  · exact ht.modCmd
  · exact ht

theorem Keeps.beginTarget (h : Keeps s₀ s) : Ends (Keeps s₀ ·.1) (beginTarget s n j c) := by
  unfold Machine.beginTarget
  split
  · exact .ite (.ok h) (.skip fun _ => .ok h.modJobOf)
  · exact .ok h

theorem Keeps.beginFar (h : Keeps s₀ s) : Ends (Keeps s₀ ·.1) (beginFar s n c) :=
  .foldl (.ok h) fun _ _ hr => .bind hr fun _ ht => .ite (.ok ht) (.skip fun _ => .ok (.ite ht.modJobOf ht.modJob))

theorem Keeps.beginOwn (h : Keeps s₀ s) : Ends (Keeps s₀ ·.1) (beginOwn s n j c) := by
  unfold Machine.beginOwn
  dsimp only
  split
  · refine .ite (.ok h) ?_
    split
    · exact .error
    · exact .ok h
  · exact .ite (.ok h) .error
  · exact .ite (.ok h) .error
  · exact .ite (.ok h) .error
  · exact .ite .error (.ok h)
  · exact .ite .error (.ok h.kvLeave)
  · exact .ite .error (.ok h.kvLeave)
  · exact .ite .error (.skip fun _ => .skip fun _ => .ok h.kvLeave)
  · exact .ite .error (.skip fun _ => .skip fun _ => .ok h.kvLeave)
  · exact .ite .error (.skip fun _ => .ok h.kvLeave.roustPins.modDie)
  · exact .ok h

theorem Keeps.beginAll (h : Keeps s₀ s) : Ends (Keeps s₀ ·.1) (do
    let c ← beginSource (s.core n) j c
    let (s, c) ← Machine.beginTarget s n j c
    let (s, c) ← Machine.beginFar s n c
    Machine.beginOwn s n j c : Begun (State × Cmd)) :=
  .skip fun _ => .bind h.beginTarget fun _ ht => .bind ht.beginFar fun _ hu => hu.beginOwn

theorem Keeps.beginCmd (h : Keeps s₀ s) : Gives (Keeps s₀) (s.beginCmd n store) := by
  have fails : ∀ {a : Cause} {i : Word} {c : Cmd}, Gives (Keeps s₀)
      (some (s.modCmd n store c.ord fun d => { d with fail := some a, info := i })) := h.modCmd
  unfold State.beginCmd
  dsimp only
  split
  · trivial
  refine .ite trivial (.ite fails ?_)
  split
  · exact h.modCmd.modCore
  split
  · exact h.collEnd
  split
  · trivial
  refine .ite trivial ?_
  split
  case h_1 e =>
    show Keeps s₀ _
    exact .ite (h.beginAll.of_ok e).modCmd.collGather (h.beginAll.of_ok e).modCmd
  case h_2 => exact .ite h.kvQueue trivial
  case h_3 => exact fails

theorem Keeps.reach (h : Keeps s₀ s) : Gives (Keeps s₀) (s.reach n store ix) := by
  unfold State.reach
  split
  · trivial
  refine .ite trivial ?_
  split
  · trivial
  · exact h.modCmd

theorem Keeps.fillQueue (h : Keeps s₀ s) : Gives (Keeps s₀) (s.fillQueue n ix) := by
  unfold State.fillQueue
  split
  · trivial
  split
  · refine .ite trivial ?_
    split
    · exact h.modCmd
    · exact .ite trivial (Keeps.arriveOwn h.modJobOf.modCmd)
  · trivial

theorem Keeps.roustFree (h : Keeps s₀ s) : Keeps s₀ (s.roustFree n c) := h.modDie

theorem Keeps.completes (h : Keeps s₀ s) : Keeps s₀ (s.completes n store c) := by
  have ha : Keeps s₀ (match c.ts with
      | some _ => if isKv c.op then s.arriveOwn n c 1 else s
      | none => s) := by
    split
    · exact .ite h.arriveOwn h
    · exact h
  unfold State.completes
  dsimp only
  split
  · exact (Keeps.roustFree (.ite (Keeps.modCore ha) ha)).completeCmd.modJobOf
  · exact (Keeps.roustFree (.ite (Keeps.modCore ha) ha)).completeCmd

theorem Keeps.completeHead (h : Keeps s₀ s) : Gives (Keeps s₀) (s.completeHead n store) := by
  unfold State.completeHead
  split
  · trivial
  next c _ =>
    refine .ite trivial ?_
    split
    · exact h.completes
    next a bs _ =>
      split
      case h_1 e => exact (h.landOn.of_done e).completes
      case h_2 e => exact (h.landOn.of_wait e : Keeps s₀ _)
      case h_3 => exact h.modCmd

theorem Keeps.endCmd (h : Keeps s₀ s) : Gives (Keeps s₀) (s.endCmd n store ix) := by
  unfold State.endCmd
  split
  · trivial
  next c _ =>
  dsimp only
  cases (if c.fail.isNone && twoSided c.op && c.begun then s.collFault n c else none) with
  | none =>
    dsimp only
    split
    · trivial
    · exact .ite trivial (Keeps.failCmd (Keeps.roustFree (.ite h.update h)))
  | some f => exact .ite trivial (Keeps.failCmd (Keeps.roustFree (.ite h.collEnd.update h.collEnd)))

end Sys2Proof.Machine
end

section
/-! Results, loads, atomics and stores as they come and go keep (06 R121 to R131; 07 R129, R139, R144; 12 R219, R220). -/

set_option autoImplicit false
set_option Elab.async false

namespace Sys2Proof.Machine

variable {s₀ s t : State} {n m : CoreIx} {st : Strm} {part : BitVec 16} {ix line page ord : Nat} {w : RdWrite} {f : Fill}

-- At issue.

theorem Keeps.at (h : Keeps s₀ s) {gpc wpc next raw : Word} : Keeps s₀ (s.at n st gpc wpc next raw) := h.update

theorem Keeps.fresh (h : Keeps s₀ s) : Keeps s₀ (s.fresh n) := h.update

theorem Keeps.issuedBy (h : Keeps s₀ s) : Keeps s₀ (s.issuedBy n st) := h.modJob

theorem Keeps.passed (h : Keeps s₀ s) {next : Word} : Keeps s₀ (s.passed n st next) := h.modJob

theorem Keeps.note (h : Keeps s₀ s) {x : TrapNote} : Keeps s₀ (s.note n x) := h.modJob

theorem Keeps.trapAt (h : Keeps s₀ s) {x : TrapNote} : Keeps s₀ (s.trapAt n x) :=
  .ite h.deliver (Keeps.deliver (.ite h h.passed))

theorem Keeps.try_ (h : Keeps s₀ s) : Keeps s₀ (s.try_ n st) := h.modJob

-- Events of a context.

theorem Keeps.eitherCtx (h : Keeps s₀ s) {g : State → Option State} (hg : ∀ t, Keeps s₀ t → Gives (Keeps s₀) (g t)) :
    Gives (Keeps s₀) (s.eitherCtx n g) := by
  have ho : ∀ {o : Option State}, Gives (Keeps s₀) o → Gives (Keeps s₀) (o.map fun t => t.flip n) := fun {o} ho => by
    cases o with
    | none => trivial
    | some t => exact Keeps.flip ho
  unfold State.eitherCtx
  split
  case h_1 e => exact (hg s h).of_some e
  case h_2 => exact .ite (ho (hg _ h.flip)) trivial

theorem Keeps.loadDone (h : Keeps s₀ s) : Gives (Keeps s₀) (s.loadDone n st) := by
  refine .ite trivial ?_
  split
  · exact h.endAccess
  · split
    · exact h.foldl fun _ _ ht => ht.requestFill
    · trivial

theorem Keeps.atomicHome (h : Keeps s₀ s) : Gives (Keeps s₀) (s.atomicHome n st) := by
  unfold State.atomicHome
  dsimp only
  split
  · split
    · refine .ite trivial ?_
      split
      · exact .ite trivial h.rdTurn.update
      · exact h.rdTurn.atomicNow.modJob.update
    · trivial
  · trivial

theorem Keeps.release (h : Keeps s₀ s) {car : BitVec 2} : Gives (Keeps s₀) (s.release n car) := by
  unfold State.release
  dsimp only
  split
  · trivial
  · trivial
  · exact .ite trivial h.setJob

-- Stores.

theorem Keeps.modStore (h : Keeps s₀ s) {g : PStore → PStore} : Keeps s₀ (s.modStore n ord g) := h.modCore

theorem Keeps.probe (h : Keeps s₀ s) {told keep : BitVec 8} {q : BitVec 32} : Keeps s₀ (s.probe part line told keep q ord) := h.update

theorem Keeps.probeFor (h : Keeps s₀ s) {p : PStore} {own : Bool} : Keeps s₀ (s.probeFor n p own) := h.foldl fun _ _ ht => ht.probe.modStore

theorem Keeps.storeHome (h : Keeps s₀ s) : Gives (Keeps s₀) (s.storeHome n ix) := by
  unfold State.storeHome
  split
  · trivial
  · exact .ite trivial (.ite h.orderStore (.ite h.modStore.update (Keeps.probeFor h.modStore.update)))

theorem Keeps.ackHome (h : Keeps s₀ s) : Gives (Keeps s₀) (s.ackHome n ix) := by
  unfold State.ackHome
  split
  · trivial
  · exact .ite trivial h.orderStore

-- Lines on their way.

theorem Keeps.invalReceived (h : Keeps s₀ s) : Gives (Keeps s₀) (s.invalReceived ix) := by
  unfold State.invalReceived
  split
  · trivial
  · exact .ite trivial h.update.invalArrives

theorem Keeps.satisfy (h : Keeps s₀ s) {lim : Nat} : Keeps s₀ (s.satisfy n line lim) := h.modCore

theorem Keeps.installFill (h : Keeps s₀ s) : Keeps s₀ (s.installFill f) := h.modDie.update

theorem Keeps.fillCame (h : Keeps s₀ s) : Gives (Keeps s₀) (s.fillCame ix) := by
  unfold State.fillCame
  split
  · trivial
  refine .ite trivial (.ite h.update ?_)
  split
  · exact Keeps.modDie (Keeps.foldl (Keeps.installFill h.update) fun _ _ ht => ht.satisfy)
  · exact Keeps.installFill h.update

-- Pages that other packages duplicate.

theorem Keeps.openRound (h : Keeps s₀ s) : Keeps s₀ (s.openRound page w) := by
  unfold State.openRound
  dsimp only
  split
  · split
    · exact Keeps.probeFor h.update
    · exact h.update
  · exact Keeps.foldl h.update fun _ _ ht => ht.probe

theorem Keeps.farAtomicNow (h : Keeps s₀ s) {mask : BitVec 8} {aop : BitVec 4} {dw : Bool} {b c : Word} {pa pkg num : Nat}
    {ans : Option (List Byte × Bool)} : Keeps s₀ (s.farAtomicNow mask part aop dw b c pa pkg num ans) := by
  have ht : Keeps s₀ (if s.homeDead pa then (s, [], some (PoU.raw cDieFenced)) else s.homeAtomic mask pa aop dw b c ans).1 := by
    split
    · exact h
    · exact h.homeAtomic
  exact ht.update

theorem Keeps.orderHeld (h : Keeps s₀ s) : Gives (Keeps s₀) (s.orderHeld w) := by
  unfold State.orderHeld
  dsimp only
  split
  · split
    · exact (Keeps.orderAtHome h.update).update
    · exact Keeps.orderAtHome h.update
  · exact Keeps.farAtomicNow h.update
  · trivial

theorem Keeps.rdupRound (h : Keeps s₀ s) : Gives (Keeps s₀) (s.rdupRound page) := by
  unfold State.rdupRound
  split
  · trivial
  · exact .ite h.update (.ite h.openRound (.ite h.orderHeld trivial))

end Sys2Proof.Machine
end

section
/-! Windows between cores and packages keep (07 R132 to R144; 08 R150 to R155). -/

set_option autoImplicit false
set_option Elab.async false

namespace Sys2Proof.Machine

variable {s₀ s t : State} {n m : CoreIx} {c : Cmd} {store own last : Bool} {f : FabricIn} {k : BitVec 6} {cmd len : Nat} {cause : Cause}
  {info : Word}

-- Tiles of windows.

theorem Keeps.spoil (h : Keeps s₀ s) : Keeps s₀ (s.spoil n store c cause info) := h.modCmd

theorem Keeps.tileDone (h : Keeps s₀ s) : Keeps s₀ (s.tileDone n store c) := h.arriveOwn.modCmd

theorem Keeps.askTile (h : Keeps s₀ s) : Gives (Keeps s₀) (s.askTile n c own) :=
  .ite trivial (.ite h.spoil (.ite h.spoil (.ite h.spoil (.ite h.tileDone (.ite h.spoil (.ite trivial
    (.ite (Keeps.tileDone h.winSettle) (Keeps.modCore h)))))))) 

theorem Keeps.undeclare (h : Keeps s₀ s) {k : BitVec 3} : Gives (Keeps s₀) (s.undeclare n k c) := by
  refine .ite trivial (.ite (.ite trivial (Keeps.modCmd h.modCore)) ?_)
  split
  · trivial
  · exact h.foldl fun _ _ ht => ht.winRecall

theorem Keeps.storeTile (h : Keeps s₀ s) : Gives (Keeps s₀) (s.storeTile n c) := by
  unfold State.storeTile
  dsimp only
  split
  · exact .ite h.undeclare (Keeps.modCmd h.modCore)
  · split
    · exact h.spoil
    · refine .ite trivial ?_
      split
      · exact h.winDrop.tileDone
      · exact h.winPut.tileDone

theorem Keeps.windowRequest (h : Keeps s₀ s) : Gives (Keeps s₀) (s.windowRequest n) := by
  unfold State.windowRequest
  dsimp only
  split
  case h_1 e =>
    split at e
    · exact h.askTile.of_some e
    · simp at e
  case h_2 =>
    split
    · exact h.storeTile
    · trivial

theorem Keeps.windowProbe (h : Keeps s₀ s) {ix : Nat} : Gives (Keeps s₀) (s.windowProbe n ix) := by
  unfold State.windowProbe
  split
  · trivial
  dsimp only
  refine .ite h.modCore ?_
  split
  · exact .ite trivial (Keeps.modCore h.winProbe)
  · refine .ite trivial ?_
    split
    · exact .ite (Keeps.tileDone (Keeps.winSettle h.modCore)) (Keeps.winSettle h.modCore)
    · exact Keeps.winSettle h.modCore

theorem Keeps.homeRelease (h : Keeps s₀ s) : Gives (Keeps s₀) (s.homeRelease n) := by
  refine .ite ?_ ?_
  · split
    · exact h.winRecall
    · trivial
  · split
    · exact .ite trivial h.modJob
    · trivial

-- The fabric.

theorem Keeps.reply (h : Keeps s₀ s) {say : FabricSay} : Keeps s₀ (s.reply f say) := h.update

theorem Keeps.ownerInval (h : Keeps s₀ s) {line : Nat} : Keeps s₀ (s.ownerInval f line) := by
  unfold State.ownerInval
  split
  · exact h.reply
  · exact .ite (Keeps.update (Keeps.reply (Keeps.probe h.update)))
      (Keeps.update (Keeps.roundOver (Keeps.update (Keeps.probe h.update))))

theorem Keeps.ownerStore (h : Keeps s₀ s) {pa num : Nat} {data : List Byte} : Keeps s₀ (s.ownerStore f pa data num) :=
  .ite h.orderInTurn h.orderAtHome.reply

theorem Keeps.ownerAtomic (h : Keeps s₀ s) {pa num : Nat} {aop : BitVec 4} {dw : Bool} {b c : Word} :
    Keeps s₀ (s.ownerAtomic f pa aop dw b c num) := .ite h.update h.farAtomicNow

theorem Keeps.farPhase (h : Keeps s₀ s) : Keeps s₀ (s.farPhase f cmd n k last).1 := h.update

theorem Keeps.farArrive (h : Keeps s₀ s) : Keeps s₀ (s.farArrive f cmd n k len last) := h.farPhase.modJob

theorem Keeps.fabricAct (h : Keeps s₀ s) : Keeps s₀ (s.fabricAct f).1 := by
  unfold State.fabricAct
  cases f.ask with
  | land core a data ts cmd last =>
    dsimp only
    split
    · exact h
    cases ts with
    | some k =>
      split
      case h_1 e => exact (h.farPhase.landOn.of_done e).farArrive
      case h_2 e => exact h.farPhase.landOn.of_wait e
      case h_3 => exact h.farPhase
    | none =>
      split
      case h_1 e => exact h.landOn.of_done e
      case h_2 e => exact h.landOn.of_wait e
      case h_3 => exact h
  | write => exact .ite h.orderInTurn h
  | arrive => exact .ite h.farArrive h
  | register => exact h.update
  | store => exact .ite h.ownerStore h
  | atomic => exact .ite h.ownerAtomic h
  | ack => exact h.update
  | inval => exact h.ownerInval
  | ordered => exact h.update
  | answer => exact h.update
  | read =>
    dsimp only
    split
    · exact h.reply
    · exact h.reply
  | fetch =>
    dsimp only
    split
    · exact h
    · split
      · exact h.reply
      · exact h.reply
  | submit => exact h.update

theorem Keeps.fabricCame (h : Keeps s₀ s) : Keeps s₀ (s.fabricCame f) :=
  .ite h (.ite (Keeps.reply h.update) (.ite (Keeps.fabricAct h.update) (Keeps.update (Keeps.fabricAct h.update))))

theorem Keeps.fabricRetry (h : Keeps s₀ s) : Keeps s₀ s.fabricRetry := Keeps.foldl h.update fun _ _ ht => ht.fabricCame

end Sys2Proof.Machine
end

section
/-! Jobs are submitted, dispatched, translated, started, preempted and done, and that keeps (03 R48 to R78; 05 R99). -/

set_option autoImplicit false
set_option Elab.async false

namespace Sys2Proof.Machine

variable {s₀ s t : State} {n m : CoreIx} {d : DieIx} {run : Bool} {part : BitVec 16} {page : Nat} {cause : Cause} {info : Word}
  {sub : Submission} {j : Job}

-- Submissions.

theorem Keeps.answerSub (h : Keeps s₀ s) {val : Word} : Keeps s₀ (s.answerSub sub val) := by
  have h1 : Keeps s₀ (match sub.fn with
      | some (f, k) =>
        if sub.quiet then s
        else
          let p := s.fns[f]
          { s with fns := s.fns.set f { p with substat := p.substat.set k val } }.msix f 0
      | none => s) := by
    split
    · exact .ite h (Keeps.msix h.update)
    · exact h
  unfold State.answerSub
  dsimp only
  split
  · split
    · exact Keeps.modCore (by split; exact h1.update; exact h1)
    · split; exact h1.update; exact h1
  · split; exact h1.update; exact h1

theorem Keeps.refuse (h : Keeps s₀ s) {code : Nat} {tag : BitVec 32} : Keeps s₀ (s.refuse sub code tag) := h.journal.answerSub

theorem Keeps.accept (h : Keeps s₀ s) {r : NestRec} : Keeps s₀ (s.accept sub r) := Keeps.answerSub (.ite h.journal h.journal.update)

theorem Keeps.takeSub (h : Keeps s₀ s) : Gives (Keeps s₀) s.takeSub := by
  unfold State.takeSub
  split
  · trivial
  refine .ite trivial ?_
  dsimp only
  split
  · exact Keeps.refuse h.update
  refine .ite (Keeps.refuse h.update) ?_
  split
  · exact Keeps.refuse h.update
  · split
    · exact Keeps.refuse h.update
    · exact Keeps.accept h.update

-- Dispatch.

theorem Keeps.dispatch (h : Keeps s₀ s) : Gives (Keeps s₀) (s.dispatch d) := by
  unfold State.dispatch
  split
  · trivial
  split
  · trivial
  split
  · exact (h.modCore fun _ => Core.spad_place _).update
  · exact (h.modCore fun _ => Core.spad_place _).journal

theorem Keeps.modCtx (h : Keeps s₀ s) {f : Job → Job} : Keeps s₀ (s.modCtx n run f) := h.modCore fun _ => Core.spad_setCtx _

theorem Keeps.emptyCtx (h : Keeps s₀ s) {g : Core → Job} : Keeps s₀ (s.modCore n fun c => (c.hide run).setCtx run (g c)) :=
  h.modCore fun _ => Core.spad_setCtx _

theorem Keeps.fenceCtx (h : Keeps s₀ s) : Keeps s₀ (s.fenceCtx n run cause info) := by
  unfold State.fenceCtx
  dsimp only
  split
  · exact Keeps.fenceParked (Keeps.emptyCtx h.modDie)
  · exact h.fenceJob

theorem Keeps.frameOf (h : Keeps s₀ s) {x : Xlat} : Keeps s₀ (s.frameOf part x).2 := by
  unfold State.frameOf
  dsimp only
  split
  · split
    · exact h
    · exact h.update
  · exact h

theorem Keeps.foldlSnd {α β : Type} {f : β × State → α → β × State} {l : List α} {b : β} (h : Keeps s₀ s)
    (hf : ∀ r a, Keeps s₀ r.2 → Keeps s₀ (f r a).2) : Keeps s₀ (l.foldl f (b, s)).2 := by
  suffices ∀ r : β × State, Keeps s₀ r.2 → Keeps s₀ (l.foldl f r).2 from this _ h
  induction l with
  | nil => exact fun _ hr => hr
  | cons a l ih => exact fun r hr => ih _ (hf r a hr)

theorem Keeps.framesOf (h : Keeps s₀ s) {ps : List PageX} : Keeps s₀ (s.framesOf part ps).2 :=
  h.foldlSnd fun _ _ hr => Keeps.frameOf hr

theorem Keeps.takePins (h : Keeps s₀ s) {seq : Nat} {frames pinned : List Nat} : Gives (Keeps s₀ ·.1) (s.takePins d seq frames pinned) := by
  unfold State.takePins
  dsimp only
  split
  · trivial
  · exact h.modDie.update

theorem Keeps.missPage (h : Keeps s₀ s) : Keeps s₀ (s.missPage n run part page) := .ite h.fenceCtx h.modCtx.faultRequest

/-- The frames of the extents, one extent after another. -/
theorem Keeps.framesAll (h : Keeps s₀ s) {l : List (List PageX)} {a : List (List (Nat × Nat × Bool))} :
    Keeps s₀ (l.foldl (fun (a : List (List (Nat × Nat × Bool)) × State) ps =>
      let (fs, t) := a.2.framesOf part ps
      (a.1 ++ [fs], t)) (a, s)).2 :=
  h.foldlSnd fun _ _ hr => Keeps.framesOf hr

theorem Keeps.translateCtx (h : Keeps s₀ s) : Gives (Keeps s₀) (s.translateCtx n run) := by
  unfold State.translateCtx
  dsimp only
  split
  · exact .ite h.missPage h.fenceCtx
  · refine .ite (Keeps.fenceCtx h.framesAll.framesOf) ?_
    split
    · trivial
    case h_2 e => exact Keeps.modCtx (Keeps.setDirtyAll (h.framesAll.framesOf.takePins.of_some e))

-- Start.

theorem Keeps.wake (h : Keeps s₀ s) : Keeps s₀ (s.wake n) := h.hide.modJob.journal

/-- Only a job that is SUSPENDED on a page does something. -/
theorem Keeps.ofSuspended (h : Keeps s₀ s) {st : JState} {fp : Option Nat} {f : Nat → State} (hf : ∀ p, Keeps s₀ (f p)) :
    Keeps s₀ (match st, fp with
      | .suspended, some p => f p
      | _, _ => s) := by
  split
  · exact hf _
  · exact h

theorem Keeps.lookAgain (h : Keeps s₀ s) : Keeps s₀ (s.lookAgain n) := by
  refine h.ofSuspended fun p => ?_
  split
  · exact .ite h.wake (.ite h.fenceJob h.faultRequest)
  · exact h.wake

/-- The scratchpad comes back from the image that was saved. -/
theorem Keeps.resume (h : Keeps s₀ s) {p : Parked} (hp : p ∈ s.parked) : Keeps s₀ (s.resume n p) := by
  refine h.filterParked.modDie.setCore fun h0 => ?_
  rw [Core.spad_setJob]
  exact h.img_wf h0 hp

theorem State.savedOf_mem {p : Parked} (e : s.savedOf j = some p) : p ∈ s.parked := List.mem_of_find?_eq_some e

theorem Keeps.startCtx (h : Keeps s₀ s) : Keeps s₀ (s.startCtx n run) := by
  have h1 : Keeps s₀ (if run then s else s.modCore n fun c => { c with runIx := !c.runIx }) := .ite h h.modCore
  unfold State.startCtx
  dsimp only
  generalize (if run then s else s.modCore n fun c => { c with runIx := !c.runIx }) = u at h1 ⊢
  split
  case h_1 e =>
    have hr : Keeps s₀ ((u.resume n _).modCore n fun c => c.reveal true) := (h1.resume (State.savedOf_mem e)).modCore
    split
    · exact .ite hr hr.lookAgain
    · exact hr
  case h_2 => exact h1.modJob.modCore

theorem Keeps.gang (h : Keeps s₀ s) {seq : Nat} : Gives (Keeps s₀) (s.gang seq) := by
  unfold State.gang
  split
  · trivial
  refine .ite trivial ?_
  split
  · exact h.update
  · exact .ite trivial (Keeps.foldl h fun _ _ ht => ht.startCtx)

-- Preemption.

theorem Keeps.request (h : Keeps s₀ s) {q : PreReq} : Keeps s₀ (s.request n q) :=
  .ite (h.foldl fun _ _ ht => .ite ht.modJob ht) h.modJob

theorem Keeps.preempt (h : Keeps s₀ s) : Gives (Keeps s₀) (s.preempt d) := by
  refine .ite trivial ?_
  dsimp only
  split
  · trivial
  · split
    · trivial
    · exact .ite trivial h.request

theorem Keeps.stopForced (h : Keeps s₀ s) : Keeps s₀ (s.stopForced n) := by
  unfold State.stopForced
  split
  · exact h.drain.takeSlot
  · exact h

theorem Keeps.forced (h : Keeps s₀ s) : Gives (Keeps s₀) (s.forced n) := by
  have hs : ∀ l : List CoreIx, Keeps s₀ (l.foldl State.stopForced s) := fun l => h.foldl fun _ _ ht => ht.stopForced
  refine .ite trivial (.ite trivial ?_)
  show Keeps s₀ _
  exact .ite (hs _).update (hs _)

theorem Keeps.saved (h : Keeps s₀ s) {sv : Saving} : Keeps s₀ (s.saved n sv) := by
  have hi : ∀ {keep : Nat → Bool}, s₀.memWf = true → ((s.core n).commit.image.only keep).bytes.wf = true :=
    fun h0 => Memory.wf_filter _ (Core.wf_commit (h.spad_wf h0 n))
  refine Keeps.journal (Keeps.modCore (Keeps.addParked (Keeps.modDie h.writeSlot) hi) fun c => ?_)
  rw [Core.spad_setJob]
  rfl

theorem Keeps.saveDone (h : Keeps s₀ s) : Gives (Keeps s₀) (s.saveDone n) := by
  unfold State.saveDone
  dsimp only
  split
  · trivial
  · refine .ite trivial (.ite trivial ?_)
    show Keeps s₀ _
    exact .ite h.drain.saved h.drain.tearWindows

-- Completion.

theorem Keeps.arriveDone (h : Keeps s₀ s) : Keeps s₀ (s.arriveDone j).1 := by
  unfold State.arriveDone
  dsimp only
  split
  · exact h
  split
  · exact h
  split
  · exact h.update
  split
  · exact h
  · exact h.modJob

theorem Keeps.jobDone (h : Keeps s₀ s) : Keeps s₀ (s.jobDone n run) := h.arriveDone.modDie.emptyCtx.journal.launchEnd

end Sys2Proof.Machine
end

section
/-! Fences, lost links and the return of a die keep (03 R77; 23 R372 to R383): memory of a die that comes back is cleared, and no core
returns to service. -/

set_option autoImplicit false
set_option Elab.async false

namespace Sys2Proof.Machine

variable {s₀ s t : State} {n : CoreIx} {d : DieIx} {info : Word} {gangs : List (Nat × CoreIx)} {gone : CoreIx → Bool}

theorem Keeps.dieFence (h : Keeps s₀ s) {core level : Nat} : Keeps s₀ (s.dieFence d core level) := h.journal

theorem Keeps.fenceContexts (h : Keeps s₀ s) : Keeps s₀ (s.fenceContexts gangs gone info) := by
  refine h.foldl fun _ n ht => ht.foldl fun u second hu => .ite hu ?_
  split
  · exact hu.fenceCtx
  · exact hu

theorem Keeps.fenceSaved (h : Keeps s₀ s) {die : Option DieIx} : Keeps s₀ (s.fenceSaved gangs die info) := by
  refine h.foldl fun t p ht => ?_
  split
  · exact ht.fenceParked
  · exact ht

theorem Keeps.dropLaunch (h : Keeps s₀ s) {l : Launch} {die cnt : Nat} : Keeps s₀ (s.dropLaunch l die cnt) := .ite h h.journal.launchEnd

theorem Keeps.dropLeft (h : Keeps s₀ s) {die : Option DieIx} : Keeps s₀ (s.dropLeft gangs die) := by
  refine h.foldl fun t l ht => .ite (Keeps.dropLaunch ht.update) ?_
  cases die with
  | none => exact ht
  | some d => exact Keeps.dropLaunch ht.update

theorem Keeps.fenceAll (h : Keeps s₀ s) {die : Option DieIx} : Keeps s₀ (s.fenceAll gone die info) :=
  h.fenceContexts.fenceSaved.dropLeft.foldl fun _ _ ht => ht.winFence

/-- A bit that is cleared leaves those that are set. -/
theorem getLsbD_of_setBit_false {w : Nat} {v : BitVec w} {i k : Nat} (h : (setBit v i false).getLsbD k = true) : v.getLsbD k = true := by
  simp only [setBit, Bool.false_eq_true, if_false, BitVec.getLsbD_and, Bool.and_eq_true] at h
  exact h.1

theorem getLsbD_of_clear {k : Nat} : ∀ {l : List CoreIx} {m : BitVec 128},
    (l.foldl (fun (m : BitVec 128) n => if gone n then setBit m n.val false else m) m).getLsbD k = true → m.getLsbD k = true
  | [], _, h => h
  | n :: l, m, h => by
    have hm := getLsbD_of_clear (List.foldl_cons .. ▸ h)
    split at hm
    · exact getLsbD_of_setBit_false hm
    · exact hm

/-- Cores only leave service. -/
theorem Keeps.clearCores (h : Keeps s₀ s) : Keeps s₀ (s.clearCores gone) :=
  ⟨KeptParts.wf h, h.gcc_eq, fun k hk => h.coresvc_le k (getLsbD_of_clear hk)⟩

theorem Keeps.fenceCore (h : Keeps s₀ s) : Gives (Keeps s₀) (s.fenceCore n) := .ite trivial h.clearCores.dieFence.fenceAll

theorem Keeps.fenceCores (h : Keeps s₀ s) {level : Nat} : Keeps s₀ (s.fenceCores d level) :=
  (Keeps.clearCores h.update).dieFence.fenceAll

theorem Keeps.fenceDomain (h : Keeps s₀ s) : Gives (Keeps s₀) (s.fenceDomain d) := .ite trivial h.fenceCores

-- The shell of a die.

theorem Keeps.settleStores (h : Keeps s₀ s) : Keeps s₀ (s.settleStores d) :=
  (h.foldl fun _ _ ht => ht.orderNow).foldl fun _ _ ht => ht.modCore.update

theorem Keeps.discardStores (h : Keeps s₀ s) : Keeps s₀ s.discardStores := h.foldl fun _ _ ht => ht.orderStore

theorem Keeps.forgetDie (h : Keeps s₀ s) : Keeps s₀ (s.forgetDie d) :=
  (Keeps.foldl h.mapCores.update fun _ _ ht => ht.roundOver).modDie.releaseFills

theorem Keeps.fenceShell (h : Keeps s₀ s) : Gives (Keeps s₀) (s.fenceShell d) :=
  .ite trivial (Keeps.fenceCores h.settleStores.update).discardStores.forgetDie

theorem Keeps.resetDie (h : Keeps s₀ s) {inc : BitVec 32} : Keeps s₀ (s.resetDie d inc) :=
  (h.modDie.foldl fun _ _ ht => ht.winFence.setCore fun _ => rfl).update

theorem Keeps.readmit (h : Keeps s₀ s) : Gives (Keeps s₀) (s.readmit d) :=
  .ite trivial (Keeps.journal (Keeps.resetDie (h.setMem (Memory.wf_filter _)).update))

-- Errors and links.

theorem Keeps.coreError (h : Keeps s₀ s) : Gives (Keeps s₀) (s.coreError n) := by
  refine Keeps.fenceCore ?_
  dsimp only
  split
  · exact .ite (Keeps.suspend h.deliver.update) h.deliver.update
  · exact .ite (Keeps.suspend h.deliver.update) h.deliver.update
  · exact .ite (Keeps.suspend h.deliver.update) h.deliver.update
  · exact h

theorem Keeps.linkLost (h : Keeps s₀ s) {hit : CoreIx → Cmd → Bool} : Keeps s₀ (s.linkLost hit info) :=
  h.foldl fun _ _ ht => ht.foldl fun _ _ hu => hu.foldl fun _ _ hv => .ite (.ite (Keeps.modCmd hv.update) hv.update) hv

theorem Keeps.boundaryDown (h : Keeps s₀ s) {b : Fin 8} : Gives (Keeps s₀) (s.boundaryDown b) := by
  refine .ite trivial ?_
  dsimp only
  split
  · exact Keeps.journal h.linkLost.update
  · exact Keeps.foldl (Keeps.journal h.linkLost.update) fun _ _ ht => .ite (Keeps.getD ht.fenceShell ht) ht

theorem Keeps.portDown (h : Keeps s₀ s) {p : Fin 18} : Gives (Keeps s₀) (s.portDown p) := by
  unfold State.portDown
  split
  · trivial
  · extract_lets info u v
    have hv : Keeps s₀ v := Keeps.journal h.linkLost.update
    clear_value v
    exact .ite hv (Keeps.foldl hv fun _ _ ht => ht.foldl fun _ _ hu => hu.foldl fun _ _ hw => .ite hw.modCmd hw)

-- Start.

theorem Keeps.loadImage (h : Keeps s₀ s) {img : List Byte} : Keeps s₀ (s.loadImage img) := h.update

theorem Keeps.failImage (h : Keeps s₀ s) : Keeps s₀ s.failImage := h.update

/-- Memory is cleared before the package is ready. -/
theorem Keeps.bringUp (h : Keeps s₀ s) {cfg : BringUpCfg} : Gives (Keeps s₀) (s.bringUp cfg) := by
  refine .ite trivial (Keeps.update (Keeps.clearCores (Keeps.foldl ?_ fun _ _ ht => .ite (Keeps.dieFence ht.update) ht)))
  exact (h.setMem fun _ => rfl).update

end Sys2Proof.Machine
end

section
/-! What the host does keeps (22 R396 to R409; 23 R410 to R415; 03 R45, R46). -/

set_option autoImplicit false
set_option Elab.async false

namespace Sys2Proof.Machine

variable {s₀ s t : State} {n : CoreIx} {f : Fin 65} {part : BitVec 16} {page : Nat} {v : Word}

-- Functions.

theorem Keeps.modFn (h : Keeps s₀ s) {g : FnPage → FnPage} : Keeps s₀ (s.modFn f g) := h.update

theorem Keeps.dropXlat (h : Keeps s₀ s) {hit : Nat → Bool} : Keeps s₀ (s.dropXlat part hit) := h.update

theorem Keeps.invalidateVas (h : Keeps s₀ s) {va len : Word} : Keeps s₀ (s.invalidateVas f va len) := by
  unfold State.invalidateVas
  split
  · exact h
  · exact h.dropXlat

theorem Keeps.resetPage (h : Keeps s₀ s) {present : Bool} : Keeps s₀ (s.resetPage f present) := by
  unfold State.resetPage
  split
  · exact .ite (Keeps.modFn h.invalidateVas.update).update (Keeps.modFn h.invalidateVas.update)
  · exact .ite (Keeps.modFn h.update).update (Keeps.modFn h.update)

theorem Keeps.fenceWaiting (h : Keeps s₀ s) : Keeps s₀ (s.fenceWaiting n part page) := by
  refine h.foldl fun t run ht => .ite ht ?_
  split
  · exact ht.fenceJob
  · exact ht.fenceCtx
  · exact ht

theorem Keeps.unresolvable (h : Keeps s₀ s) : Keeps s₀ (s.unresolvable part page) := h.foldl fun _ _ ht => ht.fenceWaiting

theorem Keeps.refusePages (h : Keeps s₀ s) {k : Fin 8} : Keeps s₀ (s.refusePages k) := by
  refine Keeps.foldl h.update fun t n ht => ht.foldl fun u j hu => ?_
  split
  · exact hu.fenceWaiting
  · exact hu

theorem Keeps.removeFn (h : Keeps s₀ s) : Keeps s₀ (s.removeFn f) :=
  .ite h (h.resetPage.foldl fun _ _ ht => .ite (Keeps.refusePages ht.update) ht)

theorem Keeps.keepVfs (h : Keeps s₀ s) {k : Nat} : Keeps s₀ (s.keepVfs k) := h.foldl fun _ _ ht => ht.removeFn

-- The data window.

theorem Keeps.windowByte (h : Keeps s₀ s) {a : Nat} {w : Bool} : Gives (Keeps s₀ ·.2.2) (s.windowByte f a w) := by
  refine .ite (.ite h trivial) ?_
  split
  · trivial
  · dsimp only
    split
    · exact .ite trivial h.modDie
    · trivial

theorem Keeps.windowBytes (h : Keeps s₀ s) {off : BitVec 36} {k : Nat} {w : Bool} : Gives (Keeps s₀ ·.2) (s.windowBytes f off k w) := by
  refine List.foldlRecOn (List.range k) _ h fun r hr i _ => ?_
  cases r with
  | none => trivial
  | some r =>
    dsimp only [Option.bind_some]
    cases e : r.2.windowByte f _ w with
    | none => trivial
    | some b => exact (Keeps.windowByte hr).of_some e

theorem Keeps.winError (h : Keeps s₀ s) : Keeps s₀ (s.winError f) := .ite h.modFn h.modFn.msix

theorem Keeps.answerRead (h : Keeps s₀ s) {ep : Bool} : Keeps s₀ (s.answerRead f v ep) := h.update

theorem Keeps.windowRead (h : Keeps s₀ s) {off : BitVec 36} {sz : Sz} : Gives (Keeps s₀) (s.windowRead f off sz) := by
  refine .ite trivial (.ite (.ite h.answerRead h.answerRead) (.ite h.answerRead ?_))
  split
  · exact h.winError.answerRead
  case h_2 e => exact (h.windowBytes.of_some e).answerRead

theorem Keeps.windowPut (h : Keeps s₀ s) {mask : BitVec 8} {put : List (Nat × Byte × Option PoU)} : Keeps s₀ (s.windowPut part mask put) := by
  refine h.foldl fun t page ht => ?_
  dsimp only
  split
  · exact ht.update
  · exact ht.orderInTurn

theorem Keeps.windowWrite (h : Keeps s₀ s) {off : BitVec 36} {bytes : List Byte} : Gives (Keeps s₀) (s.windowWrite f off bytes) := by
  refine .ite trivial (.ite (.ite h.homePut trivial) (.ite trivial ?_))
  split
  · exact h.winError
  case h_2 e => exact Keeps.windowPut (Keeps.setDirtyAll (h.windowBytes.of_some e))

-- Page requests.

theorem Keeps.repost (h : Keeps s₀ s) : Keeps s₀ (s.repost part) := by
  refine h.foldl fun t n ht => ht.foldl fun u run hu => ?_
  dsimp only
  split
  · exact .ite hu.faultRequest hu
  · exact .ite hu.faultRequest hu
  · exact hu

theorem Keeps.resolved (h : Keeps s₀ s) : Keeps s₀ (s.resolved part page) :=
  h.foldl fun _ _ ht => (Keeps.ite ht.lookAgain ht).foldl fun _ _ hu => .ite hu.modCtx hu

theorem Keeps.faultAck (h : Keeps s₀ s) : Gives (Keeps s₀) (s.faultAck f v) := by
  refine .ite trivial ?_
  split
  · trivial
  dsimp only
  split
  · trivial
  refine .ite trivial (Keeps.repost ?_)
  exact .ite (Keeps.resolved (.ite h.update (Keeps.msixPart h.update))) (Keeps.unresolvable (.ite h.update (Keeps.msixPart h.update)))

-- Management.

theorem Keeps.pteEnd (h : Keeps s₀ s) : Keeps s₀ s.pteEnd := Keeps.msix h.update

theorem Keeps.pteWrite (h : Keeps s₀ s) : Keeps s₀ s.pteWrite := Keeps.pteEnd (.ite h h.orderAtHome)

theorem Keeps.partWrite (h : Keeps s₀ s) {k : Fin 8} : Gives (Keeps s₀) (s.partWrite k v) :=
  .ite trivial (.ite (.ite trivial h.update) (.ite trivial h.update))

theorem Keeps.fixMode (h : Keeps s₀ s) : Keeps s₀ s.fixMode := .ite h (Keeps.journal h.update)

theorem Keeps.modeNow (h : Keeps s₀ s) : Gives (Keeps s₀) s.modeNow := by
  unfold State.modeNow
  split
  · exact .ite (Keeps.fixMode h.update) trivial
  · trivial

theorem Keeps.fnWrite (h : Keeps s₀ s) {o : Nat} : Gives (Keeps s₀) (s.fnWrite f o v) :=
  .ite (.ite h.modFn trivial) (.ite h.modFn (.ite h.modFn (.ite (.ite h.update trivial) (.ite (.ite h.update trivial)
    (.ite (.ite h.update trivial) (.ite (.ite trivial h.modFn) trivial))))))

theorem Keeps.mgmtWrite (h : Keeps s₀ s) {o : Nat} : Gives (Keeps s₀) (s.mgmtWrite o v) :=
  .ite h.update (.ite (.ite trivial h.update) trivial)

end Sys2Proof.Machine
end

section
/-! Every event keeps (02 R34 to R39; 03 to 23 by the event's own section). -/

set_option autoImplicit false
set_option Elab.async false

namespace Sys2Proof.Machine

variable {s₀ s t : State} {n : CoreIx} {d : DieIx} {st : Strm} {store : Bool} {ix k : Nat} {f : Fin 65} {v : Word}

-- Of a core.

theorem Keeps.execScalarResultWrite (h : Keeps s₀ s) : Keeps.Answers s₀ (execScalarResultWrite n st s) :=
  h.happen (h.eitherCtx fun _ ht => .ite ht.modJob trivial)

theorem Keeps.execVectorResultWrite (h : Keeps s₀ s) : Keeps.Answers s₀ (execVectorResultWrite n s) :=
  h.happen (h.eitherCtx fun _ ht => .ite ht.modJob trivial)

theorem Keeps.execMatrixWordComplete (h : Keeps s₀ s) : Keeps.Answers s₀ (execMatrixWordComplete n s) :=
  h.happen (h.eitherCtx fun _ ht => .ite (ht.setCore_spad ((Core.spad_setJob _ _).trans (spad_matrixDue _))) trivial)

theorem Keeps.execAswapExchange (h : Keeps s₀ s) {acc : BitVec 2} : Keeps.Answers s₀ (execAswapExchange n acc s) :=
  h.happen (h.eitherCtx fun _ ht => .ite ht.modJob trivial)

theorem Keeps.execGlobalLoadComplete (h : Keeps s₀ s) : Keeps.Answers s₀ (execGlobalLoadComplete n st s) :=
  h.happen (h.eitherCtx fun _ ht => ht.loadDone)

theorem Keeps.execHomeAtomic (h : Keeps s₀ s) : Keeps.Answers s₀ (execHomeAtomic n st s) :=
  h.happen (h.eitherCtx fun _ ht => ht.atomicHome)

theorem Keeps.execStampwTargetReached (h : Keeps s₀ s) : Keeps.Answers s₀ (execStampwTargetReached n st s) := by
  refine h.happen ?_
  split
  · exact .ite h.modJob trivial
  · trivial

theorem Keeps.execHeldSubmissionAccept (h : Keeps s₀ s) : Keeps.Answers s₀ (execHeldSubmissionAccept n st s) := by
  refine h.happen ?_
  split
  · exact h.modJob
  · trivial

/-- Only a stream that a translation holds goes on. -/
theorem Keeps.ofTranslation {held : Option (Hold × Nat)} {g : Nat → Option State} (hg : ∀ page, Gives (Keeps s₀) (g page)) :
    Gives (Keeps s₀) (match held with
      | some (.translation, page) => g page
      | _ => none) := by
  split
  · exact hg _
  · trivial

theorem Keeps.execSubmissionTranslationDone (h : Keeps s₀ s) : Keeps.Answers s₀ (execSubmissionTranslationDone n st s) := by
  refine h.happen (Keeps.ofTranslation fun page => ?_)
  dsimp only
  split
  · exact h.modJob.modDie
  · exact h.modJob

theorem Keeps.execCommandBegin (h : Keeps s₀ s) : Keeps.Answers s₀ (execCommandBegin n store s) := h.happen h.beginCmd

theorem Keeps.execEngineWriteLands (h : Keeps s₀ s) : Keeps.Answers s₀ (execEngineWriteLands n store ix k s) := h.happen h.landUnits

theorem Keeps.execQfillAppend (h : Keeps s₀ s) : Keeps.Answers s₀ (execQfillAppend n ix s) := h.happen (.ite h.fillQueue trivial)

theorem Keeps.execRemoteArrival (h : Keeps s₀ s) : Keeps.Answers s₀ (execRemoteArrival n store ix s) := h.happen h.reach

theorem Keeps.execCommandComplete (h : Keeps s₀ s) : Keeps.Answers s₀ (execCommandComplete n store s) := h.happen h.completeHead

theorem Keeps.execCommandError (h : Keeps s₀ s) : Keeps.Answers s₀ (execCommandError n store ix s) := h.happen h.endCmd

theorem Keeps.execDeferredCommandTrap (h : Keeps s₀ s) : Keeps.Answers s₀ (execDeferredCommandTrap n st s) := by
  refine h.happen ?_
  split
  · exact .ite h.modJob.trapAt trivial
  · trivial

theorem Keeps.execCarouselHeadAdvance (h : Keeps s₀ s) {car : BitVec 2} : Keeps.Answers s₀ (execCarouselHeadAdvance n car s) :=
  h.happen (h.eitherCtx fun _ ht => .map fun _ => ht.setJob)

theorem Keeps.execCarouselReleaseEffect (h : Keeps s₀ s) {car : BitVec 2} : Keeps.Answers s₀ (execCarouselReleaseEffect n car s) :=
  h.happen (h.eitherCtx fun _ ht => ht.release)

-- Of memory and windows.

theorem Keeps.execStoreAtHome (h : Keeps s₀ s) : Keeps.Answers s₀ (execStoreAtHome n ix s) := h.happen h.storeHome

theorem Keeps.execAcknowledgementAtHome (h : Keeps s₀ s) : Keeps.Answers s₀ (execAcknowledgementAtHome n ix s) := h.happen h.ackHome

theorem Keeps.execInvalidationReceived (h : Keeps s₀ s) : Keeps.Answers s₀ (execInvalidationReceived ix s) := h.happen h.invalReceived

theorem Keeps.execFillReceived (h : Keeps s₀ s) : Keeps.Answers s₀ (execFillReceived ix s) := h.happen h.fillCame

theorem Keeps.execDieCacheEviction (h : Keeps s₀ s) : Keeps.Answers s₀ (execDieCacheEviction d k s) :=
  h.happen (.ite h.modDie trivial)

theorem Keeps.execRdupInvalidationRound (h : Keeps s₀ s) : Keeps.Answers s₀ (execRdupInvalidationRound k s) := h.happen h.rdupRound

theorem Keeps.execWindowRequestAtHome (h : Keeps s₀ s) : Keeps.Answers s₀ (execWindowRequestAtHome n s) := h.happen h.windowRequest

theorem Keeps.execWindowProbeAtHolder (h : Keeps s₀ s) : Keeps.Answers s₀ (execWindowProbeAtHolder n ix s) := h.happen h.windowProbe

theorem Keeps.execHomeWriteRelease (h : Keeps s₀ s) : Keeps.Answers s₀ (execHomeWriteRelease n s) := h.happen h.homeRelease

-- Of jobs.

theorem Keeps.execLaunchAcceptance (h : Keeps s₀ s) : Keeps.Answers s₀ (execLaunchAcceptance s) := h.happen h.takeSub

theorem Keeps.execJobDispatch (h : Keeps s₀ s) : Keeps.Answers s₀ (execJobDispatch d s) := h.happen h.dispatch

theorem Keeps.execDispatchTranslation (h : Keeps s₀ s) : Keeps.Answers s₀ (execDispatchTranslation n s) :=
  h.happen (.ite h.translateCtx (.ite h.translateCtx trivial))

theorem Keeps.execJobStart (h : Keeps s₀ s) : Keeps.Answers s₀ (execJobStart n s) := h.happen (.map fun _ => h.startCtx)

theorem Keeps.execGangStart (h : Keeps s₀ s) : Keeps.Answers s₀ (execGangStart k s) := h.happen h.gang

theorem Keeps.execPreemptionRequest (h : Keeps s₀ s) : Keeps.Answers s₀ (execPreemptionRequest d s) := h.happen h.preempt

theorem Keeps.execForcedPreemption (h : Keeps s₀ s) : Keeps.Answers s₀ (execForcedPreemption n s) := h.happen h.forced

theorem Keeps.execPreemptionSaveDone (h : Keeps s₀ s) : Keeps.Answers s₀ (execPreemptionSaveDone n s) := h.happen h.saveDone

theorem Keeps.execWatchdog (h : Keeps s₀ s) : Keeps.Answers s₀ (execWatchdog n s) := h.happen (.map fun _ => h.modJob)

theorem Keeps.execJobDone (h : Keeps s₀ s) : Keeps.Answers s₀ (execJobDone n s) :=
  h.happen (.ite h.tearWindows (.ite h.jobDone (.ite h.jobDone trivial)))

-- Of faults.

theorem Keeps.execCoreFence (h : Keeps s₀ s) : Keeps.Answers s₀ (execCoreFence n s) := h.happen h.fenceCore

theorem Keeps.execCoresDomainFence (h : Keeps s₀ s) : Keeps.Answers s₀ (execCoresDomainFence d s) := h.happen h.fenceDomain

theorem Keeps.execMemoryShellFence (h : Keeps s₀ s) : Keeps.Answers s₀ (execMemoryShellFence d s) :=
  h.happen (.ite h.fenceShell trivial)

theorem Keeps.execShellReadmit (h : Keeps s₀ s) : Keeps.Answers s₀ (execShellReadmit d s) := h.happen h.readmit

theorem Keeps.execFirmwareFailure (h : Keeps s₀ s) : Keeps.Answers s₀ (execFirmwareFailure s) := h.happen (.ite h.update trivial)

theorem Keeps.execFrameHandover (h : Keeps s₀ s) : Keeps.Answers s₀ (execFrameHandover k s) :=
  h.happen (.ite trivial (Keeps.update (Keeps.foldl h fun _ _ ht => ht.orderNow)))

theorem Keeps.execUncorrectableEccError (h : Keeps s₀ s) {place : EccPlace} : Keeps.Answers s₀ (execUncorrectableEccError place s) := by
  refine h.happen ?_
  cases place with
  | global => exact .ite h.update trivial
  | scratch => exact .ite h.modCore trivial
  | core => exact h.coreError

theorem Keeps.execBoundaryFailure (h : Keeps s₀ s) {b : Fin 8} : Keeps.Answers s₀ (execBoundaryFailure b s) := h.happen h.boundaryDown

theorem Keeps.execSpokeFailure (h : Keeps s₀ s) : Keeps.Answers s₀ (execSpokeFailure d s) := h.happen h.fenceDomain

theorem Keeps.execFabricPortDown (h : Keeps s₀ s) {p : Fin 18} : Keeps.Answers s₀ (execFabricPortDown p s) := h.happen h.portDown

theorem Keeps.execPortTrained (h : Keeps s₀ s) {ports : BitVec 18} : Keeps.Answers s₀ (execPortTrained ports s) :=
  h.happen (.ite h.update trivial)

-- Of start, and of the host.

theorem Keeps.execFlashImageCheck (h : Keeps s₀ s) : Keeps.Answers s₀ (execFlashImageCheck s) :=
  h.happen (.ite (Keeps.ite h.loadImage h.failImage) trivial)

theorem Keeps.execBringUp (h : Keeps s₀ s) {c : BringUpCfg} : Keeps.Answers s₀ (execBringUp c s) := h.happen h.bringUp

theorem Keeps.execFunctionLevelReset (h : Keeps s₀ s) : Keeps.Answers s₀ (execFunctionLevelReset f s) :=
  h.happen (.ite trivial (Keeps.resetPage (.ite h.keepVfs h)))

theorem Keeps.execVfRemoval (h : Keeps s₀ s) : Keeps.Answers s₀ (execVfRemoval f s) := h.happen h.keepVfs

theorem Keeps.execVfEnable (h : Keeps s₀ s) : Keeps.Answers s₀ (execVfEnable f s) := h.happen (.ite trivial h.update)

theorem Keeps.execMsixVectorUnmask (h : Keeps s₀ s) {vec : Fin 4} : Keeps.Answers s₀ (execMsixVectorUnmask f vec s) :=
  h.happen (.ite trivial (Keeps.ite h.modFn.msix h.modFn))

theorem Keeps.execSubmissionDoorbell (h : Keeps s₀ s) {e : Fin 16} : Keeps.Answers s₀ (execSubmissionDoorbell f e v s) :=
  h.happen (.ite trivial h.modFn.update)

theorem Keeps.execDataWindowRead (h : Keeps s₀ s) {off : BitVec 36} {sz : Sz} : Keeps.Answers s₀ (execDataWindowRead f off sz s) :=
  h.happen h.windowRead

theorem Keeps.execDataWindowWrite (h : Keeps s₀ s) {off : BitVec 36} : Keeps.Answers s₀ (execDataWindowWrite f off ix k s) :=
  h.happen h.windowWrite

theorem Keeps.execInvlenWrite (h : Keeps s₀ s) : Keeps.Answers s₀ (execInvlenWrite f v s) := h.happen (.ite h.modFn trivial)

theorem Keeps.execInvalidationDone (h : Keeps s₀ s) : Keeps.Answers s₀ (execInvalidationDone f s) := by
  refine h.happen ?_
  split
  · exact h.invalidateVas.modFn.msix
  · trivial

theorem Keeps.execFaultack (h : Keeps s₀ s) : Keeps.Answers s₀ (execFaultack f v s) := h.happen h.faultAck

theorem Keeps.execPtegoWrite (h : Keeps s₀ s) : Keeps.Answers s₀ (execPtegoWrite v s) :=
  h.happen (.ite trivial (.ite (Keeps.pteEnd h.update) (.ite h.update (Keeps.pteWrite h.update))))

theorem Keeps.execPteUpdateDone (h : Keeps s₀ s) : Keeps.Answers s₀ (execPteUpdateDone s) := h.happen (.ite h.pteWrite trivial)

theorem Keeps.execAttgoWrite (h : Keeps s₀ s) : Keeps.Answers s₀ (execAttgoWrite f s) := h.happen (.ite h.modFn trivial)

theorem Keeps.execAttestationReady (h : Keeps s₀ s) : Keeps.Answers s₀ (execAttestationReady f s) :=
  h.happen (.ite h.modFn.msix trivial)

theorem Keeps.execReclenWrite (h : Keeps s₀ s) : Keeps.Answers s₀ (execReclenWrite v s) := h.happen (.ite h.update trivial)

theorem Keeps.execRecoveryCheckDone (h : Keeps s₀ s) : Keeps.Answers s₀ (execRecoveryCheckDone s) := by
  refine h.happen ?_
  split
  · dsimp only
    split
    · exact Keeps.loadImage h.update
    · exact Keeps.failImage h.update
  · trivial

theorem Keeps.execPartitionEntryWrite (h : Keeps s₀ s) {e : Fin 8} : Keeps.Answers s₀ (execPartitionEntryWrite e v s) := h.happen h.partWrite

theorem Keeps.execPartitionClearDone (h : Keeps s₀ s) {e : Fin 8} : Keeps.Answers s₀ (execPartitionClearDone e s) :=
  h.happen (.ite h.update trivial)

theorem Keeps.execFabricConfigWrite (h : Keeps s₀ s) : Keeps.Answers s₀ (execFabricConfigWrite v s) := h.happen (.ite h.update trivial)

theorem Keeps.execPwrctlWrite (h : Keeps s₀ s) : Keeps.Answers s₀ (execPwrctlWrite v s) :=
  h.happen (.ite trivial (Keeps.fixMode h.update))

theorem Keeps.execModeChange (h : Keeps s₀ s) : Keeps.Answers s₀ (execModeChange s) := h.happen h.modeNow

theorem Keeps.execRegisterWrite (h : Keeps s₀ s) {bar4 : Bool} {off : BitVec 32} : Keeps.Answers s₀ (execRegisterWrite f bar4 off v s) :=
  h.happen (.ite trivial (.ite (.ite h.mgmtWrite trivial) h.fnWrite))

end Sys2Proof.Machine
end

section
/-! Every word and every event keeps, but for the resets of the whole package (25 R412; 01 R37). -/

set_option autoImplicit false
set_option Elab.async false

namespace Sys2Proof.Machine

variable {s₀ s : State}

/-- The events after which nothing of the package is left. -/
def isReset : Instr → Bool
  | .packageReset => true
  | .powerLoss => true
  | .overTemperatureTrip => true
  | _ => false

theorem Keeps.exec (h : Keeps s₀ s) {i : Instr} (hi : isReset i = false) : Keeps.Answers s₀ (exec i s) := by
  cases i with
  | packageReset | powerLoss | overTemperatureTrip => simp [isReset] at hi
  | nop => exact h.execNop
  | br => exact h.execBr
  | brc | lbreak => exact h.finish h.branchIf
  | jmpx => exact h.execJmpx
  | call => exact h.execCall
  | ret => exact h.execRet
  | loop => exact h.execLoop
  | loopv => exact h.execLoopv
  | join => exact h.execJoin
  | waitt => exact h.execWaitt
  | waits => exact h.execWaits
  | send => exact h.execSend
  | srd => exact h.execSrd
  | swr => exact h.execSwr
  | fence => exact h.execFence
  | beacon => exact h.execBeacon
  | yield => exact h.execYield
  | stampw => exact h.execStampw
  | trap => exact h.execTrap
  | tret => exact h.execTret
  | nest xd xa => exact (h.execNest : Keeps.Answers s₀ (Machine.execNest xd xa s))
  | add | sub | and | or | xor | shl | shr | sra | min | max | minu | maxu | mul | mulh | mulhu | div | divu | rem | remu | bfi =>
    exact h.finish h.scalar2
  | addi | andi | ori | xori | shli | shri | srai | lih | clz | ctz | popc | bfx => exact h.finish h.scalar1
  | li => exact h.execLi
  | cmp => exact h.execCmp
  | cmpi => exact h.execCmpi
  | pand | por | pxor | pnot => exact h.finish h.pred2
  | sel => exact h.execSel
  | ld | lda => exact h.finish h.loadWord
  | st | stl => exact h.finish h.storeWord
  | atadd | atmin | atmax | atand | ator | atxor | atxchg | atcas | atincb | atfadd => exact h.finish h.atomicWord
  | vshape => exact h.execVshape
  | vld => exact h.execVld
  | vst => exact h.execVst
  | vadd | vsub | vmul | vmin | vmax => exact h.finish h.arithWord
  | vabs | vneg | vnot => exact h.finish h.map1
  | vfma | vfms | vfnma => exact h.finish h.fmaWord
  | vand | vor | vxor | vshl | vshr | vsra => exact h.finish h.logicWord
  | vcmp => exact h.finish h.map2
  | vsel => exact h.finish h.map3
  | vmov => exact h.execVmov
  | vbcast => exact h.execVbcast
  | vexp2 | vexp | vlog2 | vrcp | vrsq | vsqrt | vtanh | vsigm | vsilu => exact h.finish h.sfuWord
  | vcvt => exact h.execVcvt
  | vpack => exact h.execVpack
  | vunpack => exact h.execVunpack
  | vredr => exact h.execVredr
  | vredc => exact h.execVredc
  | vtrans => exact h.execVtrans
  | vperm => exact h.execVperm
  | vsort => exact h.execVsort
  | vscan => exact h.execVscan
  | viota => exact h.execViota
  | vbucket => exact h.execVbucket
  | vhist => exact h.execVhist
  | vmxscale => exact h.execVmxscale
  | vchscale => exact h.execVchscale
  | vextr => exact h.execVextr
  | vins => exact h.execVins
  | mma | mmat => exact h.finish h.mmaWord
  | aswap => exact h.execAswap
  | azero => exact h.finish h.issueM
  | ald => exact h.execAld
  | ast => exact h.execAst
  | avec => exact h.execAvec
  | attn => exact h.execAttn
  | attnf => exact h.execAttnf
  | amass => exact h.execAmass
  | arstat => exact h.execArstat
  | alstat => exact h.execAlstat
  | abusy => exact h.execAbusy
  | copy => exact h.finish h.effCopy
  | copyr => exact h.finish h.effCopyr
  | qfill => exact h.finish h.effQfill
  | tsinit => exact h.execTsinit
  | tspost => exact h.execTspost
  | tsarrive => exact h.execTsarrive
  | tsquery => exact h.execTsquery
  | tlquery => exact h.execTlquery
  | cdecl => exact h.execCdecl
  | crel => exact h.execCrel
  | cstat => exact h.execCstat
  | wdecl => exact h.execWdecl
  | wget | wown => exact h.finish h.effWget
  | wput | wdrop => exact h.finish h.effWput
  | creduce | cgather | cbcast | cring | cmcast => exact h.finish h.effColl
  | kvappend => exact h.execKvappend
  | kvref | kvsetRep | kvsetMass | kvfree => exact h.finish h.effKvset
  | roust => exact h.execRoust
  | scalarResultWrite => exact h.execScalarResultWrite
  | vectorResultWrite => exact h.execVectorResultWrite
  | matrixWordComplete => exact h.execMatrixWordComplete
  | aswapExchange => exact h.execAswapExchange
  | globalLoadComplete => exact h.execGlobalLoadComplete
  | stampwTargetReached => exact h.execStampwTargetReached
  | heldSubmissionAccept => exact h.execHeldSubmissionAccept
  | commandBegin => exact h.execCommandBegin
  | engineWriteLands => exact h.execEngineWriteLands
  | carouselHeadAdvance => exact h.execCarouselHeadAdvance
  | carouselReleaseEffect => exact h.execCarouselReleaseEffect
  | qfillAppend => exact h.execQfillAppend
  | remoteArrival => exact h.execRemoteArrival
  | commandComplete => exact h.execCommandComplete
  | commandError => exact h.execCommandError
  | deferredCommandTrap => exact h.execDeferredCommandTrap
  | storeAtHome => exact h.execStoreAtHome
  | acknowledgementAtHome => exact h.execAcknowledgementAtHome
  | homeAtomic => exact h.execHomeAtomic
  | invalidationReceived => exact h.execInvalidationReceived
  | fillReceived => exact h.execFillReceived
  | dieCacheEviction => exact h.execDieCacheEviction
  | rdupInvalidationRound => exact h.execRdupInvalidationRound
  | windowRequestAtHome => exact h.execWindowRequestAtHome
  | windowProbeAtHolder => exact h.execWindowProbeAtHolder
  | homeWriteRelease => exact h.execHomeWriteRelease
  | launchAcceptance => exact h.execLaunchAcceptance
  | jobDispatch => exact h.execJobDispatch
  | dispatchTranslation => exact h.execDispatchTranslation
  | jobStart => exact h.execJobStart
  | gangStart => exact h.execGangStart
  | preemptionRequest => exact h.execPreemptionRequest
  | forcedPreemption => exact h.execForcedPreemption
  | preemptionSaveDone => exact h.execPreemptionSaveDone
  | watchdog => exact h.execWatchdog
  | jobDone => exact h.execJobDone
  | coreFence => exact h.execCoreFence
  | coresDomainFence => exact h.execCoresDomainFence
  | memoryShellFence => exact h.execMemoryShellFence
  | shellReadmit => exact h.execShellReadmit
  | firmwareFailure => exact h.execFirmwareFailure
  | frameHandover => exact h.execFrameHandover
  | uncorrectableEccError => exact h.execUncorrectableEccError
  | boundaryFailure => exact h.execBoundaryFailure
  | spokeFailure => exact h.execSpokeFailure
  | fabricPortDown => exact h.execFabricPortDown
  | portTrained => exact h.execPortTrained
  | flashImageCheck => exact h.execFlashImageCheck
  | bringUp => exact h.execBringUp
  | functionLevelReset => exact h.execFunctionLevelReset
  | vfRemoval => exact h.execVfRemoval
  | submissionDoorbell => exact h.execSubmissionDoorbell
  | dataWindowRead => exact h.execDataWindowRead
  | dataWindowWrite => exact h.execDataWindowWrite
  | invlenWrite => exact h.execInvlenWrite
  | invalidationDone => exact h.execInvalidationDone
  | faultack => exact h.execFaultack
  | ptegoWrite => exact h.execPtegoWrite
  | pteUpdateDone => exact h.execPteUpdateDone
  | attgoWrite => exact h.execAttgoWrite
  | attestationReady => exact h.execAttestationReady
  | reclenWrite => exact h.execReclenWrite
  | recoveryCheckDone => exact h.execRecoveryCheckDone
  | partitionEntryWrite => exact h.execPartitionEntryWrite
  | partitionClearDone => exact h.execPartitionClearDone
  | fabricConfigWrite => exact h.execFabricConfigWrite
  | pwrctlWrite => exact h.execPwrctlWrite
  | modeChange => exact h.execModeChange
  | registerWrite => exact h.execRegisterWrite
  | unassignedOpcode opc ops => exact (h.execUnassignedOpcode : Keeps.Answers s₀ (Machine.execUnassignedOpcode opc ops s))
  | submissionTranslationDone => exact h.execSubmissionTranslationDone
  | vfEnable => exact h.execVfEnable
  | msixVectorUnmask => exact h.execMsixVectorUnmask

end Sys2Proof.Machine
end

section
/-! A turn keeps; the end of a cycle moves the clock on by one (01 R22, R39; 03 R57 to R60; 11 R182 to R184). -/

set_option autoImplicit false
set_option Elab.async false

namespace Sys2Proof.Machine

variable {s₀ s t : State} {n : CoreIx} {st : Strm}

-- Decoded words.

/-- No word of a program resets the package. -/
theorem isReset_of_wellFormed {i : Instr} (h : WellFormed i = true) : isReset i = false := by
  cases i with
  | packageReset | powerLoss | overTemperatureTrip => simp [WellFormed] at h
  | _ => rfl

theorem isReset_of_decode {raw : Word} {w : IWord} (h : decode raw = .ok w) : isReset w.op = false := by
  unfold decode at h
  split at h
  · cases h
  · split at h
    · cases h
      rfl
    · split at h
      next hw => cases h; exact isReset_of_wellFormed hw
      · cases h

/-- The words of a group, where it has any, are decoded ones, and so do not reset the package. -/
def Group.Harmless : Group → Prop
  | .one w => isReset w.op = false
  | .two a b => isReset a.op = false ∧ isReset b.op = false
  | .bad _ _ _ => True

theorem Group.harmless_checkOne {raw : Word} : (checkOne st raw).Harmless := by
  unfold checkOne
  split
  · trivial
  split
  · trivial
  split
  case h_1 e => exact isReset_of_decode e
  case h_2 => trivial

theorem Group.harmless_checkTwo {j : Job} {r1 r2 : Word} : (checkTwo j st r1 r2).Harmless := by
  unfold checkTwo
  split
  · trivial
  split
  · trivial
  split
  · trivial
  split
  · trivial
  split
  · trivial
  split
  case h_1 a b =>
    split
    · trivial
    · exact ⟨isReset_of_decode ‹_›, isReset_of_decode ‹_›⟩
  case h_2 => trivial

-- Groups.

theorem Keeps.runWord (h : Keeps s₀ s) {w : IWord} (hw : isReset w.op = false) : Keeps.Answers s₀ (runWord Machine.exec s w) := by
  unfold Machine.runWord
  split
  · exact h.exec hw
  · exact h.update
  · exact h.update
  · exact h.update

/-- The state that a group leads to, if it issues, keeps. -/
def Keeps.Fares (s₀ : State) : Fared → Prop
  | .issued t => Keeps s₀ t
  | .hold _ _ => True
  | .trap _ _ _ _ => True
  | .notDue => True
  | .stop a => Keeps.Answers s₀ a

theorem Keeps.Fares.of_issued {r : Fared} (h : Keeps.Fares s₀ r) (e : r = .issued t) : Keeps s₀ t := by rw [e] at h; exact h

theorem Keeps.Fares.of_stop {r : Fared} {a : Answer} (h : Keeps.Fares s₀ r) (e : r = .stop a) : Keeps.Answers s₀ a := by
  rw [e] at h; exact h

theorem Keeps.runGroup (h : Keeps s₀ s) {pc next r1 r2 : Word} {g : Group} (hg : g.Harmless) :
    Keeps.Fares s₀ (runGroup Machine.exec s n st pc next r1 r2 g) := by
  unfold Machine.runGroup
  cases g with
  | bad => trivial
  | one w =>
    dsimp only
    split
    case h_1 e =>
      split
      · exact ((h.at.runWord hg).of_next e).issuedBy
      · trivial
      · trivial
    case h_2 => exact h.at.runWord hg
  | two a b =>
    dsimp only
    split
    case h_1 ea =>
      have ht := (h.at.runWord hg.1).of_next ea
      split
      · trivial
      · trivial
      · split
        case h_1 eb =>
          split
          · exact ((ht.at.runWord hg.2).of_next eb).issuedBy
          · trivial
          · trivial
        case h_2 => exact ht.at.runWord hg.2
    case h_2 => exact h.at.runWord hg.1

theorem Keeps.issueGroup (h : Keeps s₀ s) : Keeps.Fares s₀ (issueGroup Machine.exec s n st) := by
  unfold Machine.issueGroup
  dsimp only
  split
  · trivial
  case h_2 e =>
    have h1 := h.fetchWord.of_ok e
    split
    · trivial
    split
    · exact (Keeps.fresh (Keeps.passed h1)).runGroup Group.harmless_checkOne
    split
    · trivial
    case h_2 e =>
      exact (Keeps.fresh (Keeps.passed (Keeps.fetchWord h1 |>.of_ok e))).runGroup Group.harmless_checkTwo

-- Turns.

theorem Keeps.issueTurn (h : Keeps s₀ s) : Keeps.Answers s₀ (issueTurn Machine.exec s n st) := by
  refine .ite h (.ite h.try_.modJob ?_)
  split
  · exact h.try_.note
  case h_2 e => exact h.try_.issueGroup.of_stop e
  case h_3 e => exact h.try_.issueGroup.of_issued e
  · exact h.try_.modJob
  · exact h.try_

/-- What a cycle of groups has come to so far keeps. -/
def Keeps.Cycles (s₀ : State) (y : Cyc) : Prop := Keeps s₀ y.s ∧ Gives (Keeps.Answers s₀) y.stop

theorem Keeps.cycAdd {y : Cyc} (h : Keeps.Cycles s₀ y) : Keeps.Cycles s₀ (y.add Machine.exec n st) := by
  obtain ⟨hs, hy⟩ := h
  unfold Cyc.add
  dsimp only
  split
  · exact ⟨hs, hy⟩
  split
  case h_1 e => exact ⟨hs.issueGroup.of_issued e, hy⟩
  · exact ⟨hs, hy⟩
  · exact ⟨hs, hy⟩
  · exact ⟨hs, hy⟩
  case h_5 e => exact ⟨hs, hs.issueGroup.of_stop e⟩

theorem Keeps.cycAll (h : Keeps s₀ s) {l : List Strm} : Keeps.Cycles s₀ (l.foldl (Cyc.add Machine.exec n) ⟨s, [], [], [], none⟩) :=
  List.foldlRecOn l _ ⟨h, trivial⟩ fun _ hy _ _ => Keeps.cycAdd hy

theorem Keeps.lockTurn (h : Keeps s₀ s) : Keeps.Answers s₀ (lockTurn Machine.exec s n) := by
  unfold Machine.lockTurn
  split
  · exact h
  extract_lets j base y
  have hb : Keeps s₀ base := Keeps.foldl h.modJob fun _ _ ht => ht.try_
  have hy : Keeps.Cycles s₀ y := hb.cycAll
  clear_value base y
  split
  case h_1 e => exact hy.2.of_some e
  dsimp only
  split
  · exact hb.modJob
  split
  · exact hb.modJob
  split
  · exact hy.1.modJob
  · exact hb.modJob

-- The end of a cycle.

theorem Keeps.releases (h : Keeps s₀ s) : Keeps s₀ (s.releases n) :=
  Keeps.foldl h.modJob fun _ _ ht => ht.foldl fun _ _ hu => Keeps.getD hu.release hu

theorem Keeps.works (h : Keeps s₀ s) : Keeps s₀ (s.works n) := by
  unfold State.works
  extract_lets held c c1 c2
  have h1 : c1.spad = c.spad := by
    simp only [c1]
    split
    · exact (Core.spad_setJob _ _).trans (spad_work _)
    · rfl
  have h2 : c2.spad = c1.spad := by
    simp only [c2]
    split
    · exact (Core.spad_setOther _ _).trans (spad_work _)
    · rfl
  exact h.setCore_spad (h2.trans h1)

theorem Keeps.trapNow (h : Keeps s₀ s) : Keeps s₀ (s.trapNow n) := by
  unfold State.trapNow
  dsimp only
  split
  · exact h.trapAt
  split
  · exact h
  split
  · exact h.modJob.trapAt
  · exact h

theorem Keeps.settle (h : Keeps s₀ s) : Keeps s₀ (s.settle n) := by
  unfold State.settle
  extract_lets j u v
  have hu : Keeps s₀ u := by
    simp only [u]
    split
    · exact .ite h.fenceJob h.modJob
    · exact h
  have hv : Keeps s₀ v := hu.works.stopDue.trapNow
  exact .ite hv hv.flip.trapNow.flip

theorem Keeps.endCore (h : Keeps s₀ s) : Keeps s₀ (s.endCore n) := by
  refine .ite h ?_
  have hr : Keeps s₀ (if ((s.releases n).core n).other.st == .draining then (((s.releases n).flip n).releases n).flip n else s.releases n) :=
    .ite h.releases.flip.releases.flip h.releases
  refine Keeps.modCore (hr.setCore fun h0 => Core.wf_endCycle _ (hr.spad_wf h0 n)) fun c => ?_
  simp

theorem Keeps.endCores (h : Keeps s₀ s) : Keeps s₀ s.endCores :=
  ((h.foldl fun _ _ ht => ht.settle).foldl fun _ _ ht => .ite (Keeps.getD ht.forced ht) ht).foldl fun _ _ ht => ht.endCore

/-- The clock moves on by one. -/
theorem Keeps.clock (h : Keeps s₀ s) {wall : Nat} {order : List (Nat × Nat)} :
    Keeps { s₀ with gcc := s₀.gcc + 1 } { s with gcc := s.gcc + 1, wall := wall, homeOrder := order } :=
  ⟨(KeptParts.wf h ·), congrArg (· + 1) h.gcc_eq, h.coresvc_le⟩

theorem Keeps.endTick (h : Keeps s₀ s) : Keeps { s₀ with gcc := s₀.gcc + 1 } s.endTick := by
  unfold State.endTick
  extract_lets up u v w
  have hu : Keeps s₀ u := .ite h.endCores h
  have hv : Keeps { s₀ with gcc := s₀.gcc + 1 } v := hu.clock
  have hw : Keeps { s₀ with gcc := s₀.gcc + 1 } w := Keeps.getD hv.modeNow hv
  exact .ite hw.fabricRetry hw

theorem Keeps.andThen {b : State} {a : Answer} {f : State → Answer} (ha : Keeps.Answers s₀ a)
    (hf : ∀ t, Keeps s₀ t → Keeps.Answers b (f t)) : Keeps.Answers b (andThen a f) := by
  cases a with
  | next t => exact hf t ha
  | fault => trivial
  | refused => trivial

theorem Keeps.coreTurns (h : Keeps s₀ s) : Keeps.Answers s₀ (coreTurns Machine.exec s n) := by
  have hl : Keeps.Answers s₀ (strms.foldl (fun (a : Answer) st => Machine.andThen a fun s => Machine.issueTurn Machine.exec s n st)
      (Machine.lockTurn Machine.exec s n)) :=
    List.foldlRecOn strms _ h.lockTurn fun _ ha _ _ => Keeps.andThen ha fun _ ht => ht.issueTurn
  unfold Machine.coreTurns
  split
  · exact hl
  · exact hl
  · exact hl
  · exact h

theorem Keeps.allTurns (h : Keeps s₀ s) {l : List CoreIx} :
    Keeps.Answers s₀ (l.foldl (fun (a : Answer) n => Machine.andThen a fun s => Machine.coreTurns Machine.exec s n) (.next s)) :=
  List.foldlRecOn l _ h fun _ ha _ _ => Keeps.andThen ha fun _ ht => ht.coreTurns

theorem Keeps.tick (h : Keeps s₀ s) : Keeps.Answers { s₀ with gcc := s₀.gcc + 1 } (tick Machine.exec s) := by
  unfold Machine.tick
  split
  · exact h.endTick
  · generalize List.finRange 128 = l
    exact Keeps.andThen h.allTurns fun _ ht => ht.endTick

-- One turn.

theorem Keeps.nextTurn (h : Keeps s₀ s) : Keeps s₀ s.nextTurn.2 := by
  unfold State.nextTurn
  split
  · exact h.update
  split
  · exact h.update
  · exact h

/-- A turn that is neither the end of a cycle nor a reset. -/
theorem Keeps.takeTurn (h : Keeps s₀ s) {turn : Turn} (ht : turn ≠ .tick) (he : ∀ i, turn = .event i → isReset i = false) :
    Keeps.Answers s₀ (takeTurn Machine.exec turn s) := by
  cases turn with
  | issue => exact .ite h.issueTurn h
  | cycle => exact .ite h.lockTurn h
  | event e => exact .ite h (h.exec (he e rfl))
  | fabric => exact Keeps.ite h.fabricCame h
  | tick => exact absurd rfl ht

end Sys2Proof.Machine
end

section
/-! The canonical form of memory is an invariant (01 R2; log entry 4). -/

set_option autoImplicit false
set_option Elab.async false

namespace Sys2Proof.Machine

variable {s t : State}

theorem State.memWf_reset : State.reset.memWf = true :=
  State.memWf_iff.mpr ⟨rfl, fun n => by simp [State.core, State.reset, Core.zero, Memory.wf, Memory.wfFrom], fun p hp => by cases hp⟩

/-- After a reset every memory is empty. -/
theorem memWf_of_isReset {i : Instr} (hi : isReset i = true) (e : exec i s = .next t) : t.memWf = true := by
  cases i with
  | packageReset | powerLoss | overTemperatureTrip => cases e; exact State.memWf_reset
  | _ => cases hi

theorem memWf_takeTurn {turn : Turn} (h : s.memWf = true) (e : takeTurn exec turn s = .next t) : t.memWf = true := by
  by_cases ht : turn = .tick
  · subst ht
    exact ((Keeps.refl s).tick.of_next e).memWf h
  by_cases he : ∀ i, turn = .event i → isReset i = false
  · exact (((Keeps.refl s).takeTurn ht he).of_next e).memWf h
  obtain ⟨i, rfl, hi⟩ : ∃ i, turn = .event i ∧ isReset i = true := by simpa using he
  simp only [takeTurn] at e
  split at e
  · cases e; exact h
  · exact memWf_of_isReset hi e

theorem memWf_step (h : s.memWf = true) (e : step s = .next t) : t.memWf = true := by
  unfold step at e
  split at e
  · cases e
  · exact memWf_takeTurn ((Keeps.refl s).nextTurn.memWf h) e

/-- Settles O59: whatever a step does to a memory is a write, a poke or a removal of cells, each of which keeps the form, or the
clearing of the memory. -/
theorem memoryInvariant : Obligations.MemoryInvariant := by
  intro s t h e
  exact memWf_step h e

end Sys2Proof.Machine
end

section
/-! What a scalar word that touches registers alone changes: the results in flight of its stream and the notes about them (13 R211, R212;
R182). The relation between two jobs, the steps that a result takes in it, and every such word. -/

set_option autoImplicit false
set_option Elab.async false

namespace Sys2Proof.Machine

open Sys2Proof.Claims

variable {d : Dest} {st : Strm} {j j₁ j₂ : Job} {s t : State}

/-- The job with the results in flight of a stream and the notes about results still to come replaced. -/
def Job.withResults (j : Job) (st : Strm) (pe : List SRes) (ou : List GAcc) (kw : List KvRes) (lt : List Late) (mk : List Mark) : Job :=
  { j.modStream st (fun u => { u with pend := pe }) with outs := ou, kvWait := kw, late := lt, marks := mk }

/-- A stream put back. -/
theorem Job.setStream_self (j : Job) (st : Strm) : j.setStream st (j.stream st) = j :=
  congrArg (fun v => { j with strm := v }) (Vector.set_getElem_self (sIx st).isLt)

/-- A job's own results and notes. -/
theorem Job.withResults_self (j : Job) (st : Strm) : j.withResults st (j.stream st).pend j.outs j.kvWait j.late j.marks = j :=
  j.setStream_self st

/-- The later replacement counts. -/
theorem Job.withResults_withResults (j : Job) (st : Strm) (pe pe' : List SRes) (ou ou' : List GAcc) (kw kw' : List KvRes)
    (lt lt' : List Late) (mk mk' : List Mark) :
    (j.withResults st pe ou kw lt mk).withResults st pe' ou' kw' lt' mk' = j.withResults st pe' ou' kw' lt' mk' := by
  simp [Job.withResults, Job.modStream, Job.setStream, Job.stream]

/-- What a global access is, whatever becomes of its result. -/
def GAcc.tag (g : GAcc) : Nat × Strm × Nat := (g.ord, g.strm, g.pa)

/-- What a late answer is, whatever becomes of its result. -/
def Late.tag (l : Late) : Nat × Strm × Nat × LateOp := (l.ord, l.strm, l.addr, l.op)

-- The relation between two jobs.

/-- The second job is the first but for results in flight of one stream, of which the new ones are for the destination, and for the notes
about them: which register an answer still to come is for, and the marks of the destination. -/
structure OnlyResults (d : Dest) (st : Strm) (j j' : Job) : Prop where
  same : j.withResults st (j'.stream st).pend j'.outs j'.kvWait j'.late j'.marks = j'
  pend : ∀ e ∈ (j'.stream st).pend, e ∈ (j.stream st).pend ∨ d.has e
  outs : j'.outs.map GAcc.tag = j.outs.map GAcc.tag
  kvWait : j'.kvWait.map KvRes.ord = j.kvWait.map KvRes.ord
  late : j'.late.map Late.tag = j.late.map Late.tag
  marks : ∀ m : Mark, ¬ d.names st m.rsc → (m ∈ j'.marks ↔ m ∈ j.marks)

theorem OnlyResults.refl (j : Job) : OnlyResults d st j j :=
  ⟨j.withResults_self st, fun _ => .inl, rfl, rfl, rfl, fun _ _ => Iff.rfl⟩

theorem OnlyResults.trans (h : OnlyResults d st j j₁) (h' : OnlyResults d st j₁ j₂) : OnlyResults d st j j₂ where
  same := by
    rw [← j.withResults_withResults st (j₁.stream st).pend _ j₁.outs _ j₁.kvWait _ j₁.late _ j₁.marks, h.same]
    exact h'.same
  pend e he := (h'.pend e he).elim (h.pend e) .inr
  outs := h'.outs.trans h.outs
  kvWait := h'.kvWait.trans h.kvWait
  late := h'.late.trans h.late
  marks m hm := (h'.marks m hm).trans (h.marks m hm)

/-- The results in flight of the stream change. -/
theorem OnlyResults.setPend {f : Stream → List SRes} (hf : ∀ e ∈ f (j.stream st), e ∈ (j.stream st).pend ∨ d.has e) :
    OnlyResults d st j (j.modStream st fun u => { u with pend := f u }) where
  same := by rw [Job.stream_modStream]; rfl
  pend := by rwa [Job.stream_modStream]
  outs := rfl
  kvWait := rfl
  late := rfl
  marks _ _ := Iff.rfl

/-- Results in flight of the stream are discarded. -/
theorem OnlyResults.cancel {b : Bool} {r : BitVec 4} : OnlyResults d st j (j.modStream st fun u => u.cancel b r) :=
  .setPend fun _ he => .inl (List.mem_of_mem_filter he)

/-- The notes change, but for what they are about and for the marks of other resources. -/
theorem OnlyResults.setNotes {ou : List GAcc} {kw : List KvRes} {lt : List Late} {mk : List Mark}
    (ho : ou.map GAcc.tag = j.outs.map GAcc.tag) (hk : kw.map KvRes.ord = j.kvWait.map KvRes.ord)
    (hl : lt.map Late.tag = j.late.map Late.tag) (hm : ∀ m : Mark, ¬ d.names st m.rsc → (m ∈ mk ↔ m ∈ j.marks)) :
    OnlyResults d st j { j with outs := ou, kvWait := kw, late := lt, marks := mk } where
  same := congrArg (fun v => { j with strm := v, outs := ou, kvWait := kw, late := lt, marks := mk })
    (Vector.set_getElem_self (sIx st).isLt)
  pend _ := .inl
  outs := ho
  kvWait := hk
  late := hl
  marks := hm

/-- Answers that are still to come are for no register any more, and marks of a resource of the destination are lifted. -/
theorem OnlyResults.disown {fo : GAcc → GAcc} {fk : KvRes → KvRes} {fl : Late → Late} {r : Rsc} {c : Mark → Bool}
    (ho : ∀ g, (fo g).tag = g.tag) (hk : ∀ k, (fk k).ord = k.ord) (hl : ∀ l, (fl l).tag = l.tag) (hr : d.names st r) :
    OnlyResults d st j { j with
      outs := j.outs.map fo, kvWait := j.kvWait.map fk, late := j.late.map fl, marks := j.marks.filter fun m => m.rsc != r || c m } := by
  refine .setNotes ?_ ?_ ?_ fun m h => ?_
  · simp [ho]
  · simp [hk]
  · simp [hl]
  · have hne : m.rsc ≠ r := fun e => h (e ▸ hr)
    simp [hne]

/-- The destination is marked. -/
theorem OnlyResults.mark {r : Rsc} {l : Nat} {pc : Word} (hr : d.names st r) : OnlyResults d st j (j.mark r l pc) := by
  refine .setNotes rfl rfl rfl fun m h => ?_
  have hne : m.rsc ≠ r := fun e => h (e ▸ hr)
  have hm : m ≠ ⟨r, j.now + l, pc, j.st == .trapped⟩ := fun e => hne (e ▸ rfl)
  simp [hne, hm]

-- A result for an x register, and one for a predicate.

theorem OnlyResults.claimX {r : BitVec 4} (hr : d.x = some r) : OnlyResults d st j (j.claimX st r) := by
  refine (OnlyResults.disown (fun g => ?_) (fun k => ?_) (fun l => ?_) (.inl ⟨r, hr, rfl⟩)).trans .cancel <;> split <;> rfl

theorem OnlyResults.claimP7 (hp : d.p = some 7) : OnlyResults d st j (j.claimP7 st) := by
  refine (OnlyResults.disown (fun g => ?_) (fun k => ?_) (fun l => ?_) (.inr ⟨7, hp, rfl⟩)).trans .cancel <;> split <;> rfl

theorem OnlyResults.wrX {pc : Word} {r : BitVec 4} {v : XVal} {l : Nat} (hr : d.x = some r) :
    OnlyResults d st j (j.wrX st pc r v l) := by
  unfold Job.wrX
  split
  · exact .refl j
  · refine ((OnlyResults.claimX hr).trans (.setPend fun e he => ?_)).trans (.mark (.inl ⟨r, hr, rfl⟩))
    rcases List.mem_append.mp he with he | he
    · exact .inl he
    · exact .inr (.inl (by simp [List.mem_singleton.mp he, hr]))

theorem OnlyResults.wrP {pc : Word} {r : BitVec 3} {v : PVal} {l : Nat} (hr : d.p = some r) :
    OnlyResults d st j (j.wrP st pc r v l) := by
  have hclaim : OnlyResults d st j (if (r == 7) = true then j.claimP7 st else j) := by
    split
    next h7 => exact .claimP7 (eq_of_beq h7 ▸ hr)
    next => exact .refl j
  unfold Job.wrP
  split
  · exact .refl j
  · refine (hclaim.trans (.setPend fun e he => ?_)).trans (.mark (.inr ⟨r, hr, rfl⟩))
    rcases List.mem_append.mp he with he | he
    · exact .inl (List.mem_of_mem_filter he)
    · exact .inr (.inr ⟨by simp [List.mem_singleton.mp he], r, hr, by simp [List.mem_singleton.mp he]⟩)

-- The relation between two states.

/-- The second state is the first but for results of the issuing stream. -/
def State.OnlyResults (d : Dest) (s t : State) : Prop := ∃ j, Machine.OnlyResults d s.cur.strm s.cjob j ∧ t = s.putJob j

/-- The job of the running context put back. -/
theorem Core.setJob_job (c : Core) : c.setJob c.job = c := by
  unfold Core.setJob Core.job
  split <;> rfl

/-- The issuing job put back. -/
theorem State.putJob_cjob (s : State) : s.putJob s.cjob = s := by
  calc s.putJob s.cjob = s.setCore s.cur.core (s.here.setJob s.here.job) := rfl
    _ = s.setCore s.cur.core s.here := by rw [Core.setJob_job]
    _ = s := congrArg (fun v => { s with cores := v }) (Vector.set_getElem_self s.cur.core.isLt)

theorem State.OnlyResults.refl (s : State) : State.OnlyResults d s s := ⟨_, .refl _, s.putJob_cjob.symm⟩

theorem State.OnlyResults.wrX {r : BitVec 4} {v : XVal} {l : Nat} : State.OnlyResults ⟨some r, none⟩ s (wrX s r v l) := ⟨_, .wrX rfl, rfl⟩

theorem State.OnlyResults.wrP {r : BitVec 3} {v : PVal} {l : Nat} : State.OnlyResults ⟨none, some r⟩ s (wrP s r v l) := ⟨_, .wrP rfl, rfl⟩

-- The words.

/-- The answer is the end of a word that changes only results for the destination when it completes. -/
def GivesResults (d : Dest) (s : State) (a : Answer) : Prop := ∃ r, a = finish s r ∧ Ends (State.OnlyResults d s) r

theorem GivesResults.finish {r : Res State} (h : Ends (State.OnlyResults d s) r) : GivesResults d s (finish s r) := ⟨r, rfl, h⟩

/-- A word of that kind that completes. -/
theorem GivesResults.of_done {a : Answer} (h : GivesResults d s a) (e : a = .next t) (hd : t.cur.out = .done) :
    ∃ u, State.OnlyResults d s u ∧ t = ended u := by
  obtain ⟨r, rfl, hr⟩ := h
  obtain ⟨u, hu, rfl⟩ := finish_done s t r e hd
  exact ⟨u, hr.of_ok hu, rfl⟩

theorem scalar1_givesResults {xd xa : BitVec 4} {f : Word → Word} : GivesResults ⟨some xd, none⟩ s (finish s (scalar1 s xd xa f)) :=
  .finish (.skip fun _ => .ok .wrX)

theorem scalar2_givesResults {xd xa xb : BitVec 4} {l : Nat} {f : Word → Word → Word} :
    GivesResults ⟨some xd, none⟩ s (finish s (scalar2 s xd xa xb l f)) :=
  .finish (.skip fun _ => .skip fun _ => .ok .wrX)

theorem pred2_givesResults {pd pa pb : BitVec 3} {f : Bool → Bool → Bool} :
    GivesResults ⟨none, some pd⟩ s (finish s (pred2 s pd pa pb f)) :=
  .finish (.skip fun _ => .skip fun _ => .ok .wrP)

theorem exec_givesResults {i : Instr} (h : destOf i = some d) : GivesResults d s (exec i s) := by
  cases i with
  | nop => cases h; exact .finish (.ok (.refl s))
  | add | sub | and | or | xor | shl | shr | sra | min | max | minu | maxu | mul | mulh | mulhu | div | divu | rem | remu | bfi =>
    cases h; exact scalar2_givesResults
  | addi | andi | ori | xori | shli | shri | srai | lih | clz | ctz | popc | bfx => cases h; exact scalar1_givesResults
  | pand | por | pxor | pnot => cases h; exact pred2_givesResults
  | li | tsquery | tlquery | cstat => cases h; exact .finish (.ok .wrX)
  | stampw => cases h; exact .finish (.skip fun _ => .ite .error (.ok .wrX))
  | sel => cases h; exact .finish (.skip fun _ => .skip fun _ => .skip fun _ => .ok .wrX)
  | cmp => cases h; exact .finish (.skip fun _ => .skip fun _ => .ok .wrP)
  | cmpi => cases h; exact .finish (.skip fun _ => .ok .wrP)
  | _ => cases h

/-- Settles O53: each of these words ends in a result for its destination, or in none, and a result is a change of its kind. -/
theorem registerWordsFrame : Obligations.RegisterWordsFrame := by
  intro i s t d hi he hd
  obtain ⟨u, ⟨j, h, rfl⟩, rfl⟩ := (exec_givesResults hi).of_done he hd
  refine ⟨(j.stream s.cur.strm).pend, j.outs, j.kvWait, j.late, j.marks, ?_, h.pend, h.outs, h.kvWait, h.late, h.marks, fun _ => rfl⟩
  exact congrArg (fun j => ended (s.putJob j)) h.same.symm

end Sys2Proof.Machine
end

section
/-! gcc and the service bits over a step (01 R39, R43): a turn keeps them, and the end of a cycle moves gcc on by one. -/

set_option autoImplicit false
set_option Elab.async false

namespace Sys2Proof.Machine

/-- Settles O60: the state without its turn keeps gcc and the service bits; a tick then moves gcc on by one, every other turn but a reset
keeps both again. -/
theorem counterAndService : Obligations.CounterAndService := by
  intro s t e hreset hloss htrip
  have hs : Keeps s s.nextTurn.2 := (Keeps.refl s).nextTurn
  unfold step at e
  split at e
  · cases e
  by_cases htick : s.nextTurn.1 = .tick
  · rw [htick] at e
    have ht := hs.tick.of_next e
    exact ⟨.inr ⟨htick, ht.gcc_eq⟩, ht.coresvc_le⟩
  · have ht := (hs.takeTurn htick fun i hi => ?_).of_next e
    · exact ⟨.inl ht.gcc_eq, ht.coresvc_le⟩
    cases i with
    | packageReset => exact absurd hi hreset
    | powerLoss => exact absurd hi hloss
    | overTemperatureTrip => exact absurd hi htrip
    | _ => rfl

end Sys2Proof.Machine
end

section
/-! The package reset, the loss of power and firmware that fails (01 R34, R37, R39; 25 R411, R413, R414): no turn that the package plans for
itself resets it. -/

set_option autoImplicit false
set_option Elab.async false

namespace Sys2Proof.Machine

variable {s : State} {n : CoreIx}

-- The package plans no reset of itself.

theorem packageReset_notMem_planPackage : Instr.packageReset ∉ planPackage s := by
  simp only [planPackage, List.mem_append, not_or]
  refine ⟨⟨⟨⟨⟨⟨⟨?_, ?_⟩, ?_⟩, ?_⟩, ?_⟩, ?_⟩, ?_⟩, ?_⟩
  all_goals simp

theorem packageReset_notMem_planQueue {store : Bool} : Instr.packageReset ∉ planQueue s n store := by
  simp only [planQueue, List.mem_ite_nil_left, List.mem_append, List.mem_flatMap, List.mem_map, List.mem_singleton, reduceCtorEq, and_false,
    exists_false, false_or, or_false, not_and, not_exists]
  exact fun _ i _ h => by simpa using List.mem_of_mem_take h

theorem packageReset_notMem_planCore : Instr.packageReset ∉ planCore s n := by
  simp only [planCore, List.mem_append, packageReset_notMem_planQueue, List.mem_map, List.mem_range, List.mem_reverse, List.mem_flatMap,
    List.mem_ite_nil_left, List.mem_ite_nil_right, List.mem_cons, List.not_mem_nil, reduceCtorEq, and_false, exists_const, or_self,
    or_false, false_or, not_and, not_exists]
  exact fun _ st _ => by split <;> simp

theorem packageReset_notMem_planCoherence : Instr.packageReset ∉ planCoherence s := by
  simp [planCoherence]

theorem packageReset_notMem_planLate : Instr.packageReset ∉ planLate s n := by simp [planLate]

theorem packageReset_notMem_planBoot : Instr.packageReset ∉ planBoot s := by
  unfold planBoot
  cases s.boot <;> simp

theorem event_notMem_planIssue {e : Instr} : Turn.event e ∉ planIssue s n := by
  unfold planIssue
  dsimp only
  split
  · exact List.not_mem_nil
  · simp
  · split <;> simp

theorem packageReset_notMem_plan : Turn.event .packageReset ∉ plan s := by
  unfold plan
  split
  · simp [packageReset_notMem_planPackage, packageReset_notMem_planCoherence, packageReset_notMem_planCore,
      packageReset_notMem_planLate, event_notMem_planIssue]
  · simp [packageReset_notMem_planBoot]


theorem State.nextTurn_of_cons {t : Turn} {rest : List Turn} (h : s.turns = t :: rest) : s.nextTurn = (t, { s with turns := rest }) := by
  unfold State.nextTurn
  rw [h]

theorem State.nextTurn_ne_packageReset (h : s.turns = []) : s.nextTurn.1 ≠ .event .packageReset := by
  unfold State.nextTurn
  rw [h]
  cases hp : plan s with
  | nil => simp
  | cons t rest =>
    rintro rfl
    exact packageReset_notMem_plan (hp ▸ List.mem_cons_self)

-- The resets.

theorem takeTurn_packageReset : takeTurn exec (.event .packageReset) s = .next s.packageReset := rfl

/-- Settles O47: each event is the update that its rule names; what the package plans for itself holds no reset, and the reset alone ends the
dark (log entries 3, 57). -/
theorem resetAndPower : Obligations.ResetAndPower := by
  refine ⟨fun s => rfl, fun s e he hr => ?_, fun s hp ht => ?_, fun s => s.nextTurn_ne_packageReset, fun s rest ht => ?_, fun s hb => ?_⟩
  · have hf : s.flashAfter = s.flash := by simp only [State.flashAfter, hr]
    have hn : s.noPower = { State.reset with power := false, flash := s.flash, ord := s.ord, free := s.free + 1 } := by
      rw [State.noPower, hf]
    rcases he with rfl | rfl
    · exact congrArg _ hn
    · exact congrArg _ hn
  · have hd : s.dark s.nextTurn.1 = true := by simp [State.dark, hp, ht]
    simp only [step, hd, if_true]
  · simp only [step, State.nextTurn_of_cons ht, takeTurn_packageReset]
    simp [State.dark, State.packageReset]
  · have he : (s.boot == .load || s.boot == .ready) = true := by simpa using hb
    simp only [exec, execFirmwareFailure, he, if_true, happen_some]

end Sys2Proof.Machine
end

section
/-! The machine right after the package reset (25 R414): what its registers read, and that nothing is in it. -/

set_option autoImplicit false
set_option Elab.async false

namespace Sys2Proof.Machine

theorem State.core_reset (n : CoreIx) : State.reset.core n = Core.zero := by simp [State.core, State.reset]

theorem State.die_reset (d : DieIx) : State.reset.die d = Die.zero := by simp [State.die, State.reset]

theorem State.fns_reset (f : Fin 65) : State.reset.fns[f] = { FnPage.zero with present := decide (f = 0) } := by
  by_cases h : f = 0
  · subst h
    rfl
  · have h0 : (0 : Nat) ≠ f.val := fun e => h (Fin.ext e.symm)
    simp [State.reset, h, h0, Fin.getElem_fin, FnPage.zero]

/-- No function owns a partition. -/
theorem State.fnPart_reset (f : Fin 65) : State.reset.fnSlot f = none ∧ State.reset.fnPart f = none := by
  have h : State.reset.fnSlot f = none := by
    simp [State.fnSlot, State.reset, Partition.zero, Fin.getElem_fin]
  exact ⟨h, by rw [State.fnPart, h]; rfl⟩

/-- The registers of partitions and of save slots read their reset values. -/
theorem State.mgmtRead_reset_tables : ∀ k, k < 8 → State.reset.mgmtRead (0x100 + 8 * k) = 0 ∧
    State.reset.mgmtRead (0x200 + 16 * k) = 0x00FF000000000000 ∧ State.reset.mgmtRead (0x208 + 16 * k) = 0 := by
  decide

theorem State.fnRead_reset (f : Fin 65) : State.reset.fnRead f 0x100 = 0 ∧ State.reset.fnRead f 0x108 = 0 ∧
    State.reset.fnRead f 0x110 = 0 ∧ State.reset.fnRead f 0x120 = 0 ∧ State.reset.fnRead f 0x128 = 0 ∧ State.reset.fnRead f 0x148 = 0 ∧
    State.reset.fnRead f 0x168 = 0 ∧ State.reset.fnRead f 0x248 = 0 := by
  have hf := State.fns_reset f
  obtain ⟨hs, hp⟩ := State.fnPart_reset f
  refine ⟨?_, ?_, ?_, ?_, ?_, ?_, ?_, ?_⟩
  · show State.reset.fncfg f = 0
    have hw : (State.reset.fns[f]).winerr = false := by rw [hf]; rfl
    rw [State.fncfg, hs, hw]
    rfl
  · show (State.reset.fns[f]).dwbase = 0
    rw [hf]
    rfl
  · show (State.reset.fns[f]).invva = 0
    rw [hf]
    rfl
  · show (if (State.reset.fns[f]).inv.isSome then (1 : Word) else 0) = 0
    rw [hf]
    rfl
  · show State.reset.faultva f = 0
    rw [State.faultva, hp]
    rfl
  · show (if (f == 0) && false then (1 : Word) else 0) = 0
    rw [Bool.and_false]
    rfl
  · show (if (f == 0) then State.reset.ptestat else 0) = 0
    exact ite_self 0
  · show (0 : BitVec 62) ++ (State.reset.fns[f]).attstat = 0
    have ha : (State.reset.fns[f]).attstat = 0 := by rw [hf]; rfl
    rw [ha]
    rfl

/-- No submission slot of a function holds a status. -/
theorem State.fnRead_reset_substat (f : Fin 65) {k : Nat} (hk : k < 16) : State.reset.fnRead f (8 + 16 * k) = 0 := by
  have h1 : 8 + 16 * k < 0x100 := by omega
  have h2 : (8 + 16 * k) % 16 = 8 := by omega
  have h3 : (8 + 16 * k) / 16 = k := by omega
  have hf : (State.reset.fns[f]).substat = Vector.replicate 16 0 := by rw [State.fns_reset]; rfl
  simp only [State.fnRead, h1, h2, h3, hf, if_true, beq_self_eq_true, Vector.toList_replicate]
  exact List.getD_replicate 0 hk

/-- Bonded DRAM that nothing has written is poisoned (01 R36). -/
theorem State.unitPo_reset {a : Nat} (ha : a < 0x6000000000) : State.reset.unitPo (a / 32) = some (.raw cEcc) := by
  have h : a / 32 * 32 < 0x6000000000 := by omega
  show (if (State.reset.dupAt (a / 32 * 32)).isSome then none else if a / 32 * 32 < 0x6000000000 then some (PoU.raw cEcc) else none) = _
  simp only [State.dupAt, State.reset, List.find?_nil, Option.isSome_none, Bool.false_eq_true, if_false, h, if_true]

/-- Settles O55: the registers of the management page one by one, those of the tables and of the functions by the lemmas above, and every
list of the package is empty. -/
theorem resetState : Obligations.ResetState := by
  have empty (n : CoreIx) : Claims.Empty State.reset n ∧ (State.reset.core n).psb = [] ∧ (State.reset.core n).lq = [] ∧
      (State.reset.core n).sq = [] := by
    rw [Claims.Empty, State.core_reset]
    exact ⟨⟨rfl, rfl⟩, rfl, rfl, rfl⟩
  have fns (f : Fin 65) : (State.reset.fns[f]).present = decide (f = 0) := by rw [State.fns_reset]
  refine ⟨rfl, rfl, rfl, State.memWf_reset, rfl, rfl, rfl, rfl, rfl, rfl, rfl, rfl, rfl, rfl, rfl, State.mgmtRead_reset_tables, fun f => ?_,
    empty, fun a ha => State.unitPo_reset ha, fun d => ?_, rfl, rfl, rfl⟩
  · obtain ⟨h1, h2, h3, h4, h5, h6, h7, h8⟩ := State.fnRead_reset f
    exact ⟨fns f, h1, h2, h3, h4, h5, h6, h7, h8, fun k hk => State.fnRead_reset_substat f hk⟩
  · rw [State.die_reset]
    exact ⟨rfl, rfl⟩

end Sys2Proof.Machine
end

section
/-! What a fencing leaves as it stands: the service bits, the links, the clock and the power mode, contexts that hold no job, posted-store
buffers that are empty. The relation and its rules (23 R379, R392). -/

set_option autoImplicit false
set_option Elab.async false

namespace Sys2Proof.Machine

/-- The clock, the boot state, the power mode, the service bits and the links of a package. -/
structure Standing where
  gcc : Nat
  boot : Boot
  pmode : BitVec 2
  preq : BitVec 2
  pend : Option (Nat × BitVec 2)
  diesvc : BitVec 8
  shellsvc : BitVec 8
  coresvc : BitVec 128
  defectsig : Word
  pkgnum : BitVec 11
  portup : BitVec 18
  ringup : BitVec 8

def State.standing (s : State) : Standing :=
  ⟨s.gcc, s.boot, s.pmode, s.preq, s.pend, s.diesvc, s.shellsvc, s.coresvc, s.defectsig, s.pkgnum, s.portup, s.ringup⟩

/-- The contexts of a core and its posted stores. -/
def Core.holds (c : Core) : Bool × Job × Job × List PStore := (c.runIx, c.ctx0, c.ctx1, c.psb)

/-- c runs the context that c₀ does, holds a job only in a context in which c₀ does, and posted stores only where c₀ has some. -/
structure Core.Steady (c₀ c : Core) : Prop where
  runIx : c.runIx = c₀.runIx
  ctx0 : c₀.ctx0.st = .none → c.ctx0.st = .none
  ctx1 : c₀.ctx1.st = .none → c.ctx1.st = .none
  psb : c₀.psb = [] → c.psb = []

/-- t stands as s₀ does, and each core of it is steady. -/
structure Steady (s₀ t : State) : Prop where
  standing : t.standing = s₀.standing
  core : ∀ n : CoreIx, Core.Steady (s₀.core n) (t.core n)

-- Cores.

variable {c₀ c d : Core} {j : Job} {run : Bool}

theorem Core.Steady.refl (c : Core) : Core.Steady c c := ⟨rfl, id, id, id⟩

theorem Core.Steady.trans (h : Core.Steady c₀ c) (h' : Core.Steady c d) : Core.Steady c₀ d :=
  ⟨h'.runIx.trans h.runIx, h'.ctx0 ∘ h.ctx0, h'.ctx1 ∘ h.ctx1, h'.psb ∘ h.psb⟩

/-- A core with the contexts and the stores of a steady one. -/
theorem Core.Steady.of_holds (h : Core.Steady c₀ c) (e : d.holds = c.holds) : Core.Steady c₀ d := by
  simp only [Core.holds, Prod.mk.injEq] at e
  obtain ⟨hr, h0, h1, hp⟩ := e
  exact ⟨hr.trans h.runIx, h0 ▸ h.ctx0, h1 ▸ h.ctx1, hp ▸ h.psb⟩

/-- Posted stores are dropped or changed. -/
theorem Core.Steady.setPsb (h : Core.Steady c₀ c) {l : List PStore} (hl : c.psb = [] → l = []) : Core.Steady c₀ { c with psb := l } :=
  ⟨h.runIx, h.ctx0, h.ctx1, hl ∘ h.psb⟩

theorem Core.Steady.flip (h : Core.Steady c₀ c) : Core.Steady { c₀ with runIx := !c₀.runIx } { c with runIx := !c.runIx } :=
  ⟨congrArg (!·) h.runIx, h.ctx0, h.ctx1, h.psb⟩

theorem Core.ctx_setCtx : (c.setCtx run j).ctx run = j := by
  cases run <;> simp [Core.ctx, Core.setCtx]

/-- A context of a steady core is empty where that of the first is. -/
theorem Core.Steady.ctx (h : Core.Steady c₀ c) (e : (c₀.ctx run).st = .none) : (c.ctx run).st = .none := by
  have hr := h.runIx
  unfold Core.ctx Core.job Core.other at *
  cases run <;> cases hc : c₀.runIx <;> simp only [hr, hc, if_true, if_false, Bool.false_eq_true] at e ⊢
  · exact h.ctx1 e
  · exact h.ctx0 e
  · exact h.ctx0 e
  · exact h.ctx1 e

/-- A context is replaced: by one that holds no job where it held none at first. -/
theorem Core.Steady.setCtx (h : Core.Steady c₀ c) (hj : (c₀.ctx run).st = .none → j.st = .none) : Core.Steady c₀ (c.setCtx run j) := by
  have hr := h.runIx
  unfold Core.ctx Core.job Core.other at hj
  unfold Core.setCtx Core.setJob Core.setOther
  cases run <;> cases hc : c₀.runIx <;> simp only [hr, hc, if_true, if_false, Bool.false_eq_true] at hj ⊢
  · exact ⟨hc.symm, h.ctx0, hj, h.psb⟩
  · exact ⟨hc.symm, hj, h.ctx1, h.psb⟩
  · exact ⟨hc.symm, hj, h.ctx1, h.psb⟩
  · exact ⟨hc.symm, h.ctx0, hj, h.psb⟩

theorem Core.Steady.setJob (h : Core.Steady c₀ c) (hj : c₀.job.st = .none → j.st = .none) : Core.Steady c₀ (c.setJob j) :=
  h.setCtx (run := true) hj

-- Updates of the state.

variable {s₀ s t : State} {n : CoreIx}

theorem Steady.refl (s : State) : Steady s s := ⟨rfl, fun _ => .refl _⟩

theorem Steady.trans (h : Steady s₀ s) (h' : Steady s t) : Steady s₀ t :=
  ⟨h'.standing.trans h.standing, fun n => (h.core n).trans (h'.core n)⟩

theorem Steady.gcc_eq (h : Steady s₀ s) : s.gcc = s₀.gcc := congrArg Standing.gcc h.standing
theorem Steady.boot_eq (h : Steady s₀ s) : s.boot = s₀.boot := congrArg Standing.boot h.standing
theorem Steady.pmode_eq (h : Steady s₀ s) : s.pmode = s₀.pmode := congrArg Standing.pmode h.standing
theorem Steady.preq_eq (h : Steady s₀ s) : s.preq = s₀.preq := congrArg Standing.preq h.standing
theorem Steady.pend_eq (h : Steady s₀ s) : s.pend = s₀.pend := congrArg Standing.pend h.standing
theorem Steady.diesvc_eq (h : Steady s₀ s) : s.diesvc = s₀.diesvc := congrArg Standing.diesvc h.standing
theorem Steady.shellsvc_eq (h : Steady s₀ s) : s.shellsvc = s₀.shellsvc := congrArg Standing.shellsvc h.standing
theorem Steady.coresvc_eq (h : Steady s₀ s) : s.coresvc = s₀.coresvc := congrArg Standing.coresvc h.standing
theorem Steady.defectsig_eq (h : Steady s₀ s) : s.defectsig = s₀.defectsig := congrArg Standing.defectsig h.standing
theorem Steady.pkgnum_eq (h : Steady s₀ s) : s.pkgnum = s₀.pkgnum := congrArg Standing.pkgnum h.standing
theorem Steady.portup_eq (h : Steady s₀ s) : s.portup = s₀.portup := congrArg Standing.portup h.standing
theorem Steady.ringup_eq (h : Steady s₀ s) : s.ringup = s₀.ringup := congrArg Standing.ringup h.standing

/-- What is no part of the relation is free. -/
theorem Steady.update (h : Steady s₀ s) (hs : t.standing = s.standing := by rfl) (hc : t.cores = s.cores := by rfl) : Steady s₀ t :=
  ⟨hs.trans h.standing, fun n => by unfold State.core; rw [hc]; exact h.core n⟩

theorem Steady.setCore (h : Steady s₀ s) (hc : Core.Steady (s₀.core n) c) : Steady s₀ (s.setCore n c) := by
  refine ⟨h.standing, fun m => ?_⟩
  by_cases hm : m = n
  · subst hm
    rwa [State.core_setCore]
  · rw [State.core_setCore_other _ _ hm]
    exact h.core m

/-- A core is changed beside its contexts and its stores. -/
theorem Steady.modCore (h : Steady s₀ s) {f : Core → Core} (hf : ∀ c, (f c).holds = c.holds := by intro c; rfl) :
    Steady s₀ (s.modCore n f) :=
  h.setCore ((h.core n).of_holds (hf _))

/-- Every core is changed. -/
theorem Steady.mapCores (h : Steady s₀ s) {f : Core → Core} (hf : ∀ c₀ c, Core.Steady c₀ c → Core.Steady c₀ (f c)) :
    Steady s₀ { s with cores := s.cores.map f } :=
  ⟨h.standing, fun n => by simpa [State.core] using hf _ _ (h.core n)⟩

theorem Steady.modDie (h : Steady s₀ s) {d : DieIx} {f : Die → Die} : Steady s₀ (s.modDie d f) := h.update

/-- A running job is replaced on a core that runs one at first. -/
theorem Steady.setJob_of_busy (h : Steady s₀ s) (hn : (s₀.job n).st ≠ .none) : Steady s₀ (s.setJob n j) :=
  h.setCore ((h.core n).setJob fun e => absurd e hn)

theorem Steady.modJob (h : Steady s₀ s) {f : Job → Job} (hf : ∀ j, (f j).st = j.st := by intro j; rfl) : Steady s₀ (s.modJob n f) :=
  h.setCore ((h.core n).setJob fun e => (hf _).trans ((h.core n).ctx (run := true) e))

theorem State.core_flip_same : (s.flip n).core n = { s.core n with runIx := !(s.core n).runIx } := State.core_modCore ..

theorem State.flip_flip : (s.flip n).flip n = s := by
  have h : (s.flip n).flip n = { s with cores := (s.cores.set n { s.core n with runIx := !(s.core n).runIx }).set n (s.core n) } := by
    unfold State.flip State.modCore
    rw [State.core_setCore]
    simp only [Bool.not_not]
    rfl
  rw [h, Vector.set_set]
  simp [State.core]

/-- A core that runs its other context. -/
theorem Steady.flip (h : Steady s₀ s) : Steady (s₀.flip n) (s.flip n) := by
  refine ⟨h.standing, fun m => ?_⟩
  by_cases hm : m = n
  · subst hm
    rw [State.core_flip_same, State.core_flip_same]
    exact (h.core m).flip
  · have hf (u : State) : (u.flip n).core m = u.core m := State.core_modCore_other _ _ hm
    rw [hf, hf]
    exact h.core m

-- Branches and folds.

theorem Steady.ite {p : Prop} [Decidable p] (hs : Steady s₀ s) (ht : Steady s₀ t) : Steady s₀ (if p then s else t) := by
  split
  · exact hs
  · exact ht

theorem Steady.foldl {α : Type} {f : State → α → State} {l : List α} (h : Steady s₀ s) (hf : ∀ t a, Steady s₀ t → Steady s₀ (f t a)) :
    Steady s₀ (l.foldl f s) :=
  List.foldlRecOn l f h fun t ht a _ => hf t a ht

/-- The state itself stands in for one that is absent. -/
theorem Steady.getD {o : Option State} (ho : Gives (Steady s₀) o) (h : Steady s₀ s) : Steady s₀ (o.getD s) := by
  cases o with
  | none => exact h
  | some t => exact ho

end Sys2Proof.Machine
end

section
/-! What is in flight on a core leaves its contexts and its posted stores, and the operations of global memory, the journal, the save slots
and the KV tables leave what stands (07 R118, R123 to R145; 23 R382 to R392; 21 R341 to R353). -/

set_option autoImplicit false
set_option Elab.async false

namespace Sys2Proof.Machine

section
variable {c : Core} {j : Job} {held : Nat → Bool}

-- Operations in flight on a core.

/-- A fold of operations that leave the contexts of a core and its stores leaves them. -/
theorem holds_foldl {α : Type} {f : Core × Job → α → Core × Job} (hf : ∀ r a, (f r a).1.holds = r.1.holds) (r : Core × Job) (l : List α) :
    (l.foldl f r).1.holds = r.1.holds :=
  List.foldlRecOn (motive := fun q => q.1.holds = r.1.holds) l f rfl fun q hq a _ => (hf q a).trans hq

theorem holds_moveOne (r : Core × Job) (m : Move) : (moveOne held r m).1.holds = r.1.holds := by
  unfold moveOne
  split
  · rfl
  · rfl
  · rfl
  · unfold performMove
    split <;> rfl

theorem holds_moveDue (all : Bool) : (moveDue held c j all).1.holds = c.holds := holds_foldl holds_moveOne _ _

theorem holds_lateOne (r : Core × Job) (l : Late) : (lateOne r l).1.holds = r.1.holds := by
  unfold lateOne
  dsimp only
  split <;> rfl

theorem holds_landAmass {o : MatOp} {fa fb : Fmt} : (landAmass c j o fa fb).1.holds = c.holds := by
  unfold landAmass
  split <;> rfl

theorem holds_finishMat (gcc : Nat) (o : MatOp) : (finishMat gcc c j o).1.holds = c.holds := by
  unfold finishMat
  extract_lets r
  have hr : r.1.holds = c.holds := by
    unfold r
    split
    case h_7 =>
      split
      · rfl
      · exact holds_landAmass
    all_goals rfl
  split <;> exact hr

theorem holds_work (gcc : Nat) : (work held gcc c j).1.holds = c.holds :=
  (holds_foldl (fun _ _ => holds_finishMat ..) _ _).trans ((holds_foldl holds_lateOne _ _).trans (holds_moveDue _))

theorem Core.holds_commit : c.commit.holds = c.holds := by
  have keep {α : Type} (f : Core → α → Core) (hf : ∀ d a, (f d a).holds = d.holds) (l : List α) (d : Core) :
      (l.foldl f d).holds = d.holds :=
    List.foldlRecOn (motive := fun e : Core => e.holds = d.holds) l f rfl fun e he a _ => (hf e a).trans he
  unfold Core.commit
  refine (keep _ (fun d tile => ?_) _ _).trans (keep (fun d (l : Land) => d.commitOne (l.prevail c.landing)) (fun d l => rfl) _ _)
  split <;> rfl

theorem holds_drainCycles (gcc : Nat) : ∀ (n : Nat) (c : Core) (j : Job), (drainCycles held gcc n c j).1.holds = c.holds
  | 0, _, _ => rfl
  | n + 1, _, _ => (holds_drainCycles gcc n _ _).trans (Core.holds_commit.trans (holds_work gcc))

theorem Core.holds_setQueue (store : Bool) (q : List Cmd) : (c.setQueue store q).holds = c.holds := by
  cases store <;> rfl
end

variable {s₀ s t : State} {n m : CoreIx} {d : DieIx} {part : BitVec 16} {mask : BitVec 8} {line : Nat} {p : PStore}
  {bs : List (Nat × Byte × Option PoU)}

-- Writes at their homes.

/-- Posted stores are changed one by one. -/
theorem Steady.mapStores (h : Steady s₀ s) {f : PStore → PStore} :
    Steady s₀ { s with cores := s.cores.map fun (c : Core) => { c with psb := c.psb.map f } } :=
  h.mapCores fun _ _ hc => hc.setPsb fun e => List.map_eq_nil_iff.mpr e

theorem Steady.homePut (h : Steady s₀ s) : Steady s₀ (s.homePut bs) := by
  unfold State.homePut
  refine Steady.foldl h.update fun t b ht => ?_
  split
  · exact ht.update
  · exact ht.update

theorem Steady.roundOver (h : Steady s₀ s) {ord : Nat} : Steady s₀ (s.roundOver ord) := by
  unfold State.roundOver
  split
  · exact .ite h h.update
  · exact h

theorem Steady.invalArrives (h : Steady s₀ s) {i : Inval} : Steady s₀ (s.invalArrives i) := by
  unfold State.invalArrives
  refine .ite h (.ite h.modDie (Steady.roundOver ?_))
  exact h.modDie.mapStores.update

theorem Steady.flushInvals (h : Steady s₀ s) {home : Nat} : Steady s₀ (s.flushInvals home mask) :=
  Steady.foldl h.update fun _ _ ht => ht.invalArrives

theorem Steady.orderAtHome (h : Steady s₀ s) : Steady s₀ (s.orderAtHome mask bs) :=
  (h.homePut.foldl fun _ _ ht => ht.flushInvals).foldl fun _ _ ht => ht.update

-- Fills and stores.

theorem Steady.addSharer (h : Steady s₀ s) : Steady s₀ (s.addSharer d line) := by
  unfold State.addSharer
  split
  · exact h.update
  · exact .ite h.update h.update

theorem Steady.releaseFills (h : Steady s₀ s) : Steady s₀ s.releaseFills :=
  h.foldl fun _ _ ht => .ite ht (Steady.addSharer ht.update)

theorem Steady.retire (h : Steady s₀ s) : Steady s₀ (s.retire n p) :=
  Steady.update (h.setCore ((h.core n).setPsb (l := (s.core n).psb.filter fun e => e.ord != p.ord) fun e => by rw [e]; rfl))

theorem Steady.orderStore (h : Steady s₀ s) : Steady s₀ (s.orderStore n p) :=
  .ite h.retire.releaseFills (h.homePut.foldl fun _ _ ht => ht.update).retire.releaseFills

theorem Steady.orderNow (h : Steady s₀ s) : Steady s₀ (s.orderNow n p) := (h.flushInvals.foldl fun _ _ ht => ht.update).orderStore

theorem Steady.setDirty (h : Steady s₀ s) {entry : Nat} : Steady s₀ (s.setDirty part entry) := .ite h h.orderAtHome

-- The journal.

theorem Steady.msix (h : Steady s₀ s) {fn : Fin 65} {vec : Fin 4} : Steady s₀ (s.msix fn vec) := .ite h.update h.update

theorem Steady.msixPart (h : Steady s₀ s) {vec : Fin 4} : Steady s₀ (s.msixPart part vec) := by
  unfold State.msixPart
  split
  · exact h.msix
  · exact h

theorem Steady.journal (h : Steady s₀ s) {e : JEnt} : Steady s₀ (s.journal e) := by
  unfold State.journal
  split
  · exact h
  · extract_lets pa u v
    have hu : Steady s₀ u := h.orderAtHome
    clear_value u
    have hv : Steady s₀ v := hu.update
    exact .ite hv.msixPart (.ite hv.msix hv)

-- KV tables.

theorem Steady.engineWrite (h : Steady s₀ s) : Ends (Steady s₀) (s.engineWrite part bs) := by
  unfold State.engineWrite
  split
  · exact .error
  · exact .ok h.orderAtHome

variable {b : KvBy} {va : Word} {pool : Pool} {i : Nat}

theorem Steady.markPage (h : Steady s₀ s) : Steady s₀ (s.markPage b part va) := by
  unfold State.markPage
  refine .ite h ?_
  split
  · exact .ite h.setDirty h
  · exact h

theorem Steady.touch (h : Steady s₀ s) : Steady s₀ (s.touch b part va) := by
  unfold State.touch
  refine .ite h ?_
  split
  · exact h
  · dsimp only
    split
    · exact h
    · exact h.modDie.modCore

theorem Steady.kvWrite (h : Steady s₀ s) {l : List Byte} : Ends (Steady s₀) (s.kvWrite b part va l) :=
  .skip fun _ => .bind h.touch.markPage.engineWrite fun _ ht => .ok (ht.mapCores fun _ _ hc => hc.of_holds rfl)

theorem Steady.pushSlot (h : Steady s₀ s) : Ends (Steady s₀) (s.pushSlot b part pool i) :=
  .skip fun _ => .bind h.kvWrite fun _ ht => ht.kvWrite

theorem Steady.kvTry (h : Steady s₀ s) {r : CRes State} (hr : Ends (Steady s₀) r) : Steady s₀ (s.kvTry r) := by
  unfold State.kvTry
  split
  · exact hr
  · exact h

theorem Steady.dropHold (h : Steady s₀ s) {hold : Nat × Nat × Nat} : Steady s₀ (s.dropHold b part hold) := by
  have hw : Steady s₀ (s.kvTry (s.engineWrite part (cleanBytes hold.2.2 (leBytes 4 (leNat (s.engineRead (dieOf b.core) b.sees
      hold.2.2 4).1 - 1))))) := h.kvTry h.engineWrite
  exact .ite (hw.kvTry (.skip fun _ => .skip fun _ => .skip fun _ => hw.pushSlot)) hw

end Sys2Proof.Machine
end

section
/-! What becomes of commands and jobs leaves what stands, and a job that is fenced leaves its context (17 R278 to R284; 03 R77; 23 R379,
R385). -/

set_option autoImplicit false
set_option Elab.async false

namespace Sys2Proof.Machine

variable {s₀ s t : State} {n m : CoreIx} {d : DieIx} {part : BitVec 16} {c : Cmd} {cause : Cause} {info : Word} {store run : Bool}

-- Commands.

/-- A job of a core is changed, wherever its context is kept. -/
theorem Steady.modJobOf (h : Steady s₀ s) {seq iter : Nat} {f : Job → Job} (hf : ∀ j, (f j).st = j.st := by intro j; rfl) :
    Steady s₀ (s.modJobOf n seq iter f) := by
  have hn := h.core n
  exact .ite (h.setCore ⟨hn.runIx, fun e => (hf _).trans (hn.ctx0 e), hn.ctx1, hn.psb⟩)
    (.ite (h.setCore ⟨hn.runIx, hn.ctx0, fun e => (hf _).trans (hn.ctx1 e), hn.psb⟩) h.update)

theorem Steady.poisonArrivals (h : Steady s₀ s) : Steady s₀ (s.poisonArrivals n c cause) :=
  .ite h (h.foldl fun _ _ ht => .ite ht.modJobOf ht.modJob)

theorem Steady.countFill (h : Steady s₀ s) : Steady s₀ (s.countFill n c) := by
  unfold State.countFill
  split
  · exact h
  · have hf (a : Nat) (j : Job) : (match j.wouldFill n c.ord a with
        | some (car, k) => j.modCar (BitVec.ofNat 2 car) fun x => { x with res := x.res ++ [(n.val, k, c.ord)] }
        | none => j).st = j.st := by split <;> rfl
    exact h.foldl fun _ _ ht => .ite (ht.modJobOf (hf _)) (ht.modJob (hf _))

theorem Steady.uncount (h : Steady s₀ s) {gone : List Nat} : Steady s₀ (s.uncount n gone) :=
  h.mapCores fun _ _ hc => ⟨hc.runIx, hc.ctx0, hc.ctx1, hc.psb⟩

theorem Steady.modCmd (h : Steady s₀ s) {ord : Nat} {f : Cmd → Cmd} : Steady s₀ (s.modCmd n store ord f) :=
  h.modCore fun _ => Core.holds_setQueue ..

theorem Steady.dropHolds (h : Steady s₀ s) {b : KvBy} {l : List (Nat × Nat × Nat)} :
    Steady s₀ (l.foldl (fun (t : State) hold => t.dropHold b part hold) s) := h.foldl fun _ _ ht => ht.dropHold

theorem Steady.dropCmd (h : Steady s₀ s) : Steady s₀ (s.dropCmd n store c) := by
  unfold State.dropCmd
  extract_lets u v
  have hu : Steady s₀ u := h.modCore fun k => by cases store <;> rfl
  exact Steady.modDie hu.dropHolds

theorem Steady.discardCmd (h : Steady s₀ s) : Steady s₀ (s.discardCmd n store c cause) := by
  unfold State.discardCmd
  refine Steady.modJobOf h.poisonArrivals.countFill.dropCmd fun j => ?_
  split <;> rfl

-- Accesses in flight of a job that a core runs.

variable {g : GAcc}

theorem Steady.atomicNow (h : Steady s₀ s) {j : Job} {aop : BitVec 4} {dw : Bool} {b k : Word} {ans : Option (List Byte × Bool)} :
    Steady s₀ (s.atomicNow j g aop dw b k ans).1 := by
  unfold State.atomicNow
  split
  · exact h
  · exact h.orderAtHome

theorem Steady.endAccess (h : Steady s₀ s) (hn : (s₀.job n).st ≠ .none) {r : List Byte × Option Origin} :
    Steady s₀ (s.endAccess n g r) := by
  unfold State.endAccess
  dsimp only
  split
  · exact .ite (h.setJob_of_busy hn) (h.setJob_of_busy hn)
  · exact h.setJob_of_busy hn

theorem Steady.answerNow (h : Steady s₀ s) (hn : (s₀.job n).st ≠ .none) : Steady s₀ (s.answerNow n g) := by
  unfold State.answerNow
  refine .ite h ?_
  split
  · exact h.endAccess hn
  · generalize g.kind = kind
    cases kind with
    | atomic =>
      dsimp only
      exact (Steady.update (Steady.atomicNow (h.foldl fun _ _ ht => ht.orderNow))).endAccess hn
    | nest => exact h
    | spill => exact h.endAccess hn
    | load => exact h.endAccess hn
    | vrow => exact h.endAccess hn

-- A job comes to its end.

/-- What is in flight of a job that a core runs is performed. -/
theorem Steady.drain (h : Steady s₀ s) (hn : (s₀.job n).st ≠ .none) : Steady s₀ (s.drain n) := by
  unfold State.drain
  extract_lets u k j held r j'
  have hu : Steady s₀ u := h.foldl fun _ _ ht => ht.answerNow hn
  have hr : r.1.holds = k.holds := by
    simp only [r]
    split
    · rw [holds_foldl fun _ _ => holds_finishMat .., holds_moveDue]
    · rw [holds_drainCycles]
  clear_value r j'
  exact hu.setCore (((hu.core n).of_holds hr).setJob fun e => absurd e hn)

theorem State.job_flip : (s.flip n).job n = (s.core n).other := by
  unfold State.job
  rw [State.core_flip_same]
  unfold Core.job Core.other
  cases (s.core n).runIx <;> rfl

/-- The same of either context. -/
theorem Steady.drainCtx (h : Steady s₀ s) (hn : ((s₀.core n).ctx run).st ≠ .none) : Steady s₀ (s.drainCtx n run) := by
  cases run with
  | true => exact h.drain hn
  | false =>
    have hf : Steady (s₀.flip n) ((s.flip n).drain n) := h.flip.drain (by rw [State.job_flip]; exact hn)
    exact State.flip_flip (s := s₀) (n := n) ▸ hf.flip

theorem Steady.capture (h : Steady s₀ s) {j : Job} {jst : JState} {cmds : List Cmd} : Steady s₀ (s.capture n j jst cmds).1 := by
  unfold State.capture
  dsimp only
  split
  · exact h
  · exact h.update

theorem Steady.launchEnd (h : Steady s₀ s) {seq cnt : Nat} : Steady s₀ (s.launchEnd seq cnt) := by
  unfold State.launchEnd
  split
  · exact h
  · refine .ite (Steady.update (Steady.foldl h fun t p ht => ?_)) h.update
    split
    · exact ht.modDie
    · exact ht

/-- The commands of a job that have not begun are discarded. -/
theorem Steady.discardUnbegun (h : Steady s₀ s) {l : List Cmd} :
    Steady s₀ (l.foldl (fun (t : State) d => if d.begun then t else t.discardCmd n store d cause) s) :=
  h.foldl fun _ _ ht => .ite ht ht.discardCmd

theorem Steady.freeSlot (h : Steady s₀ s) (o : Option Saving) : Steady s₀ (match o with
    | some sv => s.modDie d fun e => { e with slots := e.slots.set sv.slot .free }
    | none => s) := by
  cases o with
  | some sv => exact h.modDie
  | none => exact h

/-- The context of a job that is fenced is emptied in a state that is steady, and what is written down about it comes after. -/
theorem fenceJob_shape (h : Steady s₀ s) (hj : ((s.core n).ctx run).st ≠ .none) (wd : Option Nat) (trap : Option (Strm × Word)) :
    ∃ (u : State) (j : Job) (e : JEnt) (seq : Nat), Steady s₀ u ∧ j.st = .none ∧ s.fenceJob n run cause wd trap info =
      ((u.modCore n fun c => (c.hide run).setCtx run j).journal e).launchEnd seq 1 := by
  have hj0 : ((s₀.core n).ctx run).st ≠ .none := fun e => hj ((h.core n).ctx e)
  unfold State.fenceJob
  extract_lets k j0 u1 k1 j mine u2 u3 u4 mark u5 u6 u7 jf left
  have hb : ¬(j0.st == .none) = true := fun e => hj (eq_of_beq e)
  rw [if_neg hb]
  have h1 : Steady s₀ u1 := .ite h (h.drainCtx hj0)
  have h4 : Steady s₀ u4 := h1.discardUnbegun.discardUnbegun.uncount
  have h6 : Steady s₀ u6 := h4.modCore.modDie
  have h7 : Steady s₀ u7 := h6.freeSlot j.saving
  have hc : Steady s₀ (u7.capture n { jf with st := .fenced } .fenced left).1 := h7.capture
  clear_value u7 jf
  generalize u7.capture n { jf with st := .fenced } .fenced left = r at hc
  refine ⟨r.1, jf.emptied run, j.fenceEntry n cause r.2 wd trap info, j.seq, hc, by cases run <;> rfl, ?_⟩
  cases run <;> rfl

theorem Steady.hideEmpty (h : Steady s₀ s) {j : Job} (hj : j.st = .none) :
    Steady s₀ (s.modCore n fun c => (c.hide run).setCtx run j) :=
  h.setCore (((h.core n).of_holds (d := (s.core n).hide run) rfl).setCtx fun _ => hj)

theorem Steady.fenceJob (h : Steady s₀ s) {wd : Option Nat} {trap : Option (Strm × Word)} :
    Steady s₀ (s.fenceJob n run cause wd trap info) := by
  by_cases hj : ((s.core n).ctx run).st = .none
  · have hb : (((if run then (s.core n).job else (s.core n).other) : Job).st == .none) = true := beq_iff_eq.mpr hj
    rw [State.fenceJob, if_pos hb]
    exact h
  · obtain ⟨u, j, e, seq, hu, hn, he⟩ := fenceJob_shape (cause := cause) (info := info) h hj wd trap
    exact he ▸ (hu.hideEmpty hn).journal.launchEnd

/-- A context is empty once it has been emptied, whatever is done after that leaves what stands. -/
theorem Steady.ctx_emptied {u : State} {j : Job} (hj : j.st = .none) (h : Steady (u.modCore n fun c => (c.hide run).setCtx run j) t) :
    ((t.core n).ctx run).st = .none :=
  (h.core n).ctx (by rw [State.core_modCore, Core.ctx_setCtx]; exact hj)

theorem fenceJob_empties (wd : Option Nat) (trap : Option (Strm × Word)) :
    (((s.fenceJob n run cause wd trap info).core n).ctx run).st = .none := by
  by_cases hj : ((s.core n).ctx run).st = .none
  · exact ((Steady.refl s).fenceJob.core n).ctx hj
  · obtain ⟨u, j, e, seq, -, hn, he⟩ := fenceJob_shape (cause := cause) (info := info) (Steady.refl s) hj wd trap
    exact he ▸ Steady.ctx_emptied hn (Steady.refl _).journal.launchEnd

-- Saved jobs.

theorem Steady.discardParked (h : Steady s₀ s) {p : Parked} : Steady s₀ (s.discardParked p n c cause) := by
  unfold State.discardParked
  refine Steady.modDie (Steady.dropHolds (Steady.modJobOf h.poisonArrivals.countFill fun j => ?_))
  split <;> rfl

theorem Steady.fenceParked (h : Steady s₀ s) {p : Parked} {core : Option CoreIx} : Steady s₀ (s.fenceParked p n core cause info) := by
  unfold State.fenceParked
  extract_lets u1 j u2 u3 u4 e u5
  have h1 : Steady s₀ u1 := (h.foldl fun _ _ ht => ht.discardParked).uncount
  have h3 : Steady s₀ u3 := h1.update
  have h4 : Steady s₀ u4 := h3.modDie
  exact (Steady.journal h4.update).launchEnd

/-- A job of a context, or the saved one that it was to be restored from, is fenced. -/
theorem fenceCtx_shape (cause : Cause) (info : Word) : (∃ (u : State) (p : Parked) (j : Job), Steady s u ∧ j.st = .none ∧
      s.fenceCtx n run cause info = (u.modCore n fun c => (c.hide run).setCtx run j).fenceParked p n (some n) cause info) ∨
    s.fenceCtx n run cause info = s.fenceJob n run cause none none info := by
  unfold State.fenceCtx
  dsimp only
  split
  · next p hp => exact .inl ⟨_, p, Job.emptied _ run, (Steady.refl s).modDie, by cases run <;> rfl, rfl⟩
  · exact .inr rfl

theorem Steady.fenceCtx (h : Steady s₀ s) : Steady s₀ (s.fenceCtx n run cause info) := by
  rcases fenceCtx_shape (s := s) (n := n) (run := run) cause info with ⟨u, p, j, hu, hj, e⟩ | e
  · exact e ▸ ((h.trans hu).hideEmpty hj).fenceParked
  · exact e ▸ h.fenceJob

theorem fenceCtx_empties : (((s.fenceCtx n run cause info).core n).ctx run).st = .none := by
  rcases fenceCtx_shape (s := s) (n := n) (run := run) cause info with ⟨u, p, j, -, hj, e⟩ | e
  · exact e ▸ Steady.ctx_emptied hj (Steady.refl _).fenceParked
  · exact e ▸ fenceJob_empties none none

end Sys2Proof.Machine
end

section
/-! Fencing of cores, of cores domains and of memory shells (01 R42, R43; 03 R65, R82; 07 R142; 23 R379, R392, R416): which service bits are
cleared, and that no job is left on what leaves. -/

set_option autoImplicit false
set_option Elab.async false

namespace Sys2Proof.Machine

open Claims

variable {s₀ s t : State} {n : CoreIx} {d : DieIx} {info : Word} {gangs : List (Nat × CoreIx)} {gone : CoreIx → Bool} {p : PStore}

/-- What each step of a fold establishes for its own element, and every step keeps for all others, holds of every element at the end. -/
theorem foldl_establishes {α σ : Type} {f : σ → α → σ} {Q : α → σ → Prop} (here : ∀ t a, Q a (f t a)) (keep : ∀ t a b, Q b t → Q b (f t a)) :
    ∀ {l : List α} {t : σ} {a : α}, a ∈ l → Q a (l.foldl f t)
  | a :: l, t, b, h => by
    rcases List.mem_cons.mp h with rfl | h
    · exact List.foldlRecOn l f (here t b) fun u hu c _ => keep u c b hu
    · exact foldl_establishes (l := l) (t := f t a) here keep h

-- Service bits.

section
variable {w : Nat} {v : BitVec w} {i k : Fin w}

theorem getLsbD_setBit {b : Bool} : (setBit v i.val b).getLsbD k.val = if k = i then b else v.getLsbD k.val := by
  have hk := k.isLt
  by_cases h : k = i
  · subst h
    cases b <;> simp [setBit]
  · have hv : k.val ≠ i.val := fun e => h (Fin.ext e)
    cases b <;> simp [setBit, h, hv]

/-- A bit is cleared, and no other. -/
theorem getLsbD_setBit_false : (setBit v i.val false).getLsbD k.val = (v.getLsbD k.val && k != i) := by
  rw [getLsbD_setBit]
  by_cases h : k = i <;> simp [h]

/-- A bit is set, and no other. -/
theorem getLsbD_setBit_true : (setBit v i.val true).getLsbD k.val = (v.getLsbD k.val || k == i) := by
  rw [getLsbD_setBit]
  by_cases h : k = i <;> simp [h]
end

theorem getLsbD_clear {k : CoreIx} : ∀ (l : List CoreIx) (m : BitVec 128),
    (l.foldl (fun (m : BitVec 128) n => if gone n then setBit m n.val false else m) m).getLsbD k.val =
      (m.getLsbD k.val && !(l.contains k && gone k))
  | [], m => by simp
  | n :: l, m => by
    rw [List.foldl_cons, getLsbD_clear l, List.contains_cons]
    by_cases h : k = n
    · subst h
      by_cases hn : gone k = true
      · rw [if_pos hn, getLsbD_setBit_false]
        simp [hn]
      · simp [hn]
    · have hk : (if gone n then setBit m n.val false else m).getLsbD k.val = m.getLsbD k.val := by
        split
        · rw [getLsbD_setBit, if_neg h]
        · rfl
      rw [hk, beq_false_of_ne h, Bool.false_or]

/-- The cores that leave are cleared, and no others. -/
theorem State.getLsbD_clearCores (k : CoreIx) : (s.clearCores gone).coresvc.getLsbD k.val = (s.coresvc.getLsbD k.val && !gone k) := by
  have hk : (List.finRange 128).contains k = true := List.contains_iff_mem.mpr (List.mem_finRange k)
  have h := getLsbD_clear (gone := gone) (k := k) (List.finRange 128) s.coresvc
  rw [hk, Bool.true_and] at h
  exact h

theorem State.defectsig_clearCores : (s.clearCores gone).defectsig = defectSig (s.clearCores gone).coresvc := by
  rw [State.clearCores]

-- What a fencing does after its entry.

theorem Steady.dieFence (h : Steady s₀ s) {core level : Nat} : Steady s₀ (s.dieFence d core level) := h.journal

/-- One context in the fencing of core contexts. -/
def State.fenceContext (s : State) (gangs : List (Nat × CoreIx)) (gone : CoreIx → Bool) (info : Word) (n : CoreIx) (second : Bool) : State :=
  let run := (s.core n).runIx == second
  let j := (s.core n).ctx run
  if j.st == .none then s
  else match fenceInfo gangs (gone n) info j with
  | some w => s.fenceCtx n run cDieFenced w
  | none => s

theorem State.fenceContexts_eq : s.fenceContexts gangs gone info = (List.finRange 128).foldl (fun (t : State) n =>
    [false, true].foldl (fun (t : State) second => t.fenceContext gangs gone info n second) t) s := rfl

theorem Steady.fenceContext (h : Steady s₀ s) {second : Bool} : Steady s₀ (s.fenceContext gangs gone info n second) := by
  refine .ite h ?_
  split
  · exact h.fenceCtx
  · exact h

/-- The first or the second context of a core. -/
def Core.nth (c : Core) (second : Bool) : Job := if second then c.ctx1 else c.ctx0

theorem Core.ctx_runIx_beq (c : Core) (second : Bool) : c.ctx (c.runIx == second) = c.nth second := by
  unfold Core.ctx Core.job Core.other Core.nth
  cases second <;> cases c.runIx <;> rfl

theorem Core.Steady.nth {c₀ c : Core} (h : Core.Steady c₀ c) {second : Bool} (e : (c₀.nth second).st = .none) : (c.nth second).st = .none := by
  cases second with
  | false => exact h.ctx0 e
  | true => exact h.ctx1 e

theorem isSome_fenceInfo (hg : gone n = true) (j : Job) : ∃ w, fenceInfo gangs (gone n) info j = some w := by
  unfold fenceInfo
  split
  · exact ⟨_, rfl⟩
  · exact ⟨info, by rw [hg]; rfl⟩

/-- A context of a core that leaves is emptied. -/
theorem fenceContext_empties (hg : gone n = true) (second : Bool) :
    (((s.fenceContext gangs gone info n second).core n).nth second).st = .none := by
  by_cases hj : (((s.core n).ctx ((s.core n).runIx == second)).st == .none) = true
  · rw [State.fenceContext, if_pos hj, ← Core.ctx_runIx_beq]
    exact eq_of_beq hj
  · obtain ⟨w, hw⟩ := isSome_fenceInfo (gangs := gangs) (info := info) hg ((s.core n).ctx ((s.core n).runIx == second))
    have e : s.fenceContext gangs gone info n second = s.fenceCtx n ((s.core n).runIx == second) cDieFenced w := by
      rw [State.fenceContext, if_neg hj, hw]
    rw [e, ← Core.ctx_runIx_beq, ((Steady.refl s).fenceCtx.core n).runIx]
    exact fenceCtx_empties

theorem Steady.fenceContexts (h : Steady s₀ s) : Steady s₀ (s.fenceContexts gangs gone info) :=
  h.foldl fun _ _ ht => ht.foldl fun _ _ hu => hu.fenceContext

/-- A state that is steady leaves empty cores empty. -/
theorem Steady.empty (h : Steady s₀ s) (e : Empty s₀ n) : Empty s n := ⟨(h.core n).ctx0 e.1, (h.core n).ctx1 e.2⟩

theorem fenceContexts_empties (hg : gone n = true) : Empty (s.fenceContexts gangs gone info) n := by
  have h : ∀ (m : CoreIx), m ∈ List.finRange 128 → gone m = true → Empty (s.fenceContexts gangs gone info) m := fun m hm => by
    rw [State.fenceContexts_eq]
    refine foldl_establishes (Q := fun m (t : State) => gone m = true → Empty t m) (fun t a ha => ?_)
      (fun t a b hb hg => Steady.empty ?_ (hb hg)) hm
    · exact ⟨((Steady.refl _).fenceContext.core a).ctx0 (fenceContext_empties ha false), fenceContext_empties ha true⟩
    · exact (Steady.refl t).fenceContext.fenceContext
  exact h n (List.mem_finRange n) hg

theorem Steady.fenceSaved (h : Steady s₀ s) {die : Option DieIx} : Steady s₀ (s.fenceSaved gangs die info) := by
  refine h.foldl fun t p ht => ?_
  split
  · exact ht.fenceParked
  · exact ht

theorem Steady.dropLaunch (h : Steady s₀ s) {l : Launch} {die cnt : Nat} : Steady s₀ (s.dropLaunch l die cnt) :=
  .ite h h.journal.launchEnd

theorem Steady.dropLeft (h : Steady s₀ s) {die : Option DieIx} : Steady s₀ (s.dropLeft gangs die) := by
  refine h.foldl fun t l ht => .ite (Steady.dropLaunch ht.update) ?_
  cases die with
  | none => exact ht
  | some d => exact Steady.dropLaunch ht.update

theorem Core.holds_setSpadPo (c : Core) (l : List (Nat × PoU)) : ({ c with spadPo := l } : Core).holds = c.holds := rfl

theorem Steady.winFence (h : Steady s₀ s) : Steady s₀ (s.winFence n) := by
  unfold State.winFence
  extract_lets held u v
  have hu : Steady s₀ u := h.foldl fun _ _ ht => .ite (ht.modCore fun c => c.holds_setSpadPo _) ht
  have hv : Steady s₀ v := hu.modCore
  exact hv.mapCores fun _ _ hc => hc.of_holds rfl

theorem fenceAll_shape (die : Option DieIx) : ∃ gangs, Steady (s.fenceContexts gangs gone info) (s.fenceAll gone die info) :=
  ⟨_, (Steady.refl _).fenceSaved.dropLeft.foldl fun _ _ ht => ht.winFence⟩

theorem Steady.fenceAll (h : Steady s₀ s) {die : Option DieIx} : Steady s₀ (s.fenceAll gone die info) := by
  obtain ⟨gangs, hs⟩ := fenceAll_shape (s := s) (gone := gone) (info := info) die
  exact h.fenceContexts.trans hs

theorem fenceAll_empties (hg : gone n = true) (die : Option DieIx) : Empty (s.fenceAll gone die info) n := by
  obtain ⟨gangs, hs⟩ := fenceAll_shape (s := s) (gone := gone) (info := info) die
  exact hs.empty (fenceContexts_empties hg)

-- Cores and cores domains.

/-- The service bits without that of a core. -/
def State.clearCore (s : State) (n : CoreIx) : State := s.clearCores fun m => m == n

/-- Its entry and the end of its jobs follow the leaving of a core. -/
theorem fenceCore_spec (hb : s.boot = .ready) (hs : s.coresvc.getLsbD n.val = true) :
    ∃ t, s.fenceCore n = some t ∧ Empty t n ∧ Steady (s.clearCore n) t := by
  have hc : ¬(s.boot != .ready || !s.coresvc.getLsbD n.val) = true := by simp [hb, hs]
  have e : s.fenceCore n = some (((s.clearCore n).dieFence (dieOf n) (n.val % 16) 0).fenceAll (fun m => m == n) none (BitVec.ofNat 64 n.val)) := by
    rw [State.fenceCore, if_neg hc]
    rfl
  exact ⟨_, e, fenceAll_empties (gone := fun m => m == n) (beq_self_eq_true n) none, (Steady.refl (s.clearCore n)).dieFence.fenceAll⟩

/-- The service bits without those of a die's cores domain. -/
def State.clearDomain (s : State) (d : DieIx) : State :=
  { s with diesvc := setBit s.diesvc d.val false }.clearCores fun n => dieOf n == d

theorem State.fenceCores_eq (s : State) (d : DieIx) (level : Nat) : s.fenceCores d level =
    ((s.clearDomain d).dieFence d 0xFF level).fenceAll (fun n => dieOf n == d) (some d) (BitVec.ofNat 64 (d.val + 0x100)) := rfl

theorem fenceCores_spec (s : State) (d : DieIx) (level : Nat) :
    Steady (s.clearDomain d) (s.fenceCores d level) ∧ ∀ n, dieOf n = d → Empty (s.fenceCores d level) n := by
  rw [State.fenceCores_eq]
  exact ⟨(Steady.refl (s.clearDomain d)).dieFence.fenceAll, fun n hn => fenceAll_empties (gone := fun n => dieOf n == d) (beq_iff_eq.mpr hn) _⟩

theorem fenceDomain_spec (hb : s.boot = .ready) (hs : s.diesvc.getLsbD d.val = true) : s.fenceDomain d = some (s.fenceCores d 1) := by
  have hc : ¬(s.boot != .ready || !s.diesvc.getLsbD d.val) = true := by simp [hb, hs]
  rw [State.fenceDomain, if_neg hc]

theorem fenceDomain_of_out (hs : s.diesvc.getLsbD d.val = false) : s.fenceDomain d = none := by
  have hc : (s.boot != .ready || !s.diesvc.getLsbD d.val) = true := by rw [hs]; exact Bool.or_true _
  rw [State.fenceDomain, if_pos hc]

end Sys2Proof.Machine
end

section
/-! What the host configures: partition entries, the fabric, power modes (25 R405, R406, R409 to R411; 01 R40). -/

set_option autoImplicit false
set_option Elab.async false

namespace Sys2Proof.Machine

variable {s : State} {k : Fin 8} {v : Word} {p : Partition}

-- Fields of a register's value.

theorem getLsbD_63_iff : v.getLsbD 63 = true ↔ v.toNat / 2 ^ 63 = 1 := by
  rw [BitVec.getLsbD, Nat.testBit_eq_decide_div_mod_eq, decide_eq_true_eq]
  omega

theorem setWidth_ushiftRight (n i : Nat) : (v >>> i).setWidth n = BitVec.ofNat n (v.toNat / 2 ^ i) := by
  apply BitVec.eq_of_toNat_eq
  simp [BitVec.toNat_setWidth, Nat.shiftRight_eq_div_pow]

theorem setWidth_eq_ofNat (n : Nat) : v.setWidth n = BitVec.ofNat n v.toNat := by
  apply BitVec.eq_of_toNat_eq
  simp

theorem and_three_eq_three : (v &&& 3 == 3) = decide (v.toNat % 4 = 3) := by
  have h : (v &&& 3).toNat = v.toNat % 4 := by
    rw [BitVec.toNat_and]
    exact Nat.and_two_pow_sub_one_eq_mod v.toNat 2
  rw [Bool.eq_iff_iff, beq_iff_eq, decide_eq_true_eq, ← BitVec.toNat_inj, h]
  rfl

-- Partition entries (R405, R406).

/-- The entry that a write to PARTCFGk gives one that is not valid. -/
def Partition.written (p : Partition) (v : Word) : Partition :=
  ⟨v.getLsbD 63, v.getLsbD 62, BitVec.ofNat 8 (v.toNat / 2 ^ 48), BitVec.ofNat 8 (v.toNat / 2 ^ 32), BitVec.ofNat 16 v.toNat, p.root, false,
    [], false⟩

theorem Partition.written_eq : p.written v = { p with
    valid := v.getLsbD 63, priv := v.getLsbD 62, owner := (v >>> 48).setWidth 8, dies := (v >>> 32).setWidth 8
    id := v.setWidth 16, clearing := false, faults := [], gone := false } := by
  rw [Partition.written, setWidth_ushiftRight, setWidth_ushiftRight, setWidth_eq_ofNat]

/-- A valid partition beside entry k shares a die, the ID or the owner with p. -/
def State.Clash (s : State) (k : Fin 8) (p : Partition) : Prop :=
  ∃ i : Fin 8, i ≠ k ∧ (s.parts[i]).valid = true ∧ ((s.parts[i]).dies &&& p.dies ≠ 0 ∨ (s.parts[i]).id = p.id ∨
    (p.owner ≠ 0xFF ∧ (s.parts[i]).owner = p.owner))

theorem State.partOk_iff : s.partOk k p = true ↔ p.dies ≠ 0 ∧ p.root ≠ 0 ∧ ¬s.Clash k p := by
  have hq (i : Fin 8) : (!(s.parts[i]).valid || ((s.parts[i]).dies &&& p.dies == 0 && (s.parts[i]).id != p.id &&
      (p.owner == 0xFF || (s.parts[i]).owner != p.owner))) = true ↔ ¬((s.parts[i]).valid = true ∧ ((s.parts[i]).dies &&& p.dies ≠ 0 ∨
        (s.parts[i]).id = p.id ∨ (p.owner ≠ 0xFF ∧ (s.parts[i]).owner = p.owner))) := by
    simp only [Bool.or_eq_true, Bool.not_eq_true', Bool.and_eq_true, beq_iff_eq, bne_iff_ne]
    grind
  simp only [State.partOk, State.Clash, Bool.and_eq_true, bne_iff_ne, List.all_map, List.all_eq_true, List.mem_filter, List.mem_finRange,
    true_and, Function.comp_apply, hq, not_exists, and_assoc]
  grind

theorem State.partWrite_of_valid (hb : s.boot = .ready) (hp : (s.parts[k]).valid = true) :
    s.partWrite k v = if v.getLsbD 63 then none else some { s with parts := s.parts.set k { s.parts[k] with clearing := true } } := by
  rw [State.partWrite, if_neg (by simp [hb]), if_pos hp]

theorem State.partWrite_of_free (hb : s.boot = .ready) (hp : (s.parts[k]).valid = false) :
    s.partWrite k v = if (((s.parts[k]).written v).valid && !s.partOk k ((s.parts[k]).written v)) = true then none
      else some { s with parts := s.parts.set k ((s.parts[k]).written v) } := by
  rw [State.partWrite, if_neg (by simp [hb]), if_neg (by rw [hp]; exact Bool.false_ne_true), Partition.written_eq]

/-- A write to an entry that is valid: one that clears VALID alone is taken. -/
theorem exec_partitionEntryWrite_of_valid (hb : s.boot = .ready) (hp : (s.parts[k]).valid = true) :
    (v.toNat / 2 ^ 63 = 1 → exec (.partitionEntryWrite k v) s = .next s) ∧
    (v.toNat / 2 ^ 63 = 0 →
      exec (.partitionEntryWrite k v) s = .next { s with parts := s.parts.set k { s.parts[k] with clearing := true } }) := by
  have e : exec (.partitionEntryWrite k v) s = happen s (s.partWrite k v) := rfl
  rw [e, State.partWrite_of_valid hb hp]
  refine ⟨fun h => ?_, fun h => ?_⟩
  · rw [if_pos (getLsbD_63_iff.mpr h)]
    rfl
  · rw [if_neg (by rw [getLsbD_63_iff]; omega)]
    rfl

/-- A write to an entry that is free: one that sets VALID is taken where R406 admits the partition. -/
theorem exec_partitionEntryWrite_of_free (hb : s.boot = .ready) (hp : (s.parts[k]).valid = false) :
    let q := (s.parts[k]).written v
    (q.valid = true ∧ (q.dies = 0 ∨ q.root = 0 ∨ s.Clash k q) → exec (.partitionEntryWrite k v) s = .next s) ∧
    (q.valid = false ∨ q.dies ≠ 0 ∧ q.root ≠ 0 ∧ ¬s.Clash k q →
      exec (.partitionEntryWrite k v) s = .next { s with parts := s.parts.set k q }) := by
  intro q
  have e : exec (.partitionEntryWrite k v) s = happen s (s.partWrite k v) := rfl
  have hc : (q.valid && !s.partOk k q) = true ↔ q.valid = true ∧ ¬(q.dies ≠ 0 ∧ q.root ≠ 0 ∧ ¬s.Clash k q) := by
    rw [Bool.and_eq_true, Bool.not_eq_true', ← Bool.not_eq_true, State.partOk_iff]
  rw [e, State.partWrite_of_free hb hp]
  refine ⟨fun ⟨hv, h⟩ => ?_, fun h => ?_⟩
  · rw [if_pos (hc.mpr ⟨hv, by tauto⟩)]
    rfl
  · rw [if_neg (by rw [hc]; rintro ⟨hv, hn⟩; exact h.elim (by simp [hv]) hn)]
    rfl

theorem exec_partitionClearDone_of_left (hv : (s.parts[k]).valid = true) (hc : (s.parts[k]).clearing = true)
    (hf : (s.parts[k]).faults = []) (hl : ∀ l ∈ s.launches, l.nest.part ≠ (s.parts[k]).id) : exec (.partitionClearDone k) s =
      .next { s with parts := s.parts.set k { s.parts[k] with valid := false, clearing := false, gone := false } } := by
  have e : exec (.partitionClearDone k) s = execPartitionClearDone k s := rfl
  rw [e, execPartitionClearDone]
  dsimp only
  rw [hv, hc, hf, if_pos (by simpa using hl)]
  rfl

theorem exec_partitionClearDone_of_launch (hl : ∃ l ∈ s.launches, l.nest.part = (s.parts[k]).id) :
    exec (.partitionClearDone k) s = .next s := by
  have e : exec (.partitionClearDone k) s = execPartitionClearDone k s := rfl
  rw [e, execPartitionClearDone, if_neg (by simpa using fun _ _ _ => hl)]
  rfl

-- The fabric (R409).

theorem exec_fabricConfigWrite (hb : s.boot = .ready) :
    (s.fabDone = false → exec (.fabricConfigWrite v) s = .next { s with
      porten := BitVec.ofNat 18 (v.toNat / 2 ^ 32), fabPkg := BitVec.ofNat 11 v.toNat, fabDone := true }) ∧
    (s.fabDone = true → exec (.fabricConfigWrite v) s = .next s) := by
  have e : exec (.fabricConfigWrite v) s = execFabricConfigWrite v s := rfl
  rw [e, execFabricConfigWrite, setWidth_ushiftRight, setWidth_eq_ofNat]
  refine ⟨fun h => ?_, fun h => ?_⟩
  · rw [if_pos (by simp [hb, h])]
    rfl
  · rw [if_neg (by simp [h])]
    rfl

-- Power modes (R410, R411).

theorem State.fixMode_of_fixed (h : s.preq = s.pmode ∨ s.pend.isSome = true) : s.fixMode = s := by
  rw [State.fixMode, if_pos (by simpa using h)]

/-- The gcc at which a change of mode that is fixed now takes effect. -/
def State.modeGcc (s : State) : Nat := s.gcc + 1 + Config.freeNat s.free % (50 * cyclesPerUs s.pmode)

theorem cyclesPerUs_eq (m : BitVec 2) : cyclesPerUs m = if m = 0 then 2700 else if m = 1 then 2400 else 1800 := by
  simp [cyclesPerUs]

theorem State.modeGcc_bounds (s : State) :
    s.gcc < s.modeGcc ∧ s.modeGcc ≤ s.gcc + 50 * (if s.pmode = 0 then 2700 else if s.pmode = 1 then 2400 else 1800) := by
  rw [← cyclesPerUs_eq]
  have hc : 0 < 50 * cyclesPerUs s.pmode := by
    rw [cyclesPerUs_eq]
    split_ifs <;> omega
  have h := Nat.mod_lt (Config.freeNat s.free) hc
  unfold State.modeGcc
  omega

/-- A change that is asked for and not fixed yet is fixed, and its entry leaves it so. -/
theorem Steady.fixMode (hr : s.preq ≠ s.pmode) (hp : s.pend = none) :
    Steady { s with pend := some (s.modeGcc, s.preq) } s.fixMode := by
  rw [State.fixMode, if_neg (by simp [hr, hp])]
  exact Steady.journal ((Steady.refl _).update)

theorem exec_pwrctlWrite (hb : s.boot = .ready) (h3 : v.toNat % 4 ≠ 3) :
    exec (.pwrctlWrite v) s = .next { s with preq := BitVec.ofNat 2 v.toNat }.fixMode := by
  have e : exec (.pwrctlWrite v) s = execPwrctlWrite v s := rfl
  rw [e, execPwrctlWrite, and_three_eq_three, setWidth_eq_ofNat, if_neg (by simp [hb, h3])]
  rfl

theorem exec_pwrctlWrite_reserved (h3 : v.toNat % 4 = 3) : exec (.pwrctlWrite v) s = .next s := by
  have e : exec (.pwrctlWrite v) s = execPwrctlWrite v s := rfl
  rw [e, execPwrctlWrite, and_three_eq_three, if_pos (by simp [h3])]
  rfl

variable {g : Nat} {m : BitVec 2}

theorem exec_modeChange_early (hp : s.pend = some (g, m)) (hg : s.gcc < g) : exec .modeChange s = .next s := by
  have e : exec .modeChange s = happen s s.modeNow := rfl
  rw [e, State.modeNow, hp]
  dsimp only
  rw [if_neg (by omega)]
  rfl

theorem exec_modeChange_due (hp : s.pend = some (g, m)) (hg : g ≤ s.gcc) (hm : s.preq = m) :
    exec .modeChange s = .next { s with pmode := m, pend := none } := by
  have e : exec .modeChange s = happen s s.modeNow := rfl
  rw [e, State.modeNow, hp]
  dsimp only
  rw [if_pos hg, State.fixMode_of_fixed (.inl hm)]
  rfl

/-- Settles O51: each event is the update that its rule names; a change of mode is fixed within 50 µs, and its entry in the journal leaves
what is fixed. -/
theorem configurationEvents : Obligations.ConfigurationEvents := by
  refine ⟨fun s k v hb => ⟨fun hp => (exec_partitionEntryWrite_of_valid hb hp).1, fun hp => (exec_partitionEntryWrite_of_valid hb hp).2,
      fun hp => exec_partitionEntryWrite_of_free hb hp⟩, fun s k hv hc => ⟨exec_partitionClearDone_of_left hv hc,
      exec_partitionClearDone_of_launch⟩, fun s v hb => exec_fabricConfigWrite hb,
      fun s v hb => ⟨exec_pwrctlWrite_reserved, fun h3 h => ?_, fun h3 hp hm => ?_⟩,
      fun s g m hp => ⟨exec_modeChange_early hp, exec_modeChange_due hp⟩⟩
  · rw [exec_pwrctlWrite hb h3, State.fixMode_of_fixed h.symm]
  · have ht := Steady.fixMode (s := { s with preq := BitVec.ofNat 2 v.toNat }) hm hp
    exact ⟨_, exec_pwrctlWrite hb h3, ht.preq_eq, ht.pmode_eq, _, ht.pend_eq, State.modeGcc_bounds { s with preq := BitVec.ofNat 2 v.toNat }⟩

end Sys2Proof.Machine
end

section
/-! Fencing of memory shells: the stores of the die's cores go with its shell, and the die leaves the directory (07 R142; 23 R392, R416). -/

set_option autoImplicit false
set_option Elab.async false

namespace Sys2Proof.Machine

open Claims

variable {s₀ s t : State} {n : CoreIx} {d : DieIx}

-- Stores in the buffers of a die.

/-- The stores of a core are lost. -/
def State.loseStores (s : State) (n : CoreIx) : State :=
  let lost := (s.core n).psb.map PStore.ord
  { s.modCore n fun c => { c with psb := [] } with
    invals := s.invals.filter fun i => !lost.contains i.ord
    rdWrites := s.rdWrites.filter fun w => !lost.contains w.ord }

/-- The stores of a die that their homes have received are ordered. -/
def State.orderReceived (s : State) (d : DieIx) : State :=
  (s.inArrival (s.allStores.filter fun e => dieOf e.1 == d && e.2.atHome)).foldl (fun (t : State) e => t.orderNow e.1 e.2) s

theorem State.settleStores_eq : s.settleStores d = (coresOf d).foldl State.loseStores (s.orderReceived d) := rfl

theorem Steady.loseStores (h : Steady s₀ s) : Steady s₀ (s.loseStores n) :=
  Steady.update (h.setCore ((h.core n).setPsb (l := []) fun _ => rfl))

theorem State.psb_loseStores : ((s.loseStores n).core n).psb = [] :=
  congrArg Core.psb (State.core_modCore s n fun c => { c with psb := [] })

theorem Steady.settleStores (h : Steady s₀ s) : Steady s₀ (s.settleStores d) := by
  rw [State.settleStores_eq]
  exact Steady.foldl (h.foldl fun _ _ ht => ht.orderNow) fun _ _ ht => ht.loseStores

theorem mem_coresOf : n ∈ coresOf (dieOf n) := by
  have hn := n.isLt
  refine List.mem_map.mpr ⟨⟨n.val % 16, by omega⟩, List.mem_finRange _, Fin.ext ?_⟩
  simp only [dieOf]
  omega

/-- No core of the die has a store left. -/
theorem State.psb_settleStores (hn : dieOf n = d) : ((s.settleStores d).core n).psb = [] := by
  subst hn
  rw [State.settleStores_eq]
  exact foldl_establishes (Q := fun m (t : State) => (t.core m).psb = []) (fun _ _ => State.psb_loseStores)
    (fun t a b hb => ((Steady.refl t).loseStores.core b).psb hb) mem_coresOf

theorem Steady.discardStores (h : Steady s₀ s) : Steady s₀ s.discardStores := h.foldl fun _ _ ht => ht.orderStore

-- The directory.

/-- No sharer set, no invalidation and no fill names the die. -/
structure Unnamed (d : DieIx) (t : State) : Prop where
  dir : ∀ e ∈ t.dir, e.2.getLsbD d.val = false
  regions : ∀ e ∈ t.regions, e.2.getLsbD d.val = false
  invals : ∀ i ∈ t.invals, i.die ≠ d
  fills : ∀ f ∈ t.fills, f.die ≠ d

theorem mem_alSet {β : Type} {l : List (Nat × β)} {k : Nat} {v : β} {e : Nat × β} (h : e ∈ alSet l k v) : e = (k, v) ∨ e ∈ l :=
  (List.mem_cons.mp h).imp_right List.mem_of_mem_filter

theorem mem_of_alGet {β : Type} {l : List (Nat × β)} {k : Nat} {v : β} (h : alGet l k = some v) : ∃ e ∈ l, e.2 = v := by
  obtain ⟨e, he, hv⟩ := Option.map_eq_some_iff.mp h
  exact ⟨e, List.mem_of_find?_eq_some he, hv⟩

/-- A table of sharer sets that do not name a die still does not when another die is added to one. -/
theorem unnamed_alSet {l : List (Nat × BitVec 8)} {k : Nat} {m : BitVec 8} {i : DieIx} (h : ∀ e ∈ l, e.2.getLsbD d.val = false)
    (hm : m.getLsbD d.val = false) (hi : i ≠ d) : ∀ e ∈ alSet l k (setBit m i.val true), e.2.getLsbD d.val = false := by
  intro e he
  rcases mem_alSet he with rfl | he
  · rw [getLsbD_setBit_true, hm, beq_false_of_ne hi.symm]
    rfl
  · exact h e he

theorem getLsbD_alGet {l : List (Nat × BitVec 8)} (h : ∀ e ∈ l, e.2.getLsbD d.val = false) (k : Nat) :
    ((alGet l k).getD 0).getLsbD d.val = false := by
  cases hg : alGet l k with
  | none => exact BitVec.getLsbD_zero
  | some m =>
    obtain ⟨e, he, rfl⟩ := mem_of_alGet hg
    exact h e he

theorem Unnamed.addSharer (h : Unnamed d s) {i : DieIx} (hi : i ≠ d) {line : Nat} : Unnamed d (s.addSharer i line) := by
  have hg := getLsbD_alGet h.dir line
  unfold State.addSharer
  split
  · next m hm =>
    rw [hm] at hg
    exact ⟨unnamed_alSet h.dir hg hi, h.regions, h.invals, h.fills⟩
  · split
    · exact ⟨h.dir, unnamed_alSet h.regions (getLsbD_alGet h.regions _) hi, h.invals, h.fills⟩
    · exact ⟨unnamed_alSet h.dir BitVec.getLsbD_zero hi, h.regions, h.invals, h.fills⟩

theorem Unnamed.sendFill (h : Unnamed d s) {f : Fill} (hf : f.die ≠ d) : Unnamed d (s.sendFill f) := by
  unfold State.sendFill
  extract_lets f' u
  refine Unnamed.addSharer (s := u) ⟨h.dir, h.regions, h.invals, fun g hg => ?_⟩ hf
  rcases List.mem_append.mp hg with hg | hg
  · exact h.fills g (List.mem_of_mem_filter hg)
  · rw [List.mem_singleton.mp hg]
    exact hf

theorem Unnamed.releaseFills (h : Unnamed d s) : Unnamed d s.releaseFills := by
  refine List.foldlRecOn (motive := Unnamed d) _ _ h fun t ht f hf => ?_
  split
  · exact ht
  · exact ht.sendFill (h.fills f hf)

theorem Unnamed.roundOver (h : Unnamed d s) {ord : Nat} : Unnamed d (s.roundOver ord) := by
  unfold State.roundOver
  split
  · split
    · exact h
    · exact ⟨h.dir, h.regions, h.invals, h.fills⟩
  · exact h

theorem State.dies_addSharer {line : Nat} : (s.addSharer d line).dies = s.dies := by
  unfold State.addSharer
  split
  · rfl
  · split <;> rfl

theorem State.dies_releaseFills : s.releaseFills.dies = s.dies := by
  refine List.foldlRecOn (motive := fun (t : State) => t.dies = s.dies) _ _ rfl fun t ht f _ => ?_
  split
  · exact ht
  · exact State.dies_addSharer.trans ht

/-- The die is taken out of the directory and of what is on its way to it. -/
def State.unname (s : State) (d : DieIx) : State := { s with
  dir := s.dir.map fun (e : Nat × BitVec 8) => (e.1, setBit e.2 d.val false)
  regions := s.regions.map fun (e : Nat × BitVec 8) => (e.1, setBit e.2 d.val false)
  invals := s.invals.filter fun i => i.die != d
  rdWrites := s.rdWrites.map fun (w : RdWrite) => { w with dies := setBit w.dies d.val false }
  fills := s.fills.filter fun f => f.die != d && (f.sent || !s.homeDead (f.line * 256))
  cores := s.cores.map fun (c : Core) =>
    { c with psb := c.psb.map fun (p : PStore) => { p with wait := setBit p.wait d.val false } } }

/-- The rounds that waited for the die alone are over. -/
def State.endRounds (s : State) : State := s.holdRounds.foldl (fun (t : State) r => t.roundOver r.1) s

theorem State.forgetDie_eq : s.forgetDie d =
    ((s.unname d).endRounds.modDie d fun e => { e with lines := [], ackSeq := [] }).releaseFills := rfl

theorem unnamed_unname : Unnamed d (s.unname d) where
  dir e he := by
    obtain ⟨e', -, rfl⟩ := List.mem_map.mp he
    rw [getLsbD_setBit, if_pos rfl]
  regions e he := by
    obtain ⟨e', -, rfl⟩ := List.mem_map.mp he
    rw [getLsbD_setBit, if_pos rfl]
  invals i hi := by simpa using (List.mem_filter.mp hi).2
  fills f hf := by
    have h := (List.mem_filter.mp hf).2
    rw [Bool.and_eq_true, bne_iff_ne] at h
    exact h.1

theorem unnamed_forgetDie : Unnamed d (s.forgetDie d) := by
  have h : Unnamed d (s.unname d).endRounds :=
    List.foldlRecOn (motive := Unnamed d) _ _ unnamed_unname fun _ ht _ _ => ht.roundOver
  rw [State.forgetDie_eq]
  exact Unnamed.releaseFills ⟨h.dir, h.regions, h.invals, h.fills⟩

theorem State.lines_forgetDie : ((s.forgetDie d).die d).lines = [] := by
  rw [State.forgetDie_eq, State.die, State.dies_releaseFills]
  exact congrArg Die.lines (State.die_modDie ..)

theorem Steady.forgetDie (h : Steady s₀ s) : Steady s₀ (s.forgetDie d) := by
  have hu : Steady s₀ (s.unname d) := Steady.update h.mapStores
  have hr : Steady s₀ (s.unname d).endRounds := hu.foldl fun _ _ ht => ht.roundOver
  rw [State.forgetDie_eq]
  exact hr.modDie.releaseFills

-- Memory shells.

def State.shellOut (s : State) (d : DieIx) : State := { s with shellsvc := setBit s.shellsvc d.val false }

/-- The service bits without those of a die's shell and of its cores domain. -/
def State.clearShell (s : State) (d : DieIx) : State := (s.shellOut d).clearDomain d

theorem State.core_clearShell : (s.clearShell d).core n = s.core n := rfl

/-- A shell out of service is not fenced again. -/
theorem fenceShell_of_out (hs : s.shellsvc.getLsbD d.val = false) : s.fenceShell d = none := by
  rw [State.fenceShell, hs]
  rfl

/-- The stores of the die are settled, its cores domain is fenced, and the die is forgotten. -/
theorem fenceShell_of_in (hs : s.shellsvc.getLsbD d.val = true) : s.fenceShell d =
    some ((((s.settleStores d).shellOut d).fenceCores d 2).discardStores.forgetDie d) := by
  rw [State.fenceShell, hs]
  rfl

/-- Clearing the same bits leaves what stands alike alike. -/
theorem Steady.clearShell (h : Steady s₀ s) : Steady (s₀.clearShell d) (s.clearShell d) := by
  refine ⟨?_, h.core⟩
  unfold State.clearShell State.shellOut State.clearDomain State.clearCores State.standing
  dsimp only
  rw [h.gcc_eq, h.boot_eq, h.pmode_eq, h.preq_eq, h.pend_eq, h.diesvc_eq, h.shellsvc_eq, h.coresvc_eq, h.pkgnum_eq, h.portup_eq, h.ringup_eq]

/-- The shell leaves service with its cores domain; no job, no store and no line of the die is left, and nothing names it. -/
theorem fenceShell_spec (hs : s.shellsvc.getLsbD d.val = true) : ∃ t, s.fenceShell d = some t ∧ Steady (s.clearShell d) t ∧ Unnamed d t ∧
    (t.die d).lines = [] ∧ ∀ n, dieOf n = d → Empty t n ∧ (t.core n).psb = [] := by
  obtain ⟨hc, he⟩ := fenceCores_spec ((s.settleStores d).shellOut d) d 2
  have hf := (Steady.refl (((s.settleStores d).shellOut d).fenceCores d 2)).discardStores.forgetDie (d := d)
  have h : Steady ((s.settleStores d).clearShell d) _ := hc.trans hf
  refine ⟨_, fenceShell_of_in hs, ((Steady.refl s).settleStores.clearShell).trans h, unnamed_forgetDie, State.lines_forgetDie,
    fun n hn => ⟨hf.empty (he n hn), (h.core n).psb ?_⟩⟩
  rw [State.core_clearShell]
  exact State.psb_settleStores hn

end Sys2Proof.Machine
end

section
/-! A readmitted shell comes back empty and poisoned over zeros, and its entry in the journal leaves it so (01 R34, R36; 23 R381, R386). -/

set_option autoImplicit false
set_option Elab.async false

namespace Sys2Proof

theorem Memory.get_of_absent {a : Nat} : ∀ {m : Memory}, (∀ c ∈ m, c.1 ≠ a) → m.get a = 0
  | [], _ => rfl
  | (b, v) :: m, h => by
    obtain ⟨hb, hm⟩ := List.forall_mem_cons.mp h
    have ih := Memory.get_of_absent hm
    unfold Memory.get
    rw [if_neg hb.symm, ih, ite_self]

/-- A write of a byte adds no cell but its own. -/
theorem Memory.mem_put {x : Nat} {v : Byte} {c : Nat × Byte} : ∀ {m : Memory}, c ∈ m.put x v → c.1 = x ∨ c ∈ m
  | [], h => by
    unfold Memory.put at h
    split at h
    · exact .inr h
    · exact .inl (congrArg Prod.fst (List.mem_singleton.mp h))
  | (b, w) :: m, h => by
    unfold Memory.put at h
    split at h
    · split at h
      · exact .inr h
      · exact (List.mem_cons.mp h).imp_left (congrArg Prod.fst)
    · split at h
      · next hx =>
        split at h
        · exact .inr (List.mem_cons_of_mem _ h)
        · exact (List.mem_cons.mp h).imp (fun e => (congrArg Prod.fst e).trans hx.symm) (List.mem_cons_of_mem _)
      · rcases List.mem_cons.mp h with rfl | h
        · exact .inr List.mem_cons_self
        · exact (Memory.mem_put h).imp_right (List.mem_cons_of_mem _)

namespace Machine

/-- Bonded DRAM of a die (R28). -/
def InDie (d : DieIx) (a : Nat) : Prop := d.val * 0xC00000000 ≤ a ∧ a < (d.val + 1) * 0xC00000000

theorem InDie.lt {d : DieIx} {a : Nat} (h : InDie d a) : a < 0x6000000000 := by
  obtain ⟨-, h⟩ := h
  have hd := d.isLt
  omega

/-- The address of the unit of a byte. -/
theorem InDie.unit {d : DieIx} {a : Nat} (h : InDie d a) : InDie d (a / 32 * 32) := by
  obtain ⟨h1, h2⟩ := h
  constructor <;> omega

/-- No byte and no unit of the die's DRAM is recorded, no line is in its cache, and duplicates and the journal lie in LPDDR or beyond. -/
structure Blank (d : DieIx) (inc : BitVec 32) (st : Standing) (t : State) : Prop where
  standing : t.standing = st
  mem : ∀ c ∈ t.mem, ¬InDie d c.1
  memPo : ∀ e ∈ t.memPo, ¬InDie d (e.1 * 32)
  dups : ∀ e ∈ t.dups, 0x10000000000 ≤ e.frame
  jrnlBase : 0x10000000000 ≤ t.jrnlBase.toNat * 4096
  lines : (t.die d).lines = []
  incarn : (t.die d).incarn = inc

variable {d e : DieIx} {inc : BitVec 32} {st : Standing} {s t : State} {n : CoreIx} {bs : List (Nat × Byte × Option PoU)} {mask : BitVec 8}

-- What it means for reads.

theorem Blank.dupAt (h : Blank d inc st t) {a : Nat} (ha : InDie d a) : t.dupAt a = none := by
  refine List.find?_eq_none.mpr fun u hu => ?_
  have h1 := h.dups u hu
  have h2 := ha.lt
  rw [Bool.and_eq_true, decide_eq_true_eq]
  omega

theorem Blank.homeByte (h : Blank d inc st t) {a : Nat} (ha : InDie d a) : t.homeByte a = 0 := by
  rw [State.homeByte, h.dupAt ha]
  exact Memory.get_of_absent fun c hc e => h.mem c hc (e ▸ ha)

theorem Blank.unitPo (h : Blank d inc st t) {a : Nat} (ha : InDie d a) : t.unitPo (a / 32) = some (.raw cEcc) := by
  have hg : alGet t.memPo (a / 32) = none := by
    rw [alGet, Option.map_eq_none_iff, List.find?_eq_none]
    intro e he hk
    exact h.memPo e he (eq_of_beq hk ▸ ha.unit)
  rw [State.unitPo, hg]
  dsimp only
  rw [h.dupAt ha.unit, Option.isSome_none, if_neg Bool.false_ne_true, if_pos ha.unit.lt]

-- Updates that keep it.

theorem Blank.update (h : Blank d inc st s) (hs : t.standing = s.standing := by rfl) (hm : t.mem = s.mem := by rfl)
    (hp : t.memPo = s.memPo := by rfl) (hd : t.dups = s.dups := by rfl) (hj : t.jrnlBase = s.jrnlBase := by rfl)
    (he : t.dies = s.dies := by rfl) : Blank d inc st t := by
  have hdie : t.die d = s.die d := by rw [State.die, he, ← State.die]
  exact ⟨hs.trans h.standing, hm ▸ h.mem, hp ▸ h.memPo, hd ▸ h.dups, hj ▸ h.jrnlBase, hdie ▸ h.lines, hdie ▸ h.incarn⟩

/-- The dies are replaced: the die itself by one without lines and of the same incarnation. -/
theorem Blank.setDies (h : Blank d inc st s) {v : Vector Die 8} (hl : (s.die d).lines = [] → (v[d]).lines = [])
    (hi : (v[d]).incarn = (s.die d).incarn) : Blank d inc st { s with dies := v } :=
  ⟨h.standing, h.mem, h.memPo, h.dups, h.jrnlBase, hl h.lines, hi.trans h.incarn⟩

theorem lines_invalidate (k : Die) {line : Nat} {q : BitVec 32} {ord : Nat} {fill : Bool} (h : k.lines = []) :
    (k.invalidate line q ord fill).lines = [] := by
  unfold Die.invalidate
  dsimp only
  rw [h]
  rfl

theorem Blank.invalidate (h : Blank d inc st s) {line : Nat} {q : BitVec 32} {ord : Nat} {fill : Bool} :
    Blank d inc st (s.modDie e fun k => k.invalidate line q ord fill) := by
  by_cases hd : d = e
  · subst hd
    exact ⟨h.standing, h.mem, h.memPo, h.dups, h.jrnlBase, by rw [State.die_modDie]; exact lines_invalidate _ h.lines,
      by rw [State.die_modDie]; exact h.incarn⟩
  · exact ⟨h.standing, h.mem, h.memPo, h.dups, h.jrnlBase, by rw [State.die_modDie_other _ _ hd]; exact h.lines,
      by rw [State.die_modDie_other _ _ hd]; exact h.incarn⟩

theorem Blank.foldl {α : Type} {f : State → α → State} {l : List α} (h : Blank d inc st s)
    (hf : ∀ t a, Blank d inc st t → Blank d inc st (f t a)) : Blank d inc st (l.foldl f s) :=
  List.foldlRecOn l f h fun t ht a _ => hf t a ht

theorem Blank.ite {p : Prop} [Decidable p] (hs : Blank d inc st s) (ht : Blank d inc st t) : Blank d inc st (if p then s else t) := by
  split
  · exact hs
  · exact ht

-- Writes at their homes.

theorem not_inDie_of_le {a : Nat} (h : 0x10000000000 ≤ a) : ¬InDie d a := fun ha => by
  have := ha.lt
  omega

theorem Blank.homePut (h : Blank d inc st s) (hb : ∀ b ∈ bs, 0x10000000000 ≤ b.1) : Blank d inc st (s.homePut bs) := by
  unfold State.homePut
  extract_lets units po
  have hpo : ∀ e ∈ po, ¬InDie d (e.1 * 32) := by
    refine List.foldlRecOn (motive := fun (l : List (Nat × Option PoU)) => ∀ e ∈ l, ¬InDie d (e.1 * 32)) _ _ h.memPo fun l hl u hu => ?_
    obtain ⟨b, hm, rfl⟩ := List.mem_map.mp (List.mem_eraseDups.mp hu)
    have hset (v : Option PoU) : ∀ e ∈ alSet l (b.1 / 32) v, ¬InDie d (e.1 * 32) := fun e he => by
      rcases mem_alSet he with rfl | he
      · have := hb b hm
        exact not_inDie_of_le (by omega)
      · exact hl e he
    dsimp only
    split
    · exact hset _
    · split
      · exact hset _
      · exact hl
  have h0 : Blank d inc st { s with memPo := po } := ⟨h.standing, h.mem, hpo, h.dups, h.jrnlBase, h.lines, h.incarn⟩
  refine List.foldlRecOn (motive := Blank d inc st) _ _ h0 fun t ht b hm => ?_
  split
  · refine ⟨ht.standing, ht.mem, ht.memPo, fun e he => ?_, ht.jrnlBase, ht.lines, ht.incarn⟩
    obtain ⟨e', he', rfl⟩ := List.mem_map.mp he
    have := ht.dups e' he'
    split <;> exact this
  · refine ⟨ht.standing, fun c hc => ?_, ht.memPo, ht.dups, ht.jrnlBase, ht.lines, ht.incarn⟩
    rcases Memory.mem_put hc with hc | hc
    · exact not_inDie_of_le (hc ▸ hb b hm)
    · exact ht.mem c hc

theorem Blank.roundOver (h : Blank d inc st s) {ord : Nat} : Blank d inc st (s.roundOver ord) := by
  unfold State.roundOver
  split
  · exact .ite h h.update
  · exact h

theorem Blank.invalArrives (h : Blank d inc st s) {i : Inval} : Blank d inc st (s.invalArrives i) :=
  .ite h (.ite h.invalidate (Blank.roundOver (Blank.update h.invalidate)))

theorem Blank.flushInvals (h : Blank d inc st s) {home : Nat} : Blank d inc st (s.flushInvals home mask) :=
  Blank.foldl h.update fun _ _ ht => ht.invalArrives

theorem Blank.orderAtHome (h : Blank d inc st s) (hb : ∀ b ∈ bs, 0x10000000000 ≤ b.1) : Blank d inc st (s.orderAtHome mask bs) := by
  refine Blank.foldl ((h.homePut hb).foldl fun _ _ ht => ht.flushInvals) fun t line ht => ?_
  refine Blank.update (Blank.setDies (v := Vector.ofFn fun d => if mask.getLsbD d.val then
    (t.dies[d]).invalidate line (t.seqOf line + 1) t.ord (t.filling d line) else t.dies[d]) ht (fun hl => ?_) ?_)
  · rw [Fin.getElem_fin, Vector.getElem_ofFn]
    split
    · exact lines_invalidate _ hl
    · exact hl
  · rw [Fin.getElem_fin, Vector.getElem_ofFn]
    split <;> rfl

theorem le_cleanBytes {pa : Nat} {l : List Byte} : ∀ b ∈ cleanBytes pa l, pa ≤ b.1 := by
  intro b hb
  obtain ⟨x, -, rfl⟩ := List.mem_map.mp hb
  exact Nat.le_add_right _ _

theorem Blank.msix (h : Blank d inc st s) {fn : Fin 65} {vec : Fin 4} : Blank d inc st (s.msix fn vec) := .ite h.update h.update

theorem Blank.journal (h : Blank d inc st s) {x : JEnt} : Blank d inc st (s.journal x) := by
  unfold State.journal
  split
  · exact h
  · extract_lets pa u v
    have hu : Blank d inc st u := h.orderAtHome fun b hb => by
      have h1 := le_cleanBytes b hb
      have h2 := h.jrnlBase
      omega
    clear_value u
    have hv : Blank d inc st v := hu.update
    refine .ite ?_ (.ite hv.msix hv)
    unfold State.msixPart
    split
    · exact hv.msix
    · exact hv

theorem Blank.winFence (h : Blank d inc st s) : Blank d inc st (s.winFence n) := by
  unfold State.winFence
  extract_lets held u v
  have hu : Blank d inc st u := h.foldl fun _ _ ht => .ite ht.update ht
  clear_value u
  have hv : Blank d inc st v := hu.update
  clear_value v
  exact hv.update

-- The readmission.

/-- An address outside the DRAM of a die, as the readmission tells it. -/
def outside (d : DieIx) (a : Nat) : Bool := decide (a < d.val * bondedSize) || decide (d.val * bondedSize + bondedSize ≤ a)

theorem not_inDie_of_outside {a : Nat} (h : outside d a = true) : ¬InDie d a := by
  rintro ⟨h1, h2⟩
  unfold outside at h
  rw [Bool.or_eq_true, decide_eq_true_eq, decide_eq_true_eq] at h
  unfold bondedSize at h
  omega

/-- What the package holds of the die's DRAM is dropped, and its shell is in service. -/
def State.purge (s : State) (d : DieIx) : State := { s with
  mem := s.mem.filter fun c => outside d c.1
  memPo := s.memPo.filter fun e => outside d (e.1 * 32)
  dir := s.dir.filter fun e => outside d (e.1 * 256)
  regions := s.regions.filter fun e => outside d (e.1 * 16384)
  seqs := s.seqs.filter fun e => outside d (e.1 * 256)
  fills := s.fills.filter fun f => outside d (f.line * 256)
  invals := s.invals.filter fun i => outside d (i.line * 256)
  dies := s.dies.map fun (e : Die) => { e with
    lines := e.lines.filter fun l => outside d (l.line * 256), ackSeq := e.ackSeq.filter fun a => outside d (a.1 * 256) }
  shellsvc := setBit s.shellsvc d.val true }

/-- A shell that is out of service is purged, reset under the next incarnation, and its entry written. -/
theorem readmit_of_out (hb : s.boot = .ready) (hs : s.shellsvc.getLsbD d.val = false) : s.readmit d =
    some (((s.purge d).resetDie d ((s.die d).incarn + 1)).journal
      (bareEntry 0xE 0 d.val 0xFF ([2, 0] ++ leBytes 4 ((s.die d).incarn + 1).toNat))) := by
  have hc : ¬(s.boot != .ready || s.shellsvc.getLsbD d.val) = true := by rw [hb, hs]; decide
  rw [State.readmit, if_neg hc]
  rfl

/-- The die in its reset state under an incarnation. -/
def State.emptyDie (s : State) (d : DieIx) (inc : BitVec 32) : State :=
  s.modDie d fun e => { Die.zero with incarn := inc, slots := List.replicate e.slots.length .free }

/-- A core in its reset state. -/
def State.emptyCore (s : State) (n : CoreIx) : State := (s.winFence n).setCore n { Core.zero with ctxShown := (s.core n).ctxShown }

theorem State.resetDie_eq : s.resetDie d inc =
    let t := (coresOf d).foldl State.emptyCore (s.emptyDie d inc)
    { t with
      kvWaits := t.kvWaits.filter fun e => e.1 / 16 != d.val
      farPhases := t.farPhases.filter fun e => dieOf e.core != d } := rfl

theorem Blank.emptyCore (h : Blank d inc st s) : Blank d inc st (s.emptyCore n) := Blank.update (h.winFence (n := n))

theorem blank_emptyDie (hj : 0x10000000000 ≤ s.jrnlBase.toNat * 4096) (hd : ∀ e ∈ s.dups, 0x10000000000 ≤ e.frame) :
    Blank d inc (s.purge d).standing ((s.purge d).emptyDie d inc) where
  standing := rfl
  mem _ hc := not_inDie_of_outside (List.mem_filter.mp hc).2
  memPo _ he := not_inDie_of_outside (List.mem_filter.mp he).2
  dups := hd
  jrnlBase := hj
  lines := congrArg Die.lines (State.die_modDie ..)
  incarn := congrArg Die.incarn (State.die_modDie ..)

theorem blank_resetDie (hj : 0x10000000000 ≤ s.jrnlBase.toNat * 4096) (hd : ∀ e ∈ s.dups, 0x10000000000 ≤ e.frame) :
    Blank d inc (s.purge d).standing ((s.purge d).resetDie d inc) := by
  rw [State.resetDie_eq]
  exact Blank.update ((blank_emptyDie hj hd).foldl fun _ _ ht => ht.emptyCore)

/-- The readmitted shell is in service, the die empty under the next incarnation. -/
theorem readmit_spec (hb : s.boot = .ready) (hs : s.shellsvc.getLsbD d.val = false) (hj : 0x10000000000 ≤ s.jrnlBase.toNat * 4096)
    (hd : ∀ e ∈ s.dups, 0x10000000000 ≤ e.frame) :
    ∃ t, s.readmit d = some t ∧ Blank d ((s.die d).incarn + 1) (s.purge d).standing t :=
  ⟨_, readmit_of_out hb hs, (blank_resetDie hj hd).journal⟩

theorem Blank.shellsvc_eq (h : Blank d inc st t) : t.shellsvc = st.shellsvc := congrArg Standing.shellsvc h.standing

theorem Blank.diesvc_eq (h : Blank d inc st t) : t.diesvc = st.diesvc := congrArg Standing.diesvc h.standing

end Machine

end Sys2Proof
end

section
/-! The events of a fencing and of a readmission, each by what it does to the service bits and to what leaves (23 R379, R381, R416). -/

set_option autoImplicit false
set_option Elab.async false

namespace Sys2Proof.Machine

open Claims

variable {s t u : State} {n : CoreIx} {d : DieIx} {e : Instr} {o : Option State}

/-- An event that gives a state leads there. -/
theorem happens_of_eq {P : State → Prop} (he : exec e s = happen s o) (ho : o = some t) (ht : P t) : Happens e s P := by
  subst ho
  exact ⟨t, he, ht⟩

/-- An event that gives none leaves the state. -/
theorem exec_of_none (he : exec e s = happen s o) (ho : o = none) : exec e s = .next s := by
  subst ho
  exact he

/-- A fencing of a core leads to a state in which its bit alone is cleared. -/
theorem happens_coreFence (hb : s.boot = .ready) (hs : s.coresvc.getLsbD n.val = true) : Happens (.coreFence n) s fun t =>
    Empty t n ∧ t.defectsig = defectSig t.coresvc ∧ t.diesvc = s.diesvc ∧ t.shellsvc = s.shellsvc ∧ t.gcc = s.gcc ∧
      ∀ k : CoreIx, t.coresvc.getLsbD k.val = (s.coresvc.getLsbD k.val && k != n) := by
  obtain ⟨t, ht, hempty, h⟩ := fenceCore_spec hb hs
  refine happens_of_eq rfl ht ⟨hempty, ?_, h.diesvc_eq, h.shellsvc_eq, h.gcc_eq, fun k => ?_⟩
  · rw [h.defectsig_eq, h.coresvc_eq]
    exact State.defectsig_clearCores
  · rw [h.coresvc_eq]
    exact State.getLsbD_clearCores k

theorem coreFence_of_out (hs : s.coresvc.getLsbD n.val = false) : exec (.coreFence n) s = .next s :=
  exec_of_none rfl (if_pos (by rw [hs]; exact Bool.or_true _))

/-- What clears the bits of a cores domain clears no others. -/
theorem Steady.domain_bits (h : Steady (s.clearDomain d) t) : t.defectsig = defectSig t.coresvc ∧ t.shellsvc = s.shellsvc ∧
    (∀ k : DieIx, t.diesvc.getLsbD k.val = (s.diesvc.getLsbD k.val && k != d)) ∧
    ∀ k : CoreIx, t.coresvc.getLsbD k.val = (s.coresvc.getLsbD k.val && dieOf k != d) := by
  refine ⟨?_, h.shellsvc_eq, fun k => ?_, fun k => ?_⟩
  · rw [h.defectsig_eq, h.coresvc_eq]
    exact State.defectsig_clearCores
  · rw [h.diesvc_eq]
    exact getLsbD_setBit_false
  · rw [h.coresvc_eq]
    exact State.getLsbD_clearCores k

/-- A fencing of a cores domain leads to a state in which the bits of the domain alone are cleared. -/
theorem happens_fenceDomain (he : exec e s = happen s (s.fenceDomain d)) (hb : s.boot = .ready) (hs : s.diesvc.getLsbD d.val = true) :
    Happens e s fun t => (∀ n, dieOf n = d → Empty t n) ∧ t.defectsig = defectSig t.coresvc ∧ t.shellsvc = s.shellsvc ∧
      (∀ k : DieIx, t.diesvc.getLsbD k.val = (s.diesvc.getLsbD k.val && k != d)) ∧
      ∀ k : CoreIx, t.coresvc.getLsbD k.val = (s.coresvc.getLsbD k.val && dieOf k != d) := by
  obtain ⟨h, hempty⟩ := fenceCores_spec s d 1
  exact happens_of_eq he (fenceDomain_spec hb hs) ⟨hempty, h.domain_bits⟩

/-- A fencing of a memory shell leads to a state in which the bits of the shell and its cores domain alone are cleared, and the die is
empty. -/
theorem happens_memoryShellFence (hb : s.boot = .ready) (hs : s.shellsvc.getLsbD d.val = true) : Happens (.memoryShellFence d) s fun t =>
    (∀ k : DieIx, t.shellsvc.getLsbD k.val = (s.shellsvc.getLsbD k.val && k != d)) ∧
    (∀ k : DieIx, t.diesvc.getLsbD k.val = (s.diesvc.getLsbD k.val && k != d)) ∧
    (t.die d).lines = [] ∧ (∀ e ∈ t.dir, e.2.getLsbD d.val = false) ∧ (∀ e ∈ t.regions, e.2.getLsbD d.val = false) ∧
    (∀ i ∈ t.invals, i.die ≠ d) ∧ ∀ n, dieOf n = d → Empty t n ∧ (t.core n).psb = [] := by
  obtain ⟨t, ht, h, hu, hl, hempty⟩ := fenceShell_spec hs
  have ho : (if s.boot == .ready then s.fenceShell d else none) = some t := by
    rw [if_pos (beq_iff_eq.mpr hb), ht]
  refine happens_of_eq rfl ho ⟨fun k => ?_, fun k => ?_, hl, hu.dir, hu.regions, hu.invals, hempty⟩
  · rw [h.shellsvc_eq]
    exact getLsbD_setBit_false
  · rw [h.diesvc_eq]
    exact getLsbD_setBit_false

theorem memoryShellFence_of_out (hs : s.shellsvc.getLsbD d.val = false) : exec (.memoryShellFence d) s = .next s :=
  exec_of_none rfl ((congrArg (fun o => if s.boot == .ready then o else none) (fenceShell_of_out hs)).trans (ite_self _))

/-- A readmission leads to a state in which the shell is in service too, and its DRAM poisoned over zeros. -/
theorem happens_shellReadmit (hb : s.boot = .ready) (hs : s.shellsvc.getLsbD d.val = false)
    (hj : 0x10000000000 ≤ s.jrnlBase.toNat * 4096) (hd : ∀ e ∈ s.dups, 0x10000000000 ≤ e.frame) : Happens (.shellReadmit d) s fun t =>
    (∀ k : DieIx, t.shellsvc.getLsbD k.val = (s.shellsvc.getLsbD k.val || k == d)) ∧ t.diesvc = s.diesvc ∧
    (t.die d).incarn = (s.die d).incarn + 1 ∧ (t.die d).lines = [] ∧
    ∀ a, d.val * 0xC00000000 ≤ a → a < (d.val + 1) * 0xC00000000 → t.homeByte a = 0 ∧ t.unitPo (a / 32) = some (.raw cEcc) := by
  obtain ⟨t, ht, h⟩ := readmit_spec hb hs hj hd
  refine happens_of_eq rfl ht ⟨fun k => ?_, h.diesvc_eq, h.incarn, h.lines, fun a h1 h2 => ⟨h.homeByte ⟨h1, h2⟩, h.unitPo ⟨h1, h2⟩⟩⟩
  rw [h.shellsvc_eq]
  exact getLsbD_setBit_true

/-- Settles O44: after the bits and the entry a fencing leaves what stands, and empties the contexts of what leaves; nothing of a readmitted
die's DRAM is recorded, and its entry in the journal lies elsewhere (log entry 4). -/
theorem fencing : Obligations.Fencing := by
  refine ⟨⟨fun s n => happens_coreFence, fun s d e he => ?_, fun s n => coreFence_of_out, fun s d hs => ?_⟩,
    fun s d => happens_memoryShellFence, fun s d => memoryShellFence_of_out, fun s d => happens_shellReadmit⟩
  · rcases he with rfl | rfl
    · exact happens_fenceDomain rfl
    · exact happens_fenceDomain rfl
  · exact ⟨exec_of_none rfl (fenceDomain_of_out hs), exec_of_none rfl (fenceDomain_of_out hs)⟩

end Sys2Proof.Machine
end

section
/-! Messages of other packages (07 R141, R143; 17 R284; 25 R407): dropped, answered NOT_HELD, or given their effect. -/

set_option autoImplicit false
set_option Elab.async false

namespace Sys2Proof.Machine

open Claims

variable {s t : State} {m : FabricIn} {rest : List Turn}

theorem step_fabric (hp : s.power = true) (hb : s.boot = .ready) (ht : s.turns = .fabric m :: rest) :
    step s = .next ({ s with turns := rest }.fabricCame m) := by
  have hd : ¬s.dark (.fabric m) = true := by simp [State.dark, hp]
  rw [step, State.nextTurn_of_cons ht, if_neg hd]
  exact congrArg Host.Outcome.next (if_pos (beq_iff_eq.mpr hb))

/-- The incarnation of a message's sender is recorded. -/
def State.heard (s : State) (m : FabricIn) : State := { s with fabricInc := alSet s.fabricInc m.pkg m.inc }

theorem State.accepts_iff : s.accepts m = true ↔ ∃ p, s.partOf m.part = some p ∧ ∀ d ∈ s.addressed m.ask, p.dies.getLsbD d.val = true := by
  unfold State.accepts
  cases s.partOf m.part with
  | none => simp
  | some p => simp [Option.all_eq_true]

theorem State.homeDie_congr (h : t.pkgnum = s.pkgnum) (pa : Nat) : t.homeDie pa = s.homeDie pa := by
  unfold State.homeDie State.place
  rw [h]

theorem State.dupOf_congr (h : t.dups = s.dups) (line : Nat) : t.dupOf line = s.dupOf line := by
  unfold State.dupOf
  rw [h]

/-- The die that a message addresses the package's number, its duplicates and its waiting writes tell. -/
theorem State.addressed_congr (hp : t.pkgnum = s.pkgnum) (hd : t.dups = s.dups) (hr : t.rdWrites = s.rdWrites) (a : FabricAsk) :
    t.addressed a = s.addressed a := by
  cases a <;> simp only [State.addressed, State.homeDie_congr hp, State.dupOf_congr hd, hr]

/-- The partitions that accept a message are those of the state before it came. -/
theorem accepts_heard : ({ s with turns := rest }.heard m).accepts m = true ↔
    ∃ p, s.partOf m.part = some p ∧ ∀ d ∈ s.addressed m.ask, p.dies.getLsbD d.val = true := by
  have hp : ({ s with turns := rest }.heard m).partOf m.part = s.partOf m.part := rfl
  have hn : ({ s with turns := rest }.heard m).pkgnum = s.pkgnum := rfl
  have hd : ({ s with turns := rest }.heard m).dups = s.dups := rfl
  have hr : ({ s with turns := rest }.heard m).rdWrites = s.rdWrites := rfl
  rw [State.accepts_iff, hp, State.addressed_congr hn hd hr]

theorem fabricCame_stale (h : ∃ r, alGet s.fabricInc m.pkg = some r ∧ (m.inc - r).msb = true) : s.fabricCame m = s := by
  obtain ⟨r, hr, hm⟩ := h
  rw [State.fabricCame, hr, if_pos (by simpa [staleInc] using hm)]

theorem fabricCame_fresh (h : ∀ r, alGet s.fabricInc m.pkg = some r → (m.inc - r).msb = false) : s.fabricCame m =
    if !(s.heard m).accepts m then (s.heard m).reply m .notHeld
    else if ((s.heard m).fabricAct m).2 then ((s.heard m).fabricAct m).1
    else { ((s.heard m).fabricAct m).1 with fabricIn := ((s.heard m).fabricAct m).1.fabricIn ++ [m] } := by
  have hs : ¬((alGet s.fabricInc m.pkg).any fun r => staleInc m.inc r) = true := by
    rw [Option.any_eq_true]
    rintro ⟨r, hr, hm⟩
    rw [staleInc, h r hr] at hm
    exact Bool.false_ne_true hm
  rw [State.fabricCame, if_neg hs]
  rfl

/-- A message that no valid entry accepts is answered so, and does nothing else. -/
theorem fabricCame_refused (h : ∀ r, alGet s.fabricInc m.pkg = some r → (m.inc - r).msb = false) (ha : (s.heard m).accepts m = false) :
    s.fabricCame m = (s.heard m).reply m .notHeld := by
  rw [fabricCame_fresh h, ha]
  rfl

/-- A message that is accepted and has not to wait has its effect. -/
theorem fabricCame_accepted (h : ∀ r, alGet s.fabricInc m.pkg = some r → (m.inc - r).msb = false) (ha : (s.heard m).accepts m = true)
    (hd : (s.heard m).fabricAct m = (t, true)) : s.fabricCame m = t := by
  rw [fabricCame_fresh h, ha, hd]
  rfl

-- What an accepted message does.

theorem fabricAct_register {page : Nat} (h : m.ask = .register page) : ∃ t, s.fabricAct m = (t, true) ∧ m.pkg ∈ (alGet t.holders page).getD [] := by
  rw [State.fabricAct, h]
  exact ⟨_, rfl, by simp⟩

theorem fabricAct_read {addr k num : Nat} {bs : List Byte} {po : Bool} (h : m.ask = .read addr k num)
    (hr : s.peerRead m (canon s.pkgnum.toNat addr) k = some (bs, po)) : s.fabricAct m = (s.reply m (.data num bs po), true) := by
  rw [State.fabricAct, h]
  dsimp only
  rw [hr]

theorem fabricAct_arrive {core : CoreIx} {k : BitVec 6} {len cmd : Nat} {fin : Bool} (h : m.ask = .arrive core k len cmd fin)
    (hu : s.coreUp core = true) : s.fabricAct m = (s.farArrive m cmd core k len fin, true) := by
  rw [State.fabricAct, h]
  dsimp only
  rw [hu]
  rfl

/-- The turnstile counts bytes with a phase, and these are the phases kept. -/
def State.countFar (s : State) (core : CoreIx) (k : BitVec 6) (len : Nat) (ph : Bool) (l : List FarPhase) : State :=
  { s with farPhases := l }.modJob core fun j => j.modTs k fun x => x.addArr ph len

variable {core : CoreIx} {k : BitVec 6} {len cmd : Nat} {fin : Bool}

/-- The first message of a command finds the current phase, which is kept unless it is the last too. -/
theorem farArrive_first (h : s.farPhases = []) : s.farArrive m cmd core k len fin =
    s.countFar core k len ((s.job core).ts[k.toFin]).phase (if fin then [] else [⟨m.pkg, cmd, core, k, ((s.job core).ts[k.toFin]).phase⟩]) := by
  unfold State.farArrive State.farPhase
  rw [h]
  rfl

/-- A later one takes the phase that was kept. -/
theorem farArrive_later {f : FarPhase} (h : s.farPhases = [f]) (hp : f.pkg = m.pkg) (hc : f.cmd = cmd) (hn : f.core = core) (hk : f.ts = k) :
    s.farArrive m cmd core k len fin = s.countFar core k len f.phase (if fin then [] else [f]) := by
  subst hc hn hk
  have hf : (f.pkg == m.pkg && f.cmd == f.cmd && f.core == f.core && f.ts == f.ts) = true := by simp [hp]
  have hm : (⟨m.pkg, f.cmd, f.core, f.ts, f.phase⟩ : FarPhase) = f := by rw [← hp]
  unfold State.farArrive State.farPhase
  rw [h]
  dsimp only
  rw [List.find?_cons_of_pos (p := fun g : FarPhase => g.pkg == m.pkg && g.cmd == f.cmd && g.core == f.core && g.ts == f.ts) hf,
    List.filter_cons_of_neg (by rw [hf]; exact Bool.false_ne_true)]
  dsimp only
  rw [hm]
  rfl

end Sys2Proof.Machine
end

section
/-! Links: boundaries and the arcs that they split, routes, ports, and what was on its way through them (01 R17, R19; 23 R380; 25 R409). -/

set_option autoImplicit false
set_option Elab.async false

namespace Sys2Proof.Machine

open Claims

variable {s₀ s t : State} {n m : CoreIx} {c : Cmd} {info : Word} {store : Bool} {a b : Nat}

theorem Steady.linkLost (h : Steady s₀ s) {hit : CoreIx → Cmd → Bool} : Steady s₀ (s.linkLost hit info) :=
  h.foldl fun _ _ ht => ht.foldl fun _ _ hu => hu.foldl fun _ _ hv => .ite (.ite (Steady.modCmd hv.update) hv.update) hv

-- Boundaries.

/-- Which dies a die reaches the boundaries in service tell. -/
theorem State.arc_congr (h : t.ringup = s.ringup) (d : Nat) : t.arc d = s.arc d := by
  unfold State.arc
  rw [h]

/-- A boundary leaves service. -/
def State.cut (s : State) (k : Fin 8) : State := { s with ringup := setBit s.ringup k.val false }

/-- The dies of the smaller of the two arcs that a boundary parts, if it parts them. -/
def State.losing (s : State) (k : Fin 8) : List Nat :=
  let x := s.arc k.val
  let y := s.arc ((k.val + 1) % 8)
  if (k.val + 1) % 8 ∈ x then [] else if y.length < x.length ∨ (x.length = y.length ∧ 0 ∈ x) then y else x

/-- The shells of the dies in a list are fenced. -/
def State.fenceListed (s : State) (l : List Nat) : State :=
  (List.finRange 8).foldl (fun (t : State) d => if l.contains d.val then (t.fenceShell d).getD t else t) s

/-- A shell is fenced where it is in service: its bit is cleared, no other shell's, and no boundary's. -/
theorem fenceShell_getD_bits (d : DieIx) : ((s.fenceShell d).getD s).ringup = s.ringup ∧
    ∀ k : DieIx, ((s.fenceShell d).getD s).shellsvc.getLsbD k.val = (s.shellsvc.getLsbD k.val && k != d) := by
  by_cases hs : s.shellsvc.getLsbD d.val = true
  · obtain ⟨t, ht, h, -⟩ := fenceShell_spec hs
    rw [ht, Option.getD_some, h.ringup_eq, h.shellsvc_eq]
    exact ⟨rfl, fun _ => getLsbD_setBit_false⟩
  · have hs := Bool.eq_false_of_not_eq_true hs
    rw [fenceShell_of_out hs, Option.getD_none]
    refine ⟨rfl, fun k => ?_⟩
    by_cases hk : k = d
    · rw [hk, hs, Bool.false_and]
    · rw [bne, beq_false_of_ne hk, Bool.not_false, Bool.and_true]

theorem fenceShells_bits {p : DieIx → Bool} {k : DieIx} : ∀ (l : List DieIx) (s : State),
    (l.foldl (fun (t : State) d => if p d then (t.fenceShell d).getD t else t) s).ringup = s.ringup ∧
    (l.foldl (fun (t : State) d => if p d then (t.fenceShell d).getD t else t) s).shellsvc.getLsbD k.val =
      (s.shellsvc.getLsbD k.val && !(l.contains k && p k))
  | [], s => by simp
  | d :: l, s => by
    obtain ⟨hr, hk⟩ := fenceShells_bits (p := p) (k := k) l (if p d then (s.fenceShell d).getD s else s)
    rw [List.foldl_cons, hr, hk, List.contains_cons]
    by_cases hp : p d = true
    · obtain ⟨hr', hk'⟩ := fenceShell_getD_bits (s := s) d
      rw [if_pos hp, hk']
      refine ⟨hr', ?_⟩
      by_cases he : k = d
      · subst he
        simp [hp]
      · simp [bne, beq_false_of_ne he]
    · rw [if_neg hp]
      refine ⟨rfl, ?_⟩
      by_cases he : k = d
      · subst he
        simp [hp]
      · simp [beq_false_of_ne he]

theorem fenceListed_bits (l : List Nat) : (s.fenceListed l).ringup = s.ringup ∧
    ∀ k : DieIx, (s.fenceListed l).shellsvc.getLsbD k.val = (s.shellsvc.getLsbD k.val && !l.contains k.val) := by
  have h (k : DieIx) := fenceShells_bits (p := fun d => l.contains d.val) (k := k) (List.finRange 8) s
  refine ⟨(h 0).1, fun k => ?_⟩
  have hk : (List.finRange 8).contains k = true := List.contains_iff_mem.mpr (List.mem_finRange k)
  have hb := (h k).2
  rw [hk, Bool.true_and] at hb
  exact hb

/-- What a failed boundary leaves before any shell is fenced. -/
def State.afterCut (s : State) (k : Fin 8) : State :=
  ((s.linkLost (fun n c => (s.cmdDies c n).any fun d => (s.between (dieOf n).val d).contains k.val) (BitVec.ofNat 64 k.val)).cut k).journal
    (bareEntry 0xC cLinkDown 0xFF 0xFF [BitVec.ofNat 8 k.val])

theorem Steady.cut (h : Steady s₀ s) {k : Fin 8} : Steady (s₀.cut k) (s.cut k) := by
  refine ⟨?_, h.core⟩
  unfold State.cut State.standing
  dsimp only
  rw [h.gcc_eq, h.boot_eq, h.pmode_eq, h.preq_eq, h.pend_eq, h.diesvc_eq, h.shellsvc_eq, h.coresvc_eq, h.defectsig_eq, h.pkgnum_eq,
    h.portup_eq, h.ringup_eq]

theorem steady_afterCut (s : State) (k : Fin 8) : Steady (s.cut k) (s.afterCut k) := (Steady.refl s).linkLost.cut.journal

theorem State.fenceListed_nil : s.fenceListed [] = s := List.foldlRecOn (motive := fun t => t = s) _ _ rfl fun _ ht _ _ => ht

/-- The shells of the smaller arc are fenced in what the cut leaves. -/
theorem boundaryDown_eq {k : Fin 8} (hb : s.boot = .ready) (hs : s.ringup.getLsbD k.val = true) :
    s.boundaryDown k = some ((s.afterCut k).fenceListed ((s.cut k).losing k)) := by
  have hc : ¬(s.boot != .ready || !s.ringup.getLsbD k.val) = true := by rw [hb, hs]; decide
  have e : s.boundaryDown k = (let u := s.afterCut k
      let x := u.arc k.val
      let y := u.arc ((k.val + 1) % 8)
      if x.contains ((k.val + 1) % 8) then some u
      else some (u.fenceListed (if x.length > y.length || (x.length == y.length && x.contains 0) then y else x))) := by
    rw [State.boundaryDown, if_neg hc]
    rfl
  dsimp only at e
  rw [State.arc_congr (steady_afterCut s k).ringup_eq, State.arc_congr (steady_afterCut s k).ringup_eq] at e
  rw [e, State.losing]
  by_cases hm : (k.val + 1) % 8 ∈ (s.cut k).arc k.val
  · rw [if_pos (List.contains_iff_mem.mpr hm), if_pos hm, State.fenceListed_nil]
  · rw [if_neg fun h => hm (List.contains_iff_mem.mp h), if_neg hm]
    simp

theorem happens_boundaryFailure {k : Fin 8} (hb : s.boot = .ready) (hs : s.ringup.getLsbD k.val = true) :
    Happens (.boundaryFailure k) s fun t =>
      (∀ i : Fin 8, t.ringup.getLsbD i.val = (s.ringup.getLsbD i.val && i != k)) ∧
      ∀ d : DieIx, t.shellsvc.getLsbD d.val = (s.shellsvc.getLsbD d.val && !((s.cut k).losing k).contains d.val) := by
  have h := steady_afterCut s k
  obtain ⟨hr, hd⟩ := fenceListed_bits (s := s.afterCut k) ((s.cut k).losing k)
  refine happens_of_eq rfl (boundaryDown_eq hb hs) ⟨fun i => ?_, fun d => ?_⟩
  · rw [hr, h.ringup_eq]
    exact getLsbD_setBit_false
  · rw [hd, h.shellsvc_eq]
    rfl

-- Routes.

theorem length_pathOf (up : Bool) : (pathOf a b up).length = if up then (b + 8 - a) % 8 else (a + 8 - b) % 8 := by
  cases up <;> simp [pathOf]

theorem lt_of_mem_pathOf {up : Bool} {k : Nat} (h : k ∈ pathOf a b up) : k < 8 := by
  cases up
  all_goals
    obtain ⟨i, -, rfl⟩ := List.mem_map.mp h
    omega

/-- The two ways round have no boundary in common. -/
theorem notMem_pathOf_down {k : Nat} (ha : a < 8) (h : k ∈ pathOf a b true) : k ∉ pathOf a b false := by
  intro h'
  obtain ⟨i, hi, rfl⟩ := List.mem_map.mp h
  obtain ⟨j, hj, e⟩ := List.mem_map.mp h'
  rw [List.mem_range] at hi hj
  omega

/-- Every boundary of a path is in service. -/
def State.clear (s : State) (l : List Nat) : Bool := l.all fun k => s.ringup.getLsbD k

theorem State.route_eq : s.route a b =
    if (pathOf a b true).length ≤ (pathOf a b false).length then
      (if s.clear (pathOf a b true) || !s.clear (pathOf a b false) then pathOf a b true else pathOf a b false)
    else if s.clear (pathOf a b false) || !s.clear (pathOf a b true) then pathOf a b false else pathOf a b true := rfl

theorem State.clear_pathOf {up : Bool} (h : ∀ k, k ∈ pathOf a b up → s.ringup.getLsbD k = true) : s.clear (pathOf a b up) = true :=
  List.all_eq_true.mpr h

/-- With every boundary in service the way is the shorter one. -/
theorem length_route (h : s.ringup = 0xFF) : (s.route a b).length = min ((b + 8 - a) % 8) ((a + 8 - b) % 8) := by
  have hc (up : Bool) : s.clear (pathOf a b up) = true := State.clear_pathOf fun k hk => by
    have := lt_of_mem_pathOf hk
    rw [h]
    interval_cases k <;> rfl
  rw [State.route_eq, hc, hc]
  simp only [Bool.true_or, if_true]
  split
  · next hl =>
    simp only [length_pathOf, if_true, Bool.false_eq_true, if_false] at hl ⊢
    omega
  · next hl =>
    simp only [length_pathOf, if_true, Bool.false_eq_true, if_false] at hl ⊢
    omega

/-- The way taken is clear if one of the two is. -/
theorem clear_route (h : s.clear (pathOf a b true) = true ∨ s.clear (pathOf a b false) = true) : s.clear (s.route a b) = true := by
  rw [State.route_eq]
  split_ifs with _ h1 h1
  all_goals
    simp only [Bool.or_eq_true, Bool.not_eq_true', not_or, Bool.not_eq_true, Bool.not_eq_false] at h1
    grind

/-- A boundary that alone has failed lies on no way. -/
theorem notMem_route {f : Fin 8} (ha : a < 8) (hk : ∀ k : Fin 8, k ≠ f → s.ringup.getLsbD k.val = true)
    (hf : s.ringup.getLsbD f.val = false) : f.val ∉ s.route a b := by
  have hc (up : Bool) (h : f.val ∉ pathOf a b up) : s.clear (pathOf a b up) = true := State.clear_pathOf fun k hm =>
    hk ⟨k, lt_of_mem_pathOf hm⟩ fun e => h (e ▸ hm)
  have hr : s.clear (s.route a b) = true := by
    by_cases hu : f.val ∈ pathOf a b true
    · exact clear_route (.inr (hc false (notMem_pathOf_down ha hu)))
    · exact clear_route (.inl (hc true hu))
  intro hm
  rw [List.all_eq_true.mp hr _ hm] at hf
  exact Bool.noConfusion hf

-- Ports.

/-- Whether a command leaves the package its number tells. -/
theorem State.leaves_congr (h : t.pkgnum = s.pkgnum) : t.leaves n c = s.leaves n c := by
  unfold State.leaves State.place State.sendsTo State.rankIn
  rw [h]

/-- A command that has not failed is in a queue. -/
def State.Open (s : State) (n : CoreIx) (store : Bool) (c : Cmd) : Prop := c ∈ (s.core n).queue store ∧ c.fail = none

/-- t is the same package, and a command that has not failed in it has not in s. -/
structure Closes (s t : State) : Prop where
  pkgnum : t.pkgnum = s.pkgnum
  open_ : ∀ n store c, t.Open n store c → s.Open n store c

theorem Closes.refl (s : State) : Closes s s := ⟨rfl, fun _ _ _ => id⟩

theorem Closes.trans {u : State} (h : Closes s t) (h' : Closes t u) : Closes s u :=
  ⟨h'.pkgnum.trans h.pkgnum, fun n store c hc => h.open_ n store c (h'.open_ n store c hc)⟩

theorem Closes.foldl {α : Type} {f : State → α → State} {l : List α} (hf : ∀ t a, Closes t (f t a)) : Closes s (l.foldl f s) :=
  List.foldlRecOn (motive := Closes s) l f (Closes.refl s) fun t ht a _ => ht.trans (hf t a)

theorem Core.queue_setQueue (k : Core) (store st : Bool) (q : List Cmd) :
    (k.setQueue store q).queue st = if st = store then q else k.queue st := by
  cases store <;> cases st <;> rfl

/-- The queues after the commands of one order in one of them have been changed. -/
theorem State.mem_queue_modCmd {ord : Nat} {f : Cmd → Cmd} {st : Bool} (h : c ∈ ((s.modCmd n store ord f).core m).queue st) :
    c ∈ (s.core m).queue st ∧ ¬(m = n ∧ st = store ∧ c.ord = ord) ∨ ∃ d ∈ (s.core m).queue st, d.ord = ord ∧ c = f d := by
  unfold State.modCmd at h
  by_cases hm : m = n
  · subst hm
    rw [State.core_modCore, Core.queue_setQueue] at h
    by_cases hst : st = store
    · subst hst
      rw [if_pos rfl] at h
      obtain ⟨d, hd, rfl⟩ := List.mem_map.mp h
      by_cases ho : d.ord = ord
      · exact .inr ⟨d, hd, ho, if_pos (beq_iff_eq.mpr ho)⟩
      · rw [if_neg (by simpa using ho)]
        exact .inl ⟨hd, fun h => ho h.2.2⟩
    · rw [if_neg hst] at h
      exact .inl ⟨h, fun h => hst h.2.1⟩
  · rw [State.core_modCore_other _ _ hm] at h
    exact .inl ⟨h, fun h => hm h.1⟩

/-- The commands of an order in a queue fail with LINK_DOWN. -/
def State.failOrd (s : State) (n : CoreIx) (store : Bool) (ord : Nat) (info : Word) : State :=
  s.modCmd n store ord fun d => { d with fail := some cLinkDown, info := info }

/-- A command that has not failed after it is none of them. -/
theorem open_failOrd {ord : Nat} {st : Bool} (h : (s.failOrd n store ord info).Open m st c) :
    s.Open m st c ∧ ¬(m = n ∧ st = store ∧ c.ord = ord) := by
  obtain ⟨hc, hf⟩ := h
  rcases State.mem_queue_modCmd hc with ⟨hc, hn⟩ | ⟨d, -, -, rfl⟩
  · exact ⟨⟨hc, hf⟩, hn⟩
  · cases hf

/-- A command on its way to another package, in a package of this number. -/
def State.Stray (s : State) (n : CoreIx) (c : Cmd) : Prop := c.begun = true ∧ c.pos < c.total ∧ s.leaves n c = true

/-- A stray command fails, and those of its order. -/
def State.failStray (s : State) (n : CoreIx) (store : Bool) (info : Word) (c : Cmd) : State :=
  if c.begun && c.pos < c.total && c.fail.isNone && s.leaves n c then s.failOrd n store c.ord info else s

def State.failQueue (s : State) (n : CoreIx) (info : Word) (store : Bool) : State :=
  ((s.core n).queue store).foldl (fun t c => t.failStray n store info c) s

def State.failCore (s : State) (info : Word) (n : CoreIx) : State := [false, true].foldl (fun t store => t.failQueue n info store) s

/-- Every stray command fails. -/
def State.failStrays (s : State) (info : Word) : State := (List.finRange 128).foldl (fun t n => t.failCore info n) s

theorem closes_failStray (s : State) (n : CoreIx) (store : Bool) (info : Word) (c : Cmd) : Closes s (s.failStray n store info c) := by
  unfold State.failStray
  split
  · exact ⟨rfl, fun _ _ _ h => (open_failOrd h).1⟩
  · exact .refl s

theorem closes_failQueue (s : State) (n : CoreIx) (info : Word) (store : Bool) : Closes s (s.failQueue n info store) :=
  .foldl fun t c => closes_failStray t n store info c

theorem closes_failCore (s : State) (info : Word) (n : CoreIx) : Closes s (s.failCore info n) := .foldl fun t st => closes_failQueue t n info st

/-- No stray command is left in a queue. -/
def Swept (n : CoreIx) (store : Bool) (t : State) : Prop := ∀ c, t.Open n store c → ¬t.Stray n c

theorem Closes.stray (h : Closes s t) (hc : t.Stray n c) : s.Stray n c := ⟨hc.1, hc.2.1, (State.leaves_congr h.pkgnum).symm.trans hc.2.2⟩

theorem Closes.swept (h : Closes s t) (hs : Swept n store s) : Swept n store t := fun c hc hst => hs c (h.open_ n store c hc) (h.stray hst)

theorem failStray_sweeps (h : (s.failStray n store info c).Open n store c) : ¬(s.failStray n store info c).Stray n c := by
  intro hst
  have hs := (closes_failStray s n store info c).stray hst
  obtain ⟨hb, hp, hl⟩ := hs
  have hf : c.fail.isNone = true := by rw [h.2]; rfl
  rw [State.failStray, if_pos (by simp [hb, hp, hl, hf])] at h
  exact (open_failOrd h).2 ⟨rfl, rfl, rfl⟩

theorem swept_failQueue : Swept n store (s.failQueue n info store) := fun c hc =>
  foldl_establishes (f := fun t c => t.failStray n store info c) (Q := fun c t => t.Open n store c → ¬t.Stray n c)
    (fun _ _ => failStray_sweeps)
    (fun t a b hb hs hst => hb ((closes_failStray t n store info a).open_ n store b hs) ((closes_failStray t n store info a).stray hst))
    ((closes_failQueue s n info store).open_ n store c hc).1 hc

theorem swept_failCore : Swept n store (s.failCore info n) := by
  have here (t : State) (a : Bool) : Swept n a (t.failQueue n info a) := swept_failQueue
  have keep (t : State) (a b : Bool) (hb : Swept n b t) : Swept n b (t.failQueue n info a) := (closes_failQueue t n info a).swept hb
  have hm : store ∈ [false, true] := by cases store <;> simp
  unfold State.failCore
  exact foldl_establishes (Q := fun a t => Swept n a t) here keep hm

theorem swept_failStrays : Swept n store (s.failStrays info) := by
  have here (t : State) (a : CoreIx) : Swept a store (t.failCore info a) := swept_failCore
  have keep (t : State) (a b : CoreIx) (hb : Swept b store t) : Swept b store (t.failCore info a) := (closes_failCore t info a).swept hb
  unfold State.failStrays
  exact foldl_establishes (Q := fun n t => Swept n store t) here keep (List.mem_finRange n)

theorem Steady.failStrays (h : Steady s₀ s) : Steady s₀ (s.failStrays info) :=
  h.foldl fun _ _ ht => ht.foldl fun _ _ hu => hu.foldl fun _ _ hv => .ite hv.modCmd hv

/-- A port leaves service. -/
def State.unplug (s : State) (p : Fin 18) : State := { s with portup := setBit s.portup p.val false }

theorem Steady.unplug (h : Steady s₀ s) {p : Fin 18} : Steady (s₀.unplug p) (s.unplug p) := by
  refine ⟨?_, h.core⟩
  unfold State.unplug State.standing
  dsimp only
  rw [h.gcc_eq, h.boot_eq, h.pmode_eq, h.preq_eq, h.pend_eq, h.diesvc_eq, h.shellsvc_eq, h.coresvc_eq, h.defectsig_eq, h.pkgnum_eq,
    h.portup_eq, h.ringup_eq]

/-- What a failed port leaves before it is known whether it was the last. -/
def State.afterUnplug (s : State) (p : Fin 18) : State :=
  ((s.linkLost (fun n c => s.leaves n c) (BitVec.ofNat 64 (0x80 + p.val))).unplug p).journal
    (bareEntry 0xC cLinkDown 0xFF 0xFF [BitVec.ofNat 8 (0x80 + p.val)])

theorem steady_afterUnplug (s : State) (p : Fin 18) : Steady (s.unplug p) (s.afterUnplug p) := (Steady.refl s).linkLost.unplug.journal

theorem portDown_eq {p : Fin 18} (hb : s.boot = .ready) (hs : s.portup.getLsbD p.val = true) : s.portDown p =
    some (if (s.unplug p).portup != 0 then s.afterUnplug p else (s.afterUnplug p).failStrays (BitVec.ofNat 64 (0x80 + p.val))) := by
  have hc : ¬(s.boot != .ready || !s.portup.getLsbD p.val) = true := by rw [hb, hs]; decide
  have e : s.portDown p = if (s.afterUnplug p).portup != 0 then some (s.afterUnplug p)
      else some ((s.afterUnplug p).failStrays (BitVec.ofNat 64 (0x80 + p.val))) := by
    rw [State.portDown, if_neg hc]
    rfl
  rw [e, (steady_afterUnplug s p).portup_eq, apply_ite some]

theorem happens_fabricPortDown {p : Fin 18} (hb : s.boot = .ready) (hs : s.portup.getLsbD p.val = true) : Happens (.fabricPortDown p) s fun t =>
    (∀ k : Fin 18, t.portup.getLsbD k.val = (s.portup.getLsbD k.val && k != p)) ∧
    ((∀ k : Fin 18, k ≠ p → s.portup.getLsbD k.val = false) → ∀ (n : CoreIx) (store : Bool),
      ∀ c ∈ (t.core n).queue store, c.begun = true → c.pos < c.total → t.leaves n c = true → c.fail.isSome = true) := by
  have h := steady_afterUnplug s p
  have hbit (k : Fin 18) : (s.unplug p).portup.getLsbD k.val = (s.portup.getLsbD k.val && k != p) := getLsbD_setBit_false
  refine happens_of_eq rfl (portDown_eq hb hs) ⟨fun k => ?_, fun hlast n store c hc hbe hpo hle => ?_⟩
  · rw [← hbit]
    split
    · rw [h.portup_eq]
    · rw [h.failStrays.portup_eq]
  · have h0 : (s.unplug p).portup = 0 := BitVec.eq_of_getLsbD_eq fun i hi => by
      have hz : (0 : BitVec 18).getLsbD i = false := BitVec.getLsbD_zero
      rw [hbit ⟨i, hi⟩, hz]
      by_cases hk : (⟨i, hi⟩ : Fin 18) = p
      · simp [hk]
      · rw [hlast _ hk, Bool.false_and]
    rw [if_neg (by simp [h0])] at hc hle
    exact Option.isSome_iff_ne_none.mpr fun hf => swept_failStrays c ⟨hc, hf⟩ ⟨hbe, hpo, hle⟩

theorem exec_portTrained {ports : BitVec 18} (hb : s.boot = .ready) (hd : s.fabDone = true) (hp : ports &&& s.porten ≠ 0) :
    exec (.portTrained ports) s = .next { s with portup := s.portup ||| (ports &&& s.porten), pkgnum := s.fabPkg } := by
  have e : exec (.portTrained ports) s = execPortTrained ports s := rfl
  rw [e, execPortTrained, if_pos (by rw [hb, hd, bne_iff_ne.mpr hp]; rfl)]
  rfl

/-- Settles O45: what fails leaves service and nothing else does but the shells of the arc that is lost; a port that fails last leaves no
command on its way; a message that is accepted has its effect at once (log entries 1, 64). -/
theorem linkEvents : Obligations.LinkEvents := by
  refine ⟨fun s b => happens_boundaryFailure, fun s a b ha _ => ⟨length_route, fun f => notMem_route ha⟩, fun s p => happens_fabricPortDown,
    fun s ports => exec_portTrained, fun s rest m hp hb ht => ?_⟩
  intro s1 s2 held
  have hh : (s1.heard m).accepts m = true ↔ held := accepts_heard
  rw [step_fabric hp hb ht]
  refine ⟨fun h => congrArg Host.Outcome.next (fabricCame_stale h), fun h => ?_⟩
  have hact {t : State} (hy : held) (hd : (s1.heard m).fabricAct m = (t, true)) : (.next (s1.fabricCame m) : Answer) = .next t :=
    congrArg Host.Outcome.next (fabricCame_accepted h (hh.mpr hy) hd)
  intro tells
  refine ⟨fun hn => ?_, fun hy => ⟨fun page ha => ?_, fun addr k num bs po ha hr => hact hy (fabricAct_read ha hr),
    fun core k len cmd fin ha hu => ?_⟩⟩
  · exact congrArg Host.Outcome.next (fabricCame_refused h (Bool.eq_false_of_not_eq_true (mt hh.mp hn)))
  · obtain ⟨t, hd, hm⟩ := fabricAct_register (s := s1.heard m) ha
    exact ⟨t, hact hy hd, hm⟩
  · have hd := fabricAct_arrive (s := s1.heard m) ha hu
    intro now counts
    refine ⟨fun h0 => ?_, fun f h1 hpk hc hn hk => ?_⟩
    · exact (hact hy hd).trans (congrArg Host.Outcome.next (farArrive_first h0))
    · exact (hact hy hd).trans (congrArg Host.Outcome.next (farArrive_later h1 hpk hc hn hk))

end Sys2Proof.Machine
end

section
/-! Nest records (03 R44 to R51): what EBADNEST refuses, the iterations of a launch over its dies and their indices. -/

set_option autoImplicit false
set_option Elab.async false

namespace Sys2Proof.Machine

open Sys2Proof.Claims

-- Lists without repetition.

theorem length_eraseDups_le {α : Type} [BEq α] : ∀ l : List α, l.eraseDups.length ≤ l.length
  | [] => le_rfl
  | a :: l => by
    have h : (l.filter fun b => !b == a).length ≤ l.length := List.length_filter_le ..
    have ih := length_eraseDups_le (l.filter fun b => !b == a)
    rw [List.eraseDups_cons, List.length_cons, List.length_cons]
    omega
termination_by l => l.length

theorem eraseDups_of_nodup {α : Type} [BEq α] [LawfulBEq α] {l : List α} (h : l.Nodup) : l.eraseDups = l := by
  induction h with
  | nil => rfl
  | @cons a l ha _ ih =>
    have hf : (l.filter fun b => !b == a) = l := List.filter_eq_self.mpr fun b hb => by simpa using (ha b hb).symm
    rw [List.eraseDups_cons, hf, ih]

/-- A list loses no entry to `eraseDups` just when it repeats none. -/
theorem length_eraseDups_eq_iff {α : Type} [BEq α] [LawfulBEq α] {l : List α} : l.eraseDups.length = l.length ↔ l.Nodup := by
  refine ⟨fun h => ?_, fun h => by rw [eraseDups_of_nodup h]⟩
  induction l with
  | nil => exact .nil
  | cons a l ih =>
    rw [List.eraseDups_cons, List.length_cons, List.length_cons] at h
    have hle := length_eraseDups_le (l.filter fun b => !b == a)
    have hfl : (l.filter fun b => !b == a).length ≤ l.length := List.length_filter_le ..
    have hf : (l.filter fun b => !b == a) = l := List.filter_eq_self.mpr (List.length_filter_eq_length_iff.mp (by omega))
    rw [hf] at h
    exact List.nodup_cons.mpr ⟨fun ha => by simpa using List.filter_eq_self.mp hf a ha, ih (by omega)⟩

-- What EBADNEST refuses in the fields of a record (R48).

variable {r : NestRec}

theorem NestRec.dim_eq (k : Fin 4) : r.dim k = (r.walk[k]).toNat := by
  simp [NestRec.dim, List.getD]

theorem NestRec.boundOf_eq (k : Fin 4) : r.boundOf k = (r.bound[k]).toNat := by
  simp [NestRec.boundOf, List.getD]

theorem NestRec.dim_lt (k : Nat) : r.dim k < 4 := (r.walk.toList.getD k 0).isLt

theorem NestRec.boundOf_lt (d : Nat) : r.boundOf d < 2 ^ 64 := (r.bound.toList.getD d 0).isLt

/-- The dimensions that WALK names in its slots. -/
def NestRec.dims (r : NestRec) : List Nat := (List.range r.ndim).map r.dim

theorem NestRec.dims_ok_iff : (r.dims.any (fun d => decide (r.ndim ≤ d)) || r.dims.eraseDups.length != r.ndim) = true ↔
    ∃ k d, k < r.ndim ∧ d = r.dim k ∧ (r.ndim ≤ d ∨ ∃ m, m < k ∧ r.dim m = d) := by
  have hl : r.dims.length = r.ndim := by simp [NestRec.dims]
  have hn : (r.dims.eraseDups.length != r.ndim) = true ↔ ∃ k, k < r.ndim ∧ ∃ m, m < k ∧ r.dim m = r.dim k := by
    rw [bne_iff_ne, ← hl, Ne, length_eraseDups_eq_iff, NestRec.dims, List.Nodup, List.pairwise_map, List.pairwise_iff_getElem]
    simp only [List.getElem_range, List.length_range, List.length_map, not_forall, Decidable.not_not]
    exact ⟨fun ⟨m, k, _, hk, hmk, e⟩ => ⟨k, hk, m, hmk, e⟩, fun ⟨k, hk, m, hmk, e⟩ => ⟨m, k, hmk.trans hk, hk, hmk, e⟩⟩
  rw [Bool.or_eq_true, hn]
  simp only [NestRec.dims, List.any_map, List.any_eq_true, List.mem_range, Function.comp_apply, decide_eq_true_eq]
  constructor
  · rintro (⟨k, hk, hd⟩ | ⟨k, hk, hm⟩)
    · exact ⟨k, _, hk, rfl, .inl hd⟩
    · exact ⟨k, _, hk, rfl, .inr hm⟩
  · rintro ⟨k, _, hk, rfl, hd | hm⟩
    · exact .inl ⟨k, hk, hd⟩
    · exact .inr ⟨k, hk, hm⟩

theorem NestRec.unused_iff : (((List.range 4).drop r.ndim).any fun k => r.dim k != 0 || r.boundOf k != 0) = true ↔
    ∃ k : Fin 4, r.ndim ≤ k.val ∧ (r.walk[k] ≠ 0 ∨ r.bound[k] ≠ 0) := by
  have hm (k : Nat) : k ∈ (List.range 4).drop r.ndim ↔ r.ndim ≤ k ∧ k < 4 := by
    simp only [List.range_eq_range', List.drop_range', List.mem_range'_1]
    omega
  have hz {w : Nat} (x : BitVec w) : x.toNat ≠ 0 ↔ x ≠ 0 := by simp [← BitVec.toNat_inj]
  simp only [List.any_eq_true, hm, Bool.or_eq_true, bne_iff_ne]
  constructor
  · rintro ⟨k, ⟨hk, h4⟩, h⟩
    have hd := r.dim_eq ⟨k, h4⟩
    have hb := r.boundOf_eq ⟨k, h4⟩
    exact ⟨⟨k, h4⟩, hk, by rwa [← hz, ← hz, ← hd, ← hb]⟩
  · rintro ⟨k, hk, h⟩
    exact ⟨k, ⟨hk, k.isLt⟩, by rwa [r.dim_eq, r.boundOf_eq, hz, hz]⟩

theorem NestRec.entries_iff : ((List.range 4).any fun k => r.smask.getLsbD k &&
      ((r.entry.toList.getD k 0) == 0 || (r.entry.toList.getD k 0).toNat % 8 != 0)) = true ↔
    ∃ k : Fin 4, r.smask.getLsbD k.val = true ∧ (r.entry[k] = 0 ∨ (r.entry[k]).toNat % 8 ≠ 0) := by
  have he (k : Fin 4) : r.entry.toList.getD k 0 = r.entry[k] := by simp [List.getD]
  simp only [List.any_eq_true, List.mem_range, Bool.and_eq_true, Bool.or_eq_true, beq_iff_eq, bne_iff_ne]
  constructor
  · rintro ⟨k, hk, h, h'⟩
    exact ⟨⟨k, hk⟩, h, he ⟨k, hk⟩ ▸ h'⟩
  · rintro ⟨k, h, h'⟩
    exact ⟨k, k.isLt, h, (he k).symm ▸ h'⟩

/-- A record is bad by its fields just when one of them shows it. -/
theorem NestRec.bad_iff : r.bad = true ↔ ShapeBad r := by
  have h := NestRec.dims_ok_iff (r := r)
  rw [Bool.or_eq_true] at h
  unfold NestRec.bad ShapeBad
  rw [← h, ← NestRec.unused_iff, ← NestRec.entries_iff]
  simp only [NestRec.dims, Bool.or_eq_true, Bool.and_eq_true, beq_iff_eq, decide_eq_true_eq, bne_iff_ne, pageSize, gt_iff_lt, p2]
  rw [iff_iff_eq]
  ac_rfl

-- Iterations and their indices (R51).

theorem foldl_mul (a : Nat) (l : List Nat) : l.foldl (· * ·) a = a * l.prod := by
  induction l generalizing a with
  | nil => simp
  | cons b l ih => rw [List.foldl_cons, ih, List.prod_cons, Nat.mul_assoc]

theorem NestRec.iterations_eq : r.iterations = max r.stages 1 * ((List.range r.ndim).map r.boundOf).prod := by
  rw [NestRec.iterations, foldl_mul]

/-- One loop of the count of an iteration's indices: what is left of the number, and the indices so far. -/
def NestRec.countDim (r : NestRec) (d : Nat) (a : Nat × Vector Word 4) : Nat × Vector Word 4 :=
  (a.1 / max 1 (r.boundOf d), if h : d < 4 then a.2.set d (BitVec.ofNat 64 (a.1 % max 1 (r.boundOf d))) else a.2)

theorem NestRec.indices_eq (it : Nat) : r.indices it =
    ((r.dims.foldr r.countDim (it / max r.stages 1, Vector.replicate 4 0)).2, it % max r.stages 1) := by
  rw [NestRec.indices, List.foldl_reverse, NestRec.dims, List.foldr_map]
  rfl

/-- The index of a dimension. -/
abbrev idxOf (v : Vector Word 4) (d : Nat) : Nat := (v.toList.getD d 0).toNat

theorem idxOf_set_same {v : Vector Word 4} {d : Nat} (hd : d < 4) {x : Word} : idxOf (v.set d x) d = x.toNat := by
  simp [idxOf, List.getD, hd]

theorem idxOf_set_other {v : Vector Word 4} {d e : Nat} (hd : d < 4) (h : e ≠ d) {x : Word} : idxOf (v.set d x) e = idxOf v e := by
  simp [idxOf, List.getD, h.symm]

/-- Loops of distinct dimensions count a number: their indices, read as digits from the outermost on, give it back. -/
theorem NestRec.count_digits {q : Nat} {v : Vector Word 4} : ∀ {ds : List Nat}, ds.Nodup → (∀ d ∈ ds, d < 4) →
    (∀ d ∈ ds, 0 < r.boundOf d) →
    ds.foldl (fun a d => a * r.boundOf d + idxOf (ds.foldr r.countDim (q, v)).2 d) (ds.foldr r.countDim (q, v)).1 = q ∧
      (ds.foldr r.countDim (q, v)).1 = q / (ds.map r.boundOf).prod ∧
      ∀ d ∈ ds, idxOf (ds.foldr r.countDim (q, v)).2 d < r.boundOf d
  | [], _, _, _ => by simp
  | d :: ds, hn, h4, hb => by
    obtain ⟨hd, hn⟩ := List.nodup_cons.mp hn
    obtain ⟨h4d, h4⟩ := List.forall_mem_cons.mp h4
    obtain ⟨hbd, hb⟩ := List.forall_mem_cons.mp hb
    obtain ⟨ihv, ihq, ihb⟩ := NestRec.count_digits hn h4 hb
    rw [List.foldr_cons, List.foldl_cons]
    generalize ds.foldr r.countDim (q, v) = a at ihv ihq ihb ⊢
    have hmax : max 1 (r.boundOf d) = r.boundOf d := Nat.max_eq_right hbd
    have hlt : a.1 % r.boundOf d < r.boundOf d := Nat.mod_lt _ hbd
    have hidx : idxOf (r.countDim d a).2 d = a.1 % r.boundOf d := by
      rw [NestRec.countDim, hmax, dif_pos h4d, idxOf_set_same h4d, BitVec.toNat_ofNat, Nat.mod_eq_of_lt (hlt.trans (r.boundOf_lt d))]
    have hother {e : Nat} (he : e ∈ ds) : idxOf (r.countDim d a).2 e = idxOf a.2 e := by
      rw [NestRec.countDim, dif_pos h4d, idxOf_set_other h4d fun h => hd (h ▸ he)]
    have hq : (r.countDim d a).1 = a.1 / r.boundOf d := congrArg (a.1 / ·) hmax
    refine ⟨?_, ?_, List.forall_mem_cons.mpr ⟨hidx ▸ hlt, fun e he => hother he ▸ ihb e he⟩⟩
    · rw [hidx, hq, Nat.div_add_mod', List.foldl_ext _ _ _ fun b e he => by rw [hother he]]
      exact ihv
    · rw [hq, ihq, Nat.div_div_eq_div_mul, List.map_cons, List.prod_cons, Nat.mul_comm]

/-- A record that EBADNEST does not refuse names each of its dimensions once. -/
theorem NestRec.dims_perm (h : r.bad = false) : r.dims.Perm (List.range r.ndim) := by
  have hok := NestRec.dims_ok_iff.not.mpr fun hk => Bool.eq_false_iff.mp h (NestRec.bad_iff.mpr (.inr (.inr (.inr (.inr (.inr (.inr (.inr (.inr (.inr (.inr (.inl hk))))))))))))
  rw [Bool.not_eq_true, Bool.or_eq_false_iff, bne_eq_false_iff_eq] at hok
  obtain ⟨hlt, hlen⟩ := hok
  have hl : r.dims.length = r.ndim := by simp [NestRec.dims]
  have hn : r.dims.Nodup := length_eraseDups_eq_iff.mp (hlen.trans hl.symm)
  refine (List.subperm_of_subset hn fun d hd => ?_).perm_of_length_le (by simp [hl])
  exact List.mem_range.mpr (by simpa using List.any_eq_false.mp hlt d hd)

theorem NestRec.indices_spec (h : r.bad = false) {it : Nat} (hit : it < r.iterations) :
    (r.indices it).2 = it % max r.stages 1 ∧
    (List.range r.ndim).foldl (fun a k => a * r.boundOf (r.dim k) + ((r.indices it).1.toList.getD (r.dim k) 0).toNat) 0 =
      it / max r.stages 1 ∧
    ∀ k, k < r.ndim → ((r.indices it).1.toList.getD (r.dim k) 0).toNat < r.boundOf (r.dim k) := by
  have hp := NestRec.dims_perm h
  have hprod : r.iterations = max r.stages 1 * (r.dims.map r.boundOf).prod := by
    rw [NestRec.iterations_eq, (hp.map r.boundOf).prod_eq]
  have h4 (d : Nat) (hd : d ∈ r.dims) : d < 4 := by
    obtain ⟨k, -, rfl⟩ := List.mem_map.mp hd
    exact r.dim_lt k
  have hb (d : Nat) (hd : d ∈ r.dims) : 0 < r.boundOf d := by
    refine Nat.pos_of_ne_zero fun h0 => ?_
    rw [hprod, List.prod_eq_zero (List.mem_map.mpr ⟨d, hd, h0⟩)] at hit
    exact absurd hit (Nat.not_lt_zero it)
  obtain ⟨hv, hq, hlt⟩ := NestRec.count_digits (q := it / max r.stages 1) (v := Vector.replicate 4 0)
    (hp.nodup_iff.mpr List.nodup_range) h4 hb
  have h0 : it / max r.stages 1 / (r.dims.map r.boundOf).prod = 0 := by
    rw [Nat.div_div_eq_div_mul, ← hprod, Nat.div_eq_of_lt hit]
  rw [hq, h0, NestRec.dims, List.foldl_map] at hv
  rw [NestRec.indices_eq]
  exact ⟨rfl, hv, fun k hk => hlt _ (List.mem_map.mpr ⟨k, List.mem_range.mpr hk, rfl⟩)⟩

-- The dies of a launch and what each of them runs (R52).

theorem ones_eq_count (n m : Nat) : ones n m = Nat.count (fun i => m.testBit i = true) n := by
  rw [ones, Nat.count, List.countP_eq_length_filter]
  congr 2
  funext i
  simp

theorem exists_ones_eq {m k : Nat} : ∀ {n : Nat}, k < ones n m → ∃ d, d < n ∧ m.testBit d = true ∧ ones d m = k
  | 0, h => absurd h (Nat.not_lt_zero k)
  | n + 1, h => by
    by_cases hk : k < ones n m
    · obtain ⟨d, hd, hb, he⟩ := exists_ones_eq hk
      exact ⟨d, hd.trans (Nat.lt_succ_self n), hb, he⟩
    · rw [ones_eq_count, Nat.count_succ, ← ones_eq_count] at h
      split at h
      · next hb => exact ⟨n, Nat.lt_succ_self n, hb, by omega⟩
      · omega

variable {l : Launch} {d : DieIx} {k it : Nat}

/-- How many dies a launch has. -/
def Launch.width (l : Launch) : Nat := ones 8 l.dies.toNat

theorem Launch.iter_eq : l.iter d k = l.rank d + l.width * k := rfl

theorem Launch.rank_lt (hd : l.dies.getLsbD d.val = true) : l.rank d < l.width := by
  rw [Launch.rank, Launch.width, ones_eq_count, ones_eq_count]
  exact Nat.count_strict_mono hd d.isLt

theorem Launch.rank_inj {e : DieIx} (hd : l.dies.getLsbD d.val = true) (he : l.dies.getLsbD e.val = true)
    (h : l.rank d = l.rank e) : d = e := by
  rw [Launch.rank, Launch.rank, ones_eq_count, ones_eq_count] at h
  exact Fin.ext (Nat.count_injective hd he h)

/-- The share of a die holds just its iterations below the total. -/
theorem Launch.lt_share_iff : k < l.share d ↔ l.dies.getLsbD d.val = true ∧ l.iter d k < l.total := by
  unfold Launch.share
  by_cases hd : l.dies.getLsbD d.val = true
  · have hr := Launch.rank_lt hd
    have hm : 0 < l.width := by omega
    rw [if_pos hd, Launch.iter_eq, show ones 8 l.dies.toNat = l.width from rfl, Nat.lt_div_iff_mul_lt hm, Nat.mul_comm]
    simp only [hd, true_and]
    omega
  · rw [if_neg hd]
    exact iff_of_false (Nat.not_lt_zero k) fun h => hd h.1

theorem Launch.iter_mod (hd : l.dies.getLsbD d.val = true) : l.iter d k % l.width = l.rank d := by
  rw [Launch.iter_eq, Nat.add_mul_mod_self_left, Nat.mod_eq_of_lt (Launch.rank_lt hd)]

theorem Launch.iter_div (hd : l.dies.getLsbD d.val = true) : l.iter d k / l.width = k := by
  have hr := Launch.rank_lt hd
  rw [Launch.iter_eq, Nat.add_mul_div_left _ _ (by omega), Nat.div_eq_of_lt hr, Nat.zero_add]

theorem Launch.width_pos (h : l.dies ≠ 0) : 0 < l.width := by
  by_contra h0
  have hz : Nat.count (fun i => l.dies.toNat.testBit i = true) 8 = 0 := by rw [← ones_eq_count]; exact Nat.eq_zero_of_not_pos h0
  refine h (BitVec.eq_of_getLsbD_eq fun i hi => ?_)
  have hb := Nat.count_iff_forall_not.mp hz i hi
  exact (Bool.eq_false_iff.mpr hb).trans BitVec.getLsbD_zero.symm

/-- Each iteration of a launch is run by one die, at one place of its order. -/
theorem Launch.exists_unique_share (hl : l.dies ≠ 0) (hit : it < l.total) :
    ∃ d k, l.dies.getLsbD d.val = true ∧ k < l.share d ∧ l.iter d k = it ∧
      ∀ d' k', l.dies.getLsbD d'.val = true → k' < l.share d' → l.iter d' k' = it → d' = d ∧ k' = k := by
  obtain ⟨e, he, hb, hr⟩ := exists_ones_eq (Nat.mod_lt it (Launch.width_pos hl))
  have hbit : l.dies.getLsbD (⟨e, he⟩ : DieIx).val = true := hb
  have hiter : l.iter ⟨e, he⟩ (it / l.width) = it := by
    rw [Launch.iter_eq, show l.rank ⟨e, he⟩ = it % l.width from hr, Nat.mod_add_div]
  refine ⟨⟨e, he⟩, it / l.width, hbit, Launch.lt_share_iff.mpr ⟨hbit, hiter.symm ▸ hit⟩, hiter, fun d' k' hd' _ h' => ?_⟩
  have hd : d' = ⟨e, he⟩ := Launch.rank_inj hd' hbit (by rw [← Launch.iter_mod hd' (k := k'), h']; exact hr.symm)
  exact ⟨hd, by rw [← Launch.iter_div hd' (k := k'), h']⟩

/-- The rank of a die, as the dies of the launch before it. -/
theorem Launch.rank_eq_length (d : DieIx) :
    (((List.range 8).filter fun e => l.dies.getLsbD e).filter fun e => decide (e < d.val)).length = l.rank d := by
  have hs : List.range 8 = List.range d.val ++ (List.range (8 - d.val)).map (d.val + ·) := by
    rw [← List.range_add, Nat.add_sub_cancel' d.isLt.le]
  rw [List.filter_filter, hs, List.filter_append]
  have h0 : ((List.range (8 - d.val)).map (d.val + ·)).filter (fun e => decide (e < d.val) && l.dies.getLsbD e) = [] := by
    simp [List.filter_eq_nil_iff]
  have h1 : (List.range d.val).filter (fun e => decide (e < d.val) && l.dies.getLsbD e) =
      (List.range d.val).filter fun e => l.dies.getLsbD e :=
    List.filter_congr fun e he => by simp [List.mem_range.mp he]
  rw [h0, h1, List.append_nil]
  rfl

/-- Settles O39: the rank of a die is the remainder that its iterations leave, the count of WALK is a mixed-radix number. -/
theorem iterationOrder : Obligations.IterationOrder := by
  refine ⟨fun l it hl hit => Launch.exists_unique_share hl hit, fun l d k hk => ?_, fun r it h hit => NestRec.indices_spec h hit⟩
  obtain ⟨hd, hlt⟩ := Launch.lt_share_iff.mp hk
  refine ⟨hlt, hd, ?_, Launch.iter_div hd⟩
  rw [Launch.rank_eq_length]
  exact Launch.iter_mod hd

end Sys2Proof.Machine
end

section
/-! What writes to memory leave undisturbed: contexts and queues of the cores, pins and save slots of the dies, launches, saved jobs,
submissions (07 R123, R137 to R145; 23 R386, R387; 25 R396). The relation and its rules. -/

set_option autoImplicit false
set_option Elab.async false

namespace Sys2Proof.Machine

/-- A core but for its posted stores. -/
def Core.withoutStores (c : Core) : Core := { c with psb := [] }

/-- A die but for what its cache holds. -/
def Die.withoutLines (d : Die) : Die := { d with lines := [], ackSeq := [] }

/-- Launches, saved jobs, submissions, the next sequence of the journal, wall time. -/
structure Books where
  launches : List Launch
  parked : List Parked
  subs : List Submission
  jrnlNext : Nat
  wall : Nat

def State.books (s : State) : Books := ⟨s.launches, s.parked, s.subs, s.jrnlNext, s.wall⟩

/-- t differs from s₀ in nothing but memory, what is known of its lines, posted stores and messages. -/
structure Undisturbed (s₀ t : State) : Prop where
  core : ∀ n : CoreIx, (t.core n).withoutStores = (s₀.core n).withoutStores
  die : ∀ d : DieIx, (t.die d).withoutLines = (s₀.die d).withoutLines
  books : t.books = s₀.books
  substat : ∀ f : Fin 65, (t.fns[f]).substat = (s₀.fns[f]).substat

variable {s₀ s t : State} {n : CoreIx} {d : DieIx}

theorem Undisturbed.refl (s : State) : Undisturbed s s := ⟨fun _ => rfl, fun _ => rfl, rfl, fun _ => rfl⟩

theorem Undisturbed.trans (h : Undisturbed s₀ s) (h' : Undisturbed s t) : Undisturbed s₀ t :=
  ⟨fun n => (h'.core n).trans (h.core n), fun d => (h'.die d).trans (h.die d), h'.books.trans h.books,
    fun f => (h'.substat f).trans (h.substat f)⟩

theorem Undisturbed.launches_eq (h : Undisturbed s₀ s) : s.launches = s₀.launches := congrArg Books.launches h.books
theorem Undisturbed.parked_eq (h : Undisturbed s₀ s) : s.parked = s₀.parked := congrArg Books.parked h.books
theorem Undisturbed.subs_eq (h : Undisturbed s₀ s) : s.subs = s₀.subs := congrArg Books.subs h.books
theorem Undisturbed.jrnlNext_eq (h : Undisturbed s₀ s) : s.jrnlNext = s₀.jrnlNext := congrArg Books.jrnlNext h.books
theorem Undisturbed.wall_eq (h : Undisturbed s₀ s) : s.wall = s₀.wall := congrArg Books.wall h.books

/-- What a core shows beside its posted stores is as it was. -/
theorem Undisturbed.core_eq (h : Undisturbed s₀ s) {α : Type} (F : Core → α) (hF : ∀ c : Core, F c.withoutStores = F c := by intro c; rfl) :
    F (s.core n) = F (s₀.core n) := by rw [← hF, h.core, hF]

theorem Undisturbed.ctx0_eq (h : Undisturbed s₀ s) : (s.core n).ctx0 = (s₀.core n).ctx0 := h.core_eq Core.ctx0
theorem Undisturbed.ctx1_eq (h : Undisturbed s₀ s) : (s.core n).ctx1 = (s₀.core n).ctx1 := h.core_eq Core.ctx1
theorem Undisturbed.lq_eq (h : Undisturbed s₀ s) : (s.core n).lq = (s₀.core n).lq := h.core_eq Core.lq
theorem Undisturbed.sq_eq (h : Undisturbed s₀ s) : (s.core n).sq = (s₀.core n).sq := h.core_eq Core.sq
theorem Undisturbed.job_eq (h : Undisturbed s₀ s) : s.job n = s₀.job n := h.core_eq Core.job
theorem Undisturbed.other_eq (h : Undisturbed s₀ s) : (s.core n).other = (s₀.core n).other := h.core_eq Core.other

theorem Undisturbed.pinned_eq (h : Undisturbed s₀ s) : (s.die d).pinned = (s₀.die d).pinned :=
  (congrArg Die.pinned (h.die d) :)

-- Updates of the state.

/-- What is no part of the relation is free. -/
theorem Undisturbed.update (h : Undisturbed s₀ s) (hc : t.cores = s.cores := by rfl) (hd : t.dies = s.dies := by rfl)
    (hb : t.books = s.books := by rfl) (hf : t.fns = s.fns := by rfl) : Undisturbed s₀ t := by
  refine ⟨fun n => ?_, fun d => ?_, hb.trans h.books, fun f => ?_⟩
  · rw [State.core, hc]
    exact h.core n
  · rw [State.die, hd]
    exact h.die d
  · rw [hf]
    exact h.substat f

/-- The same change is made of two states that differ undisturbed. -/
theorem Undisturbed.setBooks (h : Undisturbed s₀ s) {l : List Launch} {p : List Parked} {u : List Submission} {k w : Nat} :
    Undisturbed { s₀ with launches := l, parked := p, subs := u, jrnlNext := k, wall := w }
      { s with launches := l, parked := p, subs := u, jrnlNext := k, wall := w } :=
  ⟨h.core, h.die, rfl, h.substat⟩

theorem Undisturbed.mapStores (h : Undisturbed s₀ s) {f : Core → List PStore} :
    Undisturbed s₀ { s with cores := s.cores.map fun (c : Core) => { c with psb := f c } } :=
  ⟨fun n => by
    rw [State.core, Fin.getElem_fin, Vector.getElem_map]
    exact h.core n, h.die, h.books, h.substat⟩

theorem Undisturbed.setDies (h : Undisturbed s₀ s) {v : Vector Die 8} (hv : ∀ d : DieIx, (v[d]).withoutLines = (s.die d).withoutLines) :
    Undisturbed s₀ { s with dies := v } :=
  ⟨h.core, fun d => (hv d).trans (h.die d), h.books, h.substat⟩

theorem Die.withoutLines_invalidate (k : Die) (line : Nat) (q : BitVec 32) (ord : Nat) (fill : Bool) :
    (k.invalidate line q ord fill).withoutLines = k.withoutLines := rfl

theorem Undisturbed.modDie (h : Undisturbed s₀ s) {f : Die → Die} (hf : ∀ k, (f k).withoutLines = k.withoutLines) :
    Undisturbed s₀ (s.modDie d f) := by
  refine h.setDies fun e => ?_
  show ((s.modDie d f).die e).withoutLines = _
  by_cases he : e = d
  · subst he
    rw [State.die_modDie]
    exact hf _
  · rw [State.die_modDie_other _ _ he]

theorem Undisturbed.ite {p : Prop} [Decidable p] (hs : Undisturbed s₀ s) (ht : Undisturbed s₀ t) : Undisturbed s₀ (if p then s else t) := by
  split
  · exact hs
  · exact ht

theorem Undisturbed.foldl {α : Type} {f : State → α → State} {l : List α} (h : Undisturbed s₀ s)
    (hf : ∀ t a, Undisturbed s₀ t → Undisturbed s₀ (f t a)) : Undisturbed s₀ (l.foldl f s) :=
  List.foldlRecOn l f h fun t ht a _ => hf t a ht

-- Writes at their homes.

variable {mask : BitVec 8} {bs : List (Nat × Byte × Option PoU)} {part : BitVec 16}

theorem Undisturbed.homePut (h : Undisturbed s₀ s) : Undisturbed s₀ (s.homePut bs) := by
  unfold State.homePut
  refine Undisturbed.foldl h.update fun t b ht => ?_
  split
  · exact ht.update
  · exact ht.update

theorem Undisturbed.roundOver (h : Undisturbed s₀ s) {ord : Nat} : Undisturbed s₀ (s.roundOver ord) := by
  unfold State.roundOver
  split
  · exact .ite h h.update
  · exact h

theorem Undisturbed.invalArrives (h : Undisturbed s₀ s) {i : Inval} : Undisturbed s₀ (s.invalArrives i) := by
  unfold State.invalArrives
  have hd := h.modDie (d := i.die) fun k => k.withoutLines_invalidate i.line i.seq s.ord (s.filling i.die i.line)
  exact .ite h (.ite hd (Undisturbed.roundOver hd.mapStores.update))

theorem Undisturbed.flushInvals (h : Undisturbed s₀ s) {home : Nat} : Undisturbed s₀ (s.flushInvals home mask) :=
  Undisturbed.foldl h.update fun _ _ ht => ht.invalArrives

/-- A line is written: its sequence advances and the dies of a mask give it up. -/
theorem Undisturbed.orderAtHome (h : Undisturbed s₀ s) : Undisturbed s₀ (s.orderAtHome mask bs) := by
  refine (h.homePut.foldl fun _ _ ht => ht.flushInvals).foldl fun t line ht => Undisturbed.update (ht.setDies (v := Vector.ofFn fun d =>
    if mask.getLsbD d.val then (t.dies[d]).invalidate line (t.seqOf line + 1) t.ord (t.filling d line) else t.dies[d]) fun d => ?_)
  rw [Fin.getElem_fin, Vector.getElem_ofFn]
  split <;> rfl

theorem Undisturbed.setDirty (h : Undisturbed s₀ s) {entry : Nat} : Undisturbed s₀ (s.setDirty part entry) := .ite h h.orderAtHome

-- Messages and the journal.

theorem Undisturbed.msix (h : Undisturbed s₀ s) {fn : Fin 65} {vec : Fin 4} : Undisturbed s₀ (s.msix fn vec) := by
  refine .ite ⟨h.core, h.die, h.books, fun f => ?_⟩ h.update
  rw [← h.substat f]
  by_cases hf : fn.val = f.val
  · obtain rfl := Fin.ext hf
    simp
  · simp [hf]

theorem Undisturbed.msixPart (h : Undisturbed s₀ s) {vec : Fin 4} : Undisturbed s₀ (s.msixPart part vec) := by
  unfold State.msixPart
  split
  · exact h.msix
  · exact h

/-- The sequence that the journal stands at after an entry: before JRNLCFG is written there is no ring. -/
def State.afterEntry (s : State) : Nat := if s.logn = 0 then s.jrnlNext else s.jrnlNext + 1

/-- An entry of the journal leaves all but its own sequence undisturbed. -/
theorem undisturbed_journal (s : State) (e : JEnt) : Undisturbed { s with jrnlNext := s.afterEntry } (s.journal e) := by
  unfold State.journal
  by_cases h0 : s.logn = 0
  · rw [if_pos (beq_iff_eq.mpr h0), State.afterEntry, if_pos h0]
    exact .refl s
  · rw [if_neg (by simpa using h0), State.afterEntry, if_neg h0]
    extract_lets pa u v
    have hu : Undisturbed s u := (Undisturbed.refl s).orderAtHome
    have hv : Undisturbed { s with jrnlNext := s.jrnlNext + 1 } v := by
      have hk := hu.setBooks (l := s.launches) (p := s.parked) (u := s.subs) (k := s.jrnlNext + 1) (w := s.wall)
      refine hk.update rfl rfl ?_ rfl
      simp only [State.books, v, hu.launches_eq, hu.parked_eq, hu.subs_eq, hu.jrnlNext_eq, hu.wall_eq]
    exact .ite hv.msixPart (.ite hv.msix hv)

end Sys2Proof.Machine
end

section
/-! Submissions: the checks of a record, its acceptance or its refusal, and the answer to whoever submitted it (03 R48, R49; 25 R398,
R399). -/

set_option autoImplicit false
set_option Elab.async false

namespace Sys2Proof.Machine

open Sys2Proof.Claims

variable {s t : State} {u : Submission} {rest : List Submission} {p : BitVec 16} {va : Word} {b : List Byte} {r : NestRec}

-- The checks.

theorem firstChecks_badNest (h : (badBytes r.va b || r.bad) = true) : s.firstChecks p b r = some 1 := if_pos h

theorem firstChecks_of_shape (h1 : badBytes r.va b = false) (h2 : r.bad = false) : s.firstChecks p b r =
    if badOperands b then some 2 else if r.unprivileged s p then some 3 else if r.dies &&& (s.diesvc &&& s.shellsvc) == 0 then some 4 else none := by
  have h : ¬(badBytes r.va b || r.bad) = true := by simp [h1, h2]
  exact if_neg h

theorem check_error {c : Nat} (h : s.firstChecks p b (nestOf va b) = some c) : s.check p va b = .error c := by
  unfold State.check
  dsimp only
  rw [h]

theorem check_ok (h : s.firstChecks p b (nestOf va b) = none) (hg : (nestOf va b).gang = false) :
    s.check p va b = .ok (nestOf va b) := by
  unfold State.check
  dsimp only
  rw [h, hg]
  rfl

theorem unprivileged_iff {q : Partition} (hq : s.partOf p = some q) :
    r.unprivileged s p = true ↔ r.part ≠ p ∨ r.dies &&& ~~~q.dies ≠ 0 ∨ r.prio = 7 ∧ q.priv = false := by
  unfold NestRec.unprivileged
  rw [hq]
  simp [or_assoc]

/-- The checks of a record, in the order of R48, but for those of gangs. -/
theorem check_spec (s : State) (p : BitVec 16) (va : Word) (b : List Byte) : let r := nestOf va b
    (va.toNat % 64 ≠ 0 ∨ fieldAt b 0 1 % 4 = 2 ∨ fieldAt b 0 1 % 4 = 3 ∨ ShapeBad r → s.check p va b = .error 1) ∧
    (badBytes va b = false → ¬ ShapeBad r →
      (badOperands b = true → s.check p va b = .error 2) ∧
      (badOperands b = false →
        (∀ q, s.partOf p = some q → r.part ≠ p ∨ r.dies &&& ~~~q.dies ≠ 0 ∨ r.prio = 7 ∧ q.priv = false →
          s.check p va b = .error 3) ∧
        (∀ q, s.partOf p = some q → r.part = p → r.dies &&& ~~~q.dies = 0 → (r.prio = 7 → q.priv = true) →
          (r.dies &&& (s.diesvc &&& s.shellsvc) = 0 → s.check p va b = .error 4) ∧
          (r.dies &&& (s.diesvc &&& s.shellsvc) ≠ 0 → r.gang = false → s.check p va b = .ok r)))) := by
  intro r
  refine ⟨fun h => check_error (firstChecks_badNest ?_), fun h1 hs => ?_⟩
  · rw [Bool.or_eq_true, NestRec.bad_iff, show (nestOf va b).va = va from rfl, badBytes]
    rcases h with h | h | h | h
    · exact .inl (by simp [h])
    · exact .inl (by simp [h])
    · exact .inl (by simp [h])
    · exact .inr h
  · have hc := firstChecks_of_shape (s := s) (p := p) (r := r) (b := b) h1 (Bool.eq_false_iff.mpr fun h => hs (NestRec.bad_iff.mp h))
    refine ⟨fun h2 => check_error (by rw [hc, if_pos h2]), fun h2 => ?_⟩
    rw [if_neg (by simp [h2])] at hc
    refine ⟨fun q hq h3 => check_error (by rw [hc, if_pos ((unprivileged_iff hq).mpr h3)]), fun q hq hp hd hv => ?_⟩
    have h3 : ¬r.unprivileged s p = true := fun h => by
      rcases (unprivileged_iff hq).mp h with h | h | ⟨h, h'⟩
      · exact h hp
      · exact h hd
      · rw [hv h] at h'
        cases h'
    rw [if_neg h3] at hc
    exact ⟨fun h4 => check_error (by rw [hc, if_pos (beq_iff_eq.mpr h4)]),
      fun h4 hg => check_ok (by rw [hc, if_neg fun h => h4 (eq_of_beq h)]) hg⟩

-- The answer.

theorem leBytes_eight (v : Nat) : leBytes 8 v = (List.range 8).map fun k => BitVec.ofNat 8 (v / 256 ^ k) := by
  simp only [leBytes, p2, pow_mul]
  rfl

variable {val : Word} {f : Fin 65} {k : Fin 16} {n : CoreIx}

/-- A function is told: its slot reads the answer, and a message is sent. -/
def State.tellFn (s : State) (u : Submission) (val : Word) : State :=
  match u.fn with
  | some (f, k) =>
    if u.quiet then s
    else { s with fns := s.fns.set f { s.fns[f] with substat := (s.fns[f]).substat.set k val } }.msix f 0
  | none => s

/-- A package is told. -/
def State.tellFar (s : State) (u : Submission) (val : Word) : State :=
  match u.far with
  | some pkg => { s with fabricOut := s.fabricOut ++ [⟨pkg, s.incarn, u.part.getD 0, .submitted val⟩] }
  | none => s

/-- The access of a job that waits for the answer has it. -/
def Job.told (u : Submission) (val : Word) (j : Job) : Job := { j with outs := j.outs.map fun (g : GAcc) =>
  if g.ord == u.ord then { g with val := some (leBytes 8 val.toNat, none) } else g }

/-- A core is told. -/
def State.tellCore (s : State) (u : Submission) (val : Word) : State :=
  match u.core with
  | some c => if h : c < 128 then s.modCore ⟨c, h⟩ fun k => { k with ctx0 := k.ctx0.told u val, ctx1 := k.ctx1.told u val } else s
  | none => s

theorem State.answerSub_eq (s : State) (u : Submission) (val : Word) :
    s.answerSub u val = ((s.tellFn u val).tellFar u val).tellCore u val := rfl

theorem State.books_msix (s : State) (f : Fin 65) (v : Fin 4) : (s.msix f v).books = s.books ∧ (s.msix f v).cores = s.cores := by
  unfold State.msix
  dsimp only
  split <;> exact ⟨rfl, rfl⟩

theorem State.books_tellFn (s : State) : (s.tellFn u val).books = s.books ∧ (s.tellFn u val).cores = s.cores := by
  unfold State.tellFn
  split
  · split
    · exact ⟨rfl, rfl⟩
    · exact State.books_msix _ _ _
  · exact ⟨rfl, rfl⟩

theorem State.books_tellFar (s : State) :
    (s.tellFar u val).books = s.books ∧ (s.tellFar u val).cores = s.cores ∧ (s.tellFar u val).fns = s.fns := by
  unfold State.tellFar
  split <;> exact ⟨rfl, rfl, rfl⟩

theorem State.books_tellCore (s : State) : (s.tellCore u val).books = s.books ∧ (s.tellCore u val).fns = s.fns := by
  unfold State.tellCore
  split
  · split <;> exact ⟨rfl, rfl⟩
  · exact ⟨rfl, rfl⟩

theorem State.books_answerSub (s : State) : (s.answerSub u val).books = s.books :=
  (State.books_tellCore _).1.trans ((State.books_tellFar _).1.trans s.books_tellFn.1)

/-- The slot of the function that submitted reads the answer. -/
theorem State.substat_answerSub (s : State) (hf : u.fn = some (f, k)) (hq : u.quiet = false) :
    ((s.answerSub u val).fns[f]).substat[k] = val := by
  have hfn : (s.answerSub u val).fns = (s.tellFn u val).fns := (State.books_tellCore _).2.trans (State.books_tellFar _).2.2
  have hm (v : State) : ((v.msix f 0).fns[f]).substat = (v.fns[f]).substat := ((Undisturbed.refl v).msix).substat f
  rw [hfn, State.tellFn, hf]
  dsimp only
  rw [hq, if_neg Bool.false_ne_true, hm]
  simp

/-- The access of the core that submitted has the answer. -/
theorem State.outs_answerSub (s : State) (hn : u.core = some n.val) :
    ((s.answerSub u val).job n).outs = ((s.job n).told u val).outs := by
  have hc : ((s.tellFn u val).tellFar u val).core n = s.core n := by
    rw [State.core, (State.books_tellFar _).2.1, s.books_tellFn.2, State.core]
  rw [State.answerSub_eq, State.tellCore, hn]
  dsimp only
  rw [dif_pos n.isLt, State.job, State.core_modCore, hc, State.job]
  unfold Core.job
  split <;> rfl

-- The oldest submission is taken.

/-- A record that passes its checks is accepted, one that fails is refused. -/
theorem takeSub_eq (hs : s.subs = u :: rest) (hw : s.writesAhead u = false) (hp : u.part = some p)
    (hsub : ({ s with subs := rest } : State).submits p = true)
    (hb : u.bytes = some b ∨ u.bytes = none ∧ ({ s with subs := rest } : State).vaBytes p u.va.toNat 640 = some b) : s.takeSub =
    some (match ({ s with subs := rest } : State).check p u.va b with
      | .error c => ({ s with subs := rest } : State).refuse u c (nestOf u.va b).tag
      | .ok r => ({ s with subs := rest } : State).accept u r) := by
  unfold State.takeSub
  rw [hs]
  dsimp only
  rw [if_neg (by simp [hw]), hp]
  rcases hb with hb | ⟨hb, hv⟩
  · rw [hb]
    dsimp only
    rw [hsub]
    generalize State.check _ _ _ _ = c
    cases c <;> rfl
  · rw [hb]
    dsimp only
    rw [hv]
    dsimp only
    rw [hsub]
    generalize State.check _ _ _ _ = c
    cases c <;> rfl

/-- The entry of a launch accepted (R49). -/
def acceptEntry (r : NestRec) (dies : BitVec 8) : JEnt :=
  launchEntry 1 (if r.iterations == 0 then JState.done.code else JState.queued.code) 0 0xFF r
    (leBytes 1 dies.toNat ++ leBytes 1 r.prio ++ leBytes 8 r.iterations)

/-- The dies that a launch is given: all that a gang names, else those in service (R50). -/
def State.diesFor (s : State) (r : NestRec) : BitVec 8 := if r.gang then r.dies else r.dies &&& s.bothUp

/-- The launch as it is accepted. -/
def State.launchOf (s : State) (r : NestRec) : Launch :=
  ⟨s.jrnlNext, { r with dies := s.diesFor r }, s.diesFor r, r.iterations, Vector.replicate 8 0, 0, s.wall, [], none, []⟩

theorem accept_eq (hr : r.iterations ≠ 0) : s.accept u r =
    State.answerSub { s.journal (acceptEntry r (s.diesFor r)) with
      launches := s.launches ++ [s.launchOf r] } u (BitVec.ofNat 64 s.jrnlNext) := by
  have hj := undisturbed_journal s (acceptEntry r (s.diesFor r))
  unfold State.accept
  extract_lets dies seq total st v l w
  have hv : v = s.journal (acceptEntry r (s.diesFor r)) := rfl
  have hw : w = { v with launches := v.launches ++ [l] } := if_neg (by simpa [total] using hr)
  have hl : l = s.launchOf r := by
    simp only [l, hv, hj.wall_eq]
    rfl
  rw [hw, hl, hv, hj.launches_eq]

theorem undisturbed_refuse (c : Nat) (tag : BitVec 32) : ∃ v : State, Undisturbed { s with jrnlNext := s.afterEntry } v ∧
    s.refuse u c tag = v.answerSub u (0x8000000000000000 + BitVec.ofNat 64 c) := ⟨_, undisturbed_journal _ _, rfl⟩

theorem refusal_bytes {c : Nat} (hc : c < 8) : leBytes 8 (0x8000000000000000 + BitVec.ofNat 64 c : Word).toNat =
    [BitVec.ofNat 8 c, 0, 0, 0, 0, 0, 0, 0x80] := by
  interval_cases c <;> decide

/-- What the access of a job reads once its submission is answered. -/
theorem outs_answered {v : State} (hj : v.job n = s.job n) (hn : u.core = some n.val) {bytes : List Byte} (hv : leBytes 8 val.toNat = bytes) :
    ((v.answerSub u val).job n).outs =
      (s.job n).outs.map fun (g : GAcc) => if g.ord = u.ord then { g with val := some (bytes, none) } else g := by
  rw [v.outs_answerSub hn, hj, ← hv]
  simp only [Job.told, beq_iff_eq]

/-- A launch is accepted with the next sequence, and its submitter is told. -/
theorem accept_spec (hr : r.iterations ≠ 0) (hl : s.logn ≠ 0) : (s.accept u r).subs = s.subs ∧ (s.accept u r).jrnlNext = s.jrnlNext + 1 ∧
    (s.accept u r).launches = s.launches ++ [s.launchOf r] ∧
    (∀ f k, u.fn = some (f, k) → u.quiet = false → ((s.accept u r).fns[f]).substat[k] = BitVec.ofNat 64 s.jrnlNext) ∧
    ∀ n : CoreIx, u.core = some n.val → ((s.accept u r).job n).outs = (s.job n).outs.map fun (g : GAcc) => if g.ord = u.ord then
      { g with val := some ((List.range 8).map (fun k => BitVec.ofNat 8 (s.jrnlNext % 2 ^ 64 / 256 ^ k)), none) } else g := by
  have hj := undisturbed_journal s (acceptEntry r (s.diesFor r))
  have hn : (s.journal (acceptEntry r (s.diesFor r))).jrnlNext = s.jrnlNext + 1 := by rw [hj.jrnlNext_eq]; exact if_neg hl
  have hs : (s.journal (acceptEntry r (s.diesFor r))).subs = s.subs := hj.subs_eq
  have hjob (n : CoreIx) : (s.journal (acceptEntry r (s.diesFor r))).job n = s.job n := hj.job_eq
  rw [accept_eq hr]
  clear hj
  generalize s.journal _ = v at *
  have hk (n : CoreIx) : ({ v with launches := s.launches ++ [s.launchOf r] } : State).job n = s.job n := hjob n
  have hb := State.books_answerSub (u := u) (val := BitVec.ofNat 64 s.jrnlNext) { v with launches := s.launches ++ [s.launchOf r] }
  have hf := fun f k => State.substat_answerSub (u := u) (f := f) (k := k) (val := BitVec.ofNat 64 s.jrnlNext) { v with launches := s.launches ++ [s.launchOf r] }
  refine ⟨(congrArg Books.subs hb).trans hs, (congrArg Books.jrnlNext hb).trans hn, congrArg Books.launches hb, hf, fun n hc => ?_⟩
  rw [outs_answered (hk n) hc (leBytes_eight _), BitVec.toNat_ofNat]

/-- A refusal changes no launch, and tells the submitter its code. -/
theorem refuse_spec (c : Nat) (tag : BitVec 32) : (s.refuse u c tag).subs = s.subs ∧ (s.refuse u c tag).launches = s.launches ∧
    (∀ f k, u.fn = some (f, k) → u.quiet = false →
      ((s.refuse u c tag).fns[f]).substat[k] = 0x8000000000000000 + BitVec.ofNat 64 c) ∧
    ∀ n : CoreIx, u.core = some n.val → c < 8 → ((s.refuse u c tag).job n).outs = (s.job n).outs.map fun (g : GAcc) =>
      if g.ord = u.ord then { g with val := some ([BitVec.ofNat 8 c, 0, 0, 0, 0, 0, 0, 0x80], none) } else g := by
  obtain ⟨v, hv, he⟩ := undisturbed_refuse (s := s) (u := u) c tag
  rw [he]
  have hb := State.books_answerSub (u := u) (val := 0x8000000000000000 + BitVec.ofNat 64 c) v
  exact ⟨(congrArg Books.subs hb).trans hv.subs_eq, (congrArg Books.launches hb).trans hv.launches_eq,
    fun f k hf hq => State.substat_answerSub _ hf hq, fun n hc h8 => outs_answered hv.job_eq hc (refusal_bytes h8)⟩

theorem takeSub_of_writesAhead (hs : s.subs = u :: rest) (hw : s.writesAhead u = true) : s.takeSub = none := by
  unfold State.takeSub
  rw [hs]
  exact if_pos hw

/-- Settles O38: the checks are those of `check_spec`, and what an acceptance and a refusal leave is said of `accept` and `refuse`. -/
theorem launchAcceptance : Obligations.LaunchAcceptance := by
  unfold Obligations.LaunchAcceptance
  refine ⟨fun s u rest p b r hs hw hp hsub hl hb hc hr => ?_, fun s u rest p b c hs hw hp hsub hb hc => ?_,
    fun s u rest hs hw => exec_of_none rfl (takeSub_of_writesAhead hs hw), check_spec⟩
  · have ht := takeSub_eq hs hw hp hsub hb
    rw [hc] at ht
    obtain ⟨h1, h2, h3, h4, h5⟩ := accept_spec (s := { s with subs := rest }) (u := u) hr hl
    exact happens_of_eq rfl ht ⟨h1, h2, ⟨_, h3, rfl, rfl, rfl, rfl, rfl, rfl⟩, h4, h5⟩
  · have ht := takeSub_eq hs hw hp hsub hb
    rw [hc] at ht
    exact happens_of_eq rfl ht (refuse_spec c _)

end Sys2Proof.Machine
end

section
/-! Register writes of the host: what each register takes of a value, and the offsets that hold no register (01 R6; 25 R395, R400 to R405,
R412; 03 R70). -/

set_option autoImplicit false
set_option Elab.async false

namespace Sys2Proof.Machine

open Sys2Proof.Claims

variable {s t : State} {f : Fin 65} {v : Word} {o : Nat}

/-- A change of the page of a function. -/
theorem State.modFn_eq (s : State) (f : Fin 65) (g : FnPage → FnPage) : s.modFn f g = { s with fns := s.fns.set f (g s.fns[f]) } := rfl

-- The fields.

/-- DWBASE holds the bits from 36 upward (R400). -/
theorem and_dwbase (v : Word) : v &&& 0xFFFFFFF000000000 = BitVec.ofNat 64 (v.toNat / 2 ^ 36 * 2 ^ 36) := by
  have hm : (0xFFFFFFF000000000 : Word) = BitVec.allOnes 64 <<< 36 := by decide
  have hv : BitVec.ofNat 64 (v.toNat / 2 ^ 36 * 2 ^ 36) = (v >>> 36) <<< 36 := by
    apply BitVec.eq_of_toNat_eq
    simp [Nat.shiftRight_eq_div_pow, Nat.shiftLeft_eq]
  rw [hm, hv]
  ext i hi
  simp only [BitVec.getElem_and, BitVec.getElem_shiftLeft, BitVec.getElem_ushiftRight, BitVec.getElem_allOnes]
  by_cases h : i < 36
  · simp [h]
  · simp [h, show 36 + (i - 36) = i by omega, BitVec.getLsbD_eq_getElem hi]

-- The registers of a function page.

theorem fnWrite_winerr : s.fnWrite f 0x100 v = if v.getLsbD 8 then some (s.modFn f fun p => { p with winerr := false }) else none := rfl

theorem fnWrite_dwbase :
    s.fnWrite f 0x108 v = some (s.modFn f fun p => { p with dwbase := BitVec.ofNat 64 (v.toNat / 2 ^ 36 * 2 ^ 36) }) := by
  rw [← and_dwbase]
  rfl

theorem fnWrite_invva : s.fnWrite f 0x110 v = some (s.modFn f fun p => { p with invva := v }) := rfl

theorem fnWrite_phys : s.fnWrite f 0x148 v = if f == 0 then some { s with phys := v.getLsbD 0 } else none := rfl

theorem fnWrite_pteAddr : s.fnWrite f 0x150 v =
    if f == 0 && s.pteBusy.isNone then some { s with pteAddr := BitVec.ofNat 49 (v.toNat / 8) } else none := by
  rw [show (8 : Nat) = 2 ^ 3 from rfl, ← setWidth_ushiftRight]
  rfl

theorem fnWrite_pteData : s.fnWrite f 0x158 v = if f == 0 && s.pteBusy.isNone then some { s with pteData := v } else none := rfl

theorem fnWrite_nonce {k : Nat} (hk : k < 8) : s.fnWrite f (0x200 + 8 * k) v = if (s.fns[f]).attstat = 1 then none else
    some (s.modFn f fun p => { p with
      attnonce := p.attnonce.take (8 * k) ++ (List.range 8).map (fun i => BitVec.ofNat 8 (v.toNat / 256 ^ i)) ++
        p.attnonce.drop (8 * k + 8) }) := by
  rw [← leBytes_eight]
  have hr : 0x200 ≤ 0x200 + 8 * k ∧ 0x200 + 8 * k < 0x240 ∧ (0x200 + 8 * k) % 8 = 0 := by omega
  unfold State.fnWrite
  simp only [beq_iff_eq]
  repeat rw [if_neg (by omega)]
  rw [if_pos hr, Nat.add_sub_cancel_left]

/-- A function page ends at 0x1000. -/
theorem fnWrite_beyond (ho : 0x1000 ≤ o) : s.fnWrite f o v = none := by
  unfold State.fnWrite
  simp only [beq_iff_eq]
  repeat rw [if_neg (by omega)]

-- The registers of the management page.

theorem mgmtWrite_grace :
    s.mgmtWrite 0x20 v = some { s with grace := BitVec.ofNat 32 (v.toNat / 2 ^ 32), ageint := BitVec.ofNat 32 v.toNat } := by
  rw [← setWidth_ushiftRight, ← setWidth_eq_ofNat]
  rfl

theorem mgmtWrite_root (k : Fin 8) : s.mgmtWrite (0x208 + 16 * k.val) v = if (s.parts[k]).valid then none else
    some { s with parts := s.parts.set k { s.parts[k] with root := BitVec.ofNat 40 (v.toNat / 2 ^ 12) } } := by
  have hr : 0x200 ≤ 0x208 + 16 * k.val ∧ 0x208 + 16 * k.val < 0x280 ∧ (0x208 + 16 * k.val) % 16 = 8 := by omega
  unfold State.mgmtWrite
  simp only [beq_iff_eq]
  rw [if_neg (by omega), if_pos hr, setWidth_ushiftRight]
  simp only [show (0x208 + 16 * k.val - 0x200) / 16 % 8 = k.val by omega]

-- The event.

/-- A state that takes a write goes to what the write makes of it, one that ignores it stays. -/
theorem happen_ite {c : Prop} [Decidable c] : happen s (if c then some t else none) = .next (if c then t else s) := by
  split <;> rfl

theorem happen_ite_not {c : Prop} [Decidable c] : happen s (if c then none else some t) = .next (if c then s else t) := by
  split <;> rfl

theorem exec_fnWrite (hb : s.boot = .ready) (hp : (s.fns[f]).present = true) (ho : o < 2 ^ 32) :
    exec (.registerWrite f false (BitVec.ofNat 32 o) v) s = happen s (s.fnWrite f o v) := by
  have ha : s.answers f = true := by rw [State.answers, hb, hp]; rfl
  have hx : (BitVec.ofNat 32 o).toNat = o := by rw [BitVec.toNat_ofNat]; omega
  show execRegisterWrite f false _ v s = _
  rw [execRegisterWrite, ha, hx]
  rfl

theorem exec_mgmtWrite (hb : s.boot = .ready) (hp : (s.fns[f]).present = true) (ho : o < 2 ^ 32) :
    exec (.registerWrite f true (BitVec.ofNat 32 o) v) s = happen s (if f = 0 then s.mgmtWrite o v else none) := by
  have ha : s.answers f = true := by rw [State.answers, hb, hp]; rfl
  have hx : (BitVec.ofNat 32 o).toNat = o := by rw [BitVec.toNat_ofNat]; omega
  show execRegisterWrite f true _ v s = _
  rw [execRegisterWrite, ha, hx]
  simp only [Bool.not_true, Bool.false_eq_true, if_false, if_true, beq_iff_eq]

/-- Settles O52, register by register. -/
theorem registerWrites : Obligations.RegisterWrites := by
  unfold Obligations.RegisterWrites
  intro s f v hb hp
  have fn {o : Nat} (ho : o < 2 ^ 32) := exec_fnWrite (v := v) hb hp ho
  have mg {o : Nat} (ho : o < 2 ^ 32) := exec_mgmtWrite (v := v) hb hp ho
  refine ⟨?_, ?_, ?_, ?_, ?_, ?_, fun k hk => ?_, fun o ho h => ?_, fun hf o h => ?_, fun hf => ⟨?_, ?_, ?_, fun k => ?_⟩⟩
  · exact (fn (by decide)).trans happen_ite
  · exact (fn (by decide)).trans (congrArg (happen s) fnWrite_dwbase)
  · exact fn (by decide)
  · exact (fn (by decide)).trans (by rw [fnWrite_phys, happen_ite]; simp only [beq_iff_eq])
  · exact (fn (by decide)).trans (by rw [fnWrite_pteAddr, happen_ite]; simp only [Bool.and_eq_true, beq_iff_eq, Option.isNone_iff_eq_none])
  · exact (fn (by decide)).trans (by rw [fnWrite_pteData, happen_ite]; simp only [Bool.and_eq_true, beq_iff_eq, Option.isNone_iff_eq_none])
  · exact (fn (by omega)).trans (by rw [fnWrite_nonce hk, happen_ite_not]; rfl)
  · exact (fn h).trans (congrArg (happen s) (fnWrite_beyond ho))
  · exact (mg h).trans (by rw [if_neg hf]; rfl)
  · exact (mg (by decide)).trans (by rw [if_pos hf, mgmtWrite_grace]; rfl)
  · exact (mg (by decide)).trans (by rw [if_pos hf]; rfl)
  · exact (mg (by decide)).trans (by rw [if_pos hf]; rfl)
  · exact (mg (by omega)).trans (by rw [if_pos hf, mgmtWrite_root, happen_ite_not])

end Sys2Proof.Machine
end

section
/-! The issue of a group: what a step at the issue of a stream, and the cycle of a lockstep job, make of the decoded word (03 R58, R62; 11
R178, R182 to R184; 23 R372, R373). -/

set_option autoImplicit false
set_option Elab.async false

namespace Sys2Proof.Machine

open Sys2Proof.Claims

variable {s s₁ s₃ t : State} {n : CoreIx} {st : Strm} {r : Word} {w : IWord} {rest : List Turn} {ex : Instr → State → Answer}

-- The word.

/-- The slack and the STP of a word that decodes are those of its bits (R177). -/
theorem decode_slk_stp (h : decode r = .ok w) : w.slk = fld r 54 10 ∧ w.stp = (fld r 53 1 == 1) := by
  unfold decode at h
  split at h
  · cases h
  · split at h
    · cases h
      exact ⟨rfl, rfl⟩
    · split at h
      · cases h
        exact ⟨rfl, rfl⟩
      · cases h

theorem slk_of_decode (h : decode r = .ok w) : (r >>> 54).toNat = w.slk.toNat := by
  rw [(decode_slk_stp h).1, fld, BitVec.extractLsb'_toNat, BitVec.toNat_ushiftRight, Nat.shiftRight_eq_div_pow]
  omega

theorem stpOf_of_decode (h : decode r = .ok w) : stpOf r = w.stp := by
  rw [(decode_slk_stp h).2, fld, stpOf]
  have hb : r.getLsbD 53 = (r.extractLsb' 53 1).getLsbD 0 := by simp
  rw [hb]
  generalize r.extractLsb' 53 1 = b
  revert b
  decide

theorem checkOne_of_group (hd : decode r = .ok w) (ho : opcodeBad st r = false) (hp : operandBad st r = false) :
    checkOne st r = .one w := by
  rw [checkOne, ho, hp, hd]
  rfl

-- The guard.

/-- A settled predicate reads what it holds. -/
theorem rdP_of_settled {p : BitVec 3} (h : SettledP s p) : rdP s p = .ok (pv s p) := by
  by_cases hp : p = 0
  · subst hp
    rfl
  · obtain ⟨h1, h2, h3⟩ := h.resolve_left hp
    rw [pv, if_neg hp]
    exact (rdP_ok hp).mpr ⟨h1, h2, h3, rfl⟩

theorem guardOf_of_settled (h : SettledP s w.pg) (hp : (pv s w.pg).po = none) : guardOf s w = .ok ((pv s w.pg).v != w.pn) := by
  unfold guardOf
  rw [rdP_of_settled h]
  show (match (pv s w.pg).po with | some o => _ | none => _) = _
  rw [hp]

-- The group.

theorem runWord_of_true (h : guardOf s w = .ok true) : runWord ex s w = ex w.op s := by rw [runWord, h]

theorem runWord_of_false (h : guardOf s w = .ok false) : runWord ex s w = .next (ended s) := by
  rw [runWord, h]
  rfl

/-- The state on which the word r of a stream is run: the stream stands at the next group. -/
abbrev readyAt (s s₃ : State) (n : CoreIx) (st : Strm) (r : Word) : State := ready s₃ n st ((s.job n).stream st).pc r

section

variable (hf : s.fetchWord n ((s.job n).stream st).pc = .ok (r, s₃)) (hg : GroupOf (s.job n) st r w)
  (hr : runWord ex (readyAt s s₃ n st r) w = .next t)

include hf hg

/-- A group of one word that is due and legal is run on the state that stands at the next group. -/
theorem issueGroup_of_group : issueGroup ex s n st = runGroup ex ((s₃.passed n st (((s.job n).stream st).pc + 8)).fresh n) n st
    ((s.job n).stream st).pc (((s.job n).stream st).pc + 8) r 0 (.one w) := by
  obtain ⟨hd, hs, ho, hp, hdue⟩ := hg
  unfold issueGroup
  dsimp only
  rw [hf]
  dsimp only
  rw [slk_of_decode hd, if_neg (by omega), stpOf_of_decode hd, if_pos hs, checkOne_of_group hd ho hp]

include hr

theorem issueGroup_of_done (ho : t.cur.out = .done) : issueGroup ex s n st = .issued (t.issuedBy n st) := by
  rw [issueGroup_of_group hf hg]
  unfold runGroup
  dsimp only
  rw [show runWord ex (State.at _ n st _ _ _ r) w = .next t from hr]
  dsimp only
  rw [ho]

theorem issueGroup_of_hold {h : Hold} {info : Nat} (ho : t.cur.out = .hold h info) : issueGroup ex s n st = .hold h info := by
  rw [issueGroup_of_group hf hg]
  unfold runGroup
  dsimp only
  rw [show runWord ex (State.at _ n st _ _ _ r) w = .next t from hr]
  dsimp only
  rw [ho]

theorem issueGroup_of_trap {c : Cause} {info at_ : Word} (ho : t.cur.out = .trapped c info at_) : issueGroup ex s n st =
    .trap c info at_ (if c = cSoftware then ((s.job n).stream st).pc + 8 else ((s.job n).stream st).pc) := by
  rw [issueGroup_of_group hf hg]
  unfold runGroup
  dsimp only
  rw [show runWord ex (State.at _ n st _ _ _ r) w = .next t from hr]
  dsimp only
  rw [ho]
  simp only [beq_iff_eq]

end

-- The elastic issue.

/-- No access of an earlier word of the stream is due, and no class-10 word where the stream is M. -/
def NoneDue (j : Job) (st : Strm) : Prop :=
  (∀ m ∈ j.moves, m.strm = st → j.now < m.due) ∧ (st = .m → ∀ o ∈ j.mops, j.now < o.due)

/-- What the turn of a stream comes to, by how its group fares. -/
def Fared.answer (s : State) (n : CoreIx) (st : Strm) : Fared → Answer
  | .trap c info pc resume => .next (s.note n ⟨st, c, info, pc, resume, false⟩)
  | .stop a => a
  | .issued t => .next t
  | .hold h info => .next (s.modJob n fun j => j.modStream st fun t => { t with held := some (h, info) })
  | .notDue => .next s

theorem issueTurn_of_noneDue (hc : s.canIssue n st = true) (hd : NoneDue ((s.try_ n st).job n) st) :
    issueTurn ex s n st = (issueGroup ex (s.try_ n st) n st).answer (s.try_ n st) n st := by
  obtain ⟨hm, ho⟩ := hd
  have h1 : (((s.try_ n st).job n).moves.any fun m => m.strm == st &&
      ((s.try_ n st).job n).waits ((s.try_ n st).heldTile n) ((s.try_ n st).core n) m) = false := by
    rw [List.any_eq_false]
    intro m hmem h
    obtain ⟨hs, hw⟩ := Bool.and_eq_true_iff.mp h
    have := hm m hmem (eq_of_beq hs)
    have := of_decide_eq_true (Bool.and_eq_true_iff.mp hw).1
    omega
  have h2 : (st == .m && ((s.try_ n st).job n).mops.any fun o => decide (o.due ≤ ((s.try_ n st).job n).now) &&
      o.massHeld ((s.try_ n st).heldTile n) ((s.try_ n st).core n)) = false := by
    rw [Bool.and_eq_false_imp]
    intro hs
    rw [List.any_eq_false]
    intro o hmem h
    have := ho (eq_of_beq hs) o hmem
    have := of_decide_eq_true (Bool.and_eq_true_iff.mp h).1
    omega
  unfold issueTurn
  dsimp only
  rw [if_neg (by simp [hc]), h1, h2, if_neg (by simp)]
  cases issueGroup ex (s.try_ n st) n st <;> rfl

theorem step_issue (hp : s.power = true) (hb : s.boot = .ready) (ht : s.turns = .issue n st :: rest) :
    step s = issueTurn exec { s with turns := rest } n st := by
  have hd : ¬s.dark (.issue n st) = true := by simp [State.dark, hp]
  rw [step, State.nextTurn_of_cons ht, if_neg hd]
  exact if_pos (beq_iff_eq.mpr hb)

-- The cycle of a lockstep job.

theorem step_cycle (hp : s.power = true) (hb : s.boot = .ready) (ht : s.turns = .cycle n :: rest) :
    step s = lockTurn exec { s with turns := rest } n := by
  have hd : ¬s.dark (.cycle n) = true := by simp [State.dark, hp]
  rw [step, State.nextTurn_of_cons ht, if_neg hd]
  exact if_pos (beq_iff_eq.mpr hb)

/-- The stream, but for the cycle of its last turn. -/
def Stream.untried (t : Stream) : Stream := { t with tried := 0 }

/-- The job, but for the cycles of the last turns of its streams. -/
def Job.untried (j : Job) : Job := { j with strm := j.strm.map Stream.untried }

theorem Job.stream_untried (j : Job) (st : Strm) : j.untried.stream st = (j.stream st).untried := by
  simp [Job.stream, Job.untried]

theorem State.untried_try (s : State) (st : Strm) : ((s.try_ n st).job n).untried = (s.job n).untried := by
  rw [State.try_, State.job_modJob]
  unfold Job.untried Job.modStream Job.setStream
  congr 1
  ext1 i hi
  by_cases h : (sIx st).val = i
  · subst h
    simp [Job.stream, Stream.untried]
  · simp [Vector.getElem_set_ne, h]

/-- The cycle begins: the job runs, and every stream has its turn. -/
def State.lockBase (s : State) (n : CoreIx) : State :=
  strms.foldl (fun (t : State) st => t.try_ n st) (s.modJob n fun j => { j with st := .running, freeze := [] })

theorem State.untried_lockBase (s : State) : ((s.lockBase n).job n).untried = { (s.job n).untried with st := .running, freeze := [] } := by
  simp only [State.lockBase, strms, List.foldl_cons, List.foldl_nil, State.untried_try, State.job_modJob]
  rfl

/-- What the turn leaves of each stream. -/
theorem State.stream_lockBase (s : State) (k : Strm) :
    (((s.lockBase n).job n).stream k).untried = ((s.job n).stream k).untried := by
  rw [← Job.stream_untried, s.untried_lockBase]
  exact (s.job n).stream_untried k

variable {y y' : Cyc}

theorem Cyc.add_of_not_started (h : ((y.s.job n).stream st).started = false) : Cyc.add ex n y st = y := by
  unfold Cyc.add
  dsimp only
  rw [h]
  rfl

theorem Cyc.add_of_issued (h : ((y.s.job n).stream st).started = true) (hj : ((y.s.job n).stream st).joined = false)
    (hs : y.stop = none) (hi : issueGroup ex y.s n st = .issued t) : Cyc.add ex n y st = { y with s := t } := by
  unfold Cyc.add
  dsimp only
  rw [h, hj, hs, hi]
  rfl

/-- The streams before and after the only one that runs add nothing to a cycle. -/
theorem Cyc.foldl_only (h : Cyc.add ex n y st = y') (hy : ∀ u, u ≠ st → Cyc.add ex n y u = y)
    (hy' : ∀ u, u ≠ st → Cyc.add ex n y' u = y') : strms.foldl (Cyc.add ex n) y = y' := by
  cases st
  case s => simp only [strms, List.foldl_cons, List.foldl_nil, h, hy' .v (by decide), hy' .m (by decide), hy' .c (by decide)]
  case v => simp only [strms, List.foldl_cons, List.foldl_nil, hy .s (by decide), h, hy' .m (by decide), hy' .c (by decide)]
  case m => simp only [strms, List.foldl_cons, List.foldl_nil, hy .s (by decide), hy .v (by decide), h, hy' .c (by decide)]
  case c => simp only [strms, List.foldl_cons, List.foldl_nil, hy .s (by decide), hy .v (by decide), hy .m (by decide), h]

/-- A job may try the groups of a cycle. -/
theorem lockMay_running (h : s.lockMay n = true) : (s.job n).st = .running ∨ (s.job n).st = .frozen := by
  unfold State.lockMay at h
  dsimp only at h
  simp only [Bool.and_eq_true, Bool.or_eq_true, beq_iff_eq] at h
  exact h.1.1.1.1.1.1.1.1.2

theorem lockMay_of_running (hl : (s.job n).nest.lockstep = true) (hr : (s.job n).st = .running) (hc : (s.job n).cycDone = false)
    (ht : (s.job n).thawAt ≠ s.gcc + 1) (hs : (s.job n).saving = none) (hp : (s.job n).stop = none) (hn : (s.job n).traps = [])
    (hf : (s.job n).freeze = []) (h : s.tried n .s = false) : s.lockMay n = true := by
  unfold State.lockMay
  dsimp only
  rw [hl, hr, hc, hs, hp, hn, hf, h, bne_iff_ne.mpr ht]
  rfl

theorem Job.now_of_ne {j : Job} (h : j.st ≠ .trapped) : j.now = j.jc := if_neg (by simpa using h)

theorem Job.nextOf_of_ne {j : Job} (h : j.st ≠ .trapped) : j.nextOf st = (j.stream st).nextAt := if_neg (by simpa using h)

/-- A legal group of the job is one of the job whose cycle begins. -/
theorem groupOf_lockBase (hm : s.lockMay n = true) (hg : GroupOf (s.job n) st r w) : GroupOf ((s.lockBase n).job n) st r w := by
  obtain ⟨hd, hs, ho, hp, hdue⟩ := hg
  have hst : ((s.lockBase n).job n).st = .running := (congrArg Job.st s.untried_lockBase :)
  have hjc : ((s.lockBase n).job n).jc = (s.job n).jc := (congrArg Job.jc s.untried_lockBase :)
  have hna : (((s.lockBase n).job n).stream st).nextAt = ((s.job n).stream st).nextAt := (congrArg Stream.nextAt (s.stream_lockBase st) :)
  have hne : (s.job n).st ≠ .trapped := fun h => by rcases lockMay_running hm with h' | h' <;> exact absurd (h.symm.trans h') (by decide)
  have hne' : ((s.lockBase n).job n).st ≠ .trapped := by rw [hst]; decide
  rw [Job.nextOf_of_ne hne, Job.now_of_ne hne] at hdue
  refine ⟨hd, hs, ho, hp, ?_⟩
  rw [Job.nextOf_of_ne hne', Job.now_of_ne hne', hjc, hna]
  exact hdue

/-- The cycle of a lockstep job in which a group issues, and nothing is held, owed, or a trap. -/
theorem lockTurn_of_issued (hm : s.lockMay n = true) (ho : (s.job n).owed = [])
    (hy : strms.foldl (Cyc.add ex n) ⟨s.lockBase n, [], [], [], none⟩ = ⟨t, [], [], [], none⟩) (ht : (t.job n).traps = [])
    (hc : (clashes (s.job n).traffic ((t.job n).traffic.drop (s.job n).traffic.length)).2 = []) :
    lockTurn ex s n = .next (t.modJob n fun j => { j with cycDone := true }) := by
  have hn : (s.job n).owedNext = none := by rw [Job.owedNext, ho]; rfl
  unfold lockTurn
  rw [if_neg (by simp [hm])]
  dsimp only
  rw [← State.lockBase, hy]
  dsimp only
  rw [ht, hc, hn]
  rfl

/-- The stream of a job that has issued a group is held no longer, and runs as before. -/
theorem started_issuedBy (t : State) (u : Strm) : ((t.issuedBy n st).job n).stream u = { (t.job n).stream u with
    held := if u = st then none else ((t.job n).stream u).held } := by
  rw [State.issuedBy, State.job_modJob]
  by_cases h : u = st
  · subst h
    rw [Job.stream_modStream, if_pos rfl]
  · rw [Job.stream_modStream_other _ _ h, if_neg h]

/-- The cycle of a lockstep job of one stream, whose group issues. -/
theorem lockTurn_of_only (hm : s.lockMay n = true) (ho : (s.job n).owed = [])
    (hst : ∀ u, ((s.job n).stream u).started = decide (u = st)) (hj : ((s.job n).stream st).joined = false)
    (hi : issueGroup ex (s.lockBase n) n st = .issued (t.issuedBy n st)) (hst' : ∀ u, ((t.job n).stream u).started = decide (u = st))
    (ht : (t.job n).traps = []) (hc : (clashes (s.job n).traffic ((t.job n).traffic.drop (s.job n).traffic.length)).2 = []) :
    lockTurn ex s n = .next ((t.issuedBy n st).modJob n fun j => { j with cycDone := true }) := by
  have hb (u : Strm) : (((s.lockBase n).job n).stream u).started = decide (u = st) :=
    (congrArg Stream.started (s.stream_lockBase u) :).trans (hst u)
  have hbj : (((s.lockBase n).job n).stream st).joined = false := (congrArg Stream.joined (s.stream_lockBase st) :).trans hj
  have ht' (u : Strm) : (((t.issuedBy n st).job n).stream u).started = decide (u = st) :=
    (congrArg Stream.started (started_issuedBy t u) :).trans (hst' u)
  have hk : (t.issuedBy n st).job n = (t.job n).modStream st fun u => { u with held := none } := State.job_modJob _ _ _
  refine lockTurn_of_issued hm ho (Cyc.foldl_only
    (Cyc.add_of_issued (y := ⟨s.lockBase n, [], [], [], none⟩) ((hb st).trans (decide_eq_true rfl)) hbj rfl hi)
    (fun u hu => Cyc.add_of_not_started ((hb u).trans (decide_eq_false hu)))
    fun u hu => Cyc.add_of_not_started ((ht' u).trans (decide_eq_false hu))) ?_ ?_
  · rw [hk]
    exact ht
  · rw [hk]
    exact hc

/-- The program counter of a stream is where it was as the cycle began. -/
theorem pc_lockBase (s : State) : (((s.lockBase n).job n).stream st).pc = ((s.job n).stream st).pc :=
  (congrArg Stream.pc (s.stream_lockBase st) :)

theorem lockTurn_of_group (hm : s.lockMay n = true) (ho : (s.job n).owed = [])
    (hst : ∀ u, ((s.job n).stream u).started = decide (u = st)) (hj : ((s.job n).stream st).joined = false)
    (hf : (s.lockBase n).fetchWord n ((s.job n).stream st).pc = .ok (r, s₃)) (hg : GroupOf (s.job n) st r w)
    (hw : guardOf (readyAt s s₃ n st r) w = .ok true) (he : ex w.op (readyAt s s₃ n st r) = .next t) (hd : t.cur.out = .done)
    (hst' : ∀ u, ((t.job n).stream u).started = decide (u = st)) (ht : (t.job n).traps = [])
    (hc : (clashes (s.job n).traffic ((t.job n).traffic.drop (s.job n).traffic.length)).2 = []) :
    lockTurn ex s n = .next ((t.issuedBy n st).modJob n fun j => { j with cycDone := true }) := by
  refine lockTurn_of_only hm ho hst hj (issueGroup_of_done (s := s.lockBase n) (s₃ := s₃) (r := r) ?_ (groupOf_lockBase hm hg) ?_ hd)
    hst' ht hc
  · rw [pc_lockBase]
    exact hf
  · rw [readyAt, pc_lockBase]
    exact (runWord_of_true hw).trans he

/-- Settles O56: a turn is the issue of a group or the cycle of a lockstep job, and each comes to what its group fares. -/
theorem stepRunsDecoded : Obligations.StepRunsDecoded := by
  unfold Obligations.StepRunsDecoded
  refine ⟨fun s s₃ rest n st r w hp hb ht hc hm ho hf hg => ?_, fun s s₃ t rest n st r w hp hb ht hm ho hst hj hf hg hw he hd hst' htr hcl => ?_,
    fun s n hl hr hc ht hs hp hn hf h => lockMay_of_running hl hr hc ht hs hp hn hf h, fun s w h hp => guardOf_of_settled h hp⟩
  · rw [step_issue hp hb ht, issueTurn_of_noneDue hc ⟨hm, ho⟩]
    refine ⟨fun hw => ?_, fun hw t he => ⟨fun hd => ?_, fun h info hd => ?_, fun c info at_ hd => ?_⟩⟩
    · rw [issueGroup_of_done hf hg (runWord_of_false hw) rfl]
      rfl
    · rw [issueGroup_of_done hf hg ((runWord_of_true hw).trans he) hd]
      rfl
    · rw [issueGroup_of_hold hf hg ((runWord_of_true hw).trans he) hd]
      rfl
    · rw [issueGroup_of_trap hf hg ((runWord_of_true hw).trans he) hd]
      rfl
  · rw [step_cycle hp hb ht]
    exact lockTurn_of_group hm ho hst hj hf hg hw he hd hst' htr hcl

end Sys2Proof.Machine
end

section
/-! Holds that end, and the walk of a page (03 R60; 05 R94 to R97; 13 R221; 17 R278, R279). -/

set_option autoImplicit false
set_option Elab.async false

namespace Sys2Proof.Machine

open Sys2Proof.Claims

variable {s : State} {n : CoreIx} {st : Strm} {va : Word} {rd w ext : Bool} {part : BitVec 16}

-- A hold ends.

theorem Job.unhold_held (j : Job) (k : Hold) : ((j.unhold st k).stream st).held = none :=
  (congrArg Stream.held (j.stream_modStream st fun t => { t with held := none }) :)

/-- The job as a hold of its stream ends. -/
theorem Job.unhold_spec (j : Job) (k : Hold) : let j' := j.unhold st k
    (j'.stream st).held = none ∧ j'.freeze = j.freeze.filter (fun f => !(f.kind == k && f.strm == st)) ∧
    (j.st = .frozen → j'.freeze = [] → j'.st = .running) ∧ (j.st ≠ .frozen ∨ j'.freeze ≠ [] → j'.st = j.st) := by
  refine ⟨j.unhold_held k, rfl, fun hs hf => ?_, fun h => if_neg fun hc => ?_⟩
  · rw [Job.unhold] at hf ⊢
    dsimp only at hf ⊢
    rw [hs, hf]
    rfl
  · obtain ⟨h1, h2⟩ := Bool.and_eq_true_iff.mp hc
    rcases h with h | h
    · exact h (eq_of_beq h1)
    · exact h (List.isEmpty_iff.mp h2)

-- The walk.

/-- A walk reads no core. -/
theorem State.walkFrom_modJob (s : State) (f : Job → Job) (l : List Nat) (t : Nat) :
    (s.modJob n f).walkFrom va rd w ext l t = s.walkFrom va rd w ext l t := by
  induction l generalizing t with
  | nil => rfl
  | cons k l ih =>
    simp only [State.walkFrom, ih]
    rfl

theorem State.walk_modJob (s : State) (f : Job → Job) : (s.modJob n f).walk part va rd w ext = s.walk part va rd w ext := by
  simp only [State.walk, State.walkFrom_modJob]
  rfl

/-- The entry that a walk reads at an address: in DRAM of this package, with no poison, present (R97). -/
def State.EntryAt (s : State) (ea : Nat) (e : Word) : Prop :=
  s.isDram ea = true ∧ s.homeDead ea = false ∧ s.homePo (canon s.pkgnum.toNat ea) 8 = none ∧
    little (s.homeBytes (canon s.pkgnum.toNat ea) 8) = e.toNat ∧ e.getLsbD 0 = true

theorem leNat_eq_little (l : List Byte) : leNat l = little l := by
  induction l with
  | nil => rfl
  | cons b l ih =>
    rw [little, ← ih, leNat, List.foldr_cons, ← leNat]
    omega

variable {k : Nat} {l : List Nat} {t : Nat} {e : Word}

/-- An entry of a table above the last names the next table (R95). -/
theorem walkFrom_table (h : s.EntryAt (t + va.toNat / 2 ^ (21 + 9 * k) % 512 * 8) e) (hk : k ≠ 0)
    (he : e &&& 0xFFF0000000000FFE = 0) :
    s.walkFrom va rd w ext (k :: l) t = s.walkFrom va rd w ext l (e &&& 0x000FFFFFFFFFF000).toNat := by
  obtain ⟨h1, h2, h3, h4, h5⟩ := h
  rw [State.walkFrom]
  simp only [p2, h1, h2, h3, leNat_eq_little, h4, BitVec.ofNat_toNat, BitVec.setWidth_eq, h5, he, beq_iff_eq, hk]
  rfl

/-- An entry of a last table names the frame and the rights (R96). -/
theorem walkFrom_leaf (h : s.EntryAt (t + va.toNat / 2 ^ 21 % 512 * 8) e) (he : e &&& 0xFFF00000001FFFD0 = 0) :
    s.walkFrom va rd w ext (0 :: l) t = s.xlatCheck va ⟨(e &&& 0x000FFFFFFFE00000).toNat, t + va.toNat / 2 ^ 21 % 512 * 8,
      e.getLsbD 1, e.getLsbD 2, e.getLsbD 5⟩ rd w ext := by
  obtain ⟨h1, h2, h3, h4, h5⟩ := h
  rw [State.walkFrom]
  simp only [p2, Nat.mul_zero, Nat.add_zero, h1, h2, h3, leNat_eq_little, h4, BitVec.ofNat_toNat, BitVec.setWidth_eq, h5, he]
  rfl

theorem walk_of_part {p : Partition} (hv : va.toNat < 2 ^ 57) (hp : s.partOf part = some p) :
    s.walk part va rd w ext = s.walkFrom va rd w ext [3, 2, 1, 0] (p.root.toNat * 4096) := by
  rw [State.walk, if_neg (Nat.not_le.mpr hv), hp]

/-- A page that the die keeps the translation of. -/
theorem Die.tlbFind_tlbPut (d : Die) (x : Xlat) : ((d.tlbPut part va x).tlbFind part va).isSome = true := by
  unfold Die.tlbPut
  split
  · assumption
  · simp [Die.tlbFind]

theorem State.job_modDie (s : State) (d : DieIx) (f : Die → Die) : (s.modDie d f).job n = s.job n := rfl

/-- The state after the walk of a held word's page has ended well. -/
def State.translated (s : State) (n : CoreIx) (st : Strm) (va : Word) (x : Xlat) : State :=
  (s.modJob n fun j => j.unhold st .translation).modDie (dieOf n) fun e => e.tlbPut (s.job n).nest.part va x

/-- A stream that a translation holds goes on. -/
theorem of_translation {held : Option (Hold × Nat)} {g : Nat → Option State} {page : Nat} :
    held = some (.translation, page) → (match held with
      | some (.translation, page) => g page
      | _ => none) = g page := fun h => by rw [h]

theorem exec_submissionTranslationDone {page : Nat} {x : Xlat} (hh : ((s.job n).stream st).held = some (.translation, page))
    (hw : s.walk (s.job n).nest.part (BitVec.ofNat 64 (page * pageSize)) false false false = .ok x) :
    exec (.submissionTranslationDone n st) s = .next (s.translated n st (BitVec.ofNat 64 (page * pageSize)) x) := by
  refine (congrArg (happen s) (of_translation hh)).trans ?_
  dsimp only
  rw [State.walk_modJob, hw]
  rfl

theorem State.translated_spec (s : State) (x : Xlat) : (((s.translated n st va x).job n).stream st).held = none ∧
    (((s.translated n st va x).die (dieOf n)).tlbFind (s.job n).nest.part va).isSome = true := by
  unfold State.translated
  rw [State.job_modDie, State.job_modJob, State.die_modDie]
  exact ⟨Job.unhold_held _ _, Die.tlbFind_tlbPut _ x⟩

/-- Settles O33. -/
theorem holdEndEvents : Obligations.HoldEndEvents := by
  unfold Obligations.HoldEndEvents
  refine ⟨fun s n st e k x hh h => ?_, fun s n st page x hh hw => ?_, fun s part va p table e hp => ?_⟩
  · have hs := Job.unhold_spec (st := st) (s.job n) k
    rw [← State.job_modJob s n fun j => j.unhold st k] at hs
    rcases h with ⟨rfl, rfl, hx⟩ | ⟨rfl, rfl⟩
    · exact happens_of_eq rfl (by rw [hh]; exact if_pos hx) hs
    · exact happens_of_eq rfl (by rw [hh]) hs
  · have hpage : page * 0x200000 = page * pageSize := rfl
    rw [hpage] at hw ⊢
    exact ⟨_, exec_submissionTranslationDone hh hw, s.translated_spec x⟩
  · intro ea pa hv h3 htab he hdir hleaf hf
    have h (k : Nat) (hk : k < 4) : s.EntryAt (ea k) (e k) := he k hk
    rw [walk_of_part hv hp, ← h3, walkFrom_table (h 3 (by decide)) (by decide) (hdir 3 (by decide) (by decide)), ← htab 2 (by decide),
      walkFrom_table (h 2 (by decide)) (by decide) (hdir 2 (by decide) (by decide)), ← htab 1 (by decide),
      walkFrom_table (h 1 (by decide)) (by decide) (hdir 1 (by decide) (by decide)), ← htab 0 (by decide),
      walkFrom_leaf (h 0 (by decide)) hleaf]
    unfold State.xlatCheck
    dsimp only
    rw [hf]
    rfl

end Sys2Proof.Machine
end

section
/-! What the operations in flight leave of a job as they complete: its state, its names, its trap registers, and where its streams stand
(13 R211, R212; 15 R253, R257; 19 R326; 23 R372). -/

set_option autoImplicit false
set_option Elab.async false

namespace Sys2Proof.Machine

/-- Where a stream stands. -/
structure Stream.Control where
  pc : Word
  started : Bool
  joined : Bool

def Stream.control (t : Stream) : Stream.Control := ⟨t.pc, t.started, t.joined⟩

/-- What no operation in flight changes of a job. -/
structure Job.Control where
  st : JState
  seq : Nat
  iter : Nat
  nest : NestRec
  prio : Nat
  t0 : Nat
  pins : List Nat
  trapvec : Word
  trapcause : Cause
  trappc : Word
  trapstrm : Strm
  trapinfo : Word
  trapResume : Word
  sResume : Word
  retStrm : Strm
  stop : Option TrapNote
  preq : Option PreReq
  saving : Option Saving
  strm : Strm → Stream.Control

def Job.control (j : Job) : Job.Control :=
  ⟨j.st, j.seq, j.iter, j.nest, j.prio, j.t0, j.pins, j.trapvec, j.trapcause, j.trappc, j.trapstrm, j.trapinfo, j.trapResume,
    j.sResume, j.retStrm, j.stop, j.preq, j.saving, fun st => (j.stream st).control⟩

variable {j : Job} {c : Core} {held : Nat → Bool} {st : Strm} {m : Move} {o : MatOp} {r : Core × Job}

-- Streams and folds.

theorem Job.control_modStream {f : Stream → Stream} (hf : ∀ t, (f t).control = t.control := by intro t; rfl) :
    (j.modStream st f).control = j.control := by
  have hs : (fun k => ((j.modStream st f).stream k).control) = fun k => (j.stream k).control := by
    funext k
    by_cases h : k = st
    · subst h
      rw [Job.stream_modStream]
      exact hf _
    · rw [Job.stream_modStream_other _ _ h]
  unfold Job.control
  rw [hs]
  rfl

theorem Job.control_foldl {α : Type} {f : Job → α → Job} {l : List α} (hf : ∀ k a, (f k a).control = k.control) :
    (l.foldl f j).control = j.control :=
  List.foldlRecOn (motive := fun k : Job => k.control = j.control) l f rfl fun k hk a _ => (hf k a).trans hk

/-- The same of operations on a core and its job. -/
theorem control_foldl {α : Type} {f : Core × Job → α → Core × Job} {l : List α} (hf : ∀ r a, (f r a).2.control = r.2.control) :
    (l.foldl f r).2.control = r.2.control :=
  List.foldlRecOn (motive := fun q : Core × Job => q.2.control = r.2.control) l f rfl fun q hq a _ => (hf q a).trans hq

theorem Stream.control_put (t : Stream) (p : SRes) : (t.put p).control = t.control := by
  unfold Stream.put
  split
  · rfl
  · split <;> rfl

theorem Stream.control_puts (t : Stream) (l : List SRes) : (l.foldl Stream.put t).control = t.control :=
  List.foldlRecOn (motive := fun u : Stream => u.control = t.control) l Stream.put rfl fun u hu p _ => (u.control_put p).trans hu

theorem Stream.control_drain (t : Stream) (now : Nat) : (t.drain now).control = t.control := Stream.control_puts _ _

theorem Stream.control_drainAll (t : Stream) : t.drainAll.control = t.control := Stream.control_puts _ _

-- Rows, scratchpad accesses and vector words.

theorem Job.control_skipMasses {ord a n : Nat} : (j.skipMasses st ord a n).control = j.control := by
  unfold Job.skipMasses
  split <;> rfl

theorem Job.control_setX {x : BitVec 4} {v : XVal} : (j.setX st x v).control = j.control := by
  unfold Job.setX
  split
  · rfl
  · exact Job.control_modStream

theorem Job.control_setP {x : BitVec 3} {v : PVal} : (j.setP st x v).control = j.control := by
  unfold Job.setP
  split
  · rfl
  · exact Job.control_modStream

theorem control_performMove {a : Nat} {slot : Option (Nat × Nat)} : (performMove c j m a slot).2.control = j.control := by
  unfold performMove
  split
  · dsimp only
    rw [Job.control_skipMasses]
    split <;> rfl
  · rfl

theorem control_moveOne : (moveOne held r m).2.control = r.2.control := by
  unfold moveOne
  split
  · rfl
  · rfl
  · rfl
  · exact control_performMove

theorem control_moveSome {which : Move → Bool} : (moveSome held c j which).2.control = j.control :=
  control_foldl fun _ _ => control_moveOne

theorem control_moveDue {all : Bool} : (moveDue held c j all).2.control = j.control := control_moveSome

theorem Job.control_openOne : (openOne held c j m).control = j.control := by
  unfold openOne
  split <;> rfl

theorem Job.control_dropMoves {α : Type} (l : List α) (f : α → Move) :
    (l.foldl (fun (j : Job) a => j.dropMove (f a)) j).control = j.control := Job.control_foldl fun _ _ => rfl

theorem Job.control_openRows {ord : Nat} : (openRows held c j ord).control = j.control := by
  unfold openRows
  split
  · rfl
  · extract_lets rows mine beside addrs t others
    split
    · split
      · exact Job.control_dropMoves _ _
      · rfl
    · rfl

theorem Job.control_openMoves : (j.openMoves held c).control = j.control :=
  (Job.control_foldl fun _ _ => Job.control_openRows).trans (Job.control_foldl fun _ _ => Job.control_openOne)

theorem Job.control_vectorBy {which : VecOp → Bool} : (j.vectorBy which).control = j.control := by
  unfold Job.vectorBy
  extract_lets ready k
  have hk : k.control = j.control := Job.control_foldl fun _ _ => rfl
  exact hk

theorem Job.control_begin : j.begin_.control = j.control :=
  (Job.control_foldl fun _ _ => Job.control_modStream fun t => t.control_drain _).trans Job.control_vectorBy

-- Scalar accesses that come late.

theorem Job.control_lateResult {isP : Bool} {reg : BitVec 4} {v : XVal} {l : Nat} : (j.lateResult st isP reg v l).control = j.control := by
  unfold Job.lateResult
  split
  · rfl
  · exact Job.control_modStream

theorem control_lateOne {l : Late} : (lateOne r l).2.control = r.2.control := by
  unfold lateOne
  dsimp only
  split
  · exact Job.control_lateResult
  · generalize Core.atomicLocal _ _ _ _ _ _ _ _ _ = x
    dsimp only
    split
    · refine Job.control_lateResult.trans ?_
      split <;> exact Job.control_lateResult.trans Job.control_skipMasses
    · split <;> exact Job.control_lateResult.trans Job.control_skipMasses

theorem control_lateDue : (lateDue c j).2.control = j.control := (control_foldl fun _ _ => control_lateOne).trans rfl

-- Matrix words.

theorem control_landAmass {fa fb : Fmt} : (landAmass c j o fa fb).2.control = j.control := by
  unfold landAmass
  split
  · rfl
  · dsimp only
    split <;> rfl

theorem Job.control_finishAttn {ad : BitVec 3} {fa fb : Fmt} : (j.finishAttn o ad fa fb).control = j.control :=
  Job.control_foldl fun _ _ => Job.control_foldl fun _ _ => rfl

theorem control_finishMat {gcc : Nat} : (finishMat gcc c j o).2.control = j.control := by
  unfold finishMat
  extract_lets r
  have hr : r.2.control = j.control := by
    unfold r
    split
    case h_6 => exact Job.control_finishAttn
    case h_7 =>
      split
      · rfl
      · exact control_landAmass
    all_goals rfl
  split <;> exact hr

theorem control_matrixDue {gcc : Nat} : (matrixDue held gcc c j).2.control = j.control :=
  (control_foldl fun _ _ => control_finishMat).trans rfl

theorem Job.control_swapDue {which : BitVec 2 → Bool} : (j.swapDue which).control = j.control :=
  Job.control_foldl fun _ _ => by split <;> rfl

-- Cycles.

theorem control_work {gcc : Nat} : (work held gcc c j).2.control = j.control :=
  Job.control_swapDue.trans (control_matrixDue.trans (control_lateDue.trans (control_moveDue.trans rfl)))

theorem control_drainCycles {gcc : Nat} : ∀ (n : Nat) (c : Core) (j : Job), (drainCycles held gcc n c j).2.control = j.control
  | 0, _, _ => rfl
  | n + 1, _, _ => (control_drainCycles n _ _).trans (Job.control_openMoves.trans (Job.control_begin.trans control_work))

end Sys2Proof.Machine
end

section
/-! What a drain leaves: of a core its queues and its other context, of its job what no operation in flight changes, pins, launches, saved
jobs (07 R117, R123; 23 R372). -/

set_option autoImplicit false
set_option Elab.async false

namespace Sys2Proof.Machine

-- Cores.

/-- A bound tile copy but for what writes to it change. -/
def WinCopy.bare (w : WinCopy) : WinCopy := { w with st := .i, dirty := [] }

/-- A core but for its scratchpad, and what is on its way there. -/
def Core.withoutSpad (c : Core) : Core :=
  { c with spad := Core.zero.spad, spadPo := [], tags := [], copies := c.copies.map WinCopy.bare, landing := [] }

section

variable {c : Core} {j : Job} {held : Nat → Bool} {r : Core × Job}

theorem Core.withoutSpad_winWrite {a n : Nat} : (c.winWrite a n).withoutSpad = c.withoutSpad := by
  unfold Core.withoutSpad Core.winWrite
  simp only [List.map_map]
  congr 1
  refine List.map_congr_left fun w _ => ?_
  dsimp only [Function.comp]
  split
  · rfl
  · split <;> rfl

theorem Core.withoutSpad_land {l : Land} : (c.land l).withoutSpad = c.withoutSpad := rfl

theorem Core.withoutSpad_streamWrite {st : Strm} {ord a : Nat} {bs : List Byte} {po : Option PoU} :
    (c.streamWrite st ord a bs po).withoutSpad = c.withoutSpad := by
  rw [Core.streamWrite, Core.withoutSpad_land, Core.withoutSpad_winWrite]

theorem Core.withoutSpad_atomicLocal {view : Core} {st : Strm} {ord a n : Nat} {aop : BitVec 4} {b k : Word} :
    (c.atomicLocal view st ord aop b k a n).1.withoutSpad = c.withoutSpad := by
  unfold Core.atomicLocal
  dsimp only
  rw [Core.withoutSpad_land, Core.withoutSpad_winWrite]

theorem withoutSpad_finishAmass {o : MatOp} {fa fb : Fmt} : (finishAmass c o fa fb).withoutSpad = c.withoutSpad := by
  unfold finishAmass
  dsimp only
  rw [Core.withoutSpad_land, Core.withoutSpad_winWrite]

/-- A core whose windows are torn down has no copy left. -/
theorem Core.torn_withoutSpad : c.withoutSpad.torn = c.torn := by
  simp [Core.torn, Core.withoutSpad]

/-- A fold of operations that change nothing of a core but its scratchpad. -/
theorem withoutSpad_foldl {α : Type} {f : Core × Job → α → Core × Job} {l : List α}
    (hf : ∀ r a, (f r a).1.withoutSpad = r.1.withoutSpad) : (l.foldl f r).1.withoutSpad = r.1.withoutSpad :=
  List.foldlRecOn (motive := fun q : Core × Job => q.1.withoutSpad = r.1.withoutSpad) l f rfl fun q hq a _ => (hf q a).trans hq

theorem withoutSpad_moveOne {m : Move} : (moveOne held r m).1.withoutSpad = r.1.withoutSpad := by
  unfold moveOne
  split
  · rfl
  · rfl
  · rfl
  · unfold performMove
    split
    · exact Core.withoutSpad_streamWrite
    · rfl

theorem withoutSpad_moveDue {all : Bool} : (moveDue held c j all).1.withoutSpad = c.withoutSpad :=
  withoutSpad_foldl fun _ _ => withoutSpad_moveOne

theorem withoutSpad_lateOne {l : Late} : (lateOne r l).1.withoutSpad = r.1.withoutSpad := by
  unfold lateOne
  dsimp only
  split
  · rfl
  · exact Core.withoutSpad_atomicLocal

theorem withoutSpad_landAmass {o : MatOp} {fa fb : Fmt} : (landAmass c j o fa fb).1.withoutSpad = c.withoutSpad := by
  unfold landAmass
  split
  · rfl
  · exact withoutSpad_finishAmass

theorem withoutSpad_finishMat {gcc : Nat} {o : MatOp} : (finishMat gcc c j o).1.withoutSpad = c.withoutSpad := by
  unfold finishMat
  extract_lets r
  have hr : r.1.withoutSpad = c.withoutSpad := by
    unfold r
    split
    case h_7 =>
      split
      · rfl
      · exact withoutSpad_landAmass
    all_goals rfl
  split <;> exact hr

theorem withoutSpad_work {gcc : Nat} : (work held gcc c j).1.withoutSpad = c.withoutSpad :=
  (withoutSpad_foldl fun _ _ => withoutSpad_finishMat).trans
    ((withoutSpad_foldl fun _ _ => withoutSpad_lateOne).trans withoutSpad_moveDue)

theorem Core.withoutSpad_commit : c.commit.withoutSpad = c.withoutSpad := by
  have keep {α : Type} (f : Core → α → Core) (hf : ∀ d a, (f d a).withoutSpad = d.withoutSpad) (l : List α) (d : Core) :
      (l.foldl f d).withoutSpad = d.withoutSpad :=
    List.foldlRecOn (motive := fun e : Core => e.withoutSpad = d.withoutSpad) l f rfl fun e he a _ => (hf e a).trans he
  unfold Core.commit
  refine (keep _ (fun d tile => ?_) _ _).trans (keep (fun d (l : Land) => d.commitOne (l.prevail c.landing)) (fun d l => rfl) _ _)
  split <;> rfl

theorem withoutSpad_drainCycles {gcc : Nat} : ∀ (n : Nat) (c : Core) (j : Job), (drainCycles held gcc n c j).1.withoutSpad = c.withoutSpad
  | 0, _, _ => rfl
  | n + 1, _, _ => (withoutSpad_drainCycles n _ _).trans (Core.withoutSpad_commit.trans withoutSpad_work)

end

-- Stores and atomics at their homes.

variable {s₀ s t : State} {n : CoreIx} {g : GAcc} {p : PStore}

theorem Undisturbed.modCore (h : Undisturbed s₀ s) {f : Core → Core} (hf : ∀ c, (f c).withoutStores = c.withoutStores) :
    Undisturbed s₀ (s.modCore n f) := by
  refine ⟨fun m => ?_, h.die, h.books, h.substat⟩
  by_cases hm : m = n
  · subst hm
    rw [State.core_modCore, hf]
    exact h.core m
  · rw [State.core_modCore_other _ _ hm]
    exact h.core m

theorem Undisturbed.addSharer (h : Undisturbed s₀ s) {d : DieIx} {line : Nat} : Undisturbed s₀ (s.addSharer d line) := by
  unfold State.addSharer
  split
  · exact h.update
  · exact .ite h.update h.update

theorem Undisturbed.releaseFills (h : Undisturbed s₀ s) : Undisturbed s₀ s.releaseFills :=
  h.foldl fun _ _ ht => .ite ht (Undisturbed.addSharer ht.update)

theorem Undisturbed.retire (h : Undisturbed s₀ s) : Undisturbed s₀ (s.retire n p) :=
  (h.modCore (n := n) (f := fun c => { c with psb := c.psb.filter fun e => e.ord != p.ord }) fun _ => rfl).update

theorem Undisturbed.orderStore (h : Undisturbed s₀ s) : Undisturbed s₀ (s.orderStore n p) := by
  refine .ite h.retire.releaseFills (Undisturbed.foldl h.homePut fun t line ht => ?_).retire.releaseFills
  have hu : Undisturbed s₀ { t with
      seqs := alSet t.seqs line (t.seqOf line + 1)
      fills := t.fills.map fun (f : Fill) =>
        if f.die == dieOf n && f.line == line && f.sent then
          { f with data := mergeLine p line f.data, po := mergePo p f.po } else f } := ht.update
  exact hu.modDie fun _ => rfl

theorem Undisturbed.orderNow (h : Undisturbed s₀ s) : Undisturbed s₀ (s.orderNow n p) := by
  refine (h.flushInvals.foldl fun t line ht => ht.setDies fun d => ?_).orderStore
  rw [Fin.getElem_fin, Vector.getElem_ofFn]
  split <;> rfl

theorem Undisturbed.atomicNow (h : Undisturbed s₀ s) {j : Job} {aop : BitVec 4} {dw : Bool} {b k : Word} {ans : Option (List Byte × Bool)} :
    Undisturbed s₀ (s.atomicNow j g aop dw b k ans).1 := by
  unfold State.atomicNow
  split
  · exact h
  · exact h.orderAtHome

-- A drain.

/-- What a drain leaves of a core. -/
structure Core.Frame where
  runIx : Bool
  run : Job.Control
  other : Job
  lq : List Cmd
  sq : List Cmd
  torn : Bool

def Core.frame (c : Core) : Core.Frame := ⟨c.runIx, c.job.control, c.other, c.lq, c.sq, c.torn⟩

/-- t differs from s₀ in what operations in flight do as they complete. -/
structure Worked (s₀ t : State) : Prop where
  core : ∀ m : CoreIx, (t.core m).frame = (s₀.core m).frame
  die : ∀ d : DieIx, (t.die d).withoutLines = (s₀.die d).withoutLines
  books : t.books = s₀.books

theorem Worked.refl (s : State) : Worked s s := ⟨fun _ => rfl, fun _ => rfl, rfl⟩

theorem Worked.trans (h : Worked s₀ s) (h' : Worked s t) : Worked s₀ t :=
  ⟨fun m => (h'.core m).trans (h.core m), fun d => (h'.die d).trans (h.die d), h'.books.trans h.books⟩

theorem Undisturbed.worked (h : Undisturbed s₀ s) : Worked s₀ s := ⟨fun _ => h.core_eq Core.frame, h.die, h.books⟩

/-- A core is replaced by one of the same frame. -/
theorem Worked.setCore (h : Worked s₀ s) {c : Core} (hc : c.frame = (s.core n).frame) : Worked s₀ (s.setCore n c) := by
  refine ⟨fun m => ?_, h.die, h.books⟩
  by_cases hm : m = n
  · subst hm
    rw [State.core_setCore]
    exact hc.trans (h.core m)
  · rw [State.core_setCore_other _ _ hm]
    exact h.core m

theorem Core.frame_setJob (c d : Core) (j : Job) (hd : d.withoutSpad = c.withoutSpad) (hj : j.control = c.job.control) :
    (d.setJob j).frame = c.frame := by
  have hr : d.runIx = c.runIx := (congrArg Core.runIx hd :)
  have ho : d.other = c.other := (congrArg Core.other hd :)
  have hl : d.lq = c.lq := (congrArg Core.lq hd :)
  have hs : d.sq = c.sq := (congrArg Core.sq hd :)
  have ht : d.torn = c.torn := by rw [← Core.torn_withoutSpad, hd, Core.torn_withoutSpad]
  have hk : (d.setJob j).runIx = d.runIx ∧ (d.setJob j).lq = d.lq ∧ (d.setJob j).sq = d.sq ∧ (d.setJob j).torn = d.torn := by
    unfold Core.setJob
    split <;> exact ⟨rfl, rfl, rfl, rfl⟩
  obtain ⟨k1, k2, k3, k4⟩ := hk
  unfold Core.frame
  rw [Core.job_setJob, Core.other_setJob, hj, k1, k2, k3, k4, hr, ho, hl, hs, ht]

theorem Worked.setJob (h : Worked s₀ s) {j : Job} (hj : j.control = (s.job n).control) : Worked s₀ (s.setJob n j) :=
  h.setCore (Core.frame_setJob _ _ j rfl hj)

theorem Worked.control_eq (h : Worked s₀ s) : (s.job n).control = (s₀.job n).control := (congrArg Core.Frame.run (h.core n) :)

theorem Worked.modJob (h : Worked s₀ s) {f : Job → Job} (hf : ∀ j, (f j).control = j.control) : Worked s₀ (s.modJob n f) :=
  h.setJob (hf _)

theorem Worked.foldl {α : Type} {f : State → α → State} {l : List α} (h : Worked s₀ s)
    (hf : ∀ t a, Worked s₀ t → Worked s₀ (f t a)) : Worked s₀ (l.foldl f s) :=
  List.foldlRecOn l f h fun t ht a _ => hf t a ht

theorem Job.control_writeBack {j : Job} {r : List Byte × Option Origin} : (j.writeBack g r).control = j.control := by
  unfold Job.writeBack
  dsimp only
  split
  · exact Job.control_setX
  · split
    · exact Job.control_setP.trans Job.control_setX
    · exact Job.control_setX
  · rfl
  · exact Job.control_setX
  · rfl

theorem Job.control_acquire {j : Job} {st : Strm} {ord : Nat} : (j.acquire st ord).control = j.control := Job.control_modStream

/-- The end of an access of a job. -/
theorem Worked.endAccess (h : Worked s₀ s) {r : List Byte × Option Origin} : Worked s₀ (s.endAccess n g r) := by
  unfold State.endAccess
  extract_lets j1 j2 j3 j4
  have h1 : j1.control = (s.job n).control := Job.control_writeBack
  have h3 : j3.control = (s.job n).control := by
    unfold j3
    split
    · exact Job.control_acquire.trans h1
    · exact h1
  have h4 : j4.control = (s.job n).control := h3
  clear_value j4
  split
  · split
    · exact h.setJob h4
    · exact h.setJob (Job.control_vectorBy.trans (Eq.trans control_moveSome h4))
  · exact h.setJob h4

theorem Worked.answerNow (h : Worked s₀ s) : Worked s₀ (s.answerNow n g) := by
  unfold State.answerNow
  split
  · exact h
  · split
    · exact h.endAccess
    · generalize g.kind = kind
      cases kind with
      | atomic =>
        dsimp only
        have hs : Undisturbed s ((s.ownBefore n g).foldl (fun (t : State) p => t.orderNow n p) s) :=
          (Undisturbed.refl s).foldl fun _ _ ht => ht.orderNow
        exact (h.trans hs.atomicNow.update.worked).endAccess
      | nest => exact h
      | spill => exact h.endAccess
      | load => exact h.endAccess
      | vrow => exact h.endAccess

theorem Job.control_setMops {j : Job} {l : List MatOp} : ({ j with mops := l } : Job).control = j.control := rfl

/-- A drain changes of its core what operations in flight change, and nothing else. -/
theorem worked_drain (s : State) (n : CoreIx) : Worked s (s.drain n) := by
  unfold State.drain
  extract_lets u k j held r src j'
  have hu : Worked s u := (Worked.refl s).foldl fun _ _ ht => ht.answerNow
  have hr : r.1.withoutSpad = k.withoutSpad ∧ r.2.control = j.control := by
    simp only [r]
    split
    · rw [withoutSpad_foldl fun _ _ => withoutSpad_finishMat, withoutSpad_moveDue, Job.control_vectorBy,
        control_foldl fun _ _ => control_finishMat]
      dsimp only
      rw [Job.control_setMops, control_moveDue]
      exact ⟨rfl, rfl⟩
    · exact ⟨withoutSpad_drainCycles _ _ _, control_drainCycles _ _ _⟩
  obtain ⟨hc, hj⟩ := hr
  have hj' : j'.control = j.control := by
    rw [← hj]
    unfold j' src Job.control
    simp only [Job.stream, Fin.getElem_fin, Vector.getElem_map, Stream.control_drainAll]
  clear_value j'
  exact hu.setCore (Core.frame_setJob k r.1 j' hc hj')

end Sys2Proof.Machine
end

section
/-! Traps: the entry of a handler, the end of a job that has none, and the return (03 R72; 13 R231; 23 R372, R374). -/

set_option autoImplicit false
set_option Elab.async false

namespace Sys2Proof.Machine

open Sys2Proof.Claims

variable {s : State} {n : CoreIx} {j d : Job} {t : TrapNote} {st : Strm}

/-- The trap registers are written, and the stream stops where it is to go on. -/
def Job.stopAt (j : Job) (t : TrapNote) : Job :=
  { (j.trapped t).modStream t.strm fun u => { u with pc := t.resume, held := none } with
    traps := j.traps.filter fun u => u.flight && u != t }

/-- The state in which a trap is taken: what was in flight has completed. -/
def State.stopped (s : State) (n : CoreIx) (t : TrapNote) : State := (s.modJob n fun j => j.stopAt t).drain n

theorem control_stopped : ((s.stopped n t).job n).control = ((s.job n).stopAt t).control :=
  (worked_drain _ n).control_eq.trans (congrArg Job.control (s.job_modJob n _))

theorem Job.pc_stopAt : ((d.stopAt t).stream t.strm).pc = t.resume :=
  (congrArg Stream.pc ((d.trapped t).stream_modStream t.strm fun u => { u with pc := t.resume, held := none }) :)

theorem Job.stream_stopAt_other (h : st ≠ t.strm) : (d.stopAt t).stream st = d.stream st :=
  (d.trapped t).stream_modStream_other (fun u => { u with pc := t.resume, held := none }) h

theorem Job.joined_stopAt : ((d.stopAt t).stream st).joined = (d.stream st).joined := by
  by_cases h : st = t.strm
  · subst h
    exact (congrArg Stream.joined ((d.trapped t).stream_modStream t.strm fun u => { u with pc := t.resume, held := none }) :)
  · rw [Job.stream_stopAt_other h]

/-- Whether a job has a handler for a user cause is told by what no operation in flight changes. -/
theorem Job.handles_stopAt (h : j.control = (d.stopAt t).control) : j.handles = d.handles := by
  have hst : j.st = d.st := (congrArg Job.Control.st h :)
  have hv : j.trapvec = d.trapvec := (congrArg Job.Control.trapvec h :)
  have hn : j.nest = d.nest := (congrArg Job.Control.nest h :)
  have hs : (j.stream .s).joined = ((d.stopAt t).stream .s).joined := (congrArg (fun c => (c.strm .s).joined) h :)
  rw [Job.handles, Job.inMask, hst, hv, hn, hs, Job.joined_stopAt]
  rfl

theorem job_deliver_handled (hc : isSystem t.cause = false) (hh : (s.job n).handles = true) :
    (s.deliver n t).job n = ((s.stopped n t).job n).enter t := by
  have hj : ((s.stopped n t).job n).handles = true := (Job.handles_stopAt control_stopped).trans hh
  have hd : s.deliver n t = ((s.stopped n t).modJob n fun j => j.enter t).modCore n fun c => c.reveal true := by
    unfold State.deliver
    dsimp only
    rw [if_neg (by simp [hc])]
    exact if_pos hj
  refine Eq.trans ?_ ((s.stopped n t).job_modJob n fun j => j.enter t)
  rw [hd]
  unfold State.job
  rw [State.core_modCore]
  rfl

theorem job_deliver_unhandled (hc : isSystem t.cause = false) (hh : (s.job n).handles = false) : ((s.deliver n t).job n).st = .none := by
  have hj : ((s.stopped n t).job n).handles = false := (Job.handles_stopAt control_stopped).trans hh
  have hd : s.deliver n t = (s.stopped n t).fenceJob n true t.cause none (some (t.strm, t.pc)) t.info := by
    unfold State.deliver
    dsimp only
    rw [if_neg (by simp [hc])]
    exact if_neg (by simp only [Bool.not_eq_true]; exact hj)
  rw [hd]
  exact fenceJob_empties (run := true) none _

-- The handler.

theorem Job.stream_enter : (j.enter t).stream .s = { j.stream .s with pc := j.trapvec, held := none } :=
  Job.stream_modStream ..

theorem Job.stream_enter_other (h : st ≠ .s) : (j.enter t).stream st = j.stream st := Job.stream_modStream_other _ _ h

/-- What is in flight as the handler is entered is what was. -/
theorem Job.inFlight_enter : (j.enter t).inFlight = j.inFlight := by
  have hp (k : Strm) : ((j.enter t).stream k).pend = (j.stream k).pend := by
    by_cases h : k = .s
    · rw [h, Job.stream_enter]
    · rw [Job.stream_enter_other h]
  unfold Job.inFlight
  simp only [hp]
  rfl

/-- A stop waits for what is in flight. -/
theorem Job.stop_enter (h : (j.enter t).inFlight = true) : (j.enter t).stop = some t := by
  rw [Job.inFlight_enter] at h
  exact if_pos h

theorem mayIssue_of_stop (h : (s.job n).stop = some t) : s.mayIssue n st = false := by
  unfold State.mayIssue
  dsimp only
  rw [h]
  simp

/-- What the entry of a handler leaves, of a job stopped by a trap. -/
theorem Job.enter_spec (h : j.control = (d.stopAt t).control) : let k := j.enter t
    k.st = .trapped ∧ k.trapcause = t.cause ∧ k.trappc = t.pc ∧ k.trapstrm = t.strm ∧ k.trapinfo = t.info ∧ k.trapResume = t.resume ∧
    k.retStrm = t.strm ∧ (k.stream .s).pc = d.trapvec ∧ k.trapvec = d.trapvec ∧
    (t.strm ≠ .s → k.sResume = (d.stream .s).pc ∧ (k.stream t.strm).pc = t.resume) ∧
    ∀ st, st ≠ .s → st ≠ t.strm → (k.stream st).pc = (d.stream st).pc := by
  have hpc (st : Strm) : (j.stream st).pc = ((d.stopAt t).stream st).pc := (congrArg (fun c => (c.strm st).pc) h :)
  have hv : j.trapvec = d.trapvec := (congrArg Job.Control.trapvec h :)
  refine ⟨rfl, (congrArg Job.Control.trapcause h :), (congrArg Job.Control.trappc h :), (congrArg Job.Control.trapstrm h :),
    (congrArg Job.Control.trapinfo h :), rfl, rfl, ?_, hv, fun hs => ⟨?_, ?_⟩, fun st hs ht => ?_⟩
  · rw [Job.stream_enter]
    exact hv
  · show (j.stream .s).pc = _
    rw [hpc, Job.stream_stopAt_other (Ne.symm hs)]
  · rw [Job.stream_enter_other hs, hpc, Job.pc_stopAt]
  · rw [Job.stream_enter_other hs, hpc, Job.stream_stopAt_other ht]

-- The return.

/-- The job runs again, out of its handler. -/
def Job.freed (j : Job) : Job := { j with st := .running, tret := none, marks := j.marks.filter fun m => !m.h, hclk := 0 }

/-- The job with a stream at another place. -/
def Job.goTo (j : Job) (st : Strm) (pc : Word) : Job := j.modStream st fun t => { t with pc := pc }

theorem Job.pc_goTo (j : Job) (pc : Word) : ((j.goTo st pc).stream st).pc = pc :=
  (congrArg Stream.pc (j.stream_modStream st fun t => { t with pc := pc }) :)

theorem Job.stream_goTo_other (j : Job) (pc : Word) {k : Strm} (h : k ≠ st) : (j.goTo st pc).stream k = j.stream k :=
  j.stream_modStream_other _ h

theorem Job.trapReturn_of_s (j : Job) (a : Word) (h : j.retStrm = .s) : j.trapReturn a = j.freed.goTo j.retStrm a := by
  unfold Job.trapReturn
  dsimp only
  rw [if_pos (beq_iff_eq.mpr h)]
  rfl

theorem Job.trapReturn_of_ne (j : Job) (a : Word) (h : j.retStrm ≠ .s) :
    j.trapReturn a = (j.freed.goTo .s j.sResume).goTo j.retStrm a := by
  unfold Job.trapReturn
  dsimp only
  rw [if_neg (by simpa using h)]
  rfl

/-- Where the streams stand after a return. -/
theorem Job.stream_trapReturn (j : Job) (a : Word) : (j.trapReturn a).st = .running ∧ ((j.trapReturn a).stream j.retStrm).pc = a ∧
    (j.retStrm ≠ .s → ((j.trapReturn a).stream .s).pc = j.sResume) ∧
    ∀ st, st ≠ .s → st ≠ j.retStrm → (j.trapReturn a).stream st = j.stream st := by
  by_cases hs : j.retStrm = .s
  · rw [j.trapReturn_of_s a hs]
    exact ⟨rfl, Job.pc_goTo .., fun h => absurd hs h, fun st _ h => Job.stream_goTo_other _ _ h⟩
  · rw [j.trapReturn_of_ne a hs]
    refine ⟨rfl, Job.pc_goTo .., fun _ => ?_, fun st h hr => ?_⟩
    · rw [Job.stream_goTo_other _ _ (Ne.symm hs), Job.pc_goTo]
    · rw [Job.stream_goTo_other _ _ hr, Job.stream_goTo_other _ _ h]
      rfl

/-- A return leaves the trap registers. -/
theorem Job.registers_trapReturn (j : Job) (a : Word) : let r := j.trapReturn a
    r.trapcause = j.trapcause ∧ r.trappc = j.trappc ∧ r.trapstrm = j.trapstrm ∧ r.trapinfo = j.trapinfo ∧ r.trapvec = j.trapvec := by
  unfold Job.trapReturn
  dsimp only
  split <;> exact ⟨rfl, rfl, rfl, rfl, rfl⟩

-- The word being issued.

/-- The trap of the word being issued. -/
def State.trapOf (s : State) (c : Cause) (info : Word) : TrapNote :=
  ⟨s.cur.strm, c, info, s.cur.wpc, if c = cSoftware then s.cur.next else s.cur.gpc, false⟩

theorem job_takeTrap (s : State) (c : Cause) (info : Word) (n : CoreIx) :
    (s.takeTrap c info).job n = (s.deliver s.cur.core (s.trapOf c info)).job n := by
  unfold State.takeTrap State.trapOf
  simp only [beq_iff_eq]
  rfl

theorem handles_iff : j.handles = true ↔ j.st ≠ .trapped ∧ j.trapvec ≠ 0 ∧ j.inMask .s = true ∧ (j.stream .s).joined = false := by
  simp [Job.handles, and_assoc]

/-- Settles O10. -/
theorem trapEntryAndReturn : Obligations.TrapEntryAndReturn := by
  unfold Obligations.TrapEntryAndReturn
  refine ⟨fun s c info => ?_, fun s c info hc hh _ => ?_, fun j a => ?_⟩
  · intro n d hc hst hv hm hj resume j
    have he : j = ((s.stopped n (s.trapOf c info)).job n).enter (s.trapOf c info) :=
      (job_takeTrap s c info n).trans (job_deliver_handled hc (handles_iff.mpr ⟨hst, hv, hm, hj⟩))
    obtain ⟨h1, h2, h3, h4, h5, h6, h7, h8, h9, h10, h11⟩ := Job.enter_spec (control_stopped (s := s) (n := n) (t := s.trapOf c info))
    rw [← he] at h1 h2 h3 h4 h5 h6 h7 h8 h9 h10 h11
    refine ⟨h1, h2, h3, h4, h5, h6, h7, h8, h9, h10, h11, fun hf st => mayIssue_of_stop (t := s.trapOf c info) ?_⟩
    rw [he] at hf
    exact (congrArg Job.stop he).trans (Job.stop_enter hf)
  · rw [job_takeTrap]
    refine job_deliver_unhandled hc (Bool.eq_false_iff.mpr fun h => ?_)
    obtain ⟨hst, hv, -⟩ := handles_iff.mp h
    exact hh.elim hv hst
  · obtain ⟨h1, h2, h3, h4⟩ := j.stream_trapReturn a
    exact ⟨h1, h2, h3, h4, j.registers_trapReturn a⟩

end Sys2Proof.Machine
end

section
/-! Dispatch: the candidate that comes first, the core that takes it, and the job that is placed there (03 R52 to R54, R57). -/

set_option autoImplicit false
set_option Elab.async false

namespace Sys2Proof.Machine

open Sys2Proof.Claims

-- The first of a list in an order.

section

variable {α : Type} {before : α → α → Bool}

/-- The element of two that comes first, the earlier one when neither does. -/
def firstOf (before : α → α → Bool) : Option α → α → Option α
  | none, c => some c
  | some a, c => if before c a then some c else some a

/-- A strict order in which every third element lies on one side of two that are ordered. -/
structure WeakOrder (before : α → α → Bool) : Prop where
  irrefl : ∀ a, before a a = false
  trans : ∀ {a b c}, before a b = true → before b c = true → before a c = true
  cotrans : ∀ {a b c}, before a c = true → before a b = true ∨ before b c = true

/-- The one that a fold from an element picks is of the list, and none of the list comes before it. -/
theorem foldl_firstOf (h : WeakOrder before) (l : List α) (a : α) :
    ∃ r, l.foldl (firstOf before) (some a) = some r ∧ r ∈ a :: l ∧ ∀ e ∈ a :: l, before e r = false := by
  induction l generalizing a with
  | nil => exact ⟨a, rfl, by simp, by simp [h.irrefl]⟩
  | cons c l ih =>
    rw [List.foldl_cons, firstOf]
    by_cases hc : before c a = true
    · rw [if_pos hc]
      obtain ⟨r, hr, hm, hmin⟩ := ih c
      refine ⟨r, hr, List.mem_cons_of_mem _ hm, fun e he => ?_⟩
      rcases List.mem_cons.mp he with rfl | he
      · exact Bool.eq_false_iff.mpr fun hb => absurd (h.trans hc hb) (by simp [hmin c])
      · exact hmin e he
    · rw [if_neg hc]
      obtain ⟨r, hr, hm, hmin⟩ := ih a
      have hca : before c a = false := Bool.eq_false_iff.mpr hc
      refine ⟨r, hr, ?_, fun e he => ?_⟩
      · rcases List.mem_cons.mp hm with rfl | hm
        · exact List.mem_cons_self
        · exact List.mem_cons_of_mem _ (List.mem_cons_of_mem _ hm)
      · rcases List.mem_cons.mp he with rfl | he
        · exact hmin e List.mem_cons_self
        · rcases List.mem_cons.mp he with rfl | he
          · refine Bool.eq_false_iff.mpr fun hb => ?_
            rcases h.cotrans (b := a) hb with hb | hb
            · exact hc hb
            · exact absurd hb (by simp [hmin a])
          · exact hmin e (List.mem_cons_of_mem _ he)

/-- A fold from nothing picks an element of a list that has one. -/
theorem foldl_firstOf_none (h : WeakOrder before) {l : List α} {r : α} (hr : l.foldl (firstOf before) none = some r) :
    r ∈ l ∧ ∀ e ∈ l, before e r = false := by
  cases l with
  | nil => cases hr
  | cons a l =>
    obtain ⟨r', hr', hm⟩ := foldl_firstOf h l a
    obtain rfl : r' = r := Option.some.inj (hr'.symm.trans hr)
    exact hm

theorem exists_foldl_firstOf (h : WeakOrder before) {l : List α} (hl : l ≠ []) : ∃ r, l.foldl (firstOf before) none = some r := by
  cases l with
  | nil => exact absurd rfl hl
  | cons a l =>
    obtain ⟨r, hr, -⟩ := foldl_firstOf h l a
    exact ⟨r, hr⟩

end

variable {s : State} {d : DieIx} {n : CoreIx} {l : Launch}

-- The order of candidates.

theorem key4Lt_iff {a b : Nat × Nat × Nat × Nat} : key4Lt a b = true ↔ a.1 < b.1 ∨ a.1 = b.1 ∧ (a.2.1 < b.2.1 ∨
    a.2.1 = b.2.1 ∧ (a.2.2.1 < b.2.2.1 ∨ a.2.2.1 = b.2.2.1 ∧ a.2.2.2 < b.2.2.2)) := by
  unfold key4Lt
  by_cases h1 : a.1 = b.1
  · by_cases h2 : a.2.1 = b.2.1
    · by_cases h3 : a.2.2.1 = b.2.2.1 <;> simp [h1, h2, h3]
    · simp [h1, h2]
  · simp [h1]

theorem key4Lt_weakOrder {α : Type} (key : α → Nat × Nat × Nat × Nat) : WeakOrder fun a b => key4Lt (key a) (key b) where
  irrefl a := Bool.eq_false_iff.mpr fun h => by rw [key4Lt_iff] at h; omega
  trans h h' := by rw [key4Lt_iff] at *; omega
  cotrans h := by simp only [key4Lt_iff] at *; omega

/-- The candidate of a die is the first of them in the order of R53. -/
theorem State.best_eq (s : State) (d : DieIx) :
    s.best d = (s.cands d).foldl (firstOf fun a b => key4Lt (s.candKey a) (s.candKey b)) none := by
  unfold State.best
  congr 1
  funext b c
  cases b <;> rfl

theorem State.best_spec {c : Cand} (h : s.best d = some c) : c ∈ s.cands d ∧ ∀ e ∈ s.cands d, key4Lt (s.candKey e) (s.candKey c) = false :=
  foldl_firstOf_none (key4Lt_weakOrder s.candKey) ((s.best_eq d).symm.trans h)

theorem State.exists_best (h : s.cands d ≠ []) : ∃ c, s.best d = some c := by
  rw [State.best_eq]
  exact exists_foldl_firstOf (key4Lt_weakOrder s.candKey) h

/-- A candidate has a core that takes it. -/
theorem State.candCore_of_mem {c : Cand} (h : c ∈ s.cands d) : ∃ n, s.candCore d c = some n :=
  Option.isSome_iff_exists.mp (List.mem_filter.mp h).2

/-- The only launch with work left is the candidate. -/
theorem State.best_of_single (hl : s.launches = [l]) (hp : s.parked = []) (hw : l.left d ≠ 0) (hc : s.crowded d l.seq l.nest = false)
    (hn : s.candCore d (.fresh l) = some n) : s.best d = some (.fresh l) := by
  have hk : s.cands d = [.fresh l] := by
    unfold State.cands
    rw [hl, hp]
    simp [hw, hc, hn]
  rw [State.best_eq, hk]
  rfl

-- Cores.

theorem mem_coresOf_iff : n ∈ coresOf d ↔ dieOf n = d := by
  refine ⟨fun h => ?_, fun h => h ▸ mem_coresOf⟩
  obtain ⟨i, -, rfl⟩ := List.mem_map.mp h
  exact Fin.ext (by simp only [dieOf]; omega)

/-- The cores of a die, lowest number first. -/
theorem pairwise_coresOf : (coresOf d).Pairwise (· < ·) :=
  List.pairwise_map.mpr ((List.pairwise_lt_finRange 16).imp fun h => Nat.add_lt_add_left (Fin.lt_def.mp h) _)

/-- The cores of a die that a job may go to: there is room, and no gang that waits names them (R54). -/
def State.freeCores (s : State) (d : DieIx) : List CoreIx := (coresOf d).filter fun n => s.hasRoom n && (s.reservedBy n).isEmpty

theorem mem_freeCores : n ∈ s.freeCores d ↔ dieOf n = d ∧ s.hasRoom n = true ∧ s.reservedBy n = [] := by
  rw [State.freeCores, List.mem_filter, mem_coresOf_iff, Bool.and_eq_true, List.isEmpty_iff]

/-- Both contexts of a core are empty. -/
def State.idle (s : State) (n : CoreIx) : Bool := (s.core n).ctxs.all fun j => j.st == .none

theorem idle_iff : s.idle n = true ↔ (s.core n).ctx0.st = .none ∧ (s.core n).ctx1.st = .none := by
  simp [State.idle, Core.ctxs]

theorem State.coreFor_eq (s : State) (d : DieIx) : s.coreFor d = ((s.freeCores d).find? s.idle).or (s.freeCores d).head? := by
  have h : s.coreFor d = (match (s.freeCores d).find? s.idle with | some n => some n | none => (s.freeCores d).head?) := rfl
  rw [h]
  cases (s.freeCores d).find? s.idle <;> rfl

theorem State.exists_coreFor {m : CoreIx} (h : m ∈ s.freeCores d) : ∃ n, s.coreFor d = some n := by
  rw [State.coreFor_eq]
  cases (s.freeCores d).find? s.idle with
  | some n => exact ⟨n, rfl⟩
  | none =>
    rw [Option.none_or]
    cases hf : s.freeCores d with
    | nil => rw [hf] at h; cases h
    | cons a l => exact ⟨a, rfl⟩

theorem State.mem_of_coreFor (h : s.coreFor d = some n) : n ∈ s.freeCores d := by
  rw [State.coreFor_eq] at h
  cases hf : (s.freeCores d).find? s.idle with
  | some m =>
    rw [hf] at h
    exact Option.some.inj h ▸ List.mem_of_find?_eq_some hf
  | none =>
    rw [hf, Option.none_or] at h
    exact List.mem_of_head? h

/-- An empty core that is free makes the one taken an empty one of no higher number (R54). -/
theorem State.coreFor_idle (h : s.coreFor d = some n) {m : CoreIx} (hm : m ∈ s.freeCores d) (hi : s.idle m = true) :
    s.idle n = true ∧ n ≤ m := by
  rw [State.coreFor_eq] at h
  obtain ⟨k, hk⟩ : ∃ k, (s.freeCores d).find? s.idle = some k :=
    Option.isSome_iff_exists.mp (List.find?_isSome.mpr ⟨m, hm, hi⟩)
  rw [hk] at h
  obtain rfl : k = n := Option.some.inj h
  obtain ⟨hki, as, bs, hl, has⟩ := List.find?_eq_some_iff_append.mp hk
  refine ⟨hki, ?_⟩
  have hp : (s.freeCores d).Pairwise (· < ·) := pairwise_coresOf.filter _
  rw [hl] at hm hp
  rcases List.mem_append.mp hm with hm | hm
  · exact absurd hi (by simpa using has m hm)
  · rcases List.mem_cons.mp hm with rfl | hm
    · exact le_refl _
    · exact le_of_lt ((List.pairwise_cons.mp (List.pairwise_append.mp hp).2.1).1 m hm)

theorem State.hasRoom_iff : s.hasRoom n = true ↔ s.coreUp n = true ∧ ((s.core n).ctx0.st = .none ∨ (s.core n).ctx1.st = .none) := by
  simp [State.hasRoom, Core.ctxs]

/-- The core that a job of no gang goes to (R54). -/
theorem State.coreFor_spec (h : s.coreFor d = some n) : dieOf n = d ∧ s.coreUp n = true ∧
    ((s.core n).ctx0.st = .none ∨ (s.core n).ctx1.st = .none) ∧
    ∀ m, dieOf m = d → s.coreUp m = true → s.reservedBy m = [] → (s.core m).ctx0.st = .none → (s.core m).ctx1.st = .none →
      (s.core n).ctx0.st = .none ∧ (s.core n).ctx1.st = .none ∧ n ≤ m := by
  obtain ⟨hd, hr, -⟩ := mem_freeCores.mp (State.mem_of_coreFor h)
  obtain ⟨hu, hc⟩ := State.hasRoom_iff.mp hr
  refine ⟨hd, hu, hc, fun m hm hum hres h0 h1 => ?_⟩
  have hf : m ∈ s.freeCores d := mem_freeCores.mpr ⟨hm, State.hasRoom_iff.mpr ⟨hum, .inl h0⟩, hres⟩
  obtain ⟨hi, hle⟩ := State.coreFor_idle h hf (idle_iff.mpr ⟨h0, h1⟩)
  obtain ⟨hn0, hn1⟩ := idle_iff.mp hi
  exact ⟨hn0, hn1, hle⟩

-- The job.

/-- A stream at T0: one of SMASK begins at its entry with the indices and the stage in its registers, another has joined (R57). -/
theorem streamAt0_spec (r : NestRec) (idx : Vector Word 4) (stage : Nat) (k : Fin 4) : let t := streamAt0 r idx stage k
    t.started = r.smask.getLsbD k.val ∧ t.joined = (!r.smask.getLsbD k.val) ∧ t.p = Vector.replicate 8 ⟨false, none⟩ ∧
    t.q = Vector.replicate 4 [] ∧ (r.smask.getLsbD k.val = true → t.pc = r.entry[k] ∧ ∀ x : Fin 16, t.x[x] =
      if x = 5 then ⟨BitVec.ofNat 64 stage, none⟩ else if h : 1 ≤ x.val ∧ x.val ≤ 4 then ⟨idx[x.val - 1], none⟩ else ⟨0, none⟩) := by
  refine ⟨rfl, rfl, rfl, rfl, fun h => ?_⟩
  unfold streamAt0
  dsimp only
  rw [h]
  refine ⟨rfl, fun x => ?_⟩
  fin_cases x <;> rfl

-- Dispatch.

theorem dispatch_fresh (hb : s.best d = some (.fresh l)) (hn : s.candCore d (.fresh l) = some n) (hg : l.nest.gang = false) :
    s.dispatch d = some { s.modCore n (fun c => c.place (s.newJob l n (l.iter d l.next[d])) true) with
      launches := s.launches.map fun (m : Launch) => if m.seq = l.seq then { m with next := m.next.set d (m.next[d] + 1) } else m } := by
  unfold State.dispatch
  rw [hb]
  dsimp only
  rw [hn]
  simp only [hg, Bool.false_eq_true, if_false, beq_iff_eq]
  rfl

theorem dispatch_again {p : Parked} {base : Nat} (hb : s.best d = some (.again p base)) (hn : s.candCore d (.again p base) = some n) :
    s.dispatch d = some ((s.modCore n fun c => c.place { p.job with st := .dispatched, xlated := false, faultPage := none } false).journal
      ({ p.job with st := .dispatched, xlated := false, faultPage := none }.entry 9 .dispatched 0 n (leBytes 1 p.slot))) := by
  unfold State.dispatch
  rw [hb]
  dsimp only
  rw [hn]

/-- A job that takes an empty core takes the turnstiles of the core, and the other context stays empty. -/
theorem place_empty (c : Core) (j : Job) (b : Bool) (hj : c.job.st = .none) (ho : c.other.st = .none) :
    (c.place j b).job = { j with ts := c.job.ts } ∧ (c.place j b).other.st = .none := by
  have hs : c.spot = ({ c with ctx0 := { Job.zero with ts := c.job.ts }, ctx1 := Job.zero, runIx := false }, true) := by
    unfold Core.spot
    rw [hj, ho]
    rfl
  unfold Core.place
  rw [hs]
  cases b <;> exact ⟨rfl, rfl⟩

/-- Settles O40. -/
theorem jobDispatch : Obligations.JobDispatch := by
  unfold Obligations.JobDispatch
  refine ⟨fun s d l n hb hn hg => ?_, fun s d p base n hb hn => ?_, fun s d l n hl hp hg hw hc hn => ?_, fun s d h => ?_, fun s d h => ?_,
    place_empty, fun s d c h => State.best_spec h, fun s d n h => State.coreFor_spec h⟩
  · refine ⟨(congrArg (happen s) (dispatch_fresh hb hn hg)).trans rfl, rfl, rfl, rfl, rfl, rfl, rfl, fun k => ?_⟩
    have hk : (s.newJob l n (l.iter d l.next[d])).strm[k] =
        streamAt0 l.nest (l.nest.indices (l.iter d l.next[d])).1 (l.nest.indices (l.iter d l.next[d])).2 k := by
      simp [State.newJob]
    obtain ⟨h1, h2, h3, h4, h5⟩ := streamAt0_spec l.nest (l.nest.indices (l.iter d l.next[d])).1 (l.nest.indices (l.iter d l.next[d])).2 k
    rw [← hk] at h1 h2 h3 h4 h5
    exact ⟨h1, h2, h3, h4, h5⟩
  · exact (congrArg (happen s) (dispatch_again hb hn)).trans rfl
  · have hk : s.candCore d (.fresh l) = some n := (if_neg (by simp [hg])).trans hn
    exact ⟨State.best_of_single hl hp hw hc hk, hk⟩
  · obtain ⟨m, hm, hr, hres⟩ := h
    exact State.exists_coreFor (mem_freeCores.mpr ⟨hm, hr, hres⟩)
  · obtain ⟨c, hc⟩ := State.exists_best h
    obtain ⟨n, hn⟩ := State.candCore_of_mem (State.best_spec hc).1
    exact ⟨c, n, hc, hn⟩

end Sys2Proof.Machine
end

section
/-! The end of a job: the watchdog, what it ends as a cycle settles, and DONE (03 R56, R72 to R74, R77; 17 R284, R302). -/

set_option autoImplicit false
set_option Elab.async false

namespace Sys2Proof.Machine

open Sys2Proof.Claims

variable {s s₀ t : State} {n : CoreIx} {j : Job} {run : Bool}

-- The watchdog.

theorem exec_watchdog (s : State) (n : CoreIx) :
    exec (.watchdog n) s = happen s ((s.job n).watch.map fun k => s.modJob n fun j => { j with wdog := some k }) := rfl

/-- The states in which a job is watched (R77). -/
theorem watch_of_lives (h : j.st = .running ∨ j.st = .frozen ∨ j.st = .trapped) : j.watch =
    if j.nest.persist = true ∧ j.nest.beaconUs.toNat * 21600 ≤ j.beacon then some 0
    else if j.nest.budgetUs ≠ 0 ∧ j.nest.budgetUs.toNat * 21600 ≤ j.runtime then some 1 else none := by
  have hl : ¬(!(j.st == .running || j.st == .frozen || j.st == .trapped)) = true := by
    rcases h with h | h | h <;> rw [h] <;> decide
  unfold Job.watch
  rw [if_neg hl]
  simp only [Bool.and_eq_true, decide_eq_true_eq, ge_iff_le, bne_iff_ne]

theorem watch_of_not_lives (h : ¬(j.st = .running ∨ j.st = .frozen ∨ j.st = .trapped)) : j.watch = none :=
  if_pos (by simpa [not_or, and_assoc] using h)

-- A job that the watchdog ends.

theorem State.launchEnd_leaves (s : State) (seq cnt : Nat) :
    (s.launchEnd seq cnt).cores = s.cores ∧ (s.launchEnd seq cnt).jrnlNext = s.jrnlNext := by
  unfold State.launchEnd
  split
  · exact ⟨rfl, rfl⟩
  · split
    · refine List.foldlRecOn (motive := fun u : State => u.cores = s.cores ∧ u.jrnlNext = s.jrnlNext) _ _ ⟨rfl, rfl⟩ fun u hu p _ => ?_
      split
      · exact hu
      · exact hu
    · exact ⟨rfl, rfl⟩

theorem State.core_launchEnd (s : State) (seq cnt : Nat) : (s.launchEnd seq cnt).core n = s.core n := by
  rw [State.core, (s.launchEnd_leaves seq cnt).1]
  rfl

/-- A running job that is fenced leaves an empty context. -/
theorem job_fenceJob {cause : Cause} {info : Word} (hj : (s.job n).st ≠ .none) (wd : Option Nat) (trap : Option (Strm × Word)) :
    ∃ ts, (s.fenceJob n true cause wd trap info).job n = { Job.zero with ts := ts } := by
  unfold State.fenceJob
  extract_lets k j0 u1 k1 j mine u2 u3 u4 mark u5 u6 u7 jf left
  have hb : ¬(j0.st == .none) = true := fun e => hj (eq_of_beq e)
  rw [if_neg hb]
  generalize u7.capture n { jf with st := .fenced } .fenced left = r
  obtain ⟨u, slot⟩ := r
  dsimp only
  refine ⟨jf.ts, ?_⟩
  rw [State.job, State.core_launchEnd, ← State.job, (undisturbed_journal _ _).job_eq]
  exact (congrArg Core.job (u.core_modCore n fun c => (c.hide true).setJob (jf.emptied true))).trans (Core.job_setJob _ _)

-- What the end of a cycle does, where a job is in its other context.

/-- Any change of a job that a core runs at first. -/
theorem Steady.modJob_of_busy (h : Steady s₀ s) (hn : (s₀.job n).st ≠ .none) {f : Job → Job} : Steady s₀ (s.modJob n f) :=
  h.setJob_of_busy hn

theorem Steady.faultRequest (h : Steady s₀ s) {part : BitVec 16} {page : Nat} : Steady s₀ (s.faultRequest part page) := by
  unfold State.faultRequest
  split
  · exact h
  · split
    · refine .ite h ?_
      have hu {v : Vector Partition 8} : Steady s₀ { s with parts := v } := h.update
      exact .ite hu.msixPart hu
    · exact h

theorem Steady.suspend (h : Steady s₀ s) (hn : (s₀.job n).st ≠ .none) {t : TrapNote} : Steady s₀ (s.suspend n t) := by
  have hj : Steady s₀ (s.hide n true) := h.modCore
  unfold State.suspend
  exact .ite (hj.modJob_of_busy hn).journal.faultRequest (hj.modJob_of_busy hn).journal.fenceJob

theorem Steady.deliver (h : Steady s₀ s) (hn : (s₀.job n).st ≠ .none) {t : TrapNote} : Steady s₀ (s.deliver n t) := by
  unfold State.deliver
  extract_lets u v j
  have hv : Steady s₀ v := (h.modJob_of_busy hn).drain hn
  exact .ite (.ite (hv.modJob_of_busy hn) (hv.suspend hn)) (.ite (hv.modJob_of_busy hn).modCore hv.fenceJob)

theorem Steady.trapAt (h : Steady s₀ s) (hn : (s₀.job n).st ≠ .none) {t : TrapNote} : Steady s₀ (s.trapAt n t) := by
  unfold State.trapAt
  exact .ite (h.deliver hn) (Steady.deliver (.ite h (h.modJob_of_busy hn)) hn)

/-- A trap is due to a job that is there. -/
theorem Job.ne_none_of_dueTrap {t : TrapNote} (h : j.dueTrap = some t) : j.st ≠ .none := fun e => by
  rw [Job.dueTrap, e] at h
  cases h

theorem Job.ne_none_of_owedNext {o : Nat × Strm × Cause × Word × Word} (h : j.owedNext = some o) : j.st ≠ .none := fun e => by
  have hg := List.find?_some h
  simp [Job.goesOn, e] at hg

theorem steady_trapNow (s : State) (n : CoreIx) : Steady s (s.trapNow n) := by
  unfold State.trapNow
  dsimp only
  split
  · next t ht => exact (Steady.refl s).trapAt (Job.ne_none_of_dueTrap ht)
  · refine .ite (.refl s) ?_
    split
    · next o ho => exact Steady.trapAt ((Steady.refl s).modJob_of_busy (Job.ne_none_of_owedNext ho)) (Job.ne_none_of_owedNext ho)
    · exact .refl s

/-- The trap of the other context. -/
theorem steady_trapOther (s : State) (n : CoreIx) : Steady s (((s.flip n).trapNow n).flip n) := by
  have h := (steady_trapNow (s.flip n) n).flip (n := n)
  rw [State.flip_flip] at h
  exact h

-- A context that has been emptied stays empty.

/-- A job that is not there, with nothing noted or owed. -/
def Job.Gone (j : Job) : Prop := ∃ ts, j = { Job.zero with ts := ts }

theorem Job.Gone.st_eq (h : j.Gone) : j.st = .none := by
  obtain ⟨ts, rfl⟩ := h
  rfl

theorem Job.Gone.advances_eq (h : j.Gone) : j.advances = false := by
  obtain ⟨ts, rfl⟩ := h
  rfl

/-- The operations of a cycle leave an empty context. -/
theorem job_works_other (held : Nat → Bool) (gcc : Nat) (c : Core) :
    ((work held gcc c c.other).1.setOther { (work held gcc c c.other).2 with cycDone := true }).job = c.job :=
  (Core.job_setOther _ _).trans (congrArg Core.job (withoutSpad_work (held := held) (gcc := gcc) (c := c) (j := c.other)) :)

theorem job_works (h : (s.job n).advances = false) : (s.works n).job n = s.job n := by
  have hr : ¬(s.core n).job.advances = true := Bool.eq_false_iff.mp h
  unfold State.works
  simp only [if_neg hr]
  rw [State.job, State.core_setCore]
  split
  · exact job_works_other _ _ _
  · rfl

theorem stopDue_of_gone (h : (s.job n).Gone) : s.stopDue n = s := by
  obtain ⟨ts, h⟩ := h
  unfold State.stopDue
  rw [h]
  rfl

theorem trapNow_of_gone (h : (s.job n).Gone) : s.trapNow n = s := by
  obtain ⟨ts, h⟩ := h
  unfold State.trapNow
  rw [h]
  rfl

/-- What the watchdog has found ends the job as the cycle settles. -/
theorem settle_of_wdog {k : Nat} (hw : (s.job n).wdog = some k) (ha : (s.job n).alive = true) : ((s.settle n).job n).st = .none := by
  have hn : (s.job n).st ≠ .none := fun e => by rw [Job.alive, e] at ha; cases ha
  have hg : ((s.fenceJob n true cWatchdog (some k) none 0).job n).Gone := job_fenceJob hn (some k) none
  unfold State.settle
  extract_lets j u v
  have hu : u = s.fenceJob n true cWatchdog (some k) none 0 := by
    unfold u
    rw [show j.wdog = some k from hw]
    exact if_pos ha
  have hwork : (((s.fenceJob n true cWatchdog (some k) none 0).works n).job n).Gone := (job_works hg.advances_eq) ▸ hg
  have hv : v = (s.fenceJob n true cWatchdog (some k) none 0).works n := by
    unfold v
    rw [hu, stopDue_of_gone hwork, trapNow_of_gone hwork]
  rw [hv]
  split
  · exact hwork.st_eq
  · exact ((steady_trapOther _ n).core n).ctx (run := true) hwork.st_eq

-- DONE.

theorem exec_jobDone_torn (hd : (s.core n).job.st = .draining) (ht : (s.core n).torn = false)
    (hw : ∀ c ∈ (s.core n).lq ++ (s.core n).sq, isWindow c.op = false) : exec (.jobDone n) s = .next (s.tearWindows n) := by
  have hc : ((s.core n).job.st == .draining && !(s.core n).torn && !((s.core n).lq ++ (s.core n).sq).any fun d => isWindow d.op) = true := by
    rw [hd, ht, List.any_eq_false.mpr fun c hc => by simp [hw c hc]]
    rfl
  exact congrArg (happen s) (if_pos hc)

theorem exec_jobDone_drained (hd : s.drained n (s.core n).job = true) (hb : (s.core n).bare = true) :
    exec (.jobDone n) s = .next (s.jobDone n true) := by
  have ht : (s.core n).torn = true := (Bool.and_eq_true_iff.mp hb).1
  have hc : ¬((s.core n).job.st == .draining && !(s.core n).torn && !((s.core n).lq ++ (s.core n).sq).any fun d => isWindow d.op) = true := by
    simp [ht]
  exact congrArg (happen s) ((if_neg hc).trans (if_pos (by rw [hd, hb]; rfl)))

theorem drained_of_quiet (hd : j.st = .draining) (hl : (s.core n).lq = []) (hs : (s.core n).sq = []) (hp : (s.core n).psb = [])
    (ho : j.outs = []) (hm : j.moves = []) (hlt : j.late = []) (hop : j.ops = []) (hmo : j.mops = [])
    (hpend : ∀ st, (j.stream st).pend = []) : s.drained n j = true := by
  unfold State.drained
  simp only [hd, hl, hs, hp, ho, hm, hlt, hop, hmo, hpend]
  rfl

theorem bare_of_quiet (ht : (s.core n).torn = true) (hl : (s.core n).lq = []) (hs : (s.core n).sq = []) : (s.core n).bare = true := by
  rw [Core.bare, ht, hl, hs]
  rfl

-- The arrival.

theorem arriveDone_of_none (h : j.nest.donets = 0 ∨ j.nest.donecnt = 0) : s.arriveDone j = (s, 0) := by
  refine if_pos ?_
  rcases h with h | h <;> simp [h]

theorem arriveDone_local {k : BitVec 6} (hw : j.nest.donets ≠ 0) (hc : j.nest.donecnt ≠ 0) (hk : locTs (locator j.nest.donets).loc = some k)
    (hl : s.localName (locator j.nest.donets) = true) (hu : s.coreUp (locator j.nest.donets).core = true)
    (hp : s.corePart (locator j.nest.donets).core j.nest.part = true) : s.arriveDone j =
      (s.modJob (locator j.nest.donets).core fun m => m.modTs k fun t => t.addArr t.phase j.nest.donecnt.toNat, 0) := by
  have h0 : ¬(j.nest.donets == 0 || j.nest.donecnt.toNat == 0) = true := by
    rw [Bool.or_eq_true, beq_iff_eq, beq_iff_eq, not_or]
    exact ⟨hw, fun e => hc (BitVec.eq_of_toNat_eq e)⟩
  unfold State.arriveDone
  dsimp only
  rw [if_neg h0, hk]
  dsimp only
  rw [hl, hu, hp]
  rfl

theorem State.other_modJob (s : State) (m : CoreIx) (f : Job → Job) : ((s.modJob m f).core n).other = (s.core n).other := by
  by_cases h : n = m
  · subst h
    rw [State.core_modJob, Core.other_setJob]
  · rw [State.core_modJob_other _ _ h]

/-- The arrival leaves dies, launches, the journal and the other contexts. -/
theorem arriveDone_leaves (s : State) (j : Job) : let t := (s.arriveDone j).1
    t.dies = s.dies ∧ t.launches = s.launches ∧ t.jrnlNext = s.jrnlNext ∧ t.logn = s.logn ∧
    ∀ n : CoreIx, (t.core n).other = (s.core n).other := by
  unfold State.arriveDone
  dsimp only
  split
  · exact ⟨rfl, rfl, rfl, rfl, fun _ => rfl⟩
  · split
    · exact ⟨rfl, rfl, rfl, rfl, fun _ => rfl⟩
    · split
      · exact ⟨rfl, rfl, rfl, rfl, fun _ => rfl⟩
      · split
        · exact ⟨rfl, rfl, rfl, rfl, fun _ => rfl⟩
        · exact ⟨rfl, rfl, rfl, rfl, fun _ => s.other_modJob _ _⟩

-- What a DONE job leaves.

/-- The pins of a die are released, whatever else it holds. -/
theorem Die.pinned_unpin {d e : Die} (h : d.pinned = e.pinned) (l : List Nat) : (d.unpin l).pinned = (e.unpin l).pinned := by
  unfold Die.unpin
  induction l generalizing d e with
  | nil => exact h
  | cons f l ih =>
    have hp : d.pinCount f = e.pinCount f := by rw [Die.pinCount, h, Die.pinCount]
    refine ih ?_
    unfold Die.unpin1
    dsimp only
    rw [hp, h]

/-- A launch that has jobs left counts one more. -/
theorem State.launchEnd_of_left {seq : Nat} (h : ∀ l ∈ s.launches, l.seq = seq → l.ended + 1 < l.total) :
    s.launchEnd seq 1 = { s with
      launches := s.launches.map fun (m : Launch) => if m.seq = seq then { m with ended := m.ended + 1 } else m } := by
  unfold State.launchEnd
  split
  · next hf =>
    have hm : s.launches.map (fun (m : Launch) => if m.seq = seq then { m with ended := m.ended + 1 } else m) = s.launches := by
      refine (List.map_congr_left fun m hm => if_neg fun e => ?_).trans (List.map_id _)
      exact List.find?_eq_none.mp hf m hm (beq_iff_eq.mpr e)
    rw [hm]
  · next l hl =>
    have hs : l.seq = seq := by simpa using List.find?_some hl
    rw [if_neg (by have := h l (List.mem_of_find?_eq_some hl) hs; omega)]
    simp only [beq_iff_eq]

/-- The state in which a running job that is over has arrived, and its pins and its context have been given up. -/
def State.emptied (s : State) (n : CoreIx) : State :=
  ((s.arriveDone (s.core n).job).1.modDie (dieOf n) fun d => d.unpin (s.core n).job.pins).modCore n fun c =>
    (c.hide true).setJob (c.job.emptied true)

theorem State.jobDone_eq (s : State) (n : CoreIx) :
    ∃ e, s.jobDone n true = ((s.emptied n).journal e).launchEnd (s.core n).job.seq 1 := ⟨_, rfl⟩

theorem State.emptied_spec (s : State) (n : CoreIx) : ((s.emptied n).job n).st = .none ∧ ((s.emptied n).core n).other = (s.core n).other ∧
    (s.emptied n).jrnlNext = s.jrnlNext ∧ (s.emptied n).logn = s.logn ∧ (s.emptied n).launches = s.launches ∧
    ((s.emptied n).die (dieOf n)).pinned = ((s.die (dieOf n)).unpin (s.core n).job.pins).pinned := by
  obtain ⟨h1, h2, h3, h4, h5⟩ := arriveDone_leaves s (s.core n).job
  unfold State.emptied
  generalize (s.arriveDone (s.core n).job).1 = t at *
  refine ⟨?_, ?_, h3, h4, h2, ?_⟩
  · rw [State.job, State.core_modCore, Core.job_setJob]
    rfl
  · rw [State.core_modCore, Core.other_setJob]
    exact h5 n
  · rw [State.die_modCore, State.die_modDie]
    exact Die.pinned_unpin (by rw [State.die, h1, State.die]) _

/-- Settles O43. -/
theorem jobEnds : Obligations.JobEnds := by
  unfold Obligations.JobEnds
  refine ⟨fun s n => ?_, fun s n k hw ha => settle_of_wdog hw ha, fun s n hd ht hw => exec_jobDone_torn hd ht hw, fun s n hd hb => ?_,
    fun s n hd ht hl hs hp ho hm hlt hop hmo hpend => ⟨drained_of_quiet hd hl hs hp ho hm hlt hop hmo hpend, bare_of_quiet ht hl hs⟩,
    fun s j k hw hc hk hl hu hp => arriveDone_local hw hc hk hl hu hp, fun s j h => arriveDone_of_none h⟩
  · intro j finds late spent lives
    have hx (k : Option Nat) (h : j.watch = k) : exec (.watchdog n) s =
        happen s (k.map fun k => s.modJob n fun j => { j with wdog := some k }) := by rw [exec_watchdog, h]
    refine ⟨fun hl hb => hx (some 0) ((watch_of_lives hl).trans (if_pos hb)),
      fun hl hb hr => hx (some 1) ((watch_of_lives hl).trans ((if_neg hb).trans (if_pos hr))), fun h => hx none ?_⟩
    by_cases hl : lives
    · obtain ⟨hb, hr⟩ := h.resolve_left (not_not_intro hl)
      exact (watch_of_lives hl).trans ((if_neg hb).trans (if_neg hr))
    · exact watch_of_not_lives hl
  · intro j
    obtain ⟨e, he⟩ := s.jobDone_eq n
    obtain ⟨h1, h2, h3, h4, h5, h6⟩ := s.emptied_spec n
    have hj := undisturbed_journal (s.emptied n) e
    have hlaunch : ((s.emptied n).journal e).launches = s.launches := hj.launches_eq.trans h5
    refine ⟨_, exec_jobDone_drained hd hb, ?_, ?_, fun hlog => ?_, fun hl => ?_⟩
    · rw [he, State.job, State.core_launchEnd, ← State.job, hj.job_eq]
      exact h1
    · rw [he, State.core_launchEnd, hj.other_eq]
      exact congrArg Job.st h2
    · rw [he, (State.launchEnd_leaves _ _ _).2, hj.jrnlNext_eq]
      exact (if_neg (h4 ▸ hlog)).trans (by rw [h3])
    · rw [he, State.launchEnd_of_left (by rw [hlaunch]; exact hl)]
      have hpin : (((s.emptied n).journal e).die (dieOf n)).pinned = ((s.die (dieOf n)).unpin j.pins).pinned := hj.pinned_eq.trans h6
      clear hj he
      generalize (s.emptied n).journal e = u at hpin hlaunch ⊢
      exact ⟨hpin, by rw [hlaunch]⟩

end Sys2Proof.Machine
end

section
/-! A job with nothing on its way has nothing in flight once it has been drained (23 R372). -/

set_option autoImplicit false
set_option Elab.async false

namespace Sys2Proof.Machine

/-- No row, no late scalar access, no vector or matrix word and no access of global memory of the job is on its way. -/
structure Job.Still (j : Job) : Prop where
  moves : j.moves = []
  late : j.late = []
  ops : j.ops = []
  mops : j.mops = []
  outs : j.outs = []

variable {j : Job} {c : Core} {held : Nat → Bool} {gcc : Nat} {s : State} {n : CoreIx}

theorem Job.Still.foldl {α : Type} {f : Job → α → Job} {l : List α} (h : j.Still) (hf : ∀ k a, k.Still → (f k a).Still) : (l.foldl f j).Still :=
  List.foldlRecOn l f h fun k hk a _ => hf k a hk

/-- A change of streams leaves a job still. -/
theorem Job.Still.modStream (h : j.Still) {st : Strm} {f : Stream → Stream} : (j.modStream st f).Still :=
  ⟨h.moves, h.late, h.ops, h.mops, h.outs⟩

theorem Job.Still.swapDue (h : j.Still) {which : BitVec 2 → Bool} : (j.swapDue which).Still :=
  h.foldl fun k a hk => by
    split
    · exact ⟨hk.moves, hk.late, hk.ops, hk.mops, hk.outs⟩
    · exact hk

theorem Job.Still.vectorBy (h : j.Still) {which : VecOp → Bool} : (j.vectorBy which).Still := by
  unfold Job.vectorBy
  extract_lets ready k
  have hk : k.Still := h.foldl fun k a hk => ⟨hk.moves, hk.late, hk.ops, hk.mops, hk.outs⟩
  exact ⟨hk.moves, hk.late, by rw [hk.ops]; rfl, hk.mops, hk.outs⟩

theorem Job.Still.begin (h : j.Still) : j.begin_.Still := Job.Still.foldl h.vectorBy fun _ _ hk => hk.modStream

theorem Job.Still.openMoves (h : j.Still) : (j.openMoves held c).Still := by
  unfold Job.openMoves
  rw [h.moves]
  exact h

theorem moveDue_of_still (h : j.Still) {all : Bool} : moveDue held c j all = (c, j) := by
  unfold moveDue moveSome
  rw [h.moves]
  rfl

theorem lateDue_of_still (h : j.Still) : lateDue c j = (c, { j with late := [] }) := by
  unfold lateDue
  rw [h.late]
  rfl

theorem matrixDue_of_still (h : j.Still) : matrixDue held gcc c j = (c, { j with mops := [] }) := by
  unfold matrixDue
  rw [h.mops]
  rfl

theorem Job.Still.work (h : j.Still) : (work held gcc c j).2.Still := by
  have h1 : ({ j with mops := j.mops.map fun o => o.capture c j.now } : Job).Still :=
    ⟨h.moves, h.late, h.ops, by rw [h.mops]; rfl, h.outs⟩
  unfold Machine.work
  dsimp only
  rw [moveDue_of_still h1]
  generalize ({ j with mops := j.mops.map fun o => o.capture c j.now } : Job) = k at *
  have h2 : ({ k with late := [] } : Job).Still := ⟨h1.moves, rfl, h1.ops, h1.mops, h1.outs⟩
  rw [lateDue_of_still h1]
  generalize ({ k with late := [] } : Job) = k at *
  have h3 : ({ k with mops := [] } : Job).Still := ⟨h2.moves, h2.late, h2.ops, rfl, h2.outs⟩
  rw [matrixDue_of_still h2]
  exact h3.swapDue

theorem Job.Still.drainCycles (h : j.Still) (n : Nat) : (drainCycles held gcc n c j).2.Still := by
  induction n generalizing c j with
  | zero => exact h
  | succ n ih =>
    have hw := h.work (held := held) (gcc := gcc) (c := c)
    exact ih (Job.Still.openMoves (Job.Still.begin ⟨hw.moves, hw.late, hw.ops, hw.mops, hw.outs⟩))

theorem Stream.pend_drainAll (t : Stream) : t.drainAll.pend = [] :=
  List.foldlRecOn (motive := fun u : Stream => u.pend = []) t.pend Stream.put rfl fun u hu p _ => by
    unfold Stream.put
    split
    · exact hu
    · split <;> exact hu

/-- A still job whose results are all written has nothing in flight. -/
theorem Job.Still.inFlight_eq (h : j.Still) (hp : ∀ st, (j.stream st).pend = []) : j.inFlight = false := by
  unfold Job.inFlight
  rw [h.moves, h.late, h.ops, h.mops, h.outs]
  simp [hp]

/-- A drain of a job with nothing on its way leaves nothing in flight. -/
theorem inFlight_drain (h : (s.job n).Still) : ((s.drain n).job n).inFlight = false := by
  unfold State.drain
  rw [h.outs]
  extract_lets u k j held r src j'
  have hj : j.Still := h
  have hr : r.2.Still := by
    simp only [r]
    split
    · rw [moveDue_of_still hj]
      dsimp only
      rw [hj.mops]
      have hk : ({ j with mops := [] } : Job).Still := ⟨hj.moves, hj.late, hj.ops, rfl, hj.outs⟩
      exact hk.vectorBy
    · exact hj.drainCycles _
  have hj' : j'.Still := by
    refine ⟨hr.moves, hr.late, hr.ops, ?_, hr.outs⟩
    unfold j'
    dsimp only
    split
    · exact hr.mops
    · rw [hr.mops]
      rfl
  have hp (st : Strm) : (j'.stream st).pend = [] := by
    unfold j'
    simp [Job.stream, Stream.pend_drainAll]
  clear_value j'
  rw [State.job, State.core_setCore, Core.job_setJob]
  exact hj'.inFlight_eq hp

end Sys2Proof.Machine
end

section
/-! Pre-emption: the job that is asked for, the one that is stopped by force, and what a save leaves (03 R69, R75, R76; 23 R382). -/

set_option autoImplicit false
set_option Elab.async false

namespace Sys2Proof.Machine

open Sys2Proof.Claims

variable {s : State} {d : DieIx} {n m : CoreIx} {p : Nat} {l : Launch} {q : PreReq} {sv : Saving}

-- Effective priority.

theorem effPrio_seven {since : Nat} : s.effPrio 7 since = 7 := rfl

theorem effPrio_of_ne {prio since : Nat} (h : prio ≠ 7) :
    s.effPrio prio since = min 6 (max prio (prio + (s.wall - since) / 21600 / max 1 s.ageint.toNat)) := by
  rw [State.effPrio, if_neg (by simpa using h), max_eq_right (Nat.le_add_right _ _)]

-- The victim.

/-- The job of core n stands before that of core m as a victim: of lower priority, else started later, of a higher sequence, on a higher
core (R75). -/
def State.victimBefore (s : State) (n m : CoreIx) : Bool :=
  key4Lt ((s.job n).prio, (s.job m).t0, (s.job m).seq, m.val) ((s.job m).prio, (s.job n).t0, (s.job n).seq, n.val)

theorem victimBefore_weakOrder (s : State) : WeakOrder s.victimBefore where
  irrefl n := Bool.eq_false_iff.mpr fun h => by simp only [State.victimBefore, key4Lt_iff] at h; omega
  trans h h' := by simp only [State.victimBefore, key4Lt_iff] at *; omega
  cotrans h := by simp only [State.victimBefore, key4Lt_iff] at *; omega

/-- The jobs of a die that a request may be for. -/
def State.victims (s : State) (d : DieIx) (above : Nat) : List CoreIx :=
  (coresOf d).filter fun n => (s.job n).alive && decide ((s.job n).prio < above) && (s.job n).saving.isNone

theorem mem_victims : n ∈ s.victims d p ↔
    dieOf n = d ∧ (s.job n).alive = true ∧ (s.job n).prio < p ∧ (s.job n).saving = none := by
  rw [State.victims, List.mem_filter, mem_coresOf_iff, Bool.and_eq_true, Bool.and_eq_true, decide_eq_true_eq, Option.isNone_iff_eq_none,
    and_assoc]

theorem ite_ite_eq {α : Type} {a b c e : Prop} [Decidable a] [Decidable b] [Decidable c] [Decidable e] {x y : α} (h : e ↔ ¬a ∧ (b ∨ c)) :
    (if a then x else if b then y else if c then y else x) = if e then y else x := by
  by_cases ha : a <;> by_cases hb : b <;> by_cases hc : c <;> simp [ha, hb, hc, h]

/-- The victim is the first of the jobs that may be asked for. -/
theorem State.victim_eq (s : State) (d : DieIx) (p : Nat) : s.victim d p = (s.victims d p).foldl (firstOf s.victimBefore) none := by
  unfold State.victim
  dsimp only
  rw [State.victims]
  congr 1
  funext b n
  cases b with
  | none => rfl
  | some m =>
    refine ite_ite_eq ?_
    simp only [State.victimBefore, key4Lt_iff]
    omega

theorem victim_spec (h : s.victim d p = some n) : dieOf n = d ∧ (s.job n).alive = true ∧ (s.job n).prio < p ∧ (s.job n).saving = none ∧
    ∀ m, dieOf m = d → (s.job m).alive = true → (s.job m).saving = none → (s.job n).prio ≤ (s.job m).prio ∧
      ((s.job m).prio = (s.job n).prio → (s.job m).t0 ≤ (s.job n).t0 ∧
        ((s.job m).t0 = (s.job n).t0 → (s.job m).seq ≤ (s.job n).seq ∧ ((s.job m).seq = (s.job n).seq → m ≤ n))) := by
  obtain ⟨hn, hmin⟩ := foldl_firstOf_none (victimBefore_weakOrder s) ((s.victim_eq d p).symm.trans h)
  obtain ⟨hd, ha, hp, hs⟩ := mem_victims.mp hn
  refine ⟨hd, ha, hp, hs, fun m hmd hma hms => ?_⟩
  rw [Fin.le_def]
  by_cases hmp : (s.job m).prio < p
  · have hb : ¬s.victimBefore m n = true := Bool.eq_false_iff.mp (hmin m (mem_victims.mpr ⟨hmd, hma, hmp, hms⟩))
    rw [State.victimBefore, key4Lt_iff] at hb
    dsimp only at hb
    omega
  · omega

theorem exists_victim (h : dieOf m = d ∧ (s.job m).alive = true ∧ (s.job m).prio < p ∧ (s.job m).saving = none) :
    ∃ n, s.victim d p = some n := by
  rw [State.victim_eq]
  exact exists_foldl_firstOf (victimBefore_weakOrder s) (List.ne_nil_of_mem (mem_victims.mpr h))

-- The request.

/-- A launch that waits asks for the victim, where its own request or one at level 7 does not stand already. -/
theorem preempt_of_waiter (hr : ∀ m, dieOf m = d → s.hasRoom m = false) (hw : s.waiters d = [l])
    (hq : ∀ m q, dieOf m = d → (s.job m).preq = some q → q.seq ≠ l.seq) (hv : s.victim d (s.effPrio l.nest.prio l.atWall) = some n)
    (hn : (s.job n).preq = none ∨ s.effPrio l.nest.prio l.atWall = 7 ∧ ∃ q, (s.job n).preq = some q ∧ q.lvl7 = false)
    (hg : (s.job n).nest.gang = false) : s.preempt d =
      some (s.modJob n fun k => { k with preq := some ⟨l.seq, s.effPrio l.nest.prio l.atWall == 7, s.wall⟩ }) := by
  have hroom : ¬((coresOf d).any fun n => s.hasRoom n) = true := by
    rw [Bool.not_eq_true, List.any_eq_false]
    exact fun m hm => by simp [hr m (mem_coresOf_iff.mp hm)]
  have hasked : ((coresOf d).any fun n => (s.job n).preq.any fun q => q.seq == l.seq) = false := by
    rw [List.any_eq_false]
    intro m hm h
    obtain ⟨q, hmq, hs⟩ := (Option.any_eq_true _ _).mp h
    exact hq m q (mem_coresOf_iff.mp hm) hmq (eq_of_beq hs)
  have hstands : ¬((s.job n).preq.any fun q => q.lvl7 || s.effPrio l.nest.prio l.atWall != 7) = true := by
    rcases hn with h | ⟨hp, q, h, h7⟩
    · simp [h]
    · rw [h, hp]
      simp [h7]
  unfold State.preempt
  rw [if_neg hroom, hw]
  simp only [List.filter_cons, hasked, Bool.not_false, if_true, List.filter_nil, List.foldl_cons, List.foldl_nil, hv]
  rw [if_neg hstands, State.request, if_neg (by simp [hg])]

-- The forced stop.

/-- A job with nothing on its way whose commands have not begun can be stopped. -/
theorem stoppable_of_still (ha : (s.job n).alive = true) (hs : (s.job n).saving = none) (hg : s.groupsDone n = true)
    (hc : ∀ c ∈ (s.core n).lq ++ (s.core n).sq, c.of (s.job n) = true → c.begun = false) (hj : (s.job n).Still)
    (hw : (s.job n).wdog = none) : s.stoppable n = true := by
  have hstuck : (((s.core n).lq ++ (s.core n).sq).any fun d => d.stuckIn (s.job n)) = false := by
    rw [List.any_eq_false]
    intro c hmem h
    unfold Cmd.stuckIn at h
    rw [Bool.and_eq_true, Bool.and_eq_true, Bool.and_eq_true] at h
    obtain ⟨⟨⟨hof, hb⟩, -⟩, -⟩ := h
    rw [hc c hmem hof] at hb
    cases hb
  unfold State.stoppable
  dsimp only
  rw [ha, hs, hw, hg, hstuck, inFlight_drain hj]
  rfl

/-- A slot that is free is one of the free slots. -/
theorem Die.free_pos {e : Die} {k : Nat} (h : e.freeSlot = some k) : 1 ≤ (e.slots.filter fun u => u == .free).length := by
  obtain ⟨x, hx, hf⟩ := List.findIdx?_isSome.symm.trans (Option.isSome_iff_exists.mpr ⟨k, h⟩) |> List.any_eq_true.mp
  exact List.length_pos_of_mem (List.mem_filter.mpr ⟨hx, hf⟩)

theorem forced_of_overdue {k : Nat} (hq : (s.job n).preq = some q) (h7 : q.lvl7 = true) (hg : max 1 s.grace.toNat * 21600 ≤ s.wall - q.since)
    (hs : s.stoppable n = true) (hn : (s.job n).nest.gang = false) (hk : (s.die (dieOf n)).freeSlot = some k) :
    s.forced n = some ((s.drain n).takeSlot n ⟨k, true, 0, 2048⟩) := by
  have ho : s.overdue (s.job n) = true := by
    rw [State.overdue, hq]
    simp [h7, hg]
  have hslots : ((List.finRange 8).all fun d => decide (([n].filter fun m => dieOf m == d).length ≤
      ((s.die d).slots.filter fun u => u == .free).length)) = true := by
    rw [List.all_eq_true]
    intro d _
    rw [decide_eq_true_eq]
    by_cases hd : dieOf n = d
    · subst hd
      simpa using Die.free_pos hk
    · simp [hd]
  unfold State.forced
  dsimp only
  simp only [hn, Bool.false_eq_true, if_false]
  rw [ho, hs, hslots]
  simp only [List.all_cons, List.all_nil, hs, List.foldl_cons, List.foldl_nil, State.stopForced, hk]
  rfl

-- A save.

/-- The job that a save writes down is the one that ran. -/
theorem Core.job_commit (c : Core) : c.commit.job = c.job := (congrArg Core.job c.withoutSpad_commit :)

theorem Core.lq_commit (c : Core) : c.commit.lq = c.lq := (congrArg Core.lq c.withoutSpad_commit :)

/-- A context is left, and the commands of its job with it. -/
def Core.leave (c : Core) (j : Job) : Core :=
  ({ c.hide true with lq := c.lq.filter (fun d => !d.of j), sq := c.sq.filter fun d => !d.of j } : Core).setJob (j.emptied true)

theorem Core.leave_spec (c : Core) (j : Job) : (c.leave j).job.st = .none ∧ (c.leave j).other = c.other ∧
    (c.leave j).lq = c.lq.filter fun d => !d.of j := by
  unfold Core.leave
  refine ⟨?_, ?_, ?_⟩
  · rw [Core.job_setJob]
    rfl
  · rw [Core.other_setJob]
    rfl
  · unfold Core.setJob
    split <;> rfl

theorem State.writeSlot_leaves (s : State) (d : DieIx) (k : Nat) (segs : List (Nat × List Byte)) (img : SpadImg) :
    (∀ n : CoreIx, (s.writeSlot d k segs img).core n = s.core n) ∧ (s.writeSlot d k segs img).parked = s.parked := ⟨fun _ => rfl, rfl⟩

/-- The state of a saved job. -/
structure SavedAs (p : Parked) (n : CoreIx) (sv : Saving) (j : Job) (lq : List Cmd) : Prop where
  die : p.die = dieOf n
  slot : p.slot = sv.slot
  seq : p.job.seq = j.seq
  iter : p.job.iter = j.iter
  saving : p.job.saving = none
  preq : p.job.preq = none
  cmds : p.cmdsL = lq.filter fun c => c.of j

/-- A save empties its context, takes its commands from the queue, and keeps the job among those that are saved. -/
theorem saved_spec (s : State) (n : CoreIx) (sv : Saving) : ((s.saved n sv).job n).st = .none ∧
    ((s.saved n sv).core n).other = (s.core n).other ∧ ((s.saved n sv).core n).lq = (s.core n).lq.filter (fun d => !d.of (s.job n)) ∧
    ∃ p, (s.saved n sv).parked = s.parked ++ [p] ∧ SavedAs p n sv (s.job n) (s.core n).lq := by
  unfold State.saved
  extract_lets c j keep img l q tag u v p w x
  have hj : j = s.job n := (s.core n).job_commit
  have hl : l = (s.core n).lq.filter fun d => d.of (s.job n) := by
    unfold l
    rw [hj, show c.lq = (s.core n).lq from Core.lq_commit _]
  have hs : SavedAs p n sv (s.job n) (s.core n).lq := by
    rw [← hj] at hl ⊢
    exact ⟨rfl, rfl, rfl, rfl, rfl, rfl, hl⟩
  obtain ⟨hu1, hu2⟩ := s.writeSlot_leaves (dieOf n) sv.slot (s.slotImage n j j.st (l ++ q) ((List.range 2048).map fun t => sv.forced || keep t) tag) img
  have hu : u.core n = s.core n ∧ u.parked = s.parked := ⟨hu1 n, hu2⟩
  clear_value u p
  have hx : x.core n = (s.core n).leave (s.job n) := by
    rw [← hj, ← hu.1]
    exact w.core_modCore n fun c => c.leave j
  have hp : x.parked = s.parked ++ [p] := by
    rw [← hu.2]
    rfl
  obtain ⟨h1, h2, h3⟩ := (s.core n).leave_spec (s.job n)
  rw [← hx] at h1 h2 h3
  clear_value x
  have hu := undisturbed_journal x (j.entry 8 .preempted 0 n (leBytes 1 sv.slot ++ [if sv.forced then 1 else 0]))
  exact ⟨(congrArg Job.st hu.job_eq).trans h1, hu.other_eq.trans h2, hu.lq_eq.trans h3, p, hu.parked_eq.trans hp, hs⟩

/-- The save of a job of which nothing is outstanding. -/
theorem saveDone_of_still (hv : (s.job n).saving = some sv) (hc : (s.job n).cycDone = false) (hp : (s.core n).psb = [])
    (hq : (s.core n).sq = []) (ht : (s.job n).traps = []) (hs : (s.job n).stop = none) (hw : (s.job n).wdog = none)
    (hj : (s.job n).Still) (htorn : (s.core n).torn = true) (hl : ∀ c ∈ (s.core n).lq, c.of (s.job n) = true → c.begun = false) :
    s.saveDone n = some ((s.drain n).saved n sv) := by
  have hb : (((s.core n).lq ++ (s.core n).sq).any fun d => d.of (s.core n).job && d.begun) = false := by
    rw [hq, List.append_nil, List.any_eq_false]
    intro c hmem h
    obtain ⟨hof, hbeg⟩ := Bool.and_eq_true_iff.mp h
    rw [hl c hmem hof] at hbeg
    cases hbeg
  have hd : ((s.drain n).core n).torn = true := (congrArg Core.Frame.torn ((worked_drain s n).core n) :).trans htorn
  unfold State.saveDone
  dsimp only
  rw [show (s.core n).job.saving = some sv from hv]
  dsimp only
  rw [hb, show (s.core n).job.cycDone = false from hc, show (s.core n).job.traps = [] from ht, show (s.core n).job.stop = none from hs,
    show (s.core n).job.wdog = none from hw, hp, show (s.core n).job.outs = [] from hj.outs, if_neg (by simp),
    if_neg (by rw [inFlight_drain hj]; decide), if_pos hd]

/-- Commands belong to a job by its names alone. -/
theorem Cmd.of_eq {j k : Job} (hs : j.seq = k.seq) (hi : j.iter = k.iter) : (fun c : Cmd => c.of j) = fun c => c.of k := by
  funext c
  rw [Cmd.of, hs, hi, Cmd.of]

/-- Settles O42. -/
theorem preemption : Obligations.Preemption := by
  unfold Obligations.Preemption
  refine ⟨⟨fun s d l n hr hw hq => ?_, fun s d p n h => victim_spec h, fun s d p h => ?_, fun s prio since _ => ⟨fun h => ?_, fun h => effPrio_of_ne h⟩⟩,
    fun s n q k hq h7 hg hs hn hk => ?_, fun s n ha hs hg hc ho hm hl hop hmo hw => ?_, fun s n sv => ?_⟩
  · intro p hv hn hg
    exact congrArg (happen s) (preempt_of_waiter hr hw hq hv hn hg)
  · obtain ⟨m, hm⟩ := h
    exact exists_victim hm
  · rw [h]
    exact effPrio_seven
  · exact congrArg (happen s) (forced_of_overdue hq h7 hg hs hn hk)
  · exact stoppable_of_still ha hs hg hc ⟨hm, hl, hop, hmo, ho⟩ hw
  · intro j hv _ hc ho hp hq ht hs hw hm hl hop hmo htorn hb
    have hj : j.Still := ⟨hm, hl, hop, hmo, ho⟩
    have hd := (worked_drain s n).core n
    have hctl := (worked_drain s n).control_eq (n := n)
    have hseq : ((s.drain n).job n).seq = j.seq := (congrArg Job.Control.seq hctl :)
    have hiter : ((s.drain n).job n).iter = j.iter := (congrArg Job.Control.iter hctl :)
    have hlq : ((s.drain n).core n).lq = (s.core n).lq := (congrArg Core.Frame.lq hd :)
    have hother : ((s.drain n).core n).other = (s.core n).other := (congrArg Core.Frame.other hd :)
    have hpark : (s.drain n).parked = s.parked := (congrArg Books.parked (worked_drain s n).books :)
    obtain ⟨h1, h2, h3, p, h4, h5⟩ := saved_spec (s.drain n) n sv
    refine happens_of_eq rfl (saveDone_of_still hv hc hp hq ht hs hw hj htorn hb) ⟨h1, h2.trans hother, fun c hmem => ?_,
      p, by rw [h4, hpark], h5.die, h5.slot, h5.seq.trans hseq, h5.iter.trans hiter, h5.saving, h5.preq, ?_⟩
    · rw [h3, List.mem_filter] at hmem
      have hof := congrFun (Cmd.of_eq hseq hiter) c
      simpa [hof] using hmem.2
    · rw [h5.cmds, Cmd.of_eq hseq hiter, hlq]

end Sys2Proof.Machine
end

section
/-! The translation of a job: its windows, its frames and its pins, and what becomes of one that does not translate (03 R47, R55, R56). -/

set_option autoImplicit false
set_option Elab.async false

namespace Sys2Proof.Machine

open Sys2Proof.Claims

variable {s t : State} {n : CoreIx} {j : Job} {part : BitVec 16} {exts : List (List PageX)} {ovf : List PageX} {die : Die} {d : DieIx}

-- Windows (R47).

/-- A sum over the first loops is one over all four where the others count nothing. -/
theorem sum_range_of_zero {f : Nat → Nat} {a b : Nat} (hab : a ≤ b) (h : ∀ k, a ≤ k → k < b → f k = 0) :
    ((List.range a).map f).sum = ((List.range b).map f).sum := by
  induction b, hab using Nat.le_induction with
  | base => rfl
  | succ b hab ih =>
    rw [List.range_succ, List.map_append, List.sum_append, ← ih fun k hk hb => h k hk (by omega)]
    simp [h b hab (by omega)]

theorem windowBase_eq {r : NestRec} {idx : Vector Word 4} (dc : Decl) (h : ∀ k : Fin 4, r.ndim ≤ k.val → idx[k] = 0) (hn : r.ndim ≤ 4) :
    windowBase r idx dc = dc.base.toNat + (idx[0].toNat * dc.stride[0].toNat + idx[1].toNat * dc.stride[1].toNat +
      idx[2].toNat * dc.stride[2].toNat + idx[3].toNat * dc.stride[3].toNat) * 64 := by
  have hz : ∀ k, r.ndim ≤ k → k < 4 → (idx.toList.getD k 0).toNat * (dc.stride.toList.getD k 0).toNat * 64 = 0 := by
    intro k hk hk4
    have := h ⟨k, hk4⟩ hk
    have hi : idx.toList.getD k 0 = 0 := by simpa [hk4] using this
    rw [hi]
    simp
  rw [windowBase, sum_range_of_zero hn hz]
  simp [List.range_succ]
  ring

-- Pages.

/-- A fold that an error ends keeps what each of its steps keeps. -/
theorem foldl_ok {ε α β : Type} {f : Except ε β → α → Except ε β} {Q : β → Prop} (herr : ∀ e a, f (.error e) a = .error e)
    {l : List α} (hstep : ∀ b, ∀ a ∈ l, ∀ b', Q b → f (.ok b) a = .ok b' → Q b') {b b' : β} (hb : Q b) (h : l.foldl f (.ok b) = .ok b') :
    Q b' := by
  have hfail (e : ε) (l : List α) : l.foldl f (.error e) = .error e := by
    induction l with
    | nil => rfl
    | cons a l ih => rw [List.foldl_cons, herr, ih]
  induction l generalizing b with
  | nil => exact Except.ok.inj h ▸ hb
  | cons a l ih =>
    rw [List.foldl_cons] at h
    cases hf : f (.ok b) a with
    | error e =>
      rw [hf, hfail] at h
      cases h
    | ok c =>
      rw [hf] at h
      exact ih (fun b x hx => hstep b x (List.mem_cons_of_mem _ hx)) (hstep b a List.mem_cons_self c hb hf) h

/-- The pages of an extent are held for the launch where its declaration says so. -/
theorem pin_of_extPages {base len : Nat} {rd w pin : Bool} {ps : List PageX} (h : s.extPages part base len rd w pin = .ok ps) :
    ∀ p ∈ ps, p.pin = pin := by
  unfold State.extPages at h
  split at h
  · cases h
  · refine foldl_ok (Q := fun ps : List PageX => ∀ p ∈ ps, p.pin = pin) (fun _ _ => rfl) (fun l a _ l' hl hs => ?_) (by simp) h
    change (match s.walk part _ rd w true with
      | .ok x => Except.ok (l ++ [(⟨a, x, w, pin⟩ : PageX)])
      | .bad c info => .error (c, info)) = .ok l' at hs
    split at hs
    · cases hs
      intro p hp
      rcases List.mem_append.mp hp with hp | hp
      · exact hl p hp
      · rw [List.mem_singleton.mp hp]
    · cases hs

/-- The pages of a declaration. -/
def State.declPages (s : State) (j : Job) (d : Decl) : CRes (List PageX) :=
  if d.len == 0 then .ok [] else s.extPages j.nest.part (windowBase j.nest j.idx d) d.len.toNat d.rd d.w d.pin

/-- A declaration adds its pages to those of the ones before it. -/
def State.addDecl (s : State) (j : Job) (a : CRes (List (List PageX))) (d : Decl) : CRes (List (List PageX)) := do
  let l ← a
  let ps ← s.declPages j d
  .ok (l ++ [ps])

/-- The overflow page. -/
def State.ovfPages (s : State) (j : Job) : CRes (List PageX) :=
  if j.nest.ovfva == 0 then .ok [] else s.extPages j.nest.part j.nest.ovfva.toNat pageSize true true false

theorem State.jobPages_eq (s : State) (j : Job) : s.jobPages j = (do
    let exts ← j.nest.decl.toList.foldl (s.addDecl j) (.ok [])
    let ovf ← s.ovfPages j
    .ok (exts, ovf)) := by
  have hf : (fun (a : Except (Cause × Word) (List (List PageX))) (d : Decl) => (do
      let l ← a
      if d.len == 0 then .ok (l ++ [[]])
      else
        let ps ← s.extPages j.nest.part (windowBase j.nest j.idx d) d.len.toNat d.rd d.w d.pin
        .ok (l ++ [ps]))) = s.addDecl j := by
    funext a d
    cases a with
    | error e => rfl
    | ok l =>
      unfold State.addDecl State.declPages
      by_cases h : d.len = 0
      · simp only [h, beq_self_eq_true, if_true]
        rfl
      · simp only [beq_eq_false_iff_ne.mpr h, Bool.false_eq_true, if_false]
  unfold State.jobPages
  dsimp only
  rw [hf]
  unfold State.ovfPages
  by_cases h : j.nest.ovfva = 0
  · simp only [h, beq_self_eq_true, if_true]
  · simp only [beq_eq_false_iff_ne.mpr h, Bool.false_eq_true, if_false]

theorem bind_ok {ε α β : Type} {x : Except ε α} {f : α → Except ε β} {b : β} : (x >>= f) = .ok b ↔ ∃ a, x = .ok a ∧ f a = .ok b := by
  cases x with
  | error e => exact ⟨fun h => (by cases h), fun ⟨_, h, _⟩ => (by cases h)⟩
  | ok a => exact ⟨fun h => ⟨a, rfl, h⟩, fun ⟨_, h, h'⟩ => by cases h; exact h'⟩

theorem pin_of_declPages {dc : Decl} {ps : List PageX} (h : s.declPages j dc = .ok ps) : ∀ p ∈ ps, p.pin = dc.pin := by
  unfold State.declPages at h
  split at h
  · cases h
    simp
  · exact pin_of_extPages h

/-- No page of a job is held for the launch where no declaration says so. -/
theorem pin_of_jobPages (h : s.jobPages j = .ok (exts, ovf)) (hd : ∀ d ∈ j.nest.decl.toList, d.pin = false) :
    ∀ ps ∈ exts, ∀ p ∈ ps, p.pin = false := by
  rw [State.jobPages_eq] at h
  obtain ⟨l, hl, h⟩ := bind_ok.mp h
  obtain ⟨o, -, h⟩ := bind_ok.mp h
  cases h
  refine foldl_ok (Q := fun l : List (List PageX) => ∀ ps ∈ l, ∀ p ∈ ps, p.pin = false) (fun _ _ => rfl)
    (fun b d hm b' hb hs => ?_) (by simp) hl
  obtain ⟨l, hbl, hs⟩ := bind_ok.mp hs
  cases hbl
  obtain ⟨ps, hps, hs⟩ := bind_ok.mp hs
  cases hs
  intro qs hqs p hp
  rcases List.mem_append.mp hqs with hqs | hqs
  · exact hb qs hqs p hp
  · rw [List.mem_singleton.mp hqs] at hp
    rw [pin_of_declPages hps p hp, hd d hm]

/-- Declarations of no length have no pages. -/
theorem addDecl_of_empty (ds : List Decl) (h : ∀ d ∈ ds, d.len = 0) (l : List (List PageX)) :
    ds.foldl (s.addDecl j) (.ok l) = .ok (l ++ List.replicate ds.length []) := by
  induction ds generalizing l with
  | nil => simp
  | cons d ds ih =>
    have hd : s.addDecl j (.ok l) d = .ok (l ++ [[]]) := by
      have hp : s.declPages j d = .ok [] := if_pos (beq_iff_eq.mpr (h d List.mem_cons_self))
      unfold State.addDecl
      rw [hp]
      rfl
    rw [List.foldl_cons, hd, ih fun d hm => h d (List.mem_cons_of_mem _ hm)]
    simp [List.replicate_succ]

theorem jobPages_of_empty (h : ∀ d ∈ j.nest.decl.toList, d.len = 0) (ho : j.nest.ovfva = 0) :
    s.jobPages j = .ok (List.replicate 16 [], []) := by
  rw [State.jobPages_eq, addDecl_of_empty _ h, State.ovfPages, if_pos (beq_iff_eq.mpr ho)]
  simp only [List.nil_append, Vector.length_toList]
  rfl

-- Frames.

/-- A page that lies in this package, as an extent holds it. -/
def State.pageHere (s : State) (p : PageX) : Nat × Nat × Bool := (p.page, canon s.pkgnum.toNat p.x.frame, p.x.rdup)

/-- The page lies in no other package. -/
def State.Here (s : State) (p : PageX) : Prop := ∀ a b, s.place (canon s.pkgnum.toNat p.x.frame) ≠ .peer a b

theorem frameOf_here {p : PageX} (h : s.Here p) : s.frameOf part p.x = (canon s.pkgnum.toNat p.x.frame, s) := by
  unfold State.frameOf
  dsimp only
  split
  · next a b hp => exact absurd hp (h a b)
  · rfl

theorem framesOf_here {ps : List PageX} (h : ∀ p ∈ ps, s.Here p) : s.framesOf part ps = (ps.map s.pageHere, s) := by
  have hf (acc : List (Nat × Nat × Bool)) : ps.foldl (fun (a : List (Nat × Nat × Bool) × State) p =>
      let (f, t) := a.2.frameOf part p.x
      (a.1 ++ [(p.page, f, p.x.rdup)], t)) (acc, s) = (acc ++ ps.map s.pageHere, s) := by
    induction ps generalizing acc with
    | nil => simp
    | cons p ps ih =>
      rw [List.foldl_cons]
      dsimp only
      rw [frameOf_here (h p List.mem_cons_self)]
      dsimp only
      rw [ih fun p hp => h p (List.mem_cons_of_mem _ hp)]
      simp [State.pageHere]
  exact (hf []).trans (by simp)

/-- The frames of every extent. -/
def State.framesOfAll (s : State) (part : BitVec 16) (exts : List (List PageX)) : List (List (Nat × Nat × Bool)) × State :=
  exts.foldl (fun (a : List (List (Nat × Nat × Bool)) × State) ps =>
    let (fs, t) := a.2.framesOf part ps
    (a.1 ++ [fs], t)) ([], s)

theorem framesOfAll_here (h : ∀ p ∈ exts.flatten, s.Here p) : s.framesOfAll part exts = (exts.map fun ps => ps.map s.pageHere, s) := by
  have hf (acc : List (List (Nat × Nat × Bool))) : exts.foldl (fun (a : List (List (Nat × Nat × Bool)) × State) ps =>
      let (fs, t) := a.2.framesOf part ps
      (a.1 ++ [fs], t)) (acc, s) = (acc ++ exts.map (fun ps => ps.map s.pageHere), s) := by
    induction exts generalizing acc with
    | nil => simp
    | cons ps exts ih =>
      rw [List.foldl_cons]
      dsimp only
      rw [framesOf_here fun p hp => h p (by simp [hp])]
      dsimp only
      rw [ih fun p hp => h p (by rw [List.flatten_cons, List.mem_append]; exact .inr hp)]
      simp
  exact (hf []).trans (by simp)

-- Pins.

/-- Pins that are the job's alone. -/
theorem takePins_plain {seq : Nat} {frames : List Nat} (h : (s.die d).pin frames = some die) :
    ∃ t, s.takePins d seq frames [] = some (t, frames) ∧ (∀ n : CoreIx, t.core n = s.core n) ∧ (t.die d).pinned = die.pinned := by
  unfold State.takePins
  simp only [List.filter_nil, List.append_nil, List.contains_nil, Bool.not_false, List.filter_true, h]
  refine ⟨_, rfl, fun n => rfl, ?_⟩
  exact congrArg Die.pinned (s.die_modDie d fun _ => die)

-- The job.

/-- The job as its translation leaves it. -/
def Job.translated (j : Job) (pins : List Nat) (lists : List (List (Nat × Nat × Bool))) (ovf : List (Nat × Nat × Bool)) : Job :=
  { j with
    xlated := true, pins := pins, faultPage := none, ovf := ovf
    ext := Vector.ofFn fun e =>
      let d := j.nest.decl[e]
      if d.len == 0 then Ext.zero
      else ⟨BitVec.ofNat 64 (windowBase j.nest j.idx d), d.len, d.rd, d.w, lists.getD e.val []⟩ }

/-- The rest of a translation, once the frames of the extents and of the overflow page are known. -/
def State.translateTo (s : State) (n : CoreIx) (j : Job) (exts : List (List PageX)) (ovf : List PageX)
    (lists : List (List (Nat × Nat × Bool))) (ovfFrames : List (Nat × Nat × Bool)) : Option State :=
  let entries := (((exts.flatten ++ ovf).filter PageX.w).map fun p => p.x.entry).eraseDups
  let frames := ((lists.flatten ++ ovfFrames).map fun f => f.2.1).eraseDups
  let pinned := (((lists.zip exts).filter fun e => e.2.any PageX.pin).flatMap fun e => e.1.map fun f => f.2.1).eraseDups
  if frames.length > 1024 then some (s.fenceCtx n true cPinExhausted (BitVec.ofNat 64 frames.length))
  else match s.takePins (dieOf n) j.seq frames pinned with
  | none => none
  | some (t, mine) => some ((entries.foldl (fun (t : State) e => t.setDirty j.nest.part e) t).modCtx n true fun j =>
      j.translated mine lists ovfFrames)

theorem translateCtx_eq (hj : (s.core n).job = j) (h : s.jobPages j = .ok (exts, ovf)) : s.translateCtx n true =
    let r := s.framesOfAll j.nest.part exts
    let o := r.2.framesOf j.nest.part ovf
    o.2.translateTo n j exts ovf r.1 o.1 := by
  unfold State.translateCtx
  dsimp only
  rw [show (s.core n).ctx true = j from hj, h]
  rfl

/-- A job whose pages lie here, none of them held for the launch, is translated with its frames as its pins. -/
theorem translateCtx_here (hj : (s.core n).job = j) (h : s.jobPages j = .ok (exts, ovf)) (hd : ∀ d ∈ j.nest.decl.toList, d.pin = false)
    (hh : ∀ p ∈ exts.flatten ++ ovf, s.Here p)
    (hl : ((exts.flatten ++ ovf).map fun p => canon s.pkgnum.toNat p.x.frame).eraseDups.length ≤ 1024)
    (hp : (s.die (dieOf n)).pin ((exts.flatten ++ ovf).map fun p => canon s.pkgnum.toNat p.x.frame).eraseDups = some die) :
    ∃ t, s.translateCtx n true = some t ∧ (t.die (dieOf n)).pinned = die.pinned ∧ (t.core n).job =
      j.translated ((exts.flatten ++ ovf).map fun p => canon s.pkgnum.toNat p.x.frame).eraseDups
        (exts.map fun ps => ps.map s.pageHere) (ovf.map s.pageHere) := by
  have hpin := pin_of_jobPages h hd
  have hframes : ((exts.map fun ps => ps.map s.pageHere).flatten ++ ovf.map s.pageHere).map (fun f => f.2.1) =
      (exts.flatten ++ ovf).map fun p => canon s.pkgnum.toNat p.x.frame := by
    rw [← List.map_flatten, ← List.map_append, List.map_map]
    rfl
  have hnone : ((exts.map fun ps => ps.map s.pageHere).zip exts).filter (fun e => e.2.any PageX.pin) = [] := by
    refine List.filter_eq_nil_iff.mpr fun e he hany => ?_
    obtain ⟨p, hp, hpp⟩ := List.any_eq_true.mp hany
    rw [hpin e.2 (List.of_mem_zip he).2 p hp] at hpp
    cases hpp
  obtain ⟨t, ht, hc, hdie⟩ := takePins_plain (seq := j.seq) hp
  rw [translateCtx_eq hj h, framesOfAll_here fun p hp => hh p (List.mem_append_left _ hp)]
  dsimp only
  rw [framesOf_here fun p hp => hh p (List.mem_append_right _ hp)]
  dsimp only
  unfold State.translateTo
  dsimp only
  rw [hframes, hnone, if_neg (by omega), List.flatMap_nil, List.eraseDups_nil, ht]
  dsimp only
  generalize (((exts.flatten ++ ovf).filter PageX.w).map fun p => p.x.entry).eraseDups = entries
  have hu : Undisturbed t (entries.foldl (fun (t : State) e => t.setDirty j.nest.part e) t) :=
    (Undisturbed.refl t).foldl fun _ _ ht => ht.setDirty
  generalize entries.foldl (fun (t : State) e => t.setDirty j.nest.part e) t = u at hu
  refine ⟨_, rfl, ?_, ?_⟩
  · exact hu.pinned_eq.trans hdie
  · have hju : (u.core n).job = j := (hu.job_eq (n := n)).trans ((congrArg Core.job (hc n)).trans hj)
    rw [State.modCtx, State.core_modCore]
    exact (Core.job_setJob _ _).trans (congrArg (fun k : Job => k.translated _ _ _) hju)

/-- The windows of a translated job (R47). -/
theorem ext_translated (s : State) (j : Job) (pins : List Nat) (exts : List (List PageX)) (ovf : List (Nat × Nat × Bool)) (e : Fin 16) :
    (j.translated pins (exts.map fun ps => ps.map s.pageHere) ovf).ext[e] = if (j.nest.decl[e]).len = 0 then Ext.zero else
      ⟨BitVec.ofNat 64 (windowBase j.nest j.idx j.nest.decl[e]), (j.nest.decl[e]).len, (j.nest.decl[e]).rd, (j.nest.decl[e]).w,
        (exts.getD e.val []).map fun p => (p.page, canon s.pkgnum.toNat p.x.frame, p.x.rdup)⟩ := by
  have hl : (exts.map fun ps => ps.map s.pageHere).getD e.val [] = (exts.getD e.val []).map s.pageHere := by
    simp only [List.getD_eq_getElem?_getD, List.getElem?_map]
    cases exts[e.val]? <;> rfl
  unfold Job.translated
  dsimp only
  rw [Fin.getElem_fin, Vector.getElem_ofFn, hl]
  simp only [beq_iff_eq]
  rfl

-- The event.

/-- The job of the running context that waits for its translation is the first to have it. -/
theorem exec_translation (hj : (s.core n).job = j) (hs : j.st = .dispatched) (hx : j.xlated = false) (hf : j.faultPage = none) :
    exec (.dispatchTranslation n) s = happen s (s.translateCtx n true) := by
  have hu : (s.core n).job.untranslated = true := by
    rw [hj, Job.untranslated, hs, hx, hf]
    rfl
  exact congrArg (happen s) (if_pos hu)

theorem undisturbed_faultRequest (s : State) (part : BitVec 16) (page : Nat) : Undisturbed s (s.faultRequest part page) := by
  unfold State.faultRequest
  split
  · exact .refl s
  · split
    · refine .ite (.refl s) ?_
      have hu {v : Vector Partition 8} : Undisturbed s { s with parts := v } := (Undisturbed.refl s).update
      exact .ite hu.msixPart hu
    · exact .refl s

/-- A page that is not there is asked for. -/
theorem translateCtx_missing {info : Word} (hj : (s.core n).job = j) (h : s.jobPages j = .error (cPageNotPresent, info))
    (hg : s.pageGone j.nest.part = false) : ∃ t, s.translateCtx n true = some t ∧ (t.core n).job.st = j.st ∧
      (t.core n).job.faultPage = some (info.toNat / pageSize) := by
  have hu := undisturbed_faultRequest (s.modCtx n true fun j => { j with faultPage := some (info.toNat / pageSize) }) j.nest.part (info.toNat / pageSize)
  have hm : ((s.modCtx n true fun j => { j with faultPage := some (info.toNat / pageSize) }).core n).job =
      { j with faultPage := some (info.toNat / pageSize) } := by
    rw [State.modCtx, State.core_modCore, ← hj]
    exact Core.job_setJob _ _
  have hjob := (hu.job_eq (n := n)).trans hm
  refine ⟨_, ?_, (congrArg Job.st hjob :), (congrArg Job.faultPage hjob :)⟩
  unfold State.translateCtx
  dsimp only
  rw [show (s.core n).ctx true = j from hj, h]
  exact congrArg some (if_neg (by rw [hg]; decide))

theorem translateCtx_bad {c : Cause} {info : Word} (hj : (s.core n).job = j) (h : s.jobPages j = .error (c, info)) (hc : c ≠ cPageNotPresent) :
    s.translateCtx n true = some (s.fenceCtx n true c info) := by
  unfold State.translateCtx
  dsimp only
  rw [show (s.core n).ctx true = j from hj, h]
  exact if_neg (by simpa using hc)

end Sys2Proof.Machine
end

section
/-! The start of jobs: of one alone in its context, of the job of the other context, of the jobs of a gang together (03 R57, R64, R72). -/

set_option autoImplicit false
set_option Elab.async false

namespace Sys2Proof.Machine

open Sys2Proof.Claims

variable {s t : State} {n m : CoreIx} {j : Job} {l : Launch} {run : Bool}

-- One job.

/-- The job as it starts at T0. -/
def Job.atT0 (j : Job) (gcc : Nat) : Job := { j with st := .running, t0 := gcc, beacon := 0, ts := Vector.replicate 64 Turnstile.zero }

/-- The core whose running job has started. -/
def Core.begun (c : Core) : Core := { c.reveal true with collEnds := [] }

/-- The running job of a core starts at T0. -/
def State.begins (s : State) (n : CoreIx) : State := (s.modJob n fun j => j.atT0 s.gcc).modCore n Core.begun

theorem State.core_begins (s : State) : (s.begins n).core n = ((s.core n).setJob ((s.job n).atT0 s.gcc)).begun := by
  rw [State.begins, State.core_modCore, State.core_modJob]

theorem State.job_begins (s : State) : (s.begins n).job n = (s.job n).atT0 s.gcc := by
  rw [State.job, State.core_begins]
  exact Core.job_setJob _ _

theorem State.other_begins (s : State) : ((s.begins n).core n).other = (s.core n).other := by
  rw [State.core_begins]
  exact Core.other_setJob _ _

theorem startCtx_running (h : s.savedOf (s.job n) = none) : s.startCtx n true = s.begins n := by
  unfold State.startCtx
  dsimp only
  rw [if_pos rfl, h]
  rfl

theorem startCtx_other (h : s.savedOf (s.core n).other = none) : s.startCtx n false = (s.flip n).begins n := by
  have hs : (s.flip n).savedOf ((s.flip n).job n) = none := by
    rw [State.job_flip]
    exact h
  exact (startCtx_running hs :)

/-- A translated job may start where the other one of its core does not keep it. -/
theorem canStart_of_clear (hj : ((s.core n).ctx run).st = .dispatched) (hx : ((s.core n).ctx run).xlated = true)
    (hc : Clear s n ((s.core n).ctx !run)) : s.canStart n run = true := by
  unfold State.canStart
  dsimp only
  rw [hj, hx]
  rcases hc with h | ⟨h, hb⟩ | ⟨h, hf⟩
  · rw [h]
    rfl
  · rw [h, hb]
    rfl
  · rw [h, hf]
    rfl

theorem canStart_false (h : ¬(((s.core n).ctx run).st = .dispatched ∧ ((s.core n).ctx run).xlated = true)) : s.canStart n run = false := by
  rw [Bool.eq_false_iff]
  intro hc
  unfold State.canStart at hc
  dsimp only at hc
  rw [Bool.and_eq_true, Bool.and_eq_true, beq_iff_eq] at hc
  exact h hc.1

theorem starter_running (hc : s.canStart n true = true) (hg : (s.core n).job.nest.gang = false) : s.starter n = some true := by
  have h : (s.canStart n true && !((s.core n).ctx true).nest.gang) = true := by
    rw [hc, show (s.core n).ctx true = (s.core n).job from rfl, hg]
    rfl
  exact List.find?_cons_of_pos h

theorem starter_other (hr : s.canStart n true = false) (hc : s.canStart n false = true) (hg : (s.core n).other.nest.gang = false) :
    s.starter n = some false := by
  have h1 : ¬(s.canStart n true && !((s.core n).ctx true).nest.gang) = true := by simp [hr]
  have h2 : (s.canStart n false && !((s.core n).ctx false).nest.gang) = true := by
    rw [hc, show (s.core n).ctx false = (s.core n).other from rfl, hg]
    rfl
  unfold State.starter
  rw [List.find?_cons_of_neg (p := fun run => s.canStart n run && !((s.core n).ctx run).nest.gang) h1]
  exact List.find?_cons_of_pos h2

theorem exec_jobStart (h : s.starter n = some run) : exec (.jobStart n) s = .next (s.startCtx n run) :=
  congrArg (fun o : Option Bool => happen s (o.map fun run => s.startCtx n run)) h

-- The jobs of a gang.

section

variable {seq : Nat} (hl : s.launches.find? (fun l => l.seq == seq) = some l) (hg : l.nest.gang = true) (hc : s.gangCan l = true)

include hl hg hc

/-- A gang that can start is given a gcc at least 4,096 cycles ahead (R64). -/
theorem gang_of_unfixed (h : l.gangAt = none) : s.gang seq = some { s with
    free := s.free + 1
    launches := s.launches.map fun (m : Launch) =>
      if m.seq = seq then { m with gangAt := some (s.gcc + 4096 + Config.freeNat s.free) } else m } := by
  unfold State.gang
  rw [hl]
  dsimp only
  rw [hg, hc, if_neg (by decide), h]
  simp only [beq_iff_eq]

theorem gang_of_fixed {g : Nat} (h : l.gangAt = some g) :
    s.gang seq = if s.gcc < g then none else some ((s.gangReady l).foldl (fun t e => t.startCtx e.1 e.2.1) s) := by
  unfold State.gang
  rw [hl]
  dsimp only
  rw [hg, hc, if_neg (by decide), h]

end

/-- A start where no job is saved: the context runs, and no other core is touched. -/
theorem startCtx_fresh (hp : t.parked = []) (n : CoreIx) (run : Bool) : (t.startCtx n run).parked = [] ∧
    ((t.startCtx n run).job n).st = .running ∧ ∀ m, m ≠ n → (t.startCtx n run).core m = t.core m := by
  have hs (j : Job) : t.savedOf j = none := by
    rw [State.savedOf, hp]
    rfl
  have hb (u : State) (hu : u.parked = []) : (u.begins n).parked = [] ∧ ((u.begins n).job n).st = .running ∧
      ∀ m, m ≠ n → (u.begins n).core m = u.core m :=
    ⟨hu, by rw [State.job_begins]; rfl, fun m hm => by
      rw [State.begins, State.core_modCore_other _ _ hm, State.core_modJob_other _ _ hm]⟩
  cases run with
  | true =>
    rw [startCtx_running (hs _)]
    exact hb t hp
  | false =>
    rw [startCtx_other (hs _)]
    obtain ⟨h1, h2, h3⟩ := hb (t.flip n) hp
    exact ⟨h1, h2, fun m hm => (h3 m hm).trans (State.core_modCore_other _ _ hm)⟩

/-- Of the contexts that start, each runs in the end. -/
theorem running_of_starts {es : List (CoreIx × Bool × Bool)} (hp : t.parked = []) (h : (∃ e ∈ es, e.1 = n) ∨ (t.job n).st = .running) :
    ((es.foldl (fun t e => t.startCtx e.1 e.2.1) t).job n).st = .running := by
  induction es generalizing t with
  | nil => exact h.resolve_left (by simp)
  | cons e es ih =>
    obtain ⟨h1, h2, h3⟩ := startCtx_fresh hp e.1 e.2.1
    refine ih h1 ?_
    by_cases he : e.1 = n
    · exact .inr (he ▸ h2)
    · rcases h with ⟨a, ha, hn⟩ | h
      · rcases List.mem_cons.mp ha with rfl | ha
        · exact absurd hn he
        · exact .inl ⟨a, ha, hn⟩
      · exact .inr (by rw [State.job, h3 n (Ne.symm he)]; exact h)

/-- A dispatched job of the gang is among those that start, in whichever context it is. -/
theorem mem_gangReady (hs : ((s.core n).ctx run).seq = l.seq) (hd : ((s.core n).ctx run).st = .dispatched) :
    (n, run, s.canStart n run) ∈ s.gangReady l := by
  have hc : (((s.core n).ctx run).seq == l.seq && ((s.core n).ctx run).st == .dispatched) = true := by simp [hs, hd]
  refine List.mem_flatMap.mpr ⟨n, List.mem_finRange n, List.mem_filterMap.mpr ⟨run, by cases run <;> simp, ?_⟩⟩
  exact if_pos hc

theorem Core.exists_ctx0 (c : Core) : ∃ run, c.ctx run = c.ctx0 := by
  cases h : c.runIx with
  | true => exact ⟨false, by simp [Core.ctx, Core.other, h]⟩
  | false => exact ⟨true, by simp [Core.ctx, Core.job, h]⟩

theorem running_of_gang (hp : s.parked = []) (hs : (s.core n).ctx0.seq = l.seq) (hd : (s.core n).ctx0.st = .dispatched) :
    (((s.gangReady l).foldl (fun t e => t.startCtx e.1 e.2.1) s).job n).st = .running := by
  obtain ⟨run, hr⟩ := (s.core n).exists_ctx0
  exact running_of_starts hp (.inl ⟨_, mem_gangReady (by rw [hr]; exact hs) (by rw [hr]; exact hd), rfl⟩)

/-- Settles O41. -/
theorem jobTranslationAndStart : Obligations.JobTranslationAndStart := by
  unfold Obligations.JobTranslationAndStart
  refine ⟨⟨fun s n j exts ovf die => ?_, fun s n j c info => ?_, fun s j h ho => ⟨jobPages_of_empty h ho, fun _ => rfl⟩,
    fun r idx d h hn => windowBase_eq d h hn⟩, fun s n j => ?_, fun s n => ?_, fun s seq l hl hg hc => ?_⟩
  · rintro ⟨hj, hs, hf⟩ hx hpages hd hh frames hlen hpin
    obtain ⟨t, ht, hdie, hjob⟩ := translateCtx_here hj hpages hd hh hlen hpin
    refine happens_of_eq (exec_translation hj hs hx hf) ht ?_
    rw [hjob]
    exact ⟨rfl, hs, rfl, hdie, fun e => ext_translated s j frames exts (ovf.map s.pageHere) e⟩
  · rintro ⟨hj, hs, hf⟩ hx hpages
    refine ⟨fun hc hg => ?_, fun hc => ?_⟩
    · subst hc
      obtain ⟨t, ht, hst, hpage⟩ := translateCtx_missing hj hpages hg
      exact happens_of_eq (exec_translation hj hs hx hf) ht ⟨hst.trans hs, hpage⟩
    · exact (exec_translation hj hs hx hf).trans (congrArg (happen s) (translateCtx_bad hj hpages hc))
  · rintro ⟨hj, hs, -⟩ hx hg hsaved hclear
    have hc : s.canStart n true = true := canStart_of_clear ((congrArg Job.st hj).trans hs) ((congrArg Job.xlated hj).trans hx) hclear
    refine (exec_jobStart (starter_running hc (by rw [hj]; exact hg))).trans (congrArg Host.Outcome.next ?_)
    exact startCtx_running (by rw [State.job, hj]; exact hsaved)
  · intro hclear hr hs hx hg hsaved
    have hc : s.canStart n false = true := canStart_of_clear hs hx hclear
    refine ⟨_, exec_jobStart (starter_other (canStart_false hr) hc hg), ?_⟩
    rw [startCtx_other hsaved]
    refine ⟨?_, ?_⟩
    · exact (State.job_begins (n := n) (s.flip n)).trans (by rw [State.job_flip]; rfl)
    · rw [State.other_begins, State.core_flip_same]
      unfold Core.other Core.job
      cases (s.core n).runIx <;> rfl
  · have hseq : l.seq = seq := by simpa using List.find?_some hl
    refine ⟨fun h => ⟨_, Nat.le_add_right _ _, congrArg (happen s) (gang_of_unfixed hl hg hc h)⟩, fun g h hgcc => ?_, fun g h hgcc hp => ⟨?_, ?_⟩⟩
    · exact congrArg (happen s) ((gang_of_fixed hl hg hc h).trans (if_pos hgcc))
    · exact congrArg (happen s) ((gang_of_fixed hl hg hc h).trans (if_neg (by omega)))
    · exact fun n hn hd _ => running_of_gang hp (hn.trans hseq.symm) hd

end Sys2Proof.Machine
end
